-- ==== Sys2Proof/Word.lean ====
section
/-!
DEFINITION. The word types of the model and their plainest arithmetic. Registers, floating-point patterns and
addresses under computation are bit vectors; memory keys, counts, sizes and identifiers are natural numbers (R8, R9).
-/

namespace Sys2Proof

/-- One byte of any byte-addressed storage (R8). -/
abbrev Byte := BitVec 8

/-- A 16-bit pattern: BF16, FP16 or a remainder (R281). -/
abbrev W16 := BitVec 16

/-- A 32-bit pattern: FP32 or a setup register word. -/
abbrev W32 := BitVec 32

/-- A 64-bit pattern: a general register of a tile core, a counter (R247, R413). -/
abbrev W64 := BitVec 64

/-- Bits [msb:lsb] of a number, as the manual writes a field (R8). -/
def bitsOf (n msb lsb : Nat) : Nat := (n >>> lsb) % 2 ^ (msb + 1 - lsb)

/-- Bit [i] of a number. -/
def bitOf (n i : Nat) : Bool := n.testBit i

/-- Bytes to number, little-endian (R8). -/
def leNat : List Byte → Nat
  | [] => 0
  | b :: bs => b.toNat + 256 * leNat bs

/-- Number to `k` bytes, little-endian (R8). -/
def leBytes : Nat → Nat → List Byte
  | 0, _ => []
  | k + 1, n => BitVec.ofNat 8 n :: leBytes k (n / 256)

/-- Rounds up to a multiple of `k`. -/
def roundUp (n k : Nat) : Nat := (n + k - 1) / k * k

/-- Ceiling division. -/
def ceilDiv (n k : Nat) : Nat := (n + k - 1) / k

/-- The two's complement reading of the low `w` bits of `n`. -/
def toSigned (w n : Nat) : Int := if n % 2 ^ w < 2 ^ (w - 1) then (n % 2 ^ w : Nat) else (n % 2 ^ w : Nat) - (2 ^ w : Nat)

/-- The low `w` bits of the two's complement pattern of an integer. -/
def ofSigned (w : Nat) (i : Int) : Nat := (i % (2 ^ w : Nat)).toNat

/-- Element `i` of a list changed by `f`; the list unchanged where it has no element `i`. -/
def updAt {α : Type} : List α → Nat → (α → α) → List α
  | [], _, _ => []
  | x :: xs, 0, f => f x :: xs
  | x :: xs, i + 1, f => x :: updAt xs i f

/-- A list of `n` values of a function, from index 0. -/
def tab {α : Type} (n : Nat) (f : Nat → α) : List α := (List.range n).map f

end Sys2Proof
end

