-- ==== Sys2Proof/Syntax/Params.lean ====
section
/-!
DEFINITION. The operands of the commands: the parameter tables of the engine chapters as structures. The binary
encodings of engine commands and tile instructions are private (R81, R107, R132, R193, R207, R235, R319, R363), so a
command carries its decoded parameters.
-/

namespace Sys2Proof

/-- Who issued an engine command: the context, its stream, and what a stream halt record holds (R407, R570). -/
structure StreamRef where
  ctx : Nat
  stream : Nat
  section_ : Nat
  offset : Nat
  cmdAddr : Nat
  keyStep : Nat
  keyQ : Nat
  deriving DecidableEq, Repr

/-- Who issued a tile instruction: the tile, the instruction address at which it was issued (R257), and the address after
it (instruction lengths are private, R247). -/
structure TileRef where
  tile : Nat
  pc : Nat
  next : Nat
  deriving DecidableEq, Repr

/-- Who issued a haul action: an engine stream, or a HAUL descriptor of a command ring (R442). -/
inductive HaulFrom where
  | stream (r : StreamRef)
  | host (ctx ring : Nat)
  deriving DecidableEq, Repr

/-- The tensor naming that a producing operation carries (R288, R290, R297). -/
structure TensorTag where
  tensor : Nat
  layer : Option Nat
  grad : Bool
  instanceNo : Nat
  indexBase : Nat
  deriving DecidableEq, Repr

/-- Where rows are placed (R104, R107): a local base, or tile-blocked over a tile range. -/
inductive Placement where
  | at (base : Nat)
  | tiled (b first count base : Nat)
  deriving DecidableEq, Repr

/-- Sampling methods with the method codes of R93. -/
inductive Method where
  | uniform | weighted | topK | fullCap | halo | uniformWalk | biasedWalk
  deriving DecidableEq, Repr

/-- One hop of a sampling operation (R81). -/
structure HopSpec where
  method : Method
  fanOut : Nat
  weights : Bool
  deriving DecidableEq, Repr

/-- Parameters of a sampling operation (R81). -/
structure SampleParams where
  graph : Nat
  seeds : Nat
  seedCount : Nat
  hops : List HopSpec
  randomSeed : Nat
  step : Nat
  walks : Nat
  walkLength : Nat
  returnBias : Nat
  outBias : Nat
  output : Nat
  capacity : Nat
  maxUnique : Nat
  scratch : Nat
  scratchSize : Nat
  deriving DecidableEq, Repr

/-- Where a late datum comes from, as the stall causes sort it (R379, R412). -/
inductive SourceKind where
  | local_ | peer | capacity
  deriving DecidableEq, Repr

/-- Index sources of gathers and scatters (R107, R132). -/
inductive KeySource where
  | list32 | list64 | nodeTable | edgeTarget | edgeNeighbour | edgeId
  deriving DecidableEq, Repr

/-- Parameters of a gather operation (R107). `outputSize` and `maskSize` are the bytes of the declared output and
drop mask regions. -/
structure GatherParams where
  table : Nat
  source : KeySource
  keys : Nat
  count : Nat
  hop : Nat
  bf16 : Bool
  output : Placement
  stride : Nat
  outputSize : Nat
  dropMask : Nat
  maskSize : Nat
  spread : List Nat
  tag : TensorTag
  deriving DecidableEq, Repr

/-- Data as a peer returns them, or its denial with the first address outside (R361). -/
inductive PeerData where
  | data (bytes : List Byte)
  | denied (address : Nat)
  deriving DecidableEq, Repr

/-- A row as it comes back from a peer: the stored bytes, with the width class of a served lookup (R121); `invalid`
for a lookup that finds no row; `denied` as R361 gives. -/
inductive PeerRow where
  | row (cls : Nat) (bytes : List Byte)
  | invalid
  | denied (address : Nat)
  deriving DecidableEq, Repr

/-- Scatter kinds (R133). -/
inductive ScatterKind where
  | sum | mean | max | min | softmaxSum | argmaxRoute | attentionWeights
  deriving DecidableEq, Repr

/-- Scatter target (R132). -/
inductive ScatterTarget where
  | output (d : Nat) (place : Placement) (bf16 : Bool) (stride : Nat)
  | rowUpdate (table area alpha : Nat)
  deriving DecidableEq, Repr

/-- The scale exponent of a scatter (R132, R145): given, AUTO, or the E of a layer's format table entry (R295, R312). -/
inductive ScatterE where
  | fixed (e : Int)
  | auto
  | layer (n : Nat)
  deriving DecidableEq, Repr

/-- Parameters of a scatter operation (R132). The auxiliary addresses are 0 where a kind has
none: `scores`, `maxima` and `denominators` for the attention kinds, `argmax` for MAX, MIN and ARGMAX_ROUTE,
`gradients` for ARGMAX_ROUTE. -/
structure ScatterParams where
  kind : ScatterKind
  source : KeySource
  keys : Nat
  count : Nat
  hop : Nat
  contrib : Placement
  contribStride : Nat
  contribBf16 : Bool
  elems : Nat
  heads : Nat
  dropMask : Nat
  target : ScatterTarget
  exponent : ScatterE
  threshold : Nat
  spread : List Nat
  region : Nat
  regionSize : Nat
  stamp : Nat
  argmax : Nat
  scores : Nat
  maxima : Nat
  denominators : Nat
  gradients : Nat
  tag : TensorTag
  deriving DecidableEq, Repr

/-- Parameters of a merge operation (R193). `pairs = none` is DIAGONAL. -/
structure MergeParams where
  union : Bool
  x : Nat
  y : Nat
  pairs : Option (Nat × Nat)
  threshold : Nat
  output : Nat
  capacity : Nat
  deriving DecidableEq, Repr

/-- Formats of R281 by name; `code` is in `Machine/Formats.lean`. -/
inductive Fmt where
  | fp32 | bf16 | fp16 | e4m3 | e5m2
  | mxE4m3 | mxE5m2 | mxE3m2 | mxE2m3 | mxE2m1 | mxInt8
  | int8 | int16 | int32 | int64
  deriving DecidableEq, Repr

/-- Rounding modes (R287). -/
inductive Rnd where
  | rne | rtz | sr
  deriving DecidableEq, Repr

/-- An operand held in vector registers from `v` onward, or in the tile store at a base and stride. -/
inductive TileSrc where
  | regs (v : Nat)
  | store (base stride : Nat)
  | ring (n : Nat)
  deriving DecidableEq, Repr

/-- Parameters of a matrix LOAD (R210, R211, R213). Sources are 1, 2 or 4 registers, or a tile-store address. -/
structure LoadParams where
  fmt : Fmt
  k : Nat
  n : Nat
  transposed : Bool
  regs : List Nat
  store : Option Nat
  part : Nat
  scales : Option TileSrc
  deriving DecidableEq, Repr

/-- STREAM modes (R214). -/
inductive StreamMode where
  | multiply | sqL2 | l1 | minPlus | maxPlus | countLe
  deriving DecidableEq, Repr

/-- Where a STREAM writes its threshold bits (R223). -/
inductive BitTarget where
  | none
  | mask (m : Nat)
  | store (addr : Nat)
  deriving DecidableEq, Repr

/-- Parameters of a matrix STREAM (R214). -/
structure StreamParams where
  slot : Nat
  mode : StreamMode
  fmt : Fmt
  rows : Nat
  source : TileSrc
  scales : Option TileSrc
  target : TileSrc
  accumulate : Bool
  result : Fmt
  rnd : Rnd
  theta : W32
  bits : BitTarget
  srcLayer : Option Nat
  tag : TensorTag
  deriving DecidableEq, Repr

/-- Mask granule (R244). -/
inductive Granule where
  | element | lane
  deriving DecidableEq, Repr

/-- The masking of a vector instruction (R245): register, granule, and ZERO or MERGE. -/
structure Masking where
  mask : Option Nat
  granule : Granule
  zero : Bool
  deriving DecidableEq, Repr

/-- A source operand of a vector instruction: a register span, or a general register read at issue (R235). -/
inductive VSrc where
  | v (r : Nat)
  | g (r : Nat)
  deriving DecidableEq, Repr

/-- Floating-point arithmetic operations (R235). -/
inductive FOp where
  | add | sub | mul | fma | neg | abs | min | max | div | sqrt
  deriving DecidableEq, Repr

/-- Transcendental operations (R235). -/
inductive TOp where
  | exp | log2 | recip | rsqrt | tanh | sigmoid
  deriving DecidableEq, Repr

/-- Integer operations (R235). -/
inductive IOp where
  | add | sub | mul | shl | shrl | shra | and | or | xor | min | max | minu | maxu
  deriving DecidableEq, Repr

/-- Comparisons (R235). -/
inductive COp where
  | eq | ne | lt | le | gt | ge | unord
  deriving DecidableEq, Repr

/-- Reductions other than SUMX (R239). -/
inductive ROp where
  | sum | max | min | count
  deriving DecidableEq, Repr

/-- Groups of a reduction (R239). -/
inductive RGroup where
  | contiguous (g : Nat)
  | column
  | whole
  deriving DecidableEq, Repr

/-- Where a reduction writes: elements 0 upward of a register, or one general register (WHOLE only, R239). -/
inductive RDst where
  | v (r : Nat)
  | g (r : Nat)
  deriving DecidableEq, Repr

/-- Conversions (R235, R285): between two formats; MX quantise and dequantise name an MX format on one side. -/
structure ConvParams where
  src : Fmt
  dst : Fmt
  rnd : Rnd
  dstReg : Nat
  srcReg : Nat
  scaleReg : Nat
  span : Nat
  srcLayer : Option Nat
  deriving DecidableEq, Repr

/-- Data movement between registers and the tile store (R243), or a ring of the tile (R216). -/
structure VLsParams where
  store : Bool
  reg : Nat
  rows : Nat
  rowBytes : Nat
  place : TileSrc
  deriving DecidableEq, Repr

/-- Indexed moves (R243). -/
structure VGsParams where
  scatter : Bool
  wide : Bool
  reg : Nat
  indexReg : Nat
  base : Nat
  count : Nat
  deriving DecidableEq, Repr

/-- Shuffle, broadcast and transpose (R235, R243). -/
inductive ShuffleOp where
  | shuffle (index : Nat)
  | broadcast (elem : Nat)
  | transpose
  deriving DecidableEq, Repr

/-- Mask instructions (R246). -/
inductive MaskOp where
  | and (a b : Nat) | or (a b : Nat) | xor (a b : Nat) | andNot (a b : Nat) | not (a : Nat)
  | setAll | clearAll
  | fromG (piece g : Nat)
  | toG (piece g : Nat)
  | load (addr : Nat)
  | store (addr : Nat)
  deriving DecidableEq, Repr

/-- Mask queries (R246). -/
inductive MaskQ where
  | count | any | first
  deriving DecidableEq, Repr

/-- Branch conditions of the tile core on two general registers. -/
inductive BrOp where
  | always | eq | ne | lt | ge | ltu | geu
  deriving DecidableEq, Repr

/-- Scalar instructions of the tile core (R247): integer and FP32 arithmetic, branches, CALL and RET (R254), the
counters it reads (R41), the vector saturation flag that it reads and clears (R241), and the rings that it sets (R216). -/
inductive ScalarOp where
  | imm (rd : Nat) (v : W64)
  | int (op : IOp) (rd ra rb : Nat)
  | div (rd ra rb : Nat)
  | rem (rd ra rb : Nat)
  | fp (op : FOp) (rd ra rb rc : Nat)
  | trans (op : TOp) (rd ra : Nat)
  | branch (op : BrOp) (ra rb target : Nat)
  | call (rd target : Nat)
  | ret (ra : Nat)
  | readTick (rd : Nat)
  | readCycle (rd : Nat)
  | readSat (rd : Nat)
  | ring (n base slotSize slots : Nat)
  | illegal
  deriving DecidableEq, Repr

/-- A data memory access (R248): a load with zero or sign extension, or a store. -/
structure DmemParams where
  store : Bool
  reg : Nat
  addr : Nat
  size : Nat
  signed : Bool
  deriving DecidableEq, Repr

/-- The count of a LOOP: a general register, or an immediate (R253). -/
inductive LoopCount where
  | reg (g : Nat)
  | imm (n : Nat)
  deriving DecidableEq, Repr

/-- One side of a tile DMA transfer (R252). -/
inductive DmaSide where
  | tileStore (off : Nat)
  | dataMem (off : Nat)
  | ring (n : Nat)
  | addr (a : Nat)
  deriving DecidableEq, Repr

/-- The source of a haul action: an address of this device, or a global address (R349, R363). -/
inductive HaulSrc where
  | loc (a : Nat)
  | glob (a : Nat)
  deriving DecidableEq, Repr

/-- A declared access of a command: a region slot, read or write (R397). -/
structure Access where
  slot : Nat
  write : Bool
  deriving DecidableEq, Repr

/-- Parameters of a tile DMA instruction (R252). `peerData` is the data a peer source returns. -/
structure DmaParams where
  src : DmaSide
  dst : DmaSide
  length : Nat
  count : Nat
  srcStride : Nat
  dstStride : Nat
  uses : List Access
  peerData : PeerData
  deriving DecidableEq, Repr

/-- A region descriptor (R395) as its public fields. -/
structure Region where
  base : Nat
  length : Nat
  space : Nat
  access : Nat
  deriving DecidableEq, Repr

/-- GBIN (R263): the cell descriptor, the atom array and count, and where the binned list and the bin starts go. -/
structure GbinParams where
  cell : Nat
  atoms : Nat
  count : Nat
  list : Nat
  starts : Nat
  deriving DecidableEq, Repr

/-- GSTAGE (R265): the group by its first position in the binned list and its size, and where it is staged. -/
structure GstageParams where
  bin : GbinParams
  first : Nat
  size : Nat
  opReg : Nat
  rows : Nat
  cands : Nat
  thetaReg : Nat
  deriving DecidableEq, Repr

/-- GEMIT (R266, R267). -/
structure GemitParams where
  stage : GstageParams
  candCount : Nat
  bits : Nat
  block : Nat
  capacity : Nat
  deriving DecidableEq, Repr

/-- GSH and its backward forms (R270, R277): rows of displacements, the degree, and the output; the gradient and vector rows
are read by the backward forms alone. -/
structure GshParams where
  disp : TileSrc
  count : Nat
  degree : Nat
  orthonormal : Bool
  bf16 : Bool
  out : TileSrc
  gradIn : TileSrc
  vec : TileSrc
  tag : TensorTag
  deriving DecidableEq, Repr

/-- Radial basis families (R272). -/
inductive Radial where
  | bessel | gaussian | chebyshev
  deriving DecidableEq, Repr

/-- Envelopes (R273). -/
inductive Envelope where
  | none | poly (p : Nat) | cosine
  deriving DecidableEq, Repr

/-- GRADIAL and GRADIAL_BWD (R272, R277), on rows of dx, dy, dz and r. -/
structure GradialParams where
  disp : TileSrc
  count : Nat
  family : Radial
  env : Envelope
  n : Nat
  rc : W32
  gamma : W32
  bf16 : Bool
  out : TileSrc
  gradIn : TileSrc
  tag : TensorTag
  deriving DecidableEq, Repr

/-- GCOUPLE and GCOUPLE_BWD (R274, R275, R277): the rows of each operand with their lengths in elements; `gOut`, `gX`, `gY`
and `gW` belong to the backward form, whose gradients are in the output format. -/
structure GcoupleParams where
  paths : Nat
  pathCount : Nat
  edges : Nat
  bf16In : Bool
  x : TileSrc
  xLen : Nat
  y : TileSrc
  yLen : Nat
  w : TileSrc
  wLen : Nat
  out : TileSrc
  outLen : Nat
  bf16Out : Bool
  gX : TileSrc
  gY : TileSrc
  gW : TileSrc
  tag : TensorTag
  tagY : TensorTag
  tagW : TensorTag
  deriving DecidableEq, Repr

/-- A machine-wide layer summary that the firmware forms or receives in the census slot (R298). -/
structure Summary where
  layer : Nat
  elements : Nat
  zeros : Nat
  maxExp : Int
  hist : List Nat
  replays : Nat
  deriving DecidableEq, Repr

/-- Compression of a reduction (R319). -/
inductive Compression where
  | none | topk (j : Nat) | sign
  deriving DecidableEq, Repr

/-- What every participant of a collective must agree on (R320), with the local timeout. -/
structure CollCommon where
  entry : Nat
  sequence : Nat
  span : Nat
  timeoutNs : Nat
  deriving DecidableEq, Repr

/-- REDUCE_SCATTER (R319). -/
structure ReduceParams where
  common : CollCommon
  exact : Bool
  layer : Option Nat
  sources : List Nat
  sourceBf16 : Bool
  contributors : Nat
  output : Nat
  int64Out : Bool
  outputSize : Nat
  compression : Compression
  feedback : Nat
  tag : TensorTag
  deriving DecidableEq, Repr

/-- ALL_GATHER (R333). -/
structure AllGatherParams where
  common : CollCommon
  elemBytes : Nat
  source : Nat
  dest : Nat
  destSize : Nat
  deriving DecidableEq, Repr

/-- ALL_TO_ALL (R334). -/
structure AllToAllParams where
  common : CollCommon
  elemBytes : Nat
  counts : Nat
  send : Nat
  recv : Nat
  recvCapacity : Nat
  recvCounts : Nat
  deriving DecidableEq, Repr

/-- ALLREDUCE_SMALL (R335): the words, and the bit map that selects maximum. -/
structure SmallParams where
  common : CollCommon
  words : Nat
  source : Nat
  maxMap : Nat
  dest : Nat
  deriving DecidableEq, Repr

/-- PERMUTE (R336). -/
structure PermuteParams where
  common : CollCommon
  elemBytes : Nat
  source : Nat
  dest : Nat
  commitTick : Nat
  deriving DecidableEq, Repr

/-- Collective data as it arrives from a peer (R320): the sender, the participants whose contributions a partial combined on
its path also holds (R325), the matching words, the agreed parameters as one number, and the payload: the first element, and
integers with the bytes each takes on the link, or bytes; `last` on a sender's last data. -/
structure Arrival where
  sender : Nat
  also : List Nat
  jobTag : Nat
  tensor : Nat
  sequence : Nat
  step : Nat
  attempt : Nat
  paramsHash : Nat
  first : Nat
  width : Nat
  ints : List Int
  bytes : List Byte
  last : Bool
  deriving DecidableEq, Repr

/-- The 16-byte reduction trailer combined over the participants (R327). -/
structure Trailer where
  contributions : Nat
  maxExp : Int
  scale : Bool
  compute : Bool
  deriving DecidableEq, Repr

/-- Parameters of a haul stream (R377). -/
structure HaulStreamParams where
  weights : Bool
  stage : Bool
  source : HaulSrc
  chunkLength : Nat
  chunkCount : Nat
  windows : List Nat
  deriving DecidableEq, Repr

/-- A BELAY payload (R475). -/
structure Belay where
  kind : Nat
  flags : Nat
  accLatency : Nat
  tick : Nat
  length : Nat
  grace : Nat
  subdiv : Nat
  stretch : Nat
  deriving DecidableEq, Repr

/-- Fence scopes (R402). -/
inductive FenceScope where
  | region (slots : List Nat)
  | engine (kind : Nat)
  | tile (t : Nat)
  | device
  | machine
  deriving DecidableEq, Repr

/-- Who issues a scoreboarded command, a fence, a SETREGION or a SEQ: a stream, or a tile core. -/
inductive CmdFrom where
  | stream (r : StreamRef)
  | tile (t : TileRef)
  deriving DecidableEq, Repr

/-- A scoreboarded command as its issuer presents it: its stream or tile, its engine kind (R386; 7 for a tile), its q, the
slots it names, the pitch offset whose work it is (0 for its own pitch; R321, R365), whether it is a STREAM that accumulates
(R225), the resources it names, and the keys at the heads of the context's other engine streams: the q of the next command not
yet issued, by stream number (R398; the commands' encodings are private, so their keys come with the command). -/
structure CmdDesc where
  from_ : CmdFrom
  engine : Nat
  q : Nat
  uses : List Access
  later : Nat
  chain : Bool
  namesTile : List Nat
  namesLinks : List Nat
  namesPorts : List Nat
  namesGather : List Nat
  heads : List (Nat × Nat)
  deriving DecidableEq, Repr

/-- A flit as it arrives, after lane correction (R461, R462). `read` is the peer read that its packed messages carry, if
one: local address, length, request tag (R361). -/
structure Flit where
  cls : Nat
  sub : Nat
  urgent : Bool
  type_ : Nat
  seq : Nat
  ack : Nat
  dest : Nat
  source : Nat
  creditClass : Nat
  creditSub : Nat
  credits : Nat
  jobTag : Nat
  length : Nat
  payload : List Byte
  read : Option (Nat × Nat × Nat)
  deriving DecidableEq, Repr

/-- What link training finds (R477, R478). -/
structure TrainResult where
  passing : List Nat
  peerAnswers : Bool
  peerV2 : Bool
  peerV1 : Bool
  latencyNs10 : Nat
  peerId : Nat
  peerLink : Nat
  peer9300 : Bool
  deriving DecidableEq, Repr

/-- Triggers of the hardware clamp (R545, R558). -/
inductive ClampTrigger where
  | power | current | brake | junction | hbm
  deriving DecidableEq, Repr

/-- Readings that the power controller holds at the end of a window (R544, R547, R556, R557): watts, millivolts, milliamperes,
and °C for the hottest junction of each die, each stack, and the coolant. -/
structure PowerReadings where
  inputW : Nat
  inputMv : Nat
  inputMa : Nat
  dies : List Nat
  hbmStacks : List Nat
  coolantIn : Nat
  coolantOut : Nat
  deriving DecidableEq, Repr

/-- What the security engine finds for one signed image (R507, R508, R512): whether the flash region reads without
error, the key hashes match their fused slots, the ECDSA and LMS signatures verify, and the body digest matches. -/
structure Verdict where
  readable : Bool
  keysMatch : Bool
  ecdsaOk : Bool
  lmsOk : Bool
  digestOk : Bool
  deriving DecidableEq, Repr

/-- What a module reset meets outside the device: the verdicts on the two signed images, and the latched readings of
R513 with the rates of R354 and R430. `maxTemp` is the hottest sensor while the ROM waits (R547). -/
structure BootEnv where
  factory : Verdict
  firmware : Verdict
  maxTemp : Nat
  hbmTrained : Nat
  capSize0 : Nat
  capSize1 : Nat
  capRate0 : Nat
  capRate1 : Nat
  capWidth0 : Nat
  capWidth1 : Nat
  hostSpeed : Nat
  hostWidth : Nat
  refPresent : Nat
  linkResults : List (Nat × TrainResult)
  deriving DecidableEq, Repr

/-- Reference clocks of R548. -/
inductive RefClk where
  | core
  | host
  | link (n : Nat)
  | cap (p : Nat)
  deriving DecidableEq, Repr

/-- Why a module reset is asserted (R433, R513). -/
inductive ResetCause where
  | modReset | perst | hotReset | linkDisable
  deriving DecidableEq, Repr

/-- On-chip SRAMs that the scrubber reads, sorted by the rows of R487; a word of a tile by its offset within the tile. -/
inductive SramKind where
  | tile (t off : Nat)
  | shared (addr : Nat)
  | configTable (addr : Nat)
  | control (index : Nat)
  deriving DecidableEq, Repr

/-- What a code finds in a word or block (R484). -/
inductive EccResult where
  | clean | corrected | uncorrectable
  deriving DecidableEq, Repr

/-- PLDM requests over MCTP (R556). -/
inductive PldmReq where
  | sensor (id : Nat)
  | fru
  | effecter
  | firmwareUpdate
  deriving DecidableEq, Repr

/-- Private TAP instruction classes (R529, R530): the level bit that opens each. -/
inductive TapPrivate where
  | coreDebug | memoryAccess | scan
  deriving DecidableEq, Repr

end Sys2Proof
end

