-- ==== Sys2Proof/Syntax.lean ====
section
/-!
DEFINITION. The commands of the block: one constructor per row of spec/opcode_table.json, with the row's operands.
A row that names a moment (a tick, a timeout, the end of a transfer) is the command that this moment sends.
-/

namespace Sys2Proof

/-- The commands and events of the part, in the order of the opcode table. -/
inductive Instr where
  /-- PITCH_RUN_SET (R44). -/
  | pitchRunSet
  /-- PITCH_RUN_CLEAR (R56). -/
  | pitchRunClear
  /-- ANCHOR_DECISION_POINT (R48). -/
  | anchorDecisionPoint
  /-- DONE_REPORT (R47). -/
  | doneReport (link : Nat) (p : Belay)
  /-- TICK_ANNOUNCEMENT (R48). -/
  | tickAnnouncement (link : Nat) (p : Belay)
  /-- TICK_FIRE (R57). -/
  | tickFire
  /-- OVERRUN_ANNOUNCEMENT (R51). -/
  | overrunAnnouncement
  /-- GRACE_END (R51). -/
  | graceEnd
  /-- TICK_LOST_TIMEOUT (R53). -/
  | tickLostTimeout
  /-- SUB_TICK (R62). -/
  | subTick
  /-- URGENT_EXECUTION_END (R455). -/
  | urgentExecutionEnd
  /-- SUBPITCH_OVERRUN (R63). -/
  | subpitchOverrun
  /-- CFG_ARM_GO (R66). -/
  | cfgArmGo (machine : Bool)
  /-- CFG_DISARM (R67). -/
  | cfgDisarm
  /-- SH_FIELD_WRITE (R65). -/
  | shFieldWrite (fn offset size value : Nat)
  /-- REGISTER_WRITE (R12). -/
  | registerWrite (fn offset size value : Nat)
  /-- REGISTER_READ_CAPTURE (R559). -/
  | registerReadCapture (fn offset size : Nat)
  /-- SAMPLE (R81). -/
  | sample (r : StreamRef) (p : SampleParams)
  /-- SAMPLE_COMPLETE (R97). -/
  | sampleComplete (op : Nat)
  /-- TRAVERSE_READ_RETURN (R100). -/
  | traverseReadReturn (op : Nat) (kind : SourceKind) (address : Nat) (data : PeerData)
  /-- GATHER (R107). -/
  | gather (r : StreamRef) (p : GatherParams)
  /-- GATHER_FETCH_RETURN (R113). -/
  | gatherFetchReturn (op unit key : Nat) (peer : Option PeerRow)
  /-- GATHER_COMPLETE (R109). -/
  | gatherComplete (op : Nat)
  /-- SERVED_LOOKUP (R121). -/
  | servedLookup (link jobTag table key reqTag : Nat)
  /-- SCATTER (R132). -/
  | scatter (r : StreamRef) (p : ScatterParams)
  /-- SCATTER_FINALISE (R144). -/
  | scatterFinalise (op : Nat)
  /-- SCATTER_COMPLETE (R135). -/
  | scatterComplete (op : Nat)
  /-- SERVED_CONTRIBUTION (R155). -/
  | servedContribution (link jobTag table area alpha row : Nat) (exponent : Int) (accs : List Int)
  /-- SERVED_ACK (R155). -/
  | servedAck (op unit : Nat)
  /-- ROW_MOVE (R175). -/
  | rowMove (r : StreamRef) (list : Nat)
  /-- ROW_MOVE_COPY_DONE (R176). -/
  | rowMoveCopyDone (index : Nat)
  /-- HOTSET_REFRESH (R184). -/
  | hotsetRefresh
  /-- MERGE (R193). -/
  | merge (r : StreamRef) (p : MergeParams)
  /-- MERGE_COMPLETE (R199). -/
  | mergeComplete (op : Nat)
  /-- LOAD (R213). -/
  | load (t : TileRef) (p : LoadParams)
  /-- LOAD_COMPLETE (R213). -/
  | loadComplete (tile : Nat)
  /-- STREAM (R214). -/
  | stream (t : TileRef) (p : StreamParams)
  /-- STREAM_COMPLETE (R224). -/
  | streamComplete (tile : Nat)
  /-- VECTOR_ARITHMETIC (R236). -/
  | vectorArithmetic (t : TileRef) (op : FOp) (f : Fmt) (rnd : Rnd) (span dst : Nat) (a b c : VSrc) (m : Masking) (tag : TensorTag)
  /-- VECTOR_TRANSCENDENTAL (R237). -/
  | vectorTranscendental (t : TileRef) (op : TOp) (f : Fmt) (span dst : Nat) (a : VSrc) (m : Masking) (tag : TensorTag)
  /-- VECTOR_INTEGER (R238). -/
  | vectorInteger (t : TileRef) (op : IOp) (f : Fmt) (span dst : Nat) (a b : VSrc) (m : Masking)
  /-- VECTOR_COMPARE (R244). -/
  | vectorCompare (t : TileRef) (op : COp) (f : Fmt) (dst : Nat) (a b : VSrc) (m : Masking)
  /-- VECTOR_SELECT (R235). -/
  | vectorSelect (t : TileRef) (f : Fmt) (span dst : Nat) (a b : VSrc) (mask : Nat) (g : Granule)
  /-- VECTOR_CONVERSION (R238). -/
  | vectorConversion (t : TileRef) (p : ConvParams) (m : Masking) (tag : TensorTag)
  /-- VECTOR_REDUCTION (R240). -/
  | vectorReduction (t : TileRef) (op : ROp) (f : Fmt) (group : RGroup) (dst : RDst) (src span : Nat) (m : Masking) (tag : TensorTag)
  /-- SUMX (R241). -/
  | sumx (t : TileRef) (f : Fmt) (exponent : Int) (group : RGroup) (dst : RDst) (src span : Nat) (m : Masking) (tag : TensorTag)
  /-- UPDATE_REM (R242). -/
  | updateRem (t : TileRef) (half w rem upd : Nat) (m : Masking) (tag : TensorTag)
  /-- VLOAD_VSTORE (R243). -/
  | vloadVstore (t : TileRef) (p : VLsParams)
  /-- VGATHER_VSCATTER (R243). -/
  | vgatherVscatter (t : TileRef) (p : VGsParams)
  /-- SHUFFLE (R243). -/
  | shuffle (t : TileRef) (op : ShuffleOp) (f : Fmt) (span dst src : Nat) (m : Masking)
  /-- VEXTRACT_VINSERT (R243). -/
  | vextractVinsert (t : TileRef) (insert : Bool) (width v elem g : Nat)
  /-- MASK_LOGIC (R246). -/
  | maskLogic (t : TileRef) (op : MaskOp) (dst : Nat)
  /-- MASK_QUERY (R246). -/
  | maskQuery (t : TileRef) (op : MaskQ) (mask g : Nat)
  /-- VECTOR_INSTRUCTION_COMPLETE (R233). -/
  | vectorInstructionComplete (tile : Nat)
  /-- SCALAR_INSTRUCTION (R247). -/
  | scalarInstruction (t : TileRef) (op : ScalarOp)
  /-- DATA_MEMORY_ACCESS (R248). -/
  | dataMemoryAccess (t : TileRef) (p : DmemParams)
  /-- LOOP (R253). -/
  | loop (t : TileRef) (count : LoopCount) (last after : Nat)
  /-- LOOP_INDEX (R253). -/
  | loopIndex (t : TileRef) (g level : Nat)
  /-- PITCH_END (R251). -/
  | pitchEnd (t : TileRef)
  /-- STOP (R250). -/
  | stop (t : TileRef)
  /-- TRAP (R258). -/
  | trap (t : TileRef) (operand : Nat)
  /-- SEQ (R393). -/
  | seq (from_ : CmdFrom) (q : Nat)
  /-- SETREGION (R396). -/
  | setregion (from_ : CmdFrom) (slot : Nat) (region : Region)
  /-- TILE_DMA (R252). -/
  | tileDma (t : TileRef) (p : DmaParams)
  /-- TILE_DMA_COMPLETE (R252). -/
  | tileDmaComplete (tile : Nat)
  /-- GBIN (R263). -/
  | gbin (t : TileRef) (p : GbinParams)
  /-- GSTAGE (R265). -/
  | gstage (t : TileRef) (p : GstageParams)
  /-- GEMIT (R266). -/
  | gemit (t : TileRef) (p : GemitParams)
  /-- GSH (R270). -/
  | gsh (t : TileRef) (p : GshParams)
  /-- GRADIAL (R272). -/
  | gradial (t : TileRef) (p : GradialParams)
  /-- GCOUPLE (R275). -/
  | gcouple (t : TileRef) (p : GcoupleParams)
  /-- GCOUPLE_BWD (R277). -/
  | gcoupleBwd (t : TileRef) (p : GcoupleParams)
  /-- GSH_BWD (R277). -/
  | gshBwd (t : TileRef) (p : GshParams)
  /-- GRADIAL_BWD (R277). -/
  | gradialBwd (t : TileRef) (p : GradialParams)
  /-- GSH_BWD2 (R277). -/
  | gshBwd2 (t : TileRef) (p : GshParams)
  /-- GOVERNOR_UPDATE (R298). -/
  | governorUpdate (ctx step base target : Nat) (machine : List Summary)
  /-- REPLAY_OPEN (R301). -/
  | replayOpen (r : StreamRef) (layer : Nat)
  /-- REPLAY_CHECK (R302). -/
  | replayCheck (r : StreamRef)
  /-- REPLAY_DECISION (R303). -/
  | replayDecision (ctx : Nat) (scale compute : Bool) (maxExp : Int)
  /-- REDUCE_SCATTER (R322). -/
  | reduceScatter (r : StreamRef) (p : ReduceParams)
  /-- ALL_GATHER (R333). -/
  | allGather (r : StreamRef) (p : AllGatherParams)
  /-- ALL_TO_ALL (R334). -/
  | allToAll (r : StreamRef) (p : AllToAllParams)
  /-- ALLREDUCE_SMALL (R335). -/
  | allreduceSmall (r : StreamRef) (p : SmallParams)
  /-- PERMUTE (R336). -/
  | permute (r : StreamRef) (p : PermuteParams)
  /-- COLLECTIVE_DATA_ARRIVAL (R320). -/
  | collectiveDataArrival (link : Nat) (a : Arrival)
  /-- TRAILER_RETURN (R328). -/
  | trailerReturn (op : Nat) (tr : Trailer)
  /-- COLLECTIVE_TIMEOUT (R342). -/
  | collectiveTimeout (op : Nat)
  /-- REGISTER (R363). -/
  | register (h : HaulFrom) (handle home length readers : Nat) (evictable : Bool)
  /-- INSTALL (R363). -/
  | install (h : HaulFrom) (handle newHome : Nat) (source : HaulSrc) (length readers k : Nat)
  /-- MOVE (R363). -/
  | move (h : HaulFrom) (handle newHome k : Nat)
  /-- REPLACE (R363). -/
  | replace (h : HaulFrom) (handle newHome : Nat) (source : HaulSrc) (k : Nat)
  /-- RELEASE (R363). -/
  | release (h : HaulFrom) (handle k : Nat)
  /-- STAGE (R367). -/
  | stage (h : HaulFrom) (source : HaulSrc) (window length : Nat)
  /-- COPY (R363). -/
  | copy (h : HaulFrom) (source : HaulSrc) (dest length : Nat)
  /-- RESIDENCY_QUERY (R357). -/
  | residencyQuery (h : HaulFrom) (handle dest : Nat)
  /-- HAUL_COPY_DONE (R365). -/
  | haulCopyDone (copy : Nat) (peer : Option PeerData)
  /-- OLD_HOME_RELEASE (R362). -/
  | oldHomeRelease (handle : Nat)
  /-- STREAM_REARM (R378). -/
  | streamRearm (r : StreamRef) (source : HaulSrc) (count : Option Nat)
  /-- STREAM_CHUNK_FILL (R377). -/
  | streamChunkFill (queue : Nat) (arm : Option HaulStreamParams)
  /-- STREAM_END (R378). -/
  | streamEnd (queue : Nat)
  /-- LOAD_JOB (R389). -/
  | loadJob (ctx ring : Nat)
  /-- START_JOB (R389). -/
  | startJob (ctx ring : Nat)
  /-- STOP_JOB (R444). -/
  | stopJob (ctx ring : Nat)
  /-- UNLOAD_JOB (R442). -/
  | unloadJob (ctx ring : Nat)
  /-- NOP (R442). -/
  | nop (ctx ring : Nat)
  /-- SYNC (R442). -/
  | sync (ctx ring : Nat)
  /-- URGENT_REQUEST (R454). -/
  | urgentRequest (ctx ring : Nat)
  /-- COMMAND_START (R398). -/
  | commandStart (cmd : CmdDesc)
  /-- COMMAND_COMPLETE (R399). -/
  | commandComplete (ctx id : Nat)
  /-- FENCE (R402). -/
  | fence (from_ : CmdFrom) (q : Nat) (heads : List (Nat × Nat)) (scope : FenceScope)
  /-- FENCE_RELEASE (R402). -/
  | fenceRelease (ctx id : Nat)
  /-- DB_CMD_TAIL (R440). -/
  | dbCmdTail (ctx ring value : Nat)
  /-- DB_CPL_HEAD (R440). -/
  | dbCplHead (ctx value : Nat)
  /-- DB_EVT_HEAD (R440). -/
  | dbEvtHead (ctx value : Nat)
  /-- DESCRIPTOR_FETCH (R446). -/
  | descriptorFetch (ctx ring : Nat)
  /-- COALESCE_TIMER (R452). -/
  | coalesceTimer (ctx : Nat)
  /-- CTX_ENABLE_SET (R439). -/
  | ctxEnableSet (ctx : Nat)
  /-- CTX_ENABLE_CLEAR (R439). -/
  | ctxEnableClear (ctx : Nat)
  /-- CTX_CLEAR (R435). -/
  | ctxClear (ctx : Nat)
  /-- CTX_URGENT (R453). -/
  | ctxUrgent (fn ctx : Nat) (value : Bool)
  /-- CTX_TILE_MASK (R436). -/
  | ctxTileMask (fn ctx mask : Nat)
  /-- CTX_ARENA_VALID (R373). -/
  | ctxArenaValid (fn ctx : Nat) (value : Bool)
  /-- CTX_URGENT_LAT_CLEAR (R457). -/
  | ctxUrgentLatClear (ctx : Nat)
  /-- VF_FLR (R434). -/
  | vfFlr (vf : Nat)
  /-- PF_FLR (R433). -/
  | pfFlr
  /-- HOST_LINK_LOSS (R433). -/
  | hostLinkLoss
  /-- ATS_INVALIDATION (R432). -/
  | atsInvalidation (fn iova size : Nat)
  /-- LINK_TRAIN (R477). -/
  | linkTrain (link : Nat)
  /-- LINK_TRAINING_DONE (R477). -/
  | linkTrainingDone (link : Nat) (result : TrainResult)
  /-- LINK_DISABLE (R483). -/
  | linkDisable (link : Nat) (value : Bool)
  /-- FLIT_RECEIVE (R461). -/
  | flitReceive (link : Nat) (f : Flit) (corrected : Nat) (crcOk : Bool)
  /-- NAK_RECEIVE (R462). -/
  | nakReceive (link seq : Nat)
  /-- LANE_LOSS_OF_LOCK (R463). -/
  | laneLossOfLock (link lane : Nat)
  /-- ACK_TIMEOUT (R463). -/
  | ackTimeout (link : Nat)
  /-- HBM_SCRUB (R488); `last` on the block that completes a pass. -/
  | hbmScrub (stack address : Nat) (last : Bool) (result : EccResult)
  /-- SRAM_SCRUB (R489); `last` on the word that completes a pass. -/
  | sramScrub (kind : SramKind) (last : Bool) (result : EccResult)
  /-- EVT_FAULT_CLEAR (R498). -/
  | evtFaultClear
  /-- MODULE_RESET (R513). -/
  | moduleReset (env : BootEnv)
  /-- SEC_FLASH_GO (R521). -/
  | secFlashGo (hostReadFails : Bool) (v : Verdict)
  /-- FLASH_WRITE_COMPLETE (R522). -/
  | flashWriteComplete (readBackOk : Bool)
  /-- SEC_SVN_COMMIT (R524). -/
  | secSvnCommit
  /-- SEC_UNLOCK_GO (R531). -/
  | secUnlockGo (v : Verdict)
  /-- SEC_DEBUG_RELOCK (R531). -/
  | secDebugRelock
  /-- SEC_DEBUG_DISABLE (R532). -/
  | secDebugDisable (key : Nat)
  /-- GET_VERSION (R527). -/
  | getVersion
  /-- GET_CAPABILITIES (R527). -/
  | getCapabilities
  /-- NEGOTIATE_ALGORITHMS (R527). -/
  | negotiateAlgorithms
  /-- GET_DIGESTS (R527). -/
  | getDigests
  /-- GET_CERTIFICATE (R527). -/
  | getCertificate (slot offset length : Nat)
  /-- CHALLENGE (R527). -/
  | challenge (slot : Nat) (nonce : List Byte)
  /-- GET_MEASUREMENTS (R528). -/
  | getMeasurements (index : Nat) (sign : Bool) (nonce : List Byte)
  /-- BYPASS (R529). -/
  | bypass
  /-- IDCODE (R529). -/
  | idcode
  /-- SAMPLE_PRELOAD (R529). -/
  | samplePreload
  /-- EXTEST (R529). -/
  | extest
  /-- EXTEST_PULSE (R529). -/
  | extestPulse
  /-- EXTEST_TRAIN (R529). -/
  | extestTrain
  /-- CLAMP (R529). -/
  | clamp
  /-- PWR_EN_ASSERT (R542). -/
  | pwrEnAssert
  /-- PWR_EN_DEASSERT (R543). -/
  | pwrEnDeassert
  /-- INPUT_UNDERVOLTAGE (R543). -/
  | inputUndervoltage (millivolts : Nat)
  /-- PWR_TILE_PAIR_EN (R538). -/
  | pwrTilePairEn (value : W32)
  /-- PWR_LINK_GROUP_EN (R538). -/
  | pwrLinkGroupEn (value : Nat)
  /-- PWR_HBM_SLEEP_SET (R540). -/
  | pwrHbmSleepSet
  /-- PWR_HBM_SLEEP_CLEAR (R540). -/
  | pwrHbmSleepClear
  /-- DOMAIN_POWER_DONE (R537). -/
  | domainPowerDone (domain : Nat)
  /-- IDLE_GATE_TIMER (R539). -/
  | idleGateTimer
  /-- POWER_WINDOW (R544). -/
  | powerWindow (readings : PowerReadings)
  /-- CLAMP_TRIGGER (R545). -/
  | clampTrigger (trigger : ClampTrigger)
  /-- CLAMP_HOLD_EXPIRY (R545). -/
  | clampHoldExpiry
  /-- CLAMP_PERSIST_FAULT (R545). -/
  | clampPersistFault
  /-- THERMAL_TRIP (R547). -/
  | thermalTrip (sensor : Nat)
  /-- REFCLK_LOSS (R548). -/
  | refclkLoss (clock : RefClk)
  /-- LEAK_DET (R553). -/
  | leakDet
  /-- CAPACITY_LINK_DOWN (R355). -/
  | capacityLinkDown (port : Nat)
  /-- MCTP_PLDM_REQUEST (R556). -/
  | mctpPldmRequest (request : PldmReq)
  /-- I3C_DYNAMIC_ADDRESS (R556). -/
  | i3cDynamicAddress (address : Nat)
  /-- ID_DEVICE_NUMBER_WRITE (R563). -/
  | idDeviceNumberWrite (fn value : Nat)
  /-- CNT_SELECT (R576). -/
  | cntSelect (value : W32)
  /-- CTX_CNT_SELECT (R578). -/
  | ctxCntSelect (ctx id inst : Nat)
  /-- MOD_RESET_N_ASSERT (R513). -/
  | modResetNAssert (cause : ResetCause)
  /-- HBM_INTERFACE_FAULT (R495). -/
  | hbmInterfaceFault (stack : Nat)
  /-- HOST_LINK_UP (R430), with what the host then sets in configuration space: NumVFs and Bus Master Enable by function. -/
  | hostLinkUp (speed width numVfs busMaster : Nat)
  /-- HOST_CORRECTABLE_ERROR (R430). -/
  | hostCorrectableError
  /-- MSIX_VECTOR_UNMASK (R452). -/
  | msixVectorUnmask (fn vector : Nat)
  /-- PLDM_SENSOR_UPDATE (R556). -/
  | pldmSensorUpdate (readings : PowerReadings)
  /-- CLAMP_TRIGGER_CLEAR (R545). -/
  | clampTriggerClear (trigger : ClampTrigger)
  /-- TAP_RESET (R529). -/
  | tapReset
  /-- TAP_PRIVATE_INSTRUCTION (R529). -/
  | tapPrivateInstruction (kind : TapPrivate)
  /-- SPDM_UNSUPPORTED_REQUEST (R527). -/
  | spdmUnsupportedRequest (code : Nat)
  deriving DecidableEq, Repr

end Sys2Proof
end

