-- ==== Sys2Proof/Decode.lean ====
section
/-!
DEFINITION. The opcode table gives no row any bits: its rows are commands and events, whose binary encodings are
private (R81, R107, R132, R193, R207, R235, R319, R363) or that have none. No word spells a command.
-/

namespace Sys2Proof

/-- The rows of the opcode table that give bits, as the row's bits, its fixed bits and its command: there is none. -/
def tableRows : List (Nat × Nat × Nat × (Nat → Instr)) := []

/-- The command that a word spells by the table's bits: the first row of that many bits whose fixed bits agree. -/
def decodeTableWord (nbits w : Nat) : Option Instr :=
  match tableRows.find? (fun r => r.1 == nbits && w &&& r.2.1 == r.2.2.1) with
  | some r => some (r.2.2.2 w)
  | none => none

end Sys2Proof
end

