-- ==== Sys2Proof/Machine/Counters.lean ====
section
/-!
DEFINITION. Counter identifiers: group in [15:8], position in the group's table in [7:0] (R573, R574). A counter that
stands in two tables has one canonical identifier here.
-/

namespace Sys2Proof.Machine

/-- DROP_INDEX_RANGE (R574). -/
def Ctr.dropIndexRange : Nat := 0x0200
/-- DROP_GROUP_OVERFLOW (R574). -/
def Ctr.dropGroupOverflow : Nat := 0x0201
/-- DROP_EDGE (R574). -/
def Ctr.dropEdge : Nat := 0x0202
/-- DEFAULT_ROW_HITS (R574). -/
def Ctr.defaultRowHits : Nat := 0x0203
/-- DEDUP_HITS (R574). -/
def Ctr.dedupHits : Nat := 0x0204
/-- DEDUP_COLLISION_REFETCH (R574). -/
def Ctr.dedupCollisionRefetch : Nat := 0x0205
/-- MIGRATION_HELD_UPDATES (R574). -/
def Ctr.migrationHeldUpdates : Nat := 0x0206
/-- RESIDENCY_PINGPONG (R574). -/
def Ctr.residencyPingpong : Nat := 0x0207
/-- PITCH_STRETCH (R574). -/
def Ctr.pitchStretch : Nat := 0x0208
/-- PITCH_STRETCH_NS (R574). -/
def Ctr.pitchStretchNs : Nat := 0x0209
/-- SUBTICK_CATCHUP (R574). -/
def Ctr.subtickCatchup : Nat := 0x020A
/-- STALL_DATA_LATE_LOCAL (R412). -/
def Ctr.stallDataLateLocal : Nat := 0x0100
/-- STALL_DATA_LATE_PEER (R412). -/
def Ctr.stallDataLatePeer : Nat := 0x0101
/-- STALL_DATA_LATE_CAPACITY (R412). -/
def Ctr.stallDataLateCapacity : Nat := 0x0102
/-- STALL_WEIGHTS_LATE (R412). -/
def Ctr.stallWeightsLate : Nat := 0x0103
/-- STALL_SCOREBOARD (R412). -/
def Ctr.stallScoreboard : Nat := 0x0104
/-- STALL_QUEUE_FULL (R412). -/
def Ctr.stallQueueFull : Nat := 0x0105
/-- STALL_TAGS (R412). -/
def Ctr.stallTags : Nat := 0x0106
/-- STALL_LINK_CREDIT (R412). -/
def Ctr.stallLinkCredit : Nat := 0x0107
/-- STALL_FENCE (R412). -/
def Ctr.stallFence : Nat := 0x0108
/-- STALL_PITCH_WAIT (R412). -/
def Ctr.stallPitchWait : Nat := 0x0109
/-- SAMPLED_EDGES (R102). -/
def Ctr.sampledEdges : Nat := 0x0300
/-- SAMPLE_UNIQUE_NODES (R102). -/
def Ctr.sampleUniqueNodes : Nat := 0x0301
/-- SEED_DUPLICATES (R102). -/
def Ctr.seedDuplicates : Nat := 0x0302
/-- SAMPLE_CAPPED (R102). -/
def Ctr.sampleCapped : Nat := 0x0303
/-- WEIGHT_INVALID (R102). -/
def Ctr.weightInvalid : Nat := 0x0304
/-- WEIGHT_CLAMPED (R102). -/
def Ctr.weightClamped : Nat := 0x0305
/-- WALK_DEAD_END (R102). -/
def Ctr.walkDeadEnd : Nat := 0x0306
/-- TRAVERSE_PEER_ROWS (R102). -/
def Ctr.traversePeerRows : Nat := 0x0307
/-- TRAVERSE_MAP_MISSES (R102). -/
def Ctr.traverseMapMisses : Nat := 0x0308
/-- GATHER_ROWS (R131). -/
def Ctr.gatherRows : Nat := 0x0400
/-- GATHER_FETCHES (R131). -/
def Ctr.gatherFetches : Nat := 0x0401
/-- GATHER_NULL_KEYS (R131). -/
def Ctr.gatherNullKeys : Nat := 0x0406
/-- GATHER_HOT_ROWS (R131). -/
def Ctr.gatherHotRows : Nat := 0x0407
/-- GATHER_PEER_ROWS (R131). -/
def Ctr.gatherPeerRows : Nat := 0x0408
/-- GATHER_SERVED_ROWS (R131). -/
def Ctr.gatherServedRows : Nat := 0x0409
/-- GATHER_CAPACITY_ROWS (R131). -/
def Ctr.gatherCapacityRows : Nat := 0x040A
/-- GATHER_MAP_MISSES (R131). -/
def Ctr.gatherMapMisses : Nat := 0x040B
/-- SCATTER_CONTRIBUTIONS (R162). -/
def Ctr.scatterContributions : Nat := 0x0500
/-- SCATTER_MASKED (R162). -/
def Ctr.scatterMasked : Nat := 0x0501
/-- SCATTER_SATURATED (R162). -/
def Ctr.scatterSaturated : Nat := 0x0502
/-- SCATTER_UNDERFLOW (R162). -/
def Ctr.scatterUnderflow : Nat := 0x0503
/-- SCATTER_EMPTY_ROWS (R162). -/
def Ctr.scatterEmptyRows : Nat := 0x0504
/-- SCATTER_SEGMENTS_SPLIT (R162). -/
def Ctr.scatterSegmentsSplit : Nat := 0x0505
/-- COMBINE_FLUSHES (R162). -/
def Ctr.combineFlushes : Nat := 0x0506
/-- COMBINE_EVICTIONS (R162). -/
def Ctr.combineEvictions : Nat := 0x0507
/-- SCATTER_SERVED_ROWS (R162). -/
def Ctr.scatterServedRows : Nat := 0x0508
/-- ROW_UPDATES_APPLIED (R162). -/
def Ctr.rowUpdatesApplied : Nat := 0x0509
/-- ROW_UPDATES_DISCARDED (R162). -/
def Ctr.rowUpdatesDiscarded : Nat := 0x050A
/-- ROW_MOVES_ACCEPTED (R186). -/
def Ctr.rowMovesAccepted : Nat := 0x0600
/-- ROW_MOVES_REFUSED (R186). -/
def Ctr.rowMovesRefused : Nat := 0x0601
/-- HOT_QUOTA_REFUSED (R186). -/
def Ctr.hotQuotaRefused : Nat := 0x0602
/-- ROW_MOVES_COMMITTED (R186). -/
def Ctr.rowMovesCommitted : Nat := 0x0603
/-- ROW_NARROW_SATURATED (R186). -/
def Ctr.rowNarrowSaturated : Nat := 0x0604
/-- ROW_NARROW_NAN (R186). -/
def Ctr.rowNarrowNan : Nat := 0x0605
/-- ROW_NARROW_UNDERFLOW (R186). -/
def Ctr.rowNarrowUnderflow : Nat := 0x0606
/-- POP_LOG_ENTRIES (R186). -/
def Ctr.popLogEntries : Nat := 0x0607
/-- MERGE_ENTRIES_IN (R205). -/
def Ctr.mergeEntriesIn : Nat := 0x0700
/-- MERGE_ENTRIES_OUT (R205). -/
def Ctr.mergeEntriesOut : Nat := 0x0701
/-- MERGE_PAIRS_SPLIT (R205). -/
def Ctr.mergePairsSplit : Nat := 0x0702
/-- MERGE_PIECES (R205). -/
def Ctr.mergePieces : Nat := 0x0703
/-- MATRIX_ROWS (R229). -/
def Ctr.matrixRows : Nat := 0x0800
/-- MATRIX_ENTRY_CYCLES (R229). -/
def Ctr.matrixEntryCycles : Nat := 0x0801
/-- MATRIX_CELL_OPS (R229). -/
def Ctr.matrixCellOps : Nat := 0x0802
/-- MATRIX_LOADS (R229). -/
def Ctr.matrixLoads : Nat := 0x0803
/-- MATRIX_LOAD_WAIT_CYCLES (R229). -/
def Ctr.matrixLoadWaitCycles : Nat := 0x0804
/-- VECTOR_BUSY_CYCLES (R259). -/
def Ctr.vectorBusyCycles : Nat := 0x0900
/-- VECTOR_ELEMENT_SLOTS (R259). -/
def Ctr.vectorElementSlots : Nat := 0x0901
/-- VECTOR_ACTIVE_ELEMENTS (R259). -/
def Ctr.vectorActiveElements : Nat := 0x0902
/-- VECTOR_DEP_WAIT_CYCLES (R259). -/
def Ctr.vectorDepWaitCycles : Nat := 0x0903
/-- VECTOR_LS_BYTES (R259). -/
def Ctr.vectorLsBytes : Nat := 0x0904
/-- VECTOR_SATURATED (R259). -/
def Ctr.vectorSaturated : Nat := 0x0905
/-- TILE_CORE_INSTRUCTIONS (R259). -/
def Ctr.tileCoreInstructions : Nat := 0x0906
/-- TILE_DMA_BYTES (R259). -/
def Ctr.tileDmaBytes : Nat := 0x0907
/-- GEOM_EDGES (R280). -/
def Ctr.geomEdges : Nat := 0x0A00
/-- GEOM_PAIRS_REJECTED (R280). -/
def Ctr.geomPairsRejected : Nat := 0x0A01
/-- GEOM_ATOMS_DROPPED (R280). -/
def Ctr.geomAtomsDropped : Nat := 0x0A02
/-- GEOM_ZERO_VECTORS (R280). -/
def Ctr.geomZeroVectors : Nat := 0x0A03
/-- GEOM_COUPLE_MACS (R280). -/
def Ctr.geomCoupleMacs : Nat := 0x0A04
/-- GEOM_BUSY_CYCLES (R280). -/
def Ctr.geomBusyCycles : Nat := 0x0A05
/-- NUMERICS_REPLAYS (R314). -/
def Ctr.numericsReplays : Nat := 0x0B00
/-- GOVERNOR_RUNG_UP (R314). -/
def Ctr.governorRungUp : Nat := 0x0B01
/-- GOVERNOR_RUNG_DOWN (R314). -/
def Ctr.governorRungDown : Nat := 0x0B02
/-- SILENCE_WIDENINGS (R314). -/
def Ctr.silenceWidenings : Nat := 0x0B03
/-- CENSUS_ADDS (R314). -/
def Ctr.censusAdds : Nat := 0x0B04
/-- STITCH_COLLECTIVES (R344). -/
def Ctr.stitchCollectives : Nat := 0x0C00
/-- STITCH_BYTES_SENT (R344). -/
def Ctr.stitchBytesSent : Nat := 0x0C01
/-- STITCH_BYTES_RECEIVED (R344). -/
def Ctr.stitchBytesReceived : Nat := 0x0C02
/-- STITCH_PREROUNDS (R344). -/
def Ctr.stitchPrerounds : Nat := 0x0C03
/-- STITCH_SATURATED (R344). -/
def Ctr.stitchSaturated : Nat := 0x0C04
/-- STITCH_UNDERFLOW (R344). -/
def Ctr.stitchUnderflow : Nat := 0x0C05
/-- STITCH_TOPK_KEPT (R344). -/
def Ctr.stitchTopkKept : Nat := 0x0C06
/-- STITCH_STALE_DISCARDS (R344). -/
def Ctr.stitchStaleDiscards : Nat := 0x0C07
/-- PERMUTE_COMMITS (R344). -/
def Ctr.permuteCommits : Nat := 0x0C08
/-- HAUL_BYTES (R382). -/
def Ctr.haulBytes : Nat := 0x0D00
/-- HAUL_COMMITS (R382). -/
def Ctr.haulCommits : Nat := 0x0D01
/-- HAUL_STAGES (R382). -/
def Ctr.haulStages : Nat := 0x0D02
/-- HAUL_REARMS (R382). -/
def Ctr.haulRearms : Nat := 0x0D03
/-- RESIDENCY_DEFERRALS (R382). -/
def Ctr.residencyDeferrals : Nat := 0x0D05
/-- RESIDENCY_JOINS (R382). -/
def Ctr.residencyJoins : Nat := 0x0D06
/-- CAPACITY_BYTES_READ (R382). -/
def Ctr.capacityBytesRead : Nat := 0x0D07
/-- CAPACITY_BYTES_WRITTEN (R382). -/
def Ctr.capacityBytesWritten : Nat := 0x0D08
/-- CP_COMMANDS_DISPATCHED (R415). -/
def Ctr.cpCommandsDispatched : Nat := 0x0E00
/-- CP_DISPATCH_BACKLOG_CYCLES (R415). -/
def Ctr.cpDispatchBacklogCycles : Nat := 0x0E01
/-- SCOREBOARD_CONFLICT_WAITS (R415). -/
def Ctr.scoreboardConflictWaits : Nat := 0x0E02
/-- FENCES_RELEASED (R415). -/
def Ctr.fencesReleased : Nat := 0x0E03
/-- HOST_DESCRIPTORS_FETCHED (R459). -/
def Ctr.hostDescriptorsFetched : Nat := 0x0F00
/-- HOST_COMPLETIONS_POSTED (R459). -/
def Ctr.hostCompletionsPosted : Nat := 0x0F01
/-- HOST_EVENTS_POSTED (R459). -/
def Ctr.hostEventsPosted : Nat := 0x0F02
/-- EVENT_DROPS (R459). -/
def Ctr.eventDrops : Nat := 0x0F03
/-- DOORBELL_INVALID (R459). -/
def Ctr.doorbellInvalid : Nat := 0x0F04
/-- URGENT_REQUESTS (R459). -/
def Ctr.urgentRequests : Nat := 0x0F05
/-- URGENT_BATCHES (R459). -/
def Ctr.urgentBatches : Nat := 0x0F06
/-- URGENT_BUDGET_MISSES (R459). -/
def Ctr.urgentBudgetMisses : Nat := 0x0F07
/-- LINK_FLITS_SENT (R482). -/
def Ctr.linkFlitsSent : Nat := 0x1000
/-- LINK_FLITS_RECEIVED (R482). -/
def Ctr.linkFlitsReceived : Nat := 0x1001
/-- LINK_FEC_CORRECTED (R482). -/
def Ctr.linkFecCorrected : Nat := 0x1002
/-- LINK_CRC_ERRORS (R482). -/
def Ctr.linkCrcErrors : Nat := 0x1003
/-- LINK_RETRIES (R482). -/
def Ctr.linkRetries : Nat := 0x1004
/-- TICK_LATE_ARRIVALS (R482). -/
def Ctr.tickLateArrivals : Nat := 0x1005
/-- MEM_HBM_CORRECTED (R504). -/
def Ctr.memHbmCorrected : Nat := 0x1100
/-- MEM_HBM_UNCORRECTED (R504). -/
def Ctr.memHbmUncorrected : Nat := 0x1101
/-- MEM_SRAM_CORRECTED (R504). -/
def Ctr.memSramCorrected : Nat := 0x1102
/-- MEM_SCRUB_PASSES (R504). -/
def Ctr.memScrubPasses : Nat := 0x1103
/-- TENSOR_BLOCKS_VERIFIED (R504). -/
def Ctr.tensorBlocksVerified : Nat := 0x1104
/-- DEVICE_FAULTS_UNRECORDED (R504). -/
def Ctr.deviceFaultsUnrecorded : Nat := 0x1105
/-- CLOCK_REDUCED_NS (R558). -/
def Ctr.clockReducedNs : Nat := 0x1200
/-- PWR_CLAMP_EVENTS (R558). -/
def Ctr.pwrClampEvents : Nat := 0x1201
/-- THERMAL_THROTTLE_NS (R558). -/
def Ctr.thermalThrottleNs : Nat := 0x1202

/-- The canonical identifier of a counter that answers to two (R573). -/
def Ctr.canon (id : Nat) : Nat :=
  if id = 0x0402 then 0x0204 else
  if id = 0x0403 then 0x0205 else
  if id = 0x0404 then 0x0203 else
  if id = 0x0405 then 0x0202 else
  if id = 0x050B then 0x0206 else
  if id = 0x0D04 then 0x0207 else
  id

/-- The number of counters in a group (R573). -/
def Ctr.groupSize (g : Nat) : Nat :=
  match g with
  | 1 => 10
  | 2 => 11
  | 3 => 9
  | 4 => 12
  | 5 => 12
  | 6 => 8
  | 7 => 4
  | 8 => 5
  | 9 => 8
  | 10 => 6
  | 11 => 5
  | 12 => 9
  | 13 => 9
  | 14 => 4
  | 15 => 8
  | 16 => 6
  | 17 => 6
  | 18 => 3
  | _ => 0

end Sys2Proof.Machine
end

