-- ==== Sys2Proof/Machine/Types.lean ====
section
/-!
DEFINITION. The pieces of state: registers, queues, engine operations in flight. Each structure names the rule of spec/
that gives it; each field's doc gives its width where the manual gives one and its reset value stands in State.lean.
-/

namespace Sys2Proof.Machine

/-- Pitch roles (R43, R72); the reserved code 3 is treated as standalone. -/
inductive Role where
  | standalone | anchor | follower | reserved
  deriving DecidableEq, Repr

/-- Scope of an armed swap (R66, R73). -/
inductive ArmScope where
  | device | machine
  deriving DecidableEq, Repr

/-- CFG_RESULT (R73): 0 SWAPPED, 1 ABORTED, 2 ROWMAP_BUSY, 3 INVALID, 4 DISARMED. -/
inductive CfgResult where
  | swapped | aborted | rowmapBusy | invalid | disarmed
  deriving DecidableEq, Repr

/-- CTX_STATE (R435, R458): 0 DISABLED, 1 IDLE, 2 LOADED, 3 RUNNING. -/
inductive CtxState where
  | disabled | idle | loaded | running
  deriving DecidableEq, Repr

/-- LINK_STATE (R483); ABSENT follows from the fuse map. -/
inductive LinkState where
  | down | training | up | failed
  deriving DecidableEq, Repr

/-- A halt record (R570): 48 bytes. -/
structure HaltRec where
  valid : Bool
  reason : Nat
  fromStream : Bool
  index : Nat
  unit_ : Nat
  loopDepth : Nat
  context : Nat
  tick : Nat
  cycle : Nat
  detail : Nat
  address : Nat
  keyStep : Nat
  keyQ : Nat
  section_ : Nat
  offset : Nat
  deriving DecidableEq, Repr

/-- No halt recorded: every field 0 (R570). -/
def HaltRec.empty : HaltRec :=
  { valid := false, reason := 0, fromStream := false, index := 0, unit_ := 0, loopDepth := 0, context := 0, tick := 0,
    cycle := 0, detail := 0, address := 0, keyStep := 0, keyQ := 0, section_ := 0, offset := 0 }

/-- The fuses (R3, R506, R562): grade, resource map, identity, keys, revocation, security version, debug disable. -/
structure Fuses where
  grade9300 : Bool
  tiles : BitVec 64
  hbmStacks : BitVec 12
  capPorts : BitVec 2
  gather : BitVec 16
  links : BitVec 36
  serial : List Byte
  secret : List Byte
  ecdsaHashes : List (List Byte)
  lmsHashes : List (List Byte)
  revoked : BitVec 8
  svn : Nat
  debugDisabled : Bool
  deriving DecidableEq, Repr

/-- The quotas and tag allowances of one context in one configuration set (R372). -/
structure Quota where
  tiles : Nat
  shared : Nat
  hbm : Nat
  capacity : Nat
  hotSlots : Nat
  gatherLocal : Nat
  gatherPeer : Nat
  haul : Nat
  traverse : Nat
  stitch : Nat
  capTags : Nat
  deriving DecidableEq, Repr

/-- Every quota 0: what a configuration set holds before the boot overlay (R14). -/
def Quota.zero : Quota :=
  { tiles := 0, shared := 0, hbm := 0, capacity := 0, hotSlots := 0, gatherLocal := 0, gatherPeer := 0, haul := 0,
    traverse := 0, stitch := 0, capTags := 0 }

/-- One configuration set (R64, R568). -/
structure CfgSet where
  pitchLen : Nat
  subdiv : Nat
  grace : Nat
  rowMap : Nat
  shardMap : Nat
  format : Nat
  topology : Nat
  powerCap : Nat
  quotas : List Quota
  deriving DecidableEq, Repr

/-- The CFG block (R73) beside the two sets. -/
structure CfgCtl where
  view : Bool
  armTick : W64
  armed : Option ArmScope
  target : Nat
  result : CfgResult
  invalidCause : Nat
  writeWhileArmed : Bool
  armWhileArmed : Bool
  disarmLate : Bool
  deriving DecidableEq, Repr

/-- A child's done-report for the pitch being closed (R47, R403). -/
structure ChildReport where
  link : Nat
  swapReady : Bool
  fenceClear : Bool
  deriving DecidableEq, Repr

/-- The PITCH block and the pitch timer (R40 to R63, R71, R72, R565, R581). -/
structure Pitch where
  run : Bool
  role : Role
  treeDepth : Nat
  parentLink : Nat
  childLinks : BitVec 36
  lateSelf : Bool
  lateChild : Bool
  ticking : Bool
  tickCount : W64
  timerNs : Nat
  cycle : W32
  cycleFrac : Nat
  reports : List ChildReport
  reported : Bool
  reportedSwap : Bool
  announced : Option Belay
  announceAt : Nat
  held : Bool
  overran : Bool
  deriving DecidableEq, Repr

/-- A command ring of a context (R439, R440, R458). `bells` holds, for the descriptors not yet fetched, how many each
doorbell announced and when it arrived (R457). -/
structure CmdRing where
  base : W64
  size : Nat
  head : Nat
  tail : Nat
  bells : List (Nat × Nat)
  deriving DecidableEq, Repr

/-- A completion or event ring (R439, R447, R448). `head` is the host's head as its doorbell last gave it. -/
structure OutRing where
  base : W64
  size : Nat
  head : Nat
  tail : Nat
  phase : Bool
  dropped : Bool
  deriving DecidableEq, Repr

/-- The arenas of a context (R373). -/
structure Arena where
  hbmBase : W64
  hbmLen : W64
  sharedBase : W64
  sharedLen : W64
  cap0Base : W64
  cap0Len : W64
  cap1Base : W64
  cap1Len : W64
  deriving DecidableEq, Repr

/-- A fetched descriptor that has not completed (R441, R442). -/
structure Desc where
  ring : Nat
  head : Nat
  opcode : Nat
  interrupt : Bool
  fence : Bool
  tag : Nat
  operands : List Byte
  seq : Nat
  started : Bool
  fetchedAt : Nat
  deriving DecidableEq, Repr

/-- An engine stream of a loaded job (R386, R394, R395). `issuable` is its dispatch bound, `next` the command it issues
next; `lastQ` the key its last command carried; `doneCycle` the cycle at which it had issued all of its pitch (R414). -/
structure EStream where
  number : Nat
  section_ : Nat
  engine : Nat
  queue : Nat
  count : Nat
  bounds : List Nat
  issuable : Nat
  next : Nat
  lastQ : Nat
  doneCycle : Nat
  regions : List Region
  deriving DecidableEq, Repr

/-- A resolved region of an issued command (R397): an absolute key range, whether it is written, the object it names, and the
ring that it is accessed through (four to a tile, R395). -/
structure Resolved where
  lo : Nat
  len : Nat
  write : Bool
  handle : Option Nat
  ring : Option Nat
  deriving DecidableEq, Repr

/-- An issued command that has not completed (R398, R401). -/
structure Cmd where
  id : Nat
  desc : CmdDesc
  step : Nat
  regions : List Resolved
  started : Bool
  dueTick : Nat
  deriving DecidableEq, Repr

/-- A fence that has not been released (R402): its stream or tile, and the tick count at its issue (R404). -/
structure Fence where
  id : Nat
  from_ : CmdFrom
  tick : Nat
  step : Nat
  q : Nat
  scope : FenceScope
  regions : List Resolved
  deriving DecidableEq, Repr

/-- An open replay section (R301 to R304). Its restart point: each stream's next command and last key, each running tile's
address and current q; `checkRef` issued the REPLAY_CHECK that is in progress. -/
structure Replay where
  layer : Nat
  ref : StreamRef
  checkRef : StreamRef
  nexts : List (Nat × Nat × Nat)
  tilePcs : List (Nat × Nat × Nat)
  attempt : Nat
  scale : Bool
  compute : Bool
  maxExp : Int
  windows : List Nat
  checking : Bool
  deriving DecidableEq, Repr

/-- A loaded job (R383 to R395). -/
structure Job where
  handle : Nat
  tag : W32
  urgent : Bool
  machine : Bool
  tileMask : BitVec 64
  firstStep : Nat
  stepCount : Nat
  step : Nat
  stepsDone : Nat
  pitchInStep : Nat
  pitchesPerStep : Nat
  keyBases : List Nat
  required : Bool
  reqLen : Nat
  reqGrace : Nat
  reqSubdiv : Nat
  reqTiles : Nat
  reqShared : Nat
  reqHbm : Nat
  reqCapacity : Nat
  reqHot : Nat
  censusBase : Nat
  censusCount : Nat
  queues : BitVec 64
  entries : List Nat
  streams : List EStream
  started : Bool
  stopStep : Option Nat
  startDesc : Option Desc
  deriving DecidableEq, Repr

/-- The numerics state a context's job carries outside its sections (R303, R306): the overrides, the raises of E, and the
replays of this step and of the step before. -/
structure LayerState where
  layer : Nat
  override : Option Nat
  scaleOverride : Option Int
  raises : Nat
  used : Nat
  usedLast : Nat
  deriving DecidableEq, Repr

/-- A request waiting for, or running in, an urgent execution (R454). -/
structure UrgentReq where
  desc : Desc
  entry : Nat
  argument : Nat
  inAddr : Nat
  inLen : Nat
  resLen : Nat
  resSrc : Nat
  resDst : Nat
  deriving DecidableEq, Repr

/-- One context: its setup page, rings, job and scoreboard (R435, R458); `waited` holds the commands now waiting that
SCOREBOARD_CONFLICT_WAITS has counted (R415). -/
structure Ctx where
  enable : Bool
  urgent : Bool
  roEnable : Bool
  urgentBatch : Nat
  state : CtxState
  enableCause : Nat
  tileCause : Nat
  urgentRefused : Bool
  ringVersion : Nat
  cmd : List CmdRing
  cpl : OutRing
  evt : OutRing
  coalesceCount : Nat
  coalesceTime : Nat
  evtIrq : Bool
  unsignalled : Nat
  unsignalledAt : Nat
  tileMask : BitVec 64
  latMax : Nat
  arena : Arena
  arenaValid : Bool
  arenaOverlap : Bool
  cntId : Nat
  cntInstance : Nat
  halt : HaltRec
  streamHalt : HaltRec
  fetched : List Desc
  fetchSeq : Nat
  job : Option Job
  cmds : List Cmd
  fences : List Fence
  waited : List CmdFrom
  replay : Option Replay
  layers : List LayerState
  policy : Bool
  hotCharged : Nat
  waiting : List UrgentReq
  executing : List UrgentReq
  dispatchedAt : Nat
  lateDispatch : Bool
  deriving DecidableEq, Repr

/-- A hardware loop level (R253, R254). -/
structure Loop where
  first : Nat
  last : Nat
  remaining : Nat
  iteration : Nat
  deriving DecidableEq, Repr

/-- One of a tile's four rings (R216). -/
structure TileRing where
  base : Nat
  slotSize : Nat
  slots : Nat
  produced : W32
  consumed : W32
  deriving DecidableEq, Repr

/-- A stationary operand (R210, R213): element codes, K rows of N, and MX scale bytes by block and column. -/
structure Stationary where
  fmt : Fmt
  k : Nat
  n : Nat
  vals : List (List Nat)
  scales : List (List Nat)
  deriving DecidableEq, Repr

/-- How an output is stored: its format, the exponent of the scale taken off before rounding, and the histogram
reference (R292, R297). -/
structure OutForm where
  fmt : Fmt
  scale : Int
  ref : Int
  deriving DecidableEq, Repr

/-- The counts of an operation into a census record (R291). -/
structure Tally where
  elements : Nat
  zeros : Nat
  underflows : Nat
  saturations : Nat
  nans : Nat
  infs : Nat
  maxExp : Option Int
  hist : List Nat
  deriving DecidableEq, Repr

/-- No element counted. -/
def Tally.empty : Tally :=
  { elements := 0, zeros := 0, underflows := 0, saturations := 0, nans := 0, infs := 0, maxExp := none,
    hist := List.replicate 16 0 }

/-- A LOAD in the queue of the array, with the slot it fills once it has begun (R207, R213). -/
structure MatLoad where
  ref : TileRef
  params : LoadParams
  slot : Option Nat
  deriving DecidableEq, Repr

/-- A STREAM in the queue or the array: the rows that have entered, its output form and its census so far (R207, R224). -/
structure MatStream where
  ref : TileRef
  params : StreamParams
  entered : Nat
  form : OutForm
  tally : Tally
  deriving DecidableEq, Repr

/-- A queued matrix instruction (R207). -/
inductive MatOp where
  | load (l : MatLoad)
  | stream (s : MatStream)
  deriving DecidableEq, Repr

/-- A tile DMA instruction in progress (R252): the keys where its sides begin (0 for a ring), whether its source is a peer,
its requests issued and completed, and the draw for overlapping rows. -/
structure DmaOp where
  ref : TileRef
  params : DmaParams
  src : Nat
  dst : Nat
  peer : Bool
  issued : Nat
  completed : Nat
  draw : Nat
  deriving DecidableEq, Repr

/-- Where a tile core stands (R249 to R251). -/
inductive CoreRun where
  | stopped | running | pitchDone
  deriving DecidableEq, Repr

/-- One tile (R22, R230, R244, R247, R253, R216, R207). Vector registers, data memory, instruction memory and the tile
store are byte-addressed storage, held in the memory of State under the keys of Ops. -/
structure Tile where
  run : CoreRun
  loaded : Bool
  pc : Nat
  imageLen : Nat
  g : List W64
  masks : List (BitVec 4096)
  satFlag : Bool
  loops : List Loop
  curQ : Nat
  doneCycle : Nat
  regions : List Region
  rings : List TileRing
  mat : List MatOp
  slots : List (Option Stationary)
  vecQueue : Nat
  dma : List DmaOp
  halt : HaltRec
  deriving DecidableEq, Repr

/-- A sampling operation in progress (R81, R100): outstanding read tags and the peer data that returned. -/
structure TravOp where
  id : Nat
  ref : StreamRef
  params : SampleParams
  returned : List Host.Cell
  returns : Nat
  deriving DecidableEq, Repr

/-- A deduplication entry of a gather unit (R112, R113). -/
structure DedupEntry where
  key : Nat
  op : Nat
  table : Nat
  first : Option Nat
  invalid : Bool
  outstanding : Bool
  peer : Bool
  tags : Nat
  tally : Tally
  waiting : List Nat
  deriving DecidableEq, Repr

/-- What a gather unit holds (R112, R115): its sets, most recently used entry first in each. -/
structure GatherUnit where
  sets : List (Nat × List DedupEntry)
  localTags : Nat
  peerTags : Nat
  deriving DecidableEq, Repr

/-- A gather operation in progress (R107). `todo` holds, per unit, the positions not yet taken in, in position order;
`seen` the keys fetched before by unit, for R114; `form` the form of the output, and `tally` its census so far. -/
structure GatherOp where
  id : Nat
  ref : StreamRef
  params : GatherParams
  todo : List (Nat × List (Nat × Nat))
  seen : List (Nat × Nat)
  masked : List Nat
  form : OutForm
  tally : Tally
  deriving DecidableEq, Repr

/-- A combining line (R140): a destination's partial on one unit. `row` is its row of the accumulation region, or none
where its output is written straight from the line (R141). For MAX and MIN the accumulators hold FP32 patterns with
positions in `posn`; `denom` holds the head sums of SOFTMAX_SUM. -/
structure Line where
  op : Nat
  unit_ : Nat
  key : Nat
  seg : Nat
  row : Option Nat
  size : Nat
  pinned : Bool
  accs : List Int
  posn : List Nat
  denom : List Int
  count : Nat
  deriving DecidableEq, Repr

/-- A scatter operation in progress (R132 to R144): its exponent and stamp as they take effect, acknowledgements to come,
split destinations by region row, destinations already written from their lines, head sums by region row, census. -/
structure ScatterOp where
  id : Nat
  ref : StreamRef
  params : ScatterParams
  form : OutForm
  exponent : Int
  stamp : Nat
  acks : Nat
  splits : List (Nat × Nat)
  written : List Nat
  denoms : List (Nat × List Int)
  tally : Tally
  finalised : Bool
  deriving DecidableEq, Repr

/-- A held entry of a moving row (R158): accumulators, E, α and tick, in the combining buffer of one unit. -/
structure Held where
  unit_ : Nat
  table : Nat
  row : Nat
  exponent : Int
  alpha : Nat
  tick : Nat
  accs : List Int
  deriving DecidableEq, Repr

/-- The open window of an update area (R154), with the context that holds its table and the table descriptor. -/
structure Window where
  area : Nat
  table : Nat
  ctx : Nat
  deriving DecidableEq, Repr

/-- A work item of a merge (R197, R201, R203): its pair, the run's first entry and bound, the slices of both rows by stored
position, the keys it covers, and the unit it is dealt to. `valid` is false for a pair with a row out of range. -/
structure MergeItem where
  pair : Nat
  first : Nat
  bound : Nat
  xRow : Nat
  yRow : Nat
  xLo : Nat
  xHi : Nat
  yLo : Nat
  yHi : Nat
  keyLo : Nat
  keyHi : Option Nat
  piece : Bool
  valid : Bool
  unit_ : Nat
  deriving DecidableEq, Repr

/-- A merge operation in progress (R193), with the work items of its pre-pass (R198). -/
structure MergeOp where
  id : Nat
  ref : StreamRef
  params : MergeParams
  items : List MergeItem
  deriving DecidableEq, Repr

/-- An accepted row move (R175 to R177), from acceptance to commit. -/
structure RowMove where
  ctx : Nat
  index : Nat
  action : Nat
  newHome : Nat
  newClass : Nat
  managed : Bool
  elems : Nat
  start : Nat
  commit : Nat
  began : Bool
  copied : Bool
  hot : Bool
  deriving DecidableEq, Repr

/-- Object states (R358). -/
inductive ObjState where
  | free | resident | moving | installing | releasing | replacing
  deriving DecidableEq, Repr

/-- An action that waits behind a transition (R368). -/
structure Deferred where
  action : Nat
  ctx : Nat
  newHome : Nat
  source : HaulSrc
  k : Nat
  host : Bool
  descs : List (Nat × Nat)
  ref : Option StreamRef
  deriving DecidableEq, Repr

/-- An entry of the residency table (R356, R357). -/
structure ResEntry where
  handle : Nat
  home : Nat
  newHome : Nat
  length : Nat
  state : ObjState
  evictable : Bool
  deferred : Option Deferred
  readers : BitVec 16
  owner : Nat
  charged : Nat
  newCharged : Nat
  commitTick : Nat
  releasing : Nat
  relCharged : Nat
  host : Bool
  descs : List (Nat × Nat)
  copied : Bool
  resolvedAt : Nat
  deriving DecidableEq, Repr

/-- A haul copy in flight (R376). `handle` names the transition it serves; `desc` the host descriptor (context, seq). -/
structure HaulCopy where
  id : Nat
  ctx : Nat
  source : HaulSrc
  dest : Nat
  length : Nat
  handle : Option Nat
  queue : Option Nat
  ref : Option StreamRef
  stage : Bool
  host : Bool
  desc : Option (Nat × Nat)
  dueTick : Nat
  deriving DecidableEq, Repr

/-- A re-arm of a haul stream (R378). -/
structure Rearm where
  source : HaulSrc
  count : Option Nat
  released : Bool
  deriving DecidableEq, Repr

/-- A haul queue with its stream (R375, R377, R378). -/
structure HaulQueue where
  number : Nat
  ctx : Nat
  priority : Nat
  limit : Nat
  params : Option HaulStreamParams
  source : HaulSrc
  chunks : Nat
  next : Nat
  window : Nat
  filling : Bool
  pending : Option Rearm
  deriving DecidableEq, Repr

/-- Kinds of collectives in progress (R319). -/
inductive CollKind where
  | reduce (p : ReduceParams)
  | allGather (p : AllGatherParams)
  | allToAll (p : AllToAllParams)
  | small (p : SmallParams)
  | permute (p : PermuteParams)
  deriving DecidableEq, Repr

/-- A part of a tensor that a participant owns: its device, first element and end (R317). -/
structure Shard where
  device : Nat
  lo : Nat
  hi : Nat
  deriving DecidableEq, Repr

/-- A collective in progress (R320 to R337): its matching words, the tensor's elements and shards (those of the shadow map
too for a PERMUTE), the agreed parameters as one number; E and whether its pre-round runs; the sums of the owned shard or of
the words; data kept to the end; the senders heard and those whose data has all come; the trailers; the tick that closes the
pitch it is work of; and whether it is finished (a PERMUTE then waits for its tick). -/
structure Coll where
  id : Nat
  ref : StreamRef
  kind : CollKind
  jobTag : W32
  tensor : Nat
  sequence : Nat
  step : Nat
  attempt : Nat
  elems : Nat
  shards : List Shard
  newShards : List Shard
  params : Nat
  exponent : Int
  preRound : Bool
  acc : List Int
  pieces : List Arrival
  heard : List Nat
  doneFrom : List Nat
  trailer : Option Trailer
  dueTick : Nat
  finished : Bool
  deriving DecidableEq, Repr

/-- A message a device sends on a link (R464). -/
inductive LinkMsg where
  | belay (p : Belay)
  | nak (seq : Nat)
  | read (addr len reqTag : Nat)
  | data (reqTag : Nat) (bytes : List Byte)
  | served (table key : Nat)
  | servedResult (reqTag : Nat) (row : PeerRow)
  | contribution (table area alpha row : Nat) (exponent : Int) (accs : List Int)
  | ack (reqTag : Nat)
  | denied (reqTag : Nat)
  | collective (a : Arrival)
  | trailer (tensor sequence : Nat) (tr : Trailer)
  | words (tensor sequence : Nat) (ws : List W64)
  deriving DecidableEq, Repr

/-- Where a message leaves: a link, or a device to which the routes of R470 lead. -/
structure LinkOut where
  link : Nat
  dest : Nat
  jobTag : W32
  msg : LinkMsg
  deriving DecidableEq, Repr

/-- A link with its registers and its flit state (R460 to R465, R483). -/
structure Link where
  disable : Bool
  txSwing : Nat
  txEdge : Nat
  autotrain : Bool
  state : LinkState
  v1 : Bool
  lanes : BitVec 5
  spareIn : Bool
  failCause : Nat
  latencyNs10 : Nat
  peerId : Nat
  peerLink : Nat
  peer9300 : Bool
  expectSeq : Nat
  sendSeq : Nat
  ackedSeq : Nat
  discarding : Bool
  retry : List (Nat × LinkOut)
  lastBelay : Option (Nat × Belay × Nat)
  nakSeq : Option Nat
  nakRuns : Nat
  credits : List (Nat × Nat)
  outstanding : List Nat
  deriving DecidableEq, Repr

/-- The device fault record (R498). -/
structure FaultRec where
  valid : Bool
  reason : Nat
  source : Nat
  index : Nat
  tick : W64
  cycle : W32
  addr : W64
  deriving DecidableEq, Repr

/-- An event that waits for context 0's rings after boot (R520). -/
structure HeldEvent where
  code : Nat
  ctx : Nat
  payload : List Byte
  tick : W64
  cycle : W32
  deriving DecidableEq, Repr

/-- The MEM block and what the memory protection holds (R354, R488 to R495, R505, R569). -/
structure MemRegs where
  cap0Size : W64
  cap1Size : W64
  cap0Rate : Nat
  cap0Width : Nat
  cap1Rate : Nat
  cap1Width : Nat
  trained : BitVec 12
  sleeping : BitVec 12
  scrubHours : Nat
  scrubMs : Nat
  ceThreshold : W32
  repairPending : BitVec 12
  ceTimes : List (Nat × Nat × Nat)
  repairList : List (Nat × Nat)
  poisoned : List Nat
  crcs : List (Nat × W32)
  deriving DecidableEq, Repr

/-- A flash write in progress or done (R521, R522). -/
inductive FlashState where
  | idle | busy | done | refused
  deriving DecidableEq, Repr

/-- The header of the firmware image in flash, as the boot ROM reads it (R510): whether its magic, header version, reserved
bytes, key slots and length are valid, and the fields that R512 checks. -/
structure FwHeader where
  formOk : Bool
  grades : BitVec 2
  version : W32
  svn : Nat
  ecdsaSlot : Nat
  lmsSlot : Nat
  deriving DecidableEq, Repr

/-- The SEC block and the security engine (R513 to R534). -/
structure Sec where
  fwVerified : Bool
  recovery : Bool
  ready : Bool
  bootCause : Nat
  svnImage : Nat
  svnRunning : Nat
  settingsInvalid : Bool
  settingsIgnored : Nat
  settingsSeq : W32
  settingsTorn : Bool
  flashSrc : W64
  flashLen : W32
  flashTarget : Nat
  flashState : FlashState
  flashCause : Nat
  flashProgress : Nat
  flashActive : Nat
  flashData : List Byte
  nonce : List Byte
  nonceDraws : Nat
  unlockSrc : W64
  unlocked : Bool
  level : BitVec 3
  unlockCause : Nat
  fwVersion : W32
  fwHeader : FwHeader
  leafNext : Nat
  leafReserved : Nat
  spdmVersion : Bool
  spdmCaps : Bool
  spdmAlgs : Bool
  transcript : List Byte
  doeOut : List (List Byte)
  jobDigests : List (List Byte)
  settingsDigest : List Byte
  deriving DecidableEq, Repr

/-- A requested domain switch (R537). -/
structure Switch where
  domain : Nat
  on : Bool
  deriving DecidableEq, Repr

/-- The PWR and CLK blocks and the power controller (R536 to R557). -/
structure Pwr where
  powered : Bool
  good : Bool
  inReset : Bool
  tilePairEn : BitVec 32
  linkGroupEn : BitVec 6
  capPortEn : BitVec 2
  capPortTaken : BitVec 2
  hbmSleep : Bool
  idleGate : Bool
  policyEnable : Bool
  domains : BitVec 54
  cause : Nat
  inputW : Nat
  inputMv : Nat
  targetMhz : Nat
  floorWindows : Nat
  clampTriggers : List ClampTrigger
  clampHold : Bool
  brake : Bool
  tripLatched : Bool
  tjMax : Nat
  hbmMax : Nat
  coolantIn : Nat
  coolantOut : Nat
  throttleDie : Bool
  throttleHbm : Bool
  coolantWarm : Bool
  faultHeld : Bool
  switching : List Switch
  queued : List Switch
  idleTimer : Bool
  enableWait : List Nat
  coreSpread : Nat
  spreadInForce : Nat
  hostSris : Bool
  capSris : BitVec 2
  hostLowSwing : Bool
  capLowSwing : BitVec 2
  refPresent : BitVec 7
  thermAlert : Bool
  faultPin : Bool
  deriving DecidableEq, Repr

/-- The host port (R430 to R433, R452, R564). -/
structure Hif where
  speed : Nat
  width : Nat
  flitMode : Bool
  srisActive : Bool
  numVfs : Nat
  vfEnable : Bool
  busMaster : BitVec 16
  correctable : W32
  tagsInUse : Nat
  atc : List (Nat × Nat × Nat)
  masked : List (Nat × Nat)
  pendingBits : List (Nat × Nat)
  msixOut : List (Nat × Nat)
  deriving DecidableEq, Repr

/-- TAP instructions (R529). -/
inductive TapInstr where
  | idcode | bypass | samplePreload | extest | extestPulse | extestTrain | clamp
  deriving DecidableEq, Repr

/-- The management sideband and the TAP (R529, R552, R553, R556). -/
structure Side where
  tap : TapInstr
  pinsTaken : Bool
  i3cDynamic : Option Nat
  pldmSensors : PowerReadings
  pldmCoreMhz : Nat
  pldmOut : List (List Byte)
  pldmAlerts : List Nat
  leak : Bool
  deriving DecidableEq, Repr

/-- What register accesses keep (R559): the lower halves written of 64-bit fields, the held upper halves and companions,
each by its BAR0 offset, and the value that the last read returned. -/
structure Access32 where
  halves : List (Nat × W32)
  words : List (Nat × W32)
  readData : W64
  deriving DecidableEq, Repr

/-- A promotion that the firmware submits once the demotion before it has committed (R184). -/
structure Promotion where
  ctx : Nat
  index : Nat
  newHome : Nat
  cls : Nat
  start : Nat
  deriving DecidableEq, Repr

/-- The firmware's hot-set and governor bookkeeping (R184, R298): the decayed counts by row and context, the HBM homes it
keeps for promoted rows, the promotions it still has to submit, how far it has read the log, and the governor's arm. -/
structure Firmware where
  counts : List (Nat × Nat × Nat)
  promotions : List Promotion
  reservedHomes : List (Nat × Nat × Nat)
  logReadTo : Nat
  governorArm : Option (Nat × Nat × Nat)
  deriving DecidableEq, Repr

end Sys2Proof.Machine
end

