-- ==== Sys2Proof/Machine/State.lean ====
section
/-!
DEFINITION. The state of the block as plain data, the reasons a step can stop, and the state right after reset.
State holds the queue of waiting commands, the fuses, the memory, and the rest of the device (`Dev`). Every
byte-addressed storage (the local address map, register files, tile-core memories, host memory, flash) stands in the
one memory `State.mem`, under the keys of Machine/Mem.lean.
-/

namespace Sys2Proof.Machine

/-- The device, but for its fuses, its byte-addressed storage and the command queue. -/
structure Dev where
  pitch : Pitch
  active : CfgSet
  shadow : CfgSet
  bootSet : CfgSet
  cfg : CfgCtl
  ctxs : List Ctx
  tiles : List Tile
  links : List Link
  residency : List ResEntry
  copies : List HaulCopy
  queues : List HaulQueue
  trav : List TravOp
  gathers : List GatherOp
  units : List GatherUnit
  scatters : List ScatterOp
  lines : List Line
  held : List Held
  windows : List Window
  merges : List MergeOp
  colls : List Coll
  arrivals : List (Nat × Arrival)
  rowMoves : List RowMove
  logCount : Nat
  logRead : Nat
  fw : Firmware
  counters : List (Nat × W64)
  snapshot : List (Nat × W64)
  snapTick : W64
  cntSelect : W32
  regIo : Access32
  fault : FaultRec
  heldEvents : List HeldEvent
  machineStopped : Bool
  routeCause : Nat
  routeLink : Nat
  deviceNumber : Nat
  memRegs : MemRegs
  sec : Sec
  pwr : Pwr
  hif : Hif
  side : Side
  linkOut : List LinkOut
  nextId : Nat
  freeCtr : Nat
  nowNs : Nat
  deriving DecidableEq, Repr

/-- The state: the commands that are waiting, first in, first out; the fuses (R506); every byte-addressed storage; and
the rest of the device. -/
structure State where
  pending : List Instr
  fuses : Fuses
  mem : List Host.Cell
  dev : Dev
  deriving DecidableEq, Repr

/-- Why the block stops with a fault. It never does: every fault the manual describes is a halt record, an event or a
status field, which is state. The type has no constructor. -/
inductive Fault where
  deriving DecidableEq, Repr

/-- Why a command is refused. -/
inductive Refusal where
  /-- Raised by an arm of exec that has no meaning yet. Safe. -/
  | notModelled (mnemonic : String)
  /-- Raised by a private TAP instruction at a level that an unlock token opened: R529 names core debug, memory access
  and scan, and no rule says what such an instruction does once it is open. Safe: the model stops where the part goes on. -/
  | tapPrivateOpen
  deriving DecidableEq, Repr

/-- `n` ones, as a fuse map writes a range of resources from 0. -/
def onesMap (w n : Nat) : BitVec w := BitVec.ofNat w (2 ^ n - 1)

/-- The fuses of a full part (R2, R506). Serial, secret and key hashes are values of the module that no rule states:
they read zero here (log 4). -/
def Fuses.full : Fuses :=
  { grade9300 := false, tiles := onesMap 64 64, hbmStacks := onesMap 12 12, capPorts := onesMap 2 2, gather := onesMap 16 16,
    links := onesMap 36 36, serial := List.replicate 16 0, secret := List.replicate 48 0,
    ecdsaHashes := List.replicate 4 (List.replicate 48 0), lmsHashes := List.replicate 4 (List.replicate 48 0),
    revoked := 0, svn := 0, debugDisabled := false }

/-- The fuses of the reduced part (R2): tiles 48 to 63, stacks 9 to 11, links 24 to 35, port 1 and gather units 12 to
15 absent. -/
def Fuses.reduced : Fuses :=
  { Fuses.full with
    grade9300 := true, tiles := onesMap 64 48, hbmStacks := onesMap 12 9, capPorts := onesMap 2 1, gather := onesMap 16 12,
    links := onesMap 36 24 }

/-- The device resource of each quota (R580). -/
def Fuses.resources (f : Fuses) : Quota :=
  { tiles := if f.grade9300 then 48 else 64
    shared := 32768
    hbm := if f.grade9300 then 294400 else 392704
    capacity := if f.grade9300 then 4194304 else 8388608
    hotSlots := 2097152, gatherLocal := 2048, gatherPeer := 4096, haul := 8192, traverse := 4096, stitch := 16384,
    capTags := 1024 }

/-- A configuration set before the boot overlay: every field 0 (R14). -/
def CfgSet.zero : CfgSet :=
  { pitchLen := 0, subdiv := 0, grace := 0, rowMap := 0, shardMap := 0, format := 0, topology := 0, powerCap := 0,
    quotas := List.replicate 16 Quota.zero }

/-- The configuration set of the factory defaults (R42, R60, R72, R372, R557, R566, R580). -/
def CfgSet.factory (f : Fuses) : CfgSet :=
  { pitchLen := 500000, subdiv := 5, grace := 50, rowMap := 0, shardMap := 0, format := 0, topology := 0, powerCap := 1800,
    quotas := f.resources :: List.replicate 15 Quota.zero }

/-- The CFG block at reset (R73). -/
def CfgCtl.reset : CfgCtl :=
  { view := false, armTick := 0, armed := none, target := 0, result := .swapped, invalidCause := 0,
    writeWhileArmed := false, armWhileArmed := false, disarmLate := false }

/-- The PITCH block at reset (R72, R565, R581). -/
def Pitch.reset : Pitch :=
  { run := false, role := .standalone, treeDepth := 0, parentLink := 63, childLinks := 0, lateSelf := false,
    lateChild := false, ticking := false, tickCount := 0, timerNs := 0, cycle := 0, cycleFrac := 0, reports := [],
    reported := false, reportedSwap := false, announced := none, announceAt := 0, held := false, overran := false }

/-- A command ring at reset (R458). -/
def CmdRing.reset : CmdRing := { base := 0, size := 0, head := 0, tail := 0, bells := [] }

/-- A completion or event ring at reset: index 0 and phase 1 (R439, R458). -/
def OutRing.reset : OutRing :=
  { base := 0, size := 0, head := 0, tail := 0, phase := true, dropped := false }

/-- The local address bases of R347. -/
def cap0Base : Nat := 0x040000000000
/-- Capacity port 1 (R347). -/
def cap1Base : Nat := 0x080000000000
/-- The shared store (R347). -/
def sharedBase : Nat := 0x100000000000
/-- The shared store's 128 MiB (R24). -/
def sharedSize : Nat := 0x08000000
/-- The tile stores (R347). -/
def tileStoreBase : Nat := 0x110000000000
/-- A tile store's 4 MiB (R22). -/
def tileStoreSize : Nat := 0x400000
/-- The host windows (R347). -/
def hostWindowBase : Nat := 0x200000000000
/-- The bytes of a function's host window: 16 TiB (R432). -/
def hostWindowSize : Nat := 0x100000000000

/-- The populated HBM: the usable range below the checksum slots (R373, R491), in bytes. -/
def Fuses.hbmUsable (f : Fuses) : Nat := if f.grade9300 then 0x0047E0000000 else 0x005FE0000000

/-- The bytes of the HBM range (R347). -/
def Fuses.hbmRange (f : Fuses) : Nat := if f.grade9300 then 0x004800000000 else 0x006000000000

/-- An arena of length 0 (R373). -/
def Arena.empty : Arena :=
  { hbmBase := 0, hbmLen := 0, sharedBase := 0, sharedLen := 0, cap0Base := 0, cap0Len := 0, cap1Base := 0, cap1Len := 0 }

/-- Context 0's arena at reset (R373). -/
def Arena.context0 (f : Fuses) (cap0 cap1 : W64) : Arena :=
  { Arena.empty with
    hbmLen := BitVec.ofNat 64 f.hbmUsable
    sharedBase := BitVec.ofNat 64 Sys2Proof.Machine.sharedBase
    sharedLen := BitVec.ofNat 64 sharedSize
    cap0Base := BitVec.ofNat 64 Sys2Proof.Machine.cap0Base
    cap0Len := cap0
    cap1Base := if f.capPorts.getLsbD 1 then BitVec.ofNat 64 Sys2Proof.Machine.cap1Base else 0
    cap1Len := cap1 }

/-- Context `c` at reset (R458, R373). -/
def Ctx.reset (f : Fuses) (cap0 cap1 : W64) (c : Nat) : Ctx :=
  { enable := false, urgent := false, roEnable := false, urgentBatch := 8, state := .disabled, enableCause := 0,
    tileCause := 0, urgentRefused := false, ringVersion := 0x0100, cmd := List.replicate 4 CmdRing.reset,
    cpl := OutRing.reset, evt := OutRing.reset, coalesceCount := 1, coalesceTime := 0, evtIrq := true, unsignalled := 0,
    unsignalledAt := 0, tileMask := if c = 0 then f.tiles else 0, latMax := 0,
    arena := if c = 0 then Arena.context0 f cap0 cap1 else Arena.empty, arenaValid := decide (c = 0), arenaOverlap := false,
    cntId := 0, cntInstance := 0xFF, halt := HaltRec.empty, streamHalt := HaltRec.empty, fetched := [], fetchSeq := 0,
    job := none, cmds := [], fences := [], waited := [], replay := none, layers := [], policy := false, hotCharged := 0, waiting := [],
    executing := [], dispatchedAt := 0, lateDispatch := false }

/-- A ring of a tile before the tile core sets it (R216). -/
def TileRing.reset : TileRing := { base := 0, slotSize := 64, slots := 1, produced := 0, consumed := 0 }

/-- A region slot at space NONE (R395). -/
def Region.none : Region := { base := 0, length := 0, space := 0, access := 0 }

/-- A tile with all its storage zero and its core stopped (R232, R249). -/
def Tile.zeroed : Tile :=
  { run := .stopped, loaded := false, pc := 0, imageLen := 0, g := List.replicate 32 0, masks := List.replicate 8 0,
    satFlag := false, loops := [], curQ := 0, doneCycle := 0, regions := List.replicate 64 Region.none, rings := List.replicate 4 TileRing.reset,
    mat := [], slots := [none, none], vecQueue := 0, dma := [], halt := HaltRec.empty }

/-- A link before training (R483). The swing and edge steps and the autotrain bit are those that the boot set. -/
def Link.reset (swing edge : Nat) (auto : Bool) : Link :=
  { disable := false, txSwing := swing, txEdge := edge, autotrain := auto, state := .down, v1 := false, lanes := 0,
    spareIn := false, failCause := 0, latencyNs10 := 0, peerId := 0, peerLink := 0, peer9300 := false, expectSeq := 0,
    sendSeq := 0, ackedSeq := 0, discarding := false, retry := [], lastBelay := none, nakSeq := none, nakRuns := 0, credits := [],
    outstanding := [] }

/-- A gather unit with empty sets (R112). -/
def GatherUnit.reset : GatherUnit := { sets := [], localTags := 0, peerTags := 0 }

/-- The MEM block (R505, R569) with the boot's values of its factory fields. -/
def MemRegs.reset (hours ms : Nat) (threshold : W32) (repair : List (Nat × Nat)) : MemRegs :=
  { cap0Size := 0, cap1Size := 0, cap0Rate := 0, cap0Width := 0, cap1Rate := 0, cap1Width := 0, trained := 0, sleeping := 0,
    scrubHours := hours, scrubMs := ms, ceThreshold := threshold, repairPending := 0, ceTimes := [],
    repairList := repair, poisoned := [], crcs := [] }

/-- The shipped firmware image's header (R1, R510). The manual gives neither its version word nor its SVN (log 5). -/
def FwHeader.shipped : FwHeader :=
  { formOk := true, grades := 3, version := 0x01000000, svn := 0, ecdsaSlot := 0, lmsSlot := 0 }

/-- The SEC block at the release of reset (R534), over what reset keeps: the flash's header and the leaf reservation. -/
def Sec.reset (h : FwHeader) (leaf draws : Nat) (nonce : List Byte) : Sec :=
  { fwVerified := false, recovery := false, ready := false, bootCause := 0, svnImage := 0, svnRunning := 0, settingsInvalid := false,
    settingsIgnored := 0, settingsSeq := 0, settingsTorn := false, flashSrc := 0, flashLen := 0, flashTarget := 0,
    flashState := .idle, flashCause := 0, flashProgress := 0, flashActive := 0, flashData := [], nonce := nonce, nonceDraws := draws,
    unlockSrc := 0, unlocked := false, level := 0, unlockCause := 0, fwVersion := 0, fwHeader := h,
    leafNext := leaf, leafReserved := leaf, spdmVersion := false, spdmCaps := false, spdmAlgs := false, transcript := [],
    doeOut := [], jobDigests := List.replicate 16 (List.replicate 48 0), settingsDigest := List.replicate 48 0 }

/-- Readings before the first window: zero (R557). -/
def PowerReadings.zero : PowerReadings :=
  { inputW := 0, inputMv := 0, inputMa := 0, dies := [], hbmStacks := [], coolantIn := 0, coolantOut := 0 }

/-- The PWR and CLK blocks at the release of reset, before the overlay: PWR_GOOD asserted, core domain alone on (R513,
R536, R557). -/
def Pwr.reset : Pwr :=
  { powered := true, good := true, inReset := false, tilePairEn := 0, linkGroupEn := 0, capPortEn := 0, capPortTaken := 0,
    hbmSleep := false, idleGate := false, policyEnable := false, domains := 0, cause := 0, inputW := 0, inputMv := 0,
    targetMhz := 2500, floorWindows := 0, clampTriggers := [], clampHold := false, brake := false, tripLatched := false,
    tjMax := 0, hbmMax := 0, coolantIn := 0, coolantOut := 0, throttleDie := false, throttleHbm := false, coolantWarm := false, faultHeld := false, switching := [], queued := [],
    idleTimer := false, enableWait := [], coreSpread := 0, spreadInForce := 0, hostSris := false, capSris := 0,
    hostLowSwing := false, capLowSwing := 0, refPresent := 0, thermAlert := false, faultPin := false }

/-- The vectors of every function: two each, masked until the host unmasks them (log 6; the PCI rule for MSI-X). -/
def allVectors : List (Nat × Nat) := (List.range 16).flatMap fun fn => [(fn, 0), (fn, 1)]

/-- The host port at the release of reset (R564). -/
def Hif.reset : Hif :=
  { speed := 0, width := 0, flitMode := false, srisActive := false, numVfs := 0, vfEnable := false, busMaster := 0,
    correctable := 0, tagsInUse := 0, atc := [], masked := allVectors, pendingBits := [], msixOut := [] }

/-- The sideband and the TAP at power-on: Test-Logic-Reset selects IDCODE (R529, IEEE 1149.1; log 7). -/
def Side.reset : Side :=
  { tap := .idcode, pinsTaken := false, i3cDynamic := none, pldmSensors := PowerReadings.zero, pldmCoreMhz := 2500,
    pldmOut := [], pldmAlerts := [], leak := false }

/-- No device fault recorded (R498). -/
def FaultRec.empty : FaultRec :=
  { valid := false, reason := 0, source := 0, index := 0, tick := 0, cycle := 0, addr := 0 }

/-- The firmware's bookkeeping with no history (R312). -/
def Firmware.reset : Firmware := { counts := [], promotions := [], reservedHomes := [], logReadTo := 0, governorArm := none }

/-- The device at the release of reset, before the boot sequence (R14, R513, R515). -/
def Dev.atRelease (f : Fuses) : Dev :=
  { pitch := Pitch.reset, active := CfgSet.zero, shadow := CfgSet.zero, bootSet := CfgSet.zero, cfg := CfgCtl.reset,
    ctxs := tab 16 (Ctx.reset f 0 0), tiles := List.replicate 64 Tile.zeroed, links := List.replicate 36 (Link.reset 0 0 false),
    residency := [], copies := [], queues := [], trav := [], gathers := [], units := List.replicate 16 GatherUnit.reset,
    scatters := [], lines := [], held := [], windows := [], merges := [], colls := [], arrivals := [], rowMoves := [],
    logCount := 0, logRead := 0, fw := Firmware.reset, counters := [], snapshot := [], snapTick := 0, cntSelect := 0xFF1F0000,
    regIo := { halves := [], words := [], readData := 0 }, fault := FaultRec.empty, heldEvents := [], machineStopped := false,
    routeCause := 0, routeLink := 0, deviceNumber := 0, memRegs := MemRegs.reset 0 0 0 [],
    sec := Sec.reset FwHeader.shipped 0 0 (List.replicate 32 0), pwr := Pwr.reset, hif := Hif.reset, side := Side.reset,
    linkOut := [], nextId := 0, freeCtr := 0, nowNs := 0 }

/-- The tile pairs that the fuse map has (R21). -/
def Fuses.pairs (f : Fuses) : BitVec 32 :=
  BitVec.ofNat 32 ((List.range 32).foldl (fun n k => if f.tiles.getLsbD (2 * k) then n + 2 ^ k else n) 0)

/-- PWR_DOMAIN_STATE after a boot with the factory defaults: present tile pairs and stacks, and the capacity ports
(R536, R557). -/
def Fuses.bootDomains (f : Fuses) (ports : BitVec 2) : BitVec 54 :=
  BitVec.ofNat 54 (f.pairs.toNat + f.hbmStacks.toNat * 2 ^ 32 + (f.capPorts &&& ports).toNat * 2 ^ 50)

/-- The device once a module reset has completed its boot with the factory defaults and no settings image (R14, R513). -/
def Dev.afterBoot (f : Fuses) : Dev :=
  { Dev.atRelease f with
    active := CfgSet.factory f
    shadow := CfgSet.factory f
    bootSet := CfgSet.factory f
    links := List.replicate 36 (Link.reset 8 0 false)
    memRegs := { MemRegs.reset 24 100 1000 [] with trained := f.hbmStacks }
    sec :=
      { Sec.reset FwHeader.shipped 0 0 (List.replicate 32 0) with
        fwVerified := true, ready := true, fwVersion := FwHeader.shipped.version, svnImage := FwHeader.shipped.svn, svnRunning := FwHeader.shipped.svn }
    pwr :=
      { Pwr.reset with
        tilePairEn := f.pairs, capPortEn := f.capPorts, capPortTaken := f.capPorts, idleGate := true, policyEnable := true,
        domains := f.bootDomains 3, coreSpread := 5, spreadInForce := 5, refPresent := 127 }
    hif := { Hif.reset with speed := 6, width := 16, flitMode := true } }

/-- The machine right after reset: a shipped GLV9400 whose boot has completed (R1, R14, R513), nothing waiting. -/
def State.reset : State := { pending := [], fuses := Fuses.full, mem := [], dev := Dev.afterBoot Fuses.full }

end Sys2Proof.Machine
end

