-- ==== Sys2Proof/Machine/Mem.lean ====
section
/-!
DEFINITION. Memory: one canonical list of address and byte pairs for every byte-addressed storage, the keys under which
each storage stands, and the working state on which a meaning runs, which collects its writes in order.
-/

namespace Sys2Proof.Machine

/-- The key space of the local addresses of R347: they are keys themselves, below 2^50. -/
def localEnd : Nat := 2 ^ 50

/-- Byte `off` of the vector registers of a tile, 16 KiB each (R230). -/
def vregKey (tile off : Nat) : Nat := 2 ^ 56 + tile * 2 ^ 20 + off

/-- Byte `off` of a tile's data memory (R248). -/
def dmemKey (tile off : Nat) : Nat := 2 * 2 ^ 56 + tile * 2 ^ 20 + off

/-- Byte `off` of a tile's instruction memory (R249). -/
def imemKey (tile off : Nat) : Nat := 3 * 2 ^ 56 + tile * 2 ^ 20 + off

/-- Byte of host memory that a function addresses by an IOVA (R432). -/
def hostKey (fn iova : Nat) : Nat := 2 ^ 80 + fn * 2 ^ 64 + iova % 2 ^ 64

/-- The first key of the flash device (R508). -/
def flashBase : Nat := 2 ^ 90

/-- Byte of the 64 MiB flash device (R508). -/
def flashKey (off : Nat) : Nat := flashBase + off

/-- The address of byte `off` of a tile's store (R22, R347). -/
def tileStoreAddr (tile off : Nat) : Nat := tileStoreBase + tile * tileStoreSize + off

/-- What an unlisted key reads as: zero (R515 zeroes every on-chip memory; elsewhere log 2), and 0xFF in erased flash. -/
def Memory.dflt (k : Nat) : Byte := if flashBase ≤ k then 0xFF else 0

/-- The byte at a key. -/
def Memory.read : List Host.Cell → Nat → Byte
  | [], k => Memory.dflt k
  | (a, b) :: m, k => if a = k then b else Memory.read m k

/-- The byte at a key of a canonical list replaced; a byte at its default is not listed. -/
def Memory.write : List Host.Cell → Nat → Byte → List Host.Cell
  | [], k, v => if v = Memory.dflt k then [] else [(k, v)]
  | (a, b) :: m, k, v =>
    if k < a then (if v = Memory.dflt k then (a, b) :: m else (k, v) :: (a, b) :: m)
    else if k = a then (if v = Memory.dflt k then m else (k, v) :: m)
    else (a, b) :: Memory.write m k v

/-- The writes of a list applied, its first entry last: the list is a journal with the newest write first. -/
def Memory.apply (m : List Host.Cell) : List Host.Cell → List Host.Cell
  | [] => m
  | (k, v) :: log => Memory.write (Memory.apply m log) k v

/-- Keys strictly above `lo`, strictly rising, and no entry at its default. -/
def Memory.wfAbove : Option Nat → List Host.Cell → Bool
  | _, [] => true
  | lo, (a, b) :: m =>
    (match lo with
      | none => true
      | some l => decide (l < a)) &&
      (b != Memory.dflt a) && Memory.wfAbove (some a) m

/-- The canonical form: keys strictly rising, and no entry equal to what an unlisted key reads as. -/
def Memory.wf (m : List Host.Cell) : Bool := Memory.wfAbove none m

/-- Whether a key lies in one of some ranges, each a first key and a length. -/
def Memory.within (rs : List (Nat × Nat)) (k : Nat) : Bool := rs.any fun r => decide (r.1 ≤ k) && decide (k < r.1 + r.2)

/-- The working state of a meaning: the fuses, memory as the command found it, the ranges cleared before the writes that
still stand, those writes (newest first), and the device. -/
structure Work where
  fz : Fuses
  base : List Host.Cell
  wiped : List (Nat × Nat)
  log : List Host.Cell
  d : Dev
  deriving DecidableEq, Repr

/-- The newest write to a key, if any. -/
def Memory.find : List Host.Cell → Nat → Option Byte
  | [], _ => none
  | (a, b) :: m, k => if a = k then some b else Memory.find m k

/-- The byte a meaning sees at a key. -/
def Work.rd (w : Work) (k : Nat) : Byte :=
  match Memory.find w.log k with
  | some b => b
  | none => if Memory.within w.wiped k then Memory.dflt k else Memory.read w.base k

/-- `n` bytes from a key upward. -/
def Work.rdN (w : Work) (k n : Nat) : List Byte := (List.range n).map fun i => w.rd (k + i)

/-- The little-endian number in `n` bytes. -/
def Work.le (w : Work) (k n : Nat) : Nat := leNat (w.rdN k n)

/-- The signed reading of `n` bytes. -/
def Work.les (w : Work) (k n : Nat) : Int := toSigned (8 * n) (w.le k n)

/-- Bytes put in front of a journal, from a key upward. -/
def journal (k : Nat) : List Byte → List Host.Cell → List Host.Cell
  | [], log => log
  | b :: bs, log => journal (k + 1) bs ((k, b) :: log)

/-- Bytes written from a key upward. -/
def Work.wr (w : Work) (k : Nat) (bs : List Byte) : Work := { w with log := journal k bs w.log }

/-- A little-endian number written in `n` bytes. -/
def Work.wrLe (w : Work) (k n v : Nat) : Work := w.wr k (leBytes n v)

/-- A range of keys cleared: every byte of it reads as an unlisted key does. -/
def Work.wipe (w : Work) (lo len : Nat) : Work :=
  { w with wiped := (lo, len) :: w.wiped, log := w.log.filter fun c => !Memory.within [(lo, len)] c.1 }

/-- A change of the device. -/
def Work.upd (w : Work) (f : Dev → Dev) : Work := { w with d := f w.d }

/-- A meaning run on a state: its cleared ranges taken out of memory, its writes applied in order, its device kept; queue and
fuses stay. -/
def State.run (s : State) (f : Work → Work) : State :=
  let w := f { fz := s.fuses, base := s.mem, wiped := [], log := [], d := s.dev }
  { s with mem := Memory.apply (s.mem.filter fun c => !Memory.within w.wiped c.1) w.log, dev := w.d }

end Sys2Proof.Machine
end

