-- ==== Sys2Proof/Machine/Num.lean ====
section
/-!
DEFINITION. Exact numbers and their rounding: dyadic values with infinities and NaN, and encoding of an exact value in
a binary format under the rounding modes of R286 to R289. Everything evaluates in the kernel.
-/

namespace Sys2Proof.Machine

/-- An exact value: NaN, an infinity, or (−1)^neg × m × 2^e. `tiny` marks a value whose magnitude lies strictly between
m × 2^e and (m + 1) × 2^e, as a quotient or a root leaves it; such an m has more bits than any rounding looks at. -/
inductive Val where
  | nan
  | inf (neg : Bool)
  | fin (neg : Bool) (m : Nat) (e : Int) (tiny : Bool)
  deriving DecidableEq, Repr

/-- A positive zero. -/
def Val.zero : Val := .fin false 0 0 false

/-- The value i × 2^e of an integer. -/
def Val.ofInt (i : Int) (e : Int) : Val := .fin (decide (i < 0)) i.natAbs e false

/-- A zero of either sign. -/
def Val.isZero : Val → Bool
  | .fin _ m _ t => m == 0 && !t
  | _ => false

/-- A NaN. -/
def Val.isNan : Val → Bool
  | .nan => true
  | _ => false

/-- An infinity. -/
def Val.isInf : Val → Bool
  | .inf _ => true
  | _ => false

/-- A finite value other than zero. -/
def Val.isFin1 (v : Val) : Bool := !v.isZero && !v.isNan && !v.isInf

/-- floor(log2 |v|) of a finite non-zero value. -/
def Val.exp : Val → Int
  | .fin _ m e _ => (Nat.log2 m : Int) + e
  | _ => 0

/-- The value with its sign turned. -/
def Val.neg : Val → Val
  | .nan => .nan
  | .inf n => .inf (!n)
  | .fin n m e t => .fin (!n) m e t

/-- The magnitude. -/
def Val.abs : Val → Val
  | .nan => .nan
  | .inf _ => .inf false
  | .fin _ m e t => .fin false m e t

/-- v × 2^k, exactly. -/
def Val.scale (v : Val) (k : Int) : Val :=
  match v with
  | .fin n m e t => .fin n m (e + k) t
  | v => v

/-- The integer m × 2^(e − q) of a finite value over a common exponent `q` at or below its own. -/
def Val.over (v : Val) (q : Int) : Int :=
  match v with
  | .fin n m e _ => if n then -(m * 2 ^ (e - q).toNat : Nat) else (m * 2 ^ (e - q).toNat : Nat)
  | _ => 0

/-- The exponent of a finite value's last place. -/
def Val.place : Val → Int
  | .fin _ _ e _ => e
  | _ => 0

/-- The sum, exactly. A zero sum of two zeros of one sign keeps it; any other zero sum is +0 (IEEE 754, R236). -/
def Val.add (a b : Val) : Val :=
  match a, b with
  | .nan, _ => .nan
  | _, .nan => .nan
  | .inf n, .inf k => if n = k then .inf n else .nan
  | .inf n, .fin .. => .inf n
  | .fin .., .inf k => .inf k
  | .fin n m e t, .fin k l f u =>
    if m = 0 ∧ l = 0 then .fin (n && k) 0 0 false
    else if m = 0 then .fin k l f u
    else if l = 0 then .fin n m e t
    else
      let q := min e f
      Val.ofInt (Val.over (.fin n m e t) q + Val.over (.fin k l f u) q) q

/-- The difference. -/
def Val.sub (a b : Val) : Val := a.add b.neg

/-- The product, exactly; zero times infinity is NaN. -/
def Val.mul (a b : Val) : Val :=
  match a, b with
  | .nan, _ => .nan
  | _, .nan => .nan
  | .inf n, .inf k => .inf (n != k)
  | .inf n, .fin k l _ _ => if l = 0 then .nan else .inf (n != k)
  | .fin n m _ _, .inf k => if m = 0 then .nan else .inf (n != k)
  | .fin n m e _, .fin k l f _ => .fin (n != k) (m * l) (e + f) false

/-- The quotient, to 96 bits and a mark for what remains: enough that every rounding of this file reads it exactly. -/
def Val.div (a b : Val) : Val :=
  match a, b with
  | .nan, _ => .nan
  | _, .nan => .nan
  | .inf _, .inf _ => .nan
  | .inf n, .fin k _ _ _ => .inf (n != k)
  | .fin n _ _ _, .inf k => .fin (n != k) 0 0 false
  | .fin n m e _, .fin k l f _ =>
    if l = 0 then (if m = 0 then .nan else .inf (n != k))
    else
      let w := 96 + Nat.log2 l
      .fin (n != k) (m * 2 ^ w / l) (e - f - w) (m * 2 ^ w % l != 0)

/-- The integer square root by bits, from bit `k` down. -/
def isqrtGo (n : Nat) : Nat → Nat → Nat
  | 0, r => r
  | k + 1, r => isqrtGo n k (if (r + 2 ^ k) * (r + 2 ^ k) ≤ n then r + 2 ^ k else r)

/-- The integer square root. -/
def isqrt (n : Nat) : Nat := isqrtGo n (Nat.log2 n / 2 + 1) 0

/-- The square root, to 96 bits and a mark for what remains; −0 gives −0, other negative values NaN. -/
def Val.sqrt (v : Val) : Val :=
  match v with
  | .nan => .nan
  | .inf n => if n then .nan else .inf false
  | .fin n m e _ =>
    if m = 0 then .fin n 0 0 false
    else if n then .nan
    else
      let w : Nat := 192 + (e % 2).toNat
      let x := m * 2 ^ w
      .fin false (isqrt x) ((e - w) / 2) (isqrt x * isqrt x != x)

/-- a < b on values other than NaN. -/
def Val.lt (a b : Val) : Bool :=
  match a, b with
  | .nan, _ => false
  | _, .nan => false
  | .inf n, .inf k => n && !k
  | .inf n, .fin .. => n
  | .fin .., .inf k => !k
  | .fin n m e t, .fin k l f u =>
    let q := min e f
    decide (Val.over (.fin n m e t) q < Val.over (.fin k l f u) q)

/-- a = b on values other than NaN; the zeros are equal. -/
def Val.eq (a b : Val) : Bool := !a.isNan && !b.isNan && !a.lt b && !b.lt a

/-- How a rounding treats what it drops. -/
inductive Round where
  | rne
  | rtz
  | sr (rho : Nat)
  | tiesUp
  deriving DecidableEq, Repr

/-- |v| / 2^q rounded to an integer: `neg` is the sign that ties toward +∞ look at. R287, R289: under SR the result is
the larger neighbour when ρ < ceil(f × 2^32). -/
def roundAt (r : Round) (neg : Bool) (m : Nat) (e : Int) (tiny : Bool) (q : Int) : Nat :=
  if q ≤ e then m * 2 ^ (e - q).toNat
  else
    let d := (q - e).toNat
    let a := m / 2 ^ d
    let rest := 2 * (m % 2 ^ d) + (if tiny then 1 else 0)
    let unit := 2 * 2 ^ d
    match r with
    | .rtz => a
    | .rne => if 2 * rest > unit ∨ (2 * rest = unit ∧ a % 2 = 1) then a + 1 else a
    | .sr rho => if rho < (rest * 2 ^ 32 + unit - 1) / unit then a + 1 else a
    | .tiesUp => if 2 * rest > unit ∨ (2 * rest = unit ∧ !neg) then a + 1 else a

/-- A finite value rounded to an integer. -/
def Val.toInt (r : Round) (v : Val) : Int :=
  match v with
  | .fin n m e t => if n then -(roundAt r n m e t 0 : Int) else roundAt r n m e t 0
  | _ => 0

/-- A binary floating-point encoding (R282): exponent and mantissa bits, bias, the largest finite code, the code of
infinity where there is one, the canonical NaN where there is one. -/
structure FloatFmt where
  eb : Nat
  mb : Nat
  bias : Nat
  maxCode : Nat
  infCode : Option Nat
  nanCode : Option Nat
  deriving DecidableEq, Repr

/-- FP32 (R282). -/
def f32 : FloatFmt := { eb := 8, mb := 23, bias := 127, maxCode := 0x7F7FFFFF, infCode := some 0x7F800000, nanCode := some 0x7FC00000 }
/-- BF16 (R282). -/
def bf16 : FloatFmt := { eb := 8, mb := 7, bias := 127, maxCode := 0x7F7F, infCode := some 0x7F80, nanCode := some 0x7FC0 }
/-- FP16 (R282). -/
def fp16 : FloatFmt := { eb := 5, mb := 10, bias := 15, maxCode := 0x7BFF, infCode := some 0x7C00, nanCode := some 0x7E00 }
/-- E4M3 (R282): no infinity, NaN at 0x7F and 0xFF. -/
def e4m3 : FloatFmt := { eb := 4, mb := 3, bias := 7, maxCode := 0x7E, infCode := none, nanCode := some 0x7F }
/-- E5M2 (R282). -/
def e5m2 : FloatFmt := { eb := 5, mb := 2, bias := 15, maxCode := 0x7B, infCode := some 0x7C, nanCode := some 0x7E }
/-- E3M2 (R282). -/
def e3m2 : FloatFmt := { eb := 3, mb := 2, bias := 3, maxCode := 0x1F, infCode := none, nanCode := none }
/-- E2M3 (R282). -/
def e2m3 : FloatFmt := { eb := 2, mb := 3, bias := 1, maxCode := 0x1F, infCode := none, nanCode := none }
/-- E2M1 (R282). -/
def e2m1 : FloatFmt := { eb := 2, mb := 1, bias := 1, maxCode := 0x7, infCode := none, nanCode := none }

/-- The bits below the sign. -/
def FloatFmt.low (f : FloatFmt) : Nat := f.eb + f.mb

/-- The value a code stands for (R282). -/
def FloatFmt.decode (f : FloatFmt) (code : Nat) : Val :=
  let neg := code.testBit f.low
  let c := code % 2 ^ f.low
  if c ≤ f.maxCode then
    let e := c / 2 ^ f.mb
    let m := c % 2 ^ f.mb
    if e = 0 then .fin neg m (1 - (f.bias : Int) - f.mb) false
    else .fin neg (m + 2 ^ f.mb) ((e : Int) - f.bias - f.mb) false
  else if f.infCode = some c then .inf neg
  else .nan

/-- What storing a value did (R286): the code, and whether it was a saturation. -/
structure Stored where
  code : Nat
  sat : Bool
  deriving DecidableEq, Repr

/-- The code of a magnitude rounded in a format, with no bound on its exponent: codes rise with magnitudes. -/
def FloatFmt.codeOf (f : FloatFmt) (r : Round) (neg : Bool) (m : Nat) (e : Int) (tiny : Bool) : Nat :=
  if m = 0 then 0
  else
    let q0 : Int := 1 - (f.bias : Int) - f.mb
    let q := max q0 ((Nat.log2 m : Int) + e - f.mb)
    (q - q0).toNat * 2 ^ f.mb + roundAt r neg m e tiny q

/-- Whether a finite value beyond the range becomes ±∞ (FP32, BF16, FP16) or the largest finite code (FP8, MX) (R286). -/
def FloatFmt.overflowInf (f : FloatFmt) : Bool := f.infCode.isSome && f.eb + f.mb > 7

/-- A value stored in a format (R286, R289). A finite value counts as beyond the range when its rounded code does
(log 20). -/
def FloatFmt.encode (f : FloatFmt) (r : Round) (v : Val) : Stored :=
  match v with
  | .nan => { code := f.nanCode.getD 0, sat := false }
  | .inf n => { code := (if n then 2 ^ f.low else 0) + f.infCode.getD f.maxCode, sat := false }
  | .fin n m e t =>
    let c := f.codeOf r n m e t
    let s := if n then 2 ^ f.low else 0
    if c ≤ f.maxCode then { code := s + c, sat := false }
    else { code := s + (if f.overflowInf then f.infCode.getD f.maxCode else f.maxCode), sat := true }

/-- A value stored in a signed integer of `w` bits (R286): NaN becomes 0, anything beyond the range its end. -/
def encodeInt (w : Nat) (r : Round) (v : Val) : Stored :=
  match v with
  | .nan => { code := 0, sat := true }
  | .inf n => { code := if n then 2 ^ (w - 1) else 2 ^ (w - 1) - 1, sat := true }
  | v =>
    let i := v.toInt r
    if i < -(2 ^ (w - 1) : Nat) then { code := 2 ^ (w - 1), sat := true }
    else if i > (2 ^ (w - 1) : Nat) - 1 then { code := 2 ^ (w - 1) - 1, sat := true }
    else { code := ofSigned w i, sat := false }

/-- FP32 pattern to value. -/
def ofF32 (w : W32) : Val := f32.decode w.toNat

/-- Value to FP32 pattern under RNE. -/
def toF32 (v : Val) : W32 := BitVec.ofNat 32 (f32.encode .rne v).code

/-- One round of Philox4x32 (R84). -/
def philoxRound (k : Nat × Nat) (c : Nat × Nat × Nat × Nat) : Nat × Nat × Nat × Nat :=
  let p0 := 0xD2511F53 * c.1
  let p1 := 0xCD9E8D57 * c.2.2.1
  ((p1 / 2 ^ 32) ^^^ c.2.1 ^^^ k.1, p1 % 2 ^ 32, (p0 / 2 ^ 32) ^^^ c.2.2.2 ^^^ k.2, p0 % 2 ^ 32)

/-- The rounds of Philox with the Weyl steps of the key between them. -/
def philoxGo : Nat → Nat × Nat → Nat × Nat × Nat × Nat → Nat × Nat × Nat × Nat
  | 0, _, c => c
  | n + 1, k, c => philoxGo n ((k.1 + 0x9E3779B9) % 2 ^ 32, (k.2 + 0xBB67AE85) % 2 ^ 32) (philoxRound k c)

/-- Philox4x32-10 on key (k0, k1) and counter (c0 to c3) (R84). -/
def philox (k0 k1 c0 c1 c2 c3 : Nat) : Nat × Nat × Nat × Nat := philoxGo 10 (k0, k1) (c0, c1, c2, c3)

/-- Word `i` of a Philox output. -/
def philoxWord (x : Nat × Nat × Nat × Nat) (i : Nat) : Nat :=
  match i with
  | 0 => x.1
  | 1 => x.2.1
  | 2 => x.2.2.1
  | _ => x.2.2.2

/-- The random number ρ of element `n` under stochastic rounding (R288). -/
def srDraw (seed step tensor inst n : Nat) : Nat :=
  let g := n / 4
  philoxWord (philox (seed % 2 ^ 32) (seed / 2 ^ 32) (g % 2 ^ 32) (g / 2 ^ 32 % 2 ^ 16 + 4 * 2 ^ 20) (step % 2 ^ 32)
    (tensor % 2 ^ 16 + inst % 2 ^ 16 * 2 ^ 16)) (n % 4)

/-- One bit of CRC-32C, reflected polynomial 0x82F63B78. -/
def crcBits : Nat → Nat → Nat
  | 0, c => c
  | n + 1, c => crcBits n (if c % 2 = 1 then (c / 2) ^^^ 0x82F63B78 else c / 2)

/-- CRC-32C state over a byte list. -/
def crcGo (c : Nat) : List Byte → Nat
  | [] => c
  | b :: bs => crcGo (crcBits 8 (c ^^^ b.toNat)) bs

/-- CRC-32C (R384, R492): reflected, initial and final complement. -/
def crc32c (bs : List Byte) : Nat := crcGo 0xFFFFFFFF bs ^^^ 0xFFFFFFFF

/-- Runs of `n` of a list (`k` bounds their number). -/
def chunks {α : Type} (n : Nat) : Nat → List α → List (List α)
  | 0, _ => []
  | _, [] => []
  | k + 1, l => l.take n :: chunks n k (l.drop n)

end Sys2Proof.Machine
end

