-- ==== Sys2Proof/Machine/Ops.lean ====
section
/-!
DEFINITION. The operations that the meanings share: access to contexts, tiles and links; counters (R413, R573); events,
completions and interrupts (R447 to R452); halts (R256, R407, R498) and device faults (R496, R498); the local address
map (R347, R348) and the access check of R361.
-/

namespace Sys2Proof.Machine

/-- Context `c`. -/
def Work.ctx (w : Work) (c : Nat) : Ctx := (w.d.ctxs[c]?).getD (Ctx.reset w.fz 0 0 c)

/-- A change of context `c`. -/
def Work.updCtx (w : Work) (c : Nat) (f : Ctx → Ctx) : Work := w.upd fun d => { d with ctxs := updAt d.ctxs c f }

/-- Tile `t`. -/
def Work.tile (w : Work) (t : Nat) : Tile := (w.d.tiles[t]?).getD Tile.zeroed

/-- A change of tile `t`. -/
def Work.updTile (w : Work) (t : Nat) (f : Tile → Tile) : Work := w.upd fun d => { d with tiles := updAt d.tiles t f }

/-- Link `l`. -/
def Work.link (w : Work) (l : Nat) : Link := (w.d.links[l]?).getD (Link.reset 0 0 false)

/-- A change of link `l`. -/
def Work.updLink (w : Work) (l : Nat) (f : Link → Link) : Work := w.upd fun d => { d with links := updAt d.links l f }

/-- A change of context `c`'s job, where it has one. -/
def Work.updJob (w : Work) (c : Nat) (f : Job → Job) : Work := w.updCtx c fun x => { x with job := x.job.map f }

/-- A fresh number for an operation, command, fence or copy. -/
def Work.fresh (w : Work) : Nat × Work := (w.d.nextId, w.upd fun d => { d with nextId := d.nextId + 1 })

/-- A draw of the counter that free values are applied to. -/
def Work.draw (w : Work) : Nat × Work := (w.d.freeCtr, w.upd fun d => { d with freeCtr := d.freeCtr + 1 })

/-- The belay tick count (R41). -/
def Work.tick (w : Work) : Nat := w.d.pitch.tickCount.toNat

/-- The 16 contexts by number. -/
def contexts : List Nat := List.range 16

/-! ### Counters -/

/-- The key under which a counter stands: identifier, context (31 for the device), instance (0xFF for none). -/
def ctrKey (id ctx inst : Nat) : Nat := id * 2 ^ 16 + ctx * 2 ^ 8 + inst

/-- `n` added, modulo 2^64, to the entry of a key in a list sorted by key; no entry holds 0 (R413). -/
def ctrAdd : List (Nat × W64) → Nat → W64 → List (Nat × W64)
  | [], k, n => if n = 0 then [] else [(k, n)]
  | (a, v) :: l, k, n =>
    if k < a then (if n = 0 then (a, v) :: l else (k, n) :: (a, v) :: l)
    else if k = a then (if v + n = 0 then l else (k, v + n) :: l)
    else (a, v) :: ctrAdd l k n

/-- A device counter raised by `n`. -/
def Work.count (w : Work) (id n : Nat) : Work :=
  w.upd fun d => { d with counters := ctrAdd d.counters (ctrKey id 31 0xFF) (BitVec.ofNat 64 n) }

/-- A counter of one context raised by `n` (group 0x0F). -/
def Work.countCtx (w : Work) (c id n : Nat) : Work :=
  w.upd fun d => { d with counters := ctrAdd d.counters (ctrKey id c 0xFF) (BitVec.ofNat 64 n) }

/-- A counter with instances raised by `n` (groups 0x10, 0x11). -/
def Work.countInst (w : Work) (id inst n : Nat) : Work :=
  w.upd fun d => { d with counters := ctrAdd d.counters (ctrKey id 31 inst) (BitVec.ofNat 64 n) }

/-- A stall cause of a context and consumer class raised by one: a command turned away counts one stalled cycle (R412,
log 10). Classes are numbered by R575. -/
def Work.stall (w : Work) (c cause cls : Nat) : Work :=
  w.upd fun d => { d with counters := ctrAdd d.counters (ctrKey cause c cls) 1 }

/-! ### Interrupts, events, completions -/

/-- An MSI-X message of a function, or its pending bit while the vector is masked (R452). -/
def Work.msix (w : Work) (fn vec : Nat) : Work :=
  w.upd fun d =>
    { d with
      hif :=
        if d.hif.masked.contains (fn, vec) then
          { d.hif with pendingBits := if d.hif.pendingBits.contains (fn, vec) then d.hif.pendingBits else d.hif.pendingBits ++ [(fn, vec)] }
        else { d.hif with msixOut := d.hif.msixOut ++ [(fn, vec)] } }

/-- A byte list cut or padded with zeros to `n` bytes. -/
def padTo (n : Nat) (bs : List Byte) : List Byte := (bs ++ List.replicate n 0).take n

/-- Whether a completion or event ring has no free slot: one stays free, as R440 gives for command rings (log 11). -/
def OutRing.full (r : OutRing) : Bool := (r.tail + 1) % 2 ^ r.size == r.head

/-- A ring after one entry is written at its tail (R447). -/
def OutRing.advance (r : OutRing) : OutRing :=
  { r with tail := (r.tail + 1) % 2 ^ r.size, phase := if r.tail + 1 = 2 ^ r.size then !r.phase else r.phase, dropped := false }

/-- The 32 bytes of an event entry (R448). -/
def eventEntry (e : HeldEvent) (dev : Bool) (r : OutRing) : List Byte :=
  leBytes 2 e.code ++ leBytes 1 e.ctx
    ++ leBytes 1 ((if r.dropped then 1 else 0) + (if dev then 2 else 0) + (if r.phase then 128 else 0))
    ++ leBytes 8 e.tick.toNat ++ leBytes 4 e.cycle.toNat ++ padTo 16 e.payload

/-- The translation of the page of an IOVA held in the translation cache (R432): the function, the page, and its size. -/
def Work.cacheIova (w : Work) (fn iova : Nat) : Work :=
  w.upd fun d =>
    let e := (fn, iova / 4096 * 4096, 4096)
    { d with hif := { d.hif with atc := if d.hif.atc.contains e then d.hif.atc else d.hif.atc ++ [e] } }

/-- An event entry written to the ring of an enabled context, or dropped on a full ring (R448); vector 1 follows (R452). -/
def Work.writeEvent (w : Work) (c : Nat) (dev : Bool) (e : HeldEvent) : Work :=
  let x := w.ctx c
  if x.evt.full then (w.countCtx c Ctr.eventDrops 1).updCtx c fun x => { x with evt := { x.evt with dropped := true } }
  else
    let w := (w.cacheIova c (x.evt.base.toNat + 32 * x.evt.tail)).wr (hostKey c (x.evt.base.toNat + 32 * x.evt.tail)) (eventEntry e dev x.evt)
    let w := (w.countCtx c Ctr.hostEventsPosted 1).updCtx c fun x => { x with evt := x.evt.advance }
    if x.evtIrq then w.msix c 1 else w

/-- An event at this moment. -/
def Work.event (w : Work) (code ctx : Nat) (payload : List Byte) : HeldEvent :=
  { code := code, ctx := ctx, payload := payload, tick := w.d.pitch.tickCount, cycle := w.d.pitch.cycle }

/-- A context's event (R448, R449). A context whose rings are not enabled has no event ring: nothing is posted. -/
def Work.postEvent (w : Work) (c code : Nat) (payload : List Byte) : Work :=
  if (w.ctx c).enable then w.writeEvent c false (w.event code c payload) else w

/-- A device event, to context 0's ring; held while those rings are not enabled (R448, R520, log 12). -/
def Work.deviceEvent (w : Work) (code : Nat) (payload : List Byte) : Work :=
  let e := w.event code 0xFF payload
  if (w.ctx 0).enable then w.writeEvent 0 true e else w.upd fun d => { d with heldEvents := d.heldEvents ++ [e] }

/-- Statuses of a completion entry (R447). -/
inductive Status where
  | ok | halted | discarded | opcodeInvalid | stateInvalid | stopLate
  deriving DecidableEq, Repr

/-- The status code (R447). -/
def Status.code : Status → Nat
  | .ok => 0 | .halted => 1 | .discarded => 2 | .opcodeInvalid => 3 | .stateInvalid => 4 | .stopLate => 5

/-- The 16 bytes of a completion entry (R447); bytes 8 and 9 are zero at ring protocol 1.x (R438). -/
def completionEntry (d : Desc) (s : Status) (result : Nat) (v1 phase : Bool) : List Byte :=
  leBytes 8 d.tag ++ leBytes 2 (if v1 then 0 else d.head) ++ leBytes 1 s.code
    ++ leBytes 1 (d.ring + (if phase then 128 else 0)) ++ leBytes 4 result

/-- A completion entry at the completion ring's tail, with its signalling (R447, R452). -/
def Work.postCompletion (w : Work) (c : Nat) (d : Desc) (s : Status) (result : Nat) : Work :=
  let x := w.ctx c
  let w := (w.cacheIova c (x.cpl.base.toNat + 16 * x.cpl.tail)).wr (hostKey c (x.cpl.base.toNat + 16 * x.cpl.tail))
    (completionEntry d s result (decide (x.ringVersion < 0x0200)) x.cpl.phase)
  let w := w.countCtx c Ctr.hostCompletionsPosted 1
  let n := x.unsignalled + 1
  let now := d.interrupt || d.opcode == 0x30 || (x.coalesceCount != 0 && decide (x.coalesceCount ≤ n))
  let w := w.updCtx c fun y =>
    { y with
      cpl := y.cpl.advance
      unsignalled := if now then 0 else n
      unsignalledAt := if y.unsignalled = 0 then w.d.nowNs else y.unsignalledAt }
  if now then w.msix c 0 else w

/-- A fetched descriptor completed: it leaves the context's list and its entry is posted. -/
def Work.complete (w : Work) (c seq : Nat) (s : Status) (result : Nat) : Work :=
  match (w.ctx c).fetched.find? (fun d => d.seq == seq) with
  | none => w
  | some d =>
    (w.updCtx c fun x => { x with fetched := x.fetched.filter (fun e => e.seq != seq) }).postCompletion c d s result

/-! ### Halts -/

/-- A halt record of an engine stream (R407, R570). -/
def streamRec (r : StreamRef) (engine reason detail : Nat) : HaltRec :=
  { HaltRec.empty with
    reason := reason, fromStream := true, index := r.stream, unit_ := engine, detail := detail, address := r.cmdAddr,
    keyStep := r.keyStep, keyQ := r.keyQ, section_ := r.section_, offset := r.offset }

/-- A halt record of a tile (R257, R570). -/
def tileRec (t : TileRef) (unit depth reason detail : Nat) : HaltRec :=
  { HaltRec.empty with
    reason := reason, index := t.tile, unit_ := unit, loopDepth := depth, detail := detail, address := t.pc }

/-- A halt record of the machine, a device fault or a host descriptor (R572). -/
def machineRec (reason detail : Nat) : HaltRec :=
  { HaltRec.empty with reason := reason, unit_ := 0xF, detail := detail }

/-- The tiles of a context. -/
def Ctx.tiles (x : Ctx) : List Nat := (List.range 64).filter fun t => x.tileMask.getLsbD t

/-- A tile stopped by a halt: nothing issues and queued instructions are discarded (R256). -/
def Tile.halted (t : Tile) : Tile :=
  { t with run := .stopped, mat := [], vecQueue := 0, dma := [] }

/-- The tag counts of a gather unit, from its outstanding entries (R115). -/
def GatherUnit.recount (u : GatherUnit) : GatherUnit :=
  let out := (u.sets.flatMap fun s => s.2).filter fun e => e.outstanding
  { u with
    localTags := ((out.filter fun e => !e.peer).map fun e => e.tags).sum, peerTags := ((out.filter fun e => e.peer).map fun e => e.tags).sum }

/-- A gather unit without the entries of some operations. -/
def GatherUnit.without (u : GatherUnit) (gone : Nat → Bool) : GatherUnit :=
  GatherUnit.recount { u with sets := u.sets.map fun s => (s.1, s.2.filter fun e => !gone e.op) }

/-- The engine operations of a context discarded (R256). Haul copies and row moves run to their end (log 13). -/
def Work.dropOps (w : Work) (c : Nat) : Work :=
  w.upd fun d =>
    let gone := fun (o : Nat) => (d.gathers.any fun g => g.id == o && g.ref.ctx == c) || (d.scatters.any fun g => g.id == o && g.ref.ctx == c)
    { d with
      trav := d.trav.filter fun o => o.ref.ctx != c
      gathers := d.gathers.filter fun o => o.ref.ctx != c
      units := d.units.map fun u => u.without gone
      lines := d.lines.filter fun l => !gone l.op
      scatters := d.scatters.filter fun o => o.ref.ctx != c
      merges := d.merges.filter fun o => o.ref.ctx != c
      colls := d.colls.filter fun o => o.ref.ctx != c
      copies := d.copies.map fun k => if k.ctx = c then { k with desc := none } else k
      windows := d.windows.filter fun k => k.ctx != c }

/-- Everything of a context stopped: tiles, streams, engine operations, scoreboard (R256). -/
def Work.stopWork (w : Work) (c : Nat) : Work :=
  let ts := (w.ctx c).tiles
  let w := ts.foldl (fun w t => w.updTile t Tile.halted) w
  let w := w.dropOps c
  w.updCtx c fun x => { x with cmds := [], fences := [], waited := [], replay := none, waiting := [], executing := [] }

/-- The descriptors of a context at its halt: what had started completes with HALTED, what waits with DISCARDED (R435,
R443, R455). -/
def Work.haltDescs (w : Work) (c reason : Nat) : Work :=
  let x := w.ctx c
  x.fetched.foldl
    (fun w d =>
      let running := d.started && !(x.waiting.any fun u => u.desc.seq == d.seq)
      w.complete c d.seq (if running then .halted else .discarded) (if running then reason else 0)) w

/-- Where a halt's own record goes: the tile's, where it holds none, or the stream record of its context (R257, R571). -/
def Work.ownRecord (w : Work) (c : Nat) (r : HaltRec) : Work :=
  if r.unit_ = 0xF then w
  else if r.fromStream then w.updCtx c fun x => if x.streamHalt.valid then x else { x with streamHalt := r }
  else w.updTile r.index fun t => if t.halt.valid then t else { t with halt := r }

/-- The payload of CONTEXT_HALTED (R449). -/
def haltPayload (r : HaltRec) : List Byte :=
  leBytes 1 r.reason ++ leBytes 1 (if r.fromStream then 1 else 0) ++ leBytes 2 r.index ++ leBytes 4 r.detail
    ++ leBytes 8 r.address

/-- TAKING A HALT: the record, CTX_HALTED (its VALID bit), the event, and the context's work stopped (R256, R257, R407,
R496, R498). The first halt of a context fills its record; a context whose rings are not enabled runs nothing. -/
def Work.halt (w : Work) (c : Nat) (r : HaltRec) : Work :=
  let r := { r with valid := true, context := c, tick := w.tick, cycle := w.d.pitch.cycle.toNat }
  let x := w.ctx c
  if !x.enable then w
  else
    let w := w.ownRecord c r
    if x.halt.valid then w
    else
      let w := w.updCtx c fun x => { x with halt := r }
      let w := w.postEvent c 0x0001 (haltPayload r)
      let w := w.haltDescs c r.reason
      let w := w.stopWork c
      match x.job with
      | some j => if j.machine then w.upd fun d => { d with machineStopped := true } else w
      | none => w

/-- A halt of the stream that issued a command. -/
def Work.haltStream (w : Work) (r : StreamRef) (engine reason detail : Nat) : Work :=
  w.halt r.ctx (streamRec r engine reason detail)

/-- The context that a tile is assigned to (R436). -/
def Work.owner (w : Work) (t : Nat) : Option Nat := contexts.find? fun c => (w.ctx c).tileMask.getLsbD t

/-- A halt of the tile that issued an instruction, for a unit of R570. -/
def Work.haltTile (w : Work) (t : TileRef) (unit reason detail : Nat) : Work :=
  match w.owner t.tile with
  | none => w
  | some c => w.halt c (tileRec t unit (w.tile t.tile).loops.length reason detail)

/-- Whether a context's work proceeds: enabled, running, not halted (R256, R435). -/
def Ctx.active (x : Ctx) : Bool := x.enable && !x.halt.valid && decide (x.state = .running)

/-- Sources of a device fault (R498). -/
inductive FaultSource where
  | stack | shared | tile | engine | control | link | port | power
  deriving DecidableEq, Repr

/-- The source code of R498. -/
def FaultSource.code : FaultSource → Nat
  | .stack => 0 | .shared => 1 | .tile => 2 | .engine => 3 | .control => 4 | .link => 5 | .port => 6 | .power => 7

/-- The device fault record written, or the fault counted where a record stands (R498). -/
def Work.recordFault (w : Work) (reason : Nat) (src : FaultSource) (index addr : Nat) : Work :=
  if w.d.fault.valid then w.count Ctr.deviceFaultsUnrecorded 1
  else
    w.upd fun d =>
      { d with
        fault :=
          { valid := true, reason := reason, source := src.code, index := index, tick := d.pitch.tickCount,
            cycle := d.pitch.cycle, addr := BitVec.ofNat 64 addr } }

/-- A device fault: the record, DEVICE_FAULT, and a halt of every context with the fault's reason (R496, R498, R572). -/
def Work.deviceFault (w : Work) (reason : Nat) (src : FaultSource) (index addr : Nat) : Work :=
  let w := w.recordFault reason src index addr
  let w := w.deviceEvent 0x0050
    (leBytes 1 reason ++ leBytes 1 src.code ++ leBytes 1 index ++ leBytes 5 0 ++ leBytes 8 addr)
  contexts.foldl (fun w c => w.halt c (machineRec reason (src.code * 2 ^ 16 + index * 2 ^ 24))) w

/-- A halt of every context with one record. -/
def Work.haltAll (w : Work) (r : HaltRec) : Work := contexts.foldl (fun w c => w.halt c r) w

/-- A halt of every context that is not urgent. -/
def Work.haltNonUrgent (w : Work) (r : HaltRec) : Work :=
  contexts.foldl (fun w c => if (w.ctx c).urgent then w else w.halt c r) w

/-! ### Addresses -/

/-- Regions of the local address map (R347). -/
inductive Space where
  | hbm | reserved | cap (port : Nat) | shared | tileStore (tile : Nat) | host | setup | unmapped
  deriving DecidableEq, Repr

/-- The region that a local address lies in, for these fuses (R347, R491). -/
def Fuses.space (f : Fuses) (a : Nat) : Space :=
  if a < f.hbmUsable then .hbm
  else if a < f.hbmRange then .reserved
  else if a < cap0Base then .unmapped
  else if a < cap1Base then .cap 0
  else if a < 0x0C0000000000 then (if f.capPorts.getLsbD 1 then .cap 1 else .unmapped)
  else if a < sharedBase then .unmapped
  else if a < sharedBase + sharedSize then .shared
  else if a < tileStoreBase then .unmapped
  else if a < tileStoreBase + 64 * tileStoreSize then .tileStore ((a - tileStoreBase) / tileStoreSize)
  else if a < hostWindowBase then .unmapped
  else if a < hostWindowBase + hostWindowSize then .host
  else if 0x300000000000 ≤ a ∧ a < 0x300001000000 then .setup
  else .unmapped

/-- The populated size of a capacity port (R354). -/
def Work.capSize (w : Work) (p : Nat) : Nat := if p = 0 then w.d.memRegs.cap0Size.toNat else w.d.memRegs.cap1Size.toNat

/-- The end, exclusive, of the accessible range that a local address lies in (R347, R348), or the halt reason. -/
def Work.mapEnd (w : Work) (a : Nat) : Except Nat Nat :=
  match w.fz.space a with
  | .hbm => .ok w.fz.hbmUsable
  | .cap p =>
    let b := if p = 0 then cap0Base else cap1Base
    if a < b + w.capSize p then .ok (b + w.capSize p) else .error 0x44
  | .shared => .ok (sharedBase + sharedSize)
  | .tileStore t => if w.fz.tiles.getLsbD t then .ok (tileStoreAddr (t + 1) 0) else .error 0x21
  | .host => .ok (hostWindowBase + hostWindowSize)
  | _ => .error 0x44

/-- The first address of a local range that R348 forbids, with its halt reason. -/
def Work.unmappedGo (w : Work) : Nat → Nat → Nat → Option (Nat × Nat)
  | 0, _, _ => none
  | n + 1, lo, hi =>
    if hi ≤ lo then none
    else
      match w.mapEnd lo with
      | .error r => some (r, lo)
      | .ok e => Work.unmappedGo w n e hi

/-- The first address of a local range that R348 forbids, with its halt reason. -/
def Work.unmappedIn (w : Work) (lo len : Nat) : Option (Nat × Nat) := w.unmappedGo 72 lo (lo + len)

/-- The ranges that a context may read or write (R361): base and length. A written range needs a RESIDENT object of the
context in HBM or the shared store. -/
def Work.rights (w : Work) (c : Nat) (write : Bool) : List (Nat × Nat) :=
  let objs := w.d.residency.filter fun e =>
    if write then
      e.owner == c && decide (e.state = .resident) && (decide (w.fz.space e.home = .hbm) || decide (w.fz.space e.home = .shared))
    else (e.owner == c || e.readers.getLsbD c) && !(decide (e.state = .free) || decide (e.state = .installing))
  (objs.map fun e => (e.home, e.length))
    ++ ((w.ctx c).tiles.map fun t => (tileStoreAddr t 0, tileStoreSize))
    ++ [(hostWindowBase, hostWindowSize)]

/-- The first address of a range outside a list of ranges. -/
def outsideGo (rs : List (Nat × Nat)) : Nat → Nat → Nat → Option Nat
  | 0, lo, hi => if hi ≤ lo then none else some lo
  | n + 1, lo, hi =>
    if hi ≤ lo then none
    else
      match rs.find? fun r => r.1 ≤ lo && decide (lo < r.1 + r.2) with
      | none => some lo
      | some r => outsideGo rs n (r.1 + r.2) hi

/-- The first address of a range outside a list of ranges. -/
def outside (rs : List (Nat × Nat)) (lo len : Nat) : Option Nat := outsideGo rs (rs.length + 1) lo (lo + len)

/-- An object in transition whose old or new home a written range overlaps (R366). -/
def Work.inTransition (w : Work) (lo len : Nat) : Bool :=
  w.d.residency.any fun e =>
    (decide (e.state = .moving) || decide (e.state = .releasing) || decide (e.state = .replacing) || decide (e.state = .installing))
      && ((decide (e.home < lo + len) && decide (lo < e.home + e.length) && decide (e.state ≠ .installing))
        || (e.newHome != 0 && decide (e.newHome < lo + len) && decide (lo < e.newHome + e.length)))

/-- The check of one local access of a context (R348, R360, R361, R366): the halt reason and detail word, if it fails. -/
def Work.accessFault (w : Work) (c lo len : Nat) (write : Bool) : Option (Nat × Nat) :=
  match w.unmappedIn lo len with
  | some f => some f
  | none =>
    if write && (decide (w.fz.space lo = .cap 0) || decide (w.fz.space lo = .cap 1)) then some (0x47, lo)
    else if write && w.inTransition lo len then some (0x46, lo)
    else
      match outside (w.rights c write) lo len with
      | some a => some (0x48, a)
      | none => none

/-- The memory key of a local address as a context reaches it: host windows stand in host memory under the context's own
function (R432). -/
def localKey (c a : Nat) : Nat := if hostWindowBase ≤ a then hostKey c (a - hostWindowBase) else a

/-- Bytes at a local address, as a context reaches it. -/
def Work.ldN (w : Work) (c a n : Nat) : List Byte := w.rdN (localKey c a) n

/-- Bytes stored at a local address, as a context reaches it. -/
def Work.stN (w : Work) (c a : Nat) (bs : List Byte) : Work := w.wr (localKey c a) bs

/-! ### Tensor-block checksums and poison -/

/-- Whether a key lies in memory that carries checksums (R491): HBM, shared store, tile stores. -/
def checksummed (k : Nat) : Bool :=
  decide (k < cap0Base) || (decide (sharedBase ≤ k) && decide (k < hostWindowBase))

/-- The distinct granules of size `g` that a journal touches. -/
def touched (g : Nat) : List Host.Cell → List Nat
  | [] => []
  | (k, _) :: log =>
    let r := touched g log
    if checksummed k && !r.contains (k / g * g) then k / g * g :: r else r

/-- Whether a journal writes every byte of a granule. -/
def coversAll (log : List Host.Cell) (a g : Nat) : Bool := (List.range g).all fun i => (Memory.find log (a + i)).isSome

/-- The checksum slots and poison after a command's writes (R488, R492): a block wholly written gets its CRC-32C, a
block written in part becomes unchecked; a 64-byte block wholly written is no longer poisoned. -/
def Work.settle (w : Work) : Work :=
  match w.log with
  | [] => w
  | log =>
    let blocks := touched 4096 log
    let whole := if log.length < 4096 then [] else blocks.filter fun b => coversAll log b 4096
    let keep := w.d.memRegs.crcs.filter fun e => !blocks.contains e.1
    let fresh := whole.map fun b => (b, BitVec.ofNat 32 (crc32c (w.rdN b 4096)))
    w.upd fun d =>
      { d with
        memRegs :=
          { d.memRegs with
            crcs := keep ++ fresh
            poisoned := d.memRegs.poisoned.filter fun p => !coversAll log p 64 } }

/-- A command's result: its meaning run, its writes settled. -/
def State.exec (s : State) (f : Work → Work) : State := s.run fun w => (f w).settle

/-- The verification of the whole valid blocks of a read range (R493, R494): the number verified, or the address of the
first block that fails. -/
def Work.verifyRange (w : Work) (lo len : Nat) : Except Nat Nat :=
  let bs := w.d.memRegs.crcs.filter fun e => decide (lo ≤ e.1) && decide (e.1 + 4096 ≤ lo + len)
  match bs.find? fun e => crc32c (w.rdN e.1 4096) != e.2.toNat with
  | some e => .error e.1
  | none => .ok bs.length

/-- A poisoned block in a range, if any (R488). -/
def Work.poisonIn (w : Work) (lo len : Nat) : Option Nat :=
  w.d.memRegs.poisoned.find? fun p => decide (p < lo + len) && decide (lo < p + 64)

/-- Whether a key lies in a range. -/
def inRange (k lo len : Nat) : Bool := decide (lo ≤ k) && decide (k < lo + len)

/-- Whether an address lies in a structure that every context relies on (R487, third row): an active configuration-set
table, the row map, the hot pool, or an open update area's held memory. -/
def Work.structural (w : Work) (p : Nat) : Bool :=
  let s := w.d.active
  (s.rowMap != 0
      && (inRange p s.rowMap (128 + 32 * w.le (s.rowMap + 8) 8)
        || inRange p (w.le (s.rowMap + 16) 8) (w.le (s.rowMap + 24) 4 * w.le (s.rowMap + 28) 4)))
    || (s.format != 0 && inRange p s.format (128 + 32 * w.le (s.format + 6) 2))
    || (s.shardMap != 0 && inRange p s.shardMap (64 + 32 * w.le (s.shardMap + 8) 4))
    || (s.topology != 0 && inRange p s.topology (64 + 64 * w.le (s.topology + 8) 2))
    || w.d.windows.any fun a => inRange p a.area 128

/-- The halt of an uncorrectable block that a command met: every context where the block is shared structure, else the
reading context with its own record (R487). -/
def Work.poisonHalt (w : Work) (c : Nat) (r : HaltRec) (p : Nat) : Work :=
  if w.structural p then w.haltAll (machineRec 0x41 p) else w.halt c { r with reason := 0x41, detail := p }

end Sys2Proof.Machine
end

