-- ==== Sys2Proof/Machine/Clock.lean ====
section
/-!
DEFINITION. The passing of time: the 1 GHz time base (R40), the intra-pitch cycle count (R41), and the counters kept in
nanoseconds (R558).
-/

namespace Sys2Proof.Machine

/-- The core clock in force: the firmware's target, or 1,250 MHz under a hardware clamp (R545). -/
def Pwr.coreMhz (p : Pwr) : Nat := if p.clampTriggers = [] ∧ !p.clampHold then p.targetMhz else min p.targetMhz 1250

/-- One nanosecond: the pitch timer while it runs, core cycles at the mean of the clock in force under its spread (R549),
and R558's two counters. -/
def Work.passNs (w : Work) : Work :=
  let w := w.upd fun d =>
    let mhz := if d.pwr.powered then d.pwr.coreMhz else 0
    let acc := d.pitch.cycleFrac + mhz * (2000 - d.pwr.spreadInForce)
    { d with
      nowNs := d.nowNs + 1
      pitch :=
        if d.pitch.run then
          { d.pitch with
            timerNs := d.pitch.timerNs + 1
            cycle := d.pitch.cycle + BitVec.ofNat 32 (acc / 2000000)
            cycleFrac := acc % 2000000 }
        else d.pitch }
  let w := if w.d.pwr.powered && decide (w.d.pwr.coreMhz < 2500) then w.count Ctr.clockReducedNs 1 else w
  if w.d.pwr.throttleDie || w.d.pwr.throttleHbm then w.count Ctr.thermalThrottleNs 1 else w

end Sys2Proof.Machine
end

