-- ==== Sys2Proof/Machine/Formats.lean ====
section
/-!
DEFINITION. The formats of R281 to R287 over the exact numbers of Num, MX blocks (R283 to R285), the format table
(R294 to R297) and the census (R290 to R293).
-/

namespace Sys2Proof.Machine

/-- The format code (R281). -/
def fmtCode : Fmt → Nat
  | .fp32 => 0x00 | .bf16 => 0x01 | .fp16 => 0x02 | .e4m3 => 0x03 | .e5m2 => 0x04
  | .mxE4m3 => 0x05 | .mxE5m2 => 0x06 | .mxE3m2 => 0x07 | .mxE2m3 => 0x08 | .mxE2m1 => 0x09 | .mxInt8 => 0x0A
  | .int8 => 0x10 | .int16 => 0x11 | .int32 => 0x12 | .int64 => 0x13

/-- Bits per element (R281). -/
def fmtBits : Fmt → Nat
  | .fp32 => 32 | .bf16 => 16 | .fp16 => 16 | .e4m3 => 8 | .e5m2 => 8
  | .mxE4m3 => 8 | .mxE5m2 => 8 | .mxE3m2 => 6 | .mxE2m3 => 6 | .mxE2m1 => 4 | .mxInt8 => 8
  | .int8 => 8 | .int16 => 16 | .int32 => 32 | .int64 => 64

/-- MX formats (R283). -/
def fmtMx : Fmt → Bool
  | .mxE4m3 | .mxE5m2 | .mxE3m2 | .mxE2m3 | .mxE2m1 | .mxInt8 => true
  | _ => false

/-- Integer formats (R281). -/
def fmtInt : Fmt → Bool
  | .int8 | .int16 | .int32 | .int64 => true
  | _ => false

/-- The element encoding of a floating-point format (R282). -/
def fmtFloat : Fmt → Option FloatFmt
  | .fp32 => some f32 | .bf16 => some bf16 | .fp16 => some fp16 | .e4m3 => some e4m3 | .e5m2 => some e5m2
  | .mxE4m3 => some e4m3 | .mxE5m2 => some e5m2 | .mxE3m2 => some e3m2 | .mxE2m3 => some e2m3 | .mxE2m1 => some e2m1
  | _ => none

/-- The exponent of the largest normal binade (R283). -/
def fmtTop : Fmt → Int
  | .e4m3 | .mxE4m3 => 8
  | .e5m2 | .mxE5m2 => 15
  | .mxE3m2 => 4
  | .mxE2m3 | .mxE2m1 => 2
  | .fp32 | .bf16 => 127
  | .fp16 => 15
  | _ => 0

/-- The value of an element code, before any block scale (R282). -/
def fmtDecode (f : Fmt) (code : Nat) : Val :=
  match fmtFloat f with
  | some ff => ff.decode code
  | none =>
    match f with
    | .mxInt8 => Val.ofInt (toSigned 8 code) (-6)
    | f => Val.ofInt (toSigned (fmtBits f) code) 0

/-- A value stored in a format other than MX (R286). -/
def fmtEncode (f : Fmt) (r : Round) (v : Val) : Stored :=
  match fmtFloat f with
  | some ff => ff.encode r v
  | none => encodeInt (fmtBits f) r v

/-- The rounding of an instruction, with the random number of its element (R287, R289). -/
def roundOf (r : Rnd) (rho : Nat) : Round :=
  match r with
  | .rne => .rne
  | .rtz => .rtz
  | .sr => .sr rho

/-- The value of an MX scale byte: 2^(b − 127), or none for 0xFF (R283). -/
def mxScale (b : Nat) : Option Int := if b = 0xFF then none else some ((b : Int) - 127)

/-- An element code under its block's scale (R283). -/
def mxDecode (f : Fmt) (scale code : Nat) : Val :=
  match mxScale scale with
  | none => .nan
  | some e => (fmtDecode f code).scale e

/-- What an MX quantise of a block stores: the scale byte and each element (R285). -/
structure MxBlock where
  scale : Nat
  elems : List Stored
  deriving DecidableEq, Repr

/-- An element of an MX block: rounded in the element type, clamped to its largest finite magnitude (R285). A clamp is a
saturation only where the block's exponent was limited. -/
def mxElem (f : Fmt) (r : Round) (limited : Bool) (v : Val) : Stored :=
  match fmtFloat f with
  | some ff => let s := ff.encode r v; { s with sat := s.sat && limited }
  | none =>
    let i := (v.scale 6).toInt r
    if i > 127 then { code := 127, sat := limited }
    else if i < -127 then { code := 0x81, sat := limited }
    else { code := ofSigned 8 i, sat := false }

/-- The largest exponent of a list of values; none where no value is finite and non-zero. -/
def maxExpOf (vs : List Val) : Option Int :=
  vs.foldl (fun m v => if v.isFin1 then (match m with | none => some v.exp | some e => some (max e v.exp)) else m) none

/-- An MX quantise of a block (R285). `rho i` is the random number of element `i`. -/
def mxQuantise (f : Fmt) (r : Rnd) (rho : Nat → Nat) (vs : List Val) : MxBlock :=
  if vs.any (fun v => v.isNan || v.isInf) then { scale := 0xFF, elems := vs.map fun _ => { code := 0, sat := false } }
  else
    match maxExpOf vs with
    | none => { scale := 0, elems := vs.map fun _ => { code := 0, sat := false } }
    | some k =>
      let x := k - fmtTop f
      let e := min (max x (-127)) 127
      { scale := (e + 127).toNat
        elems := vs.mapIdx fun i v => mxElem f (roundOf r (rho i)) (decide (127 < x)) (v.scale (-e)) }

/-- Element `i` of elements of `bits` bits packed into bytes, little-endian (R284). -/
def unpackElem (bits : Nat) (bs : List Byte) (i : Nat) : Nat :=
  let lo := bits * i
  leNat ((bs.drop (lo / 8)).take ((lo % 8 + bits + 7) / 8)) >>> (lo % 8) % 2 ^ bits

/-- Elements of `bits` bits packed into bytes, little-endian (R284). -/
def packElems (bits : Nat) (es : List Nat) : List Byte :=
  leBytes (ceilDiv (bits * es.length) 8) (es.foldr (fun e acc => e % 2 ^ bits + acc * 2 ^ bits) 0)

/-! ### Format table -/

/-- An entry of the format table as an engine reads it (R295). -/
structure LayerEntry where
  addr : Nat
  rung : Nat
  minRung : Nat
  maxRung : Nat
  flags : Nat
  warm : Nat
  scale : Int
  scatterE : Int
  maxExp : Int
  ref : Int
  stepsAt : Nat
  silent : Nat
  decision : Nat
  deriving DecidableEq, Repr

/-- The entry at an address (R295). -/
def Work.readEntry (w : Work) (a : Nat) : LayerEntry :=
  { addr := a, rung := w.le a 1, minRung := w.le (a + 1) 1, maxRung := w.le (a + 2) 1, flags := w.le (a + 3) 1,
    warm := w.le (a + 4) 1, scale := w.les (a + 5) 1, scatterE := w.les (a + 6) 1, maxExp := w.les (a + 8) 2,
    ref := w.les (a + 10) 2, stepsAt := w.le (a + 12) 2, silent := w.le (a + 14) 2, decision := w.le (a + 16) 4 }

/-- Whether a format table's header has the magic and the version of R294. -/
def Work.formatHeaderOk (w : Work) (base : Nat) : Bool := w.le base 4 == 0x54414D46 && w.le (base + 4) 2 == 1

/-- The rungs of an entry in their ranges (R295, R296). -/
def LayerEntry.ok (e : LayerEntry) : Bool := decide (e.minRung ≤ e.rung) && decide (e.rung ≤ e.maxRung) && decide (e.maxRung ≤ 3)

/-- The entry of a context's layer in a table, or none where R297 halts with FORMAT_TABLE_INVALID. -/
def Work.layerIn (w : Work) (base c layer : Nat) : Option LayerEntry :=
  if base = 0 || !w.formatHeaderOk base then none
  else
    let r := w.le (base + 64 + 4 * c) 4
    if bitsOf r 31 16 ≤ layer then none
    else
      let e := w.readEntry (base + 128 + 32 * (r % 65536 + layer))
      if e.ok then some e else none

/-- The entry of a context's layer in the active format table (R297). -/
def Work.layerEntry (w : Work) (c layer : Nat) : Option LayerEntry := w.layerIn w.d.active.format c layer

/-- The rounding seed of the active format table, 0 with none (R288, R567). -/
def Work.roundingSeed (w : Work) : Nat := if w.d.active.format = 0 then 0 else w.le (w.d.active.format + 8) 8

/-- What a context's job carries for a layer outside the table (R303, R306). -/
def Ctx.layerState (x : Ctx) (layer : Nat) : LayerState :=
  (x.layers.find? fun l => l.layer == layer).getD
    { layer := layer, override := none, scaleOverride := none, raises := 0, used := 0, usedLast := 0 }

/-- The rung and gradient scale that an operation uses for a layer: the replay override, else the entry (R297, R303). -/
def Work.rungOf (w : Work) (c layer : Nat) (e : LayerEntry) : Nat × Int :=
  let l := (w.ctx c).layerState layer
  (l.override.getD e.rung, l.scaleOverride.getD e.scale)

/-- The format of a rung (R295). -/
def rungFmt : Nat → Fmt
  | 0 => .e5m2 | 1 => .e4m3 | 2 => .bf16 | _ => .fp32

/-- The form of an output with its tag (R297), or none for FORMAT_TABLE_INVALID. -/
def Work.outForm (w : Work) (c : Nat) (named : Fmt) (tag : TensorTag) : Option OutForm :=
  match tag.layer with
  | none => some { fmt := named, scale := 0, ref := 0 }
  | some l =>
    match w.layerEntry c l with
    | none => none
    | some e =>
      if tag.grad then
        let (r, s) := w.rungOf c l e
        some { fmt := rungFmt r, scale := if r ≤ 1 then s else 0, ref := e.ref }
      else some { fmt := named, scale := 0, ref := e.ref }

/-- The scale that reading a gradient tensor of a layer multiplies by after widening (R297), or none for
FORMAT_TABLE_INVALID. -/
def Work.readScale (w : Work) (c : Nat) (layer : Option Nat) : Option Int :=
  match layer with
  | none => some 0
  | some l =>
    match w.layerEntry c l with
    | none => none
    | some e =>
      let (r, s) := w.rungOf c l e
      some (if r ≤ 1 then s else 0)

/-! ### Census -/

/-- The histogram bin of an exponent relative to the reference (R292). -/
def censusBin (ref e : Int) : Nat := if ref - e ≤ 1 then 0 else min ((ref - e).toNat / 2) 15

/-- One element counted: its value before rounding, what was stored, and the stored value with the scale removed
(R291, R292). -/
def Tally.add (t : Tally) (ref : Int) (exact : Val) (s : Stored) (stored : Val) : Tally :=
  { elements := t.elements + 1
    zeros := t.zeros + (if stored.isZero then 1 else 0)
    underflows := t.underflows + (if stored.isZero && exact.isFin1 then 1 else 0)
    saturations := t.saturations + (if s.sat && exact.isFin1 then 1 else 0)
    nans := t.nans + (if stored.isNan then 1 else 0)
    infs := t.infs + (if stored.isInf || (exact.isInf && !stored.isNan) then 1 else 0)
    maxExp := if exact.isFin1 then (match t.maxExp with | none => some exact.exp | some e => some (max e exact.exp)) else t.maxExp
    hist := if stored.isFin1 then updAt t.hist (censusBin ref stored.exp) (· + 1) else t.hist }

/-- One element stored under an output form: the scale taken off, rounded, and counted (R286, R292, R297). -/
def Tally.store (t : Tally) (o : OutForm) (r : Round) (v : Val) : Stored × Tally :=
  let s := fmtEncode o.fmt r (v.scale (-o.scale))
  (s, t.add o.ref v s ((fmtDecode o.fmt s.code).scale o.scale))

/-- A list of values stored under an output form, each with its random number (R288); the codes, and the counts. -/
def Tally.storeAll (o : OutForm) (r : Rnd) (rho : Nat → Nat) (vs : List Val) : List Nat × Tally :=
  let p := vs.foldl
    (fun (a : List Nat × Tally × Nat) v =>
      let (s, t) := a.2.1.store o (roundOf r (if r = .sr then rho a.2.2 else 0)) v
      (s.code :: a.1, t, a.2.2 + 1)) ([], Tally.empty, 0)
  (p.1.reverse, p.2.1)

/-- The step of a context's job; 0 without one. -/
def Ctx.step (x : Ctx) : Nat := match x.job with | some j => j.step | none => 0

/-- The replay attempt a context's operations carry (R293, R303). -/
def Ctx.attempt (x : Ctx) : Nat := match x.replay with | some r => r.attempt | none => 0

/-- A census record's fields after an operation's add (R293): replaced where stamp or attempt differ, summed otherwise. -/
def Work.censusRecord (w : Work) (a step attempt fmt : Nat) (tag : TensorTag) (ref : Int) (t : Tally) : List Byte :=
  let fresh := w.le (a + 4) 4 != step % 2 ^ 32 || bitsOf (w.le (a + 9) 1) 7 5 != attempt
  let old := fun (off : Nat) => if fresh then 0 else w.le (a + off) 8
  let k0 : Int := if fresh then -32768 else w.les (a + 12) 2
  let k := match t.maxExp with | none => k0 | some e => max k0 e
  leBytes 4 (tag.tensor % 65536) ++ leBytes 4 step ++ leBytes 1 fmt ++ leBytes 1 ((if tag.grad then 1 else 0) + attempt * 32)
    ++ leBytes 2 (tag.layer.getD 0xFFFF) ++ leBytes 2 (ofSigned 16 k) ++ leBytes 2 (ofSigned 16 ref)
    ++ leBytes 8 (old 16 + t.elements) ++ leBytes 8 (old 24 + t.zeros) ++ leBytes 8 (old 32 + t.underflows)
    ++ leBytes 8 (old 40 + t.saturations) ++ leBytes 8 (old 48 + t.nans) ++ leBytes 8 (old 56 + t.infs)
    ++ (t.hist.mapIdx fun i h => leBytes 8 (old (64 + 8 * i) + h)).flatten

/-- The cause bits and maximum exponent that a gradient tensor leaves in an open section (R301, R302). -/
def Replay.note (r : Replay) (tag : TensorTag) (t : Tally) : Replay :=
  if tag.grad then
    { r with
      compute := r.compute || decide (0 < t.saturations + t.nans + t.infs)
      maxExp := match t.maxExp with | none => r.maxExp | some e => max r.maxExp e }
  else r

/-- A context's census table: base and identifier count; no identifiers without a job. -/
def Ctx.censusTable (x : Ctx) : Nat × Nat := match x.job with | some j => (j.censusBase, j.censusCount) | none => (0, 0)

/-- CENSUS_ADD (R293): an operation's counts added to the record of its tensor for the step, or the halt's detail where
the identifier is beyond the table (R290). Formats above 0x0A keep no census. -/
def Work.censusAdd (w : Work) (c : Nat) (fmt : Fmt) (tag : TensorTag) (ref : Int) (t : Tally) : Except Nat Work :=
  if fmtInt fmt then .ok w
  else
    let x := w.ctx c
    let (base, n) := x.censusTable
    if n ≤ tag.tensor then .error tag.tensor
    else
      let a := base + 192 * (2 * tag.tensor + x.step % 2)
      let w := w.stN c a (w.censusRecord (localKey c a) x.step x.attempt (fmtCode fmt) tag ref t)
      let w := w.count Ctr.censusAdds 1
      .ok (w.updCtx c fun x => { x with replay := x.replay.map fun r => r.note tag t })

end Sys2Proof.Machine
end

