-- ==== Sys2Proof/Machine/Pitch.lean ====
section
/-!
DEFINITION. Pitches, done-reports and announcements (R40 to R56), the urgent dispatch (R60 to R63, R454 to R457), and the
commands of both. The tick's commit sequence stands in Machine/Tick.lean.
-/

namespace Sys2Proof.Machine

/-! ### The urgent context -/

/-- The urgent context, while its rings are enabled (R453). -/
def Work.urgentCtx (w : Work) : Option Nat := contexts.find? fun c => (w.ctx c).urgent && (w.ctx c).enable

/-- The active sub-pitch in nanoseconds (R60). -/
def Work.subPitchNs (w : Work) : Nat := w.d.active.pitchLen / 2 ^ w.d.active.subdiv

/-- The bound of R456 at the active settings. -/
def Work.urgentBound (w : Work) : Nat := 5000 + 2 * w.subPitchNs

/-- The 32-byte request record (R454). -/
def requestRecord (u : UrgentReq) : List Byte :=
  leBytes 8 u.desc.tag ++ leBytes 4 u.argument ++ leBytes 4 u.inLen ++ leBytes 8 u.inAddr ++ leBytes 8 u.resSrc

/-- The batch of R454: the oldest waiting request, and in fetch order those that name its entry, up to the batch size. -/
def urgentBatchOf (x : Ctx) : List UrgentReq :=
  match x.waiting with
  | [] => []
  | u :: us => (u :: us.filter fun v => v.entry == u.entry).take x.urgentBatch

/-- A tile started at an entry address with `n` requests (R454). -/
def Tile.startUrgent (t : Tile) (pc n : Nat) : Tile :=
  { t with run := .running, pc := pc, loops := [], g := updAt t.g 1 fun _ => BitVec.ofNat 64 n }

/-- The records of a batch written to one tile's data memory, at 0x1_F800 + 32i (R454). -/
def Work.writeRequests (w : Work) (t : Nat) (b : List UrgentReq) : Work :=
  w.wr (dmemKey t 0x1F800) (b.map requestRecord).flatten

/-- URGENT_DISPATCH (R454): the batch written to every tile of the context, and every tile started. -/
def Work.dispatchUrgent (w : Work) (c : Nat) : Work :=
  let x := w.ctx c
  match urgentBatchOf x with
  | [] => w
  | u :: us =>
    let b := u :: us
    match x.job with
    | none => w
    | some j =>
      match j.entries[u.entry]? with
      | none => w.halt c (machineRec 0x22 u.entry)
      | some pc =>
        let w := x.tiles.foldl (fun w t => (w.writeRequests t b).updTile t fun k => k.startUrgent pc b.length) w
        let w := w.countCtx c Ctr.urgentBatches 1
        w.updCtx c fun x =>
          { x with
            waiting := x.waiting.filter fun v => !(b.any fun e => e.desc.seq == v.desc.seq)
            executing := b, dispatchedAt := w.d.nowNs, lateDispatch := false }

/-- A sub-tick (R62): waiting requests are dispatched, or the dispatch falls due when the running execution ends. -/
def Work.subTickNow (w : Work) : Work :=
  match w.urgentCtx with
  | none => w
  | some c =>
    let x := w.ctx c
    if !x.active then w
    else if x.executing = [] then w.dispatchUrgent c
    else w.updCtx c fun x => { x with lateDispatch := true }

/-- Whether every instruction that a tile has issued has completed (R251). -/
def Tile.drained (k : Tile) : Bool := k.mat.isEmpty && k.vecQueue == 0 && k.dma.isEmpty

/-- Whether every tile of a context has stopped and its issued instructions have completed (R251). -/
def Work.tilesIdle (w : Work) (c : Nat) : Bool :=
  (w.ctx c).tiles.all fun t => decide ((w.tile t).run = .stopped) && (w.tile t).drained

/-- The fault of copying a request's result, if any (R361, R455). -/
def Work.resultFault (w : Work) (c : Nat) (u : UrgentReq) : Option (Nat × Nat) :=
  if u.resLen = 0 then none
  else
    match w.accessFault c u.resSrc u.resLen false with
    | some f => some f
    | none => w.accessFault c u.resDst u.resLen true

/-- One request of a finished batch: its result copied, its entry posted, its latency measured (R455, R457). -/
def Work.finishRequest (w : Work) (c ns : Nat) (u : UrgentReq) : Work :=
  if (w.ctx c).halt.valid then w
  else
    match w.resultFault c u with
    | some (r, a) => w.halt c (machineRec r a)
    | none =>
      let w := if u.resLen = 0 then w else w.stN c u.resDst (w.ldN c u.resSrc u.resLen)
      let w := w.complete c u.desc.seq .ok (ns / 10)
      let w := w.countCtx c Ctr.urgentRequests 1
      let lat := w.d.nowNs - u.desc.fetchedAt + 500
      let w := w.updCtx c fun x => { x with latMax := max x.latMax lat }
      if w.urgentBound < lat then
        (w.countCtx c Ctr.urgentBudgetMisses 1).postEvent c 0x0034 (leBytes 4 lat ++ leBytes 8 u.desc.tag)
      else w

/-- The end of an urgent execution (R455); a dispatch that fell due during it follows at once (R62). -/
def Work.endUrgent (w : Work) (c : Nat) : Work :=
  let x := w.ctx c
  let ns := w.d.nowNs - x.dispatchedAt
  let w := x.executing.foldl (fun w u => w.finishRequest c ns u) w
  let w := w.updCtx c fun x => { x with executing := [] }
  if x.lateDispatch then
    let w := w.updCtx c fun x => { x with lateDispatch := false }
    if (w.ctx c).waiting = [] ∨ !(w.ctx c).active then w else (w.count Ctr.subtickCatchup 1).dispatchUrgent c
  else w

/-! ### Done -/

/-- Whether an engine stream has issued all that the pitch plan dispatches up to this pitch (R394). -/
def EStream.issued (s : EStream) : Bool := decide (s.issuable ≤ s.next)

/-- Whether a context is done for the pitch that closes at the next tick (R46, R251, R321, R365, R394). -/
def Work.ctxDone (w : Work) (c : Nat) : Bool :=
  let x := w.ctx c
  match x.job with
  | none => true
  | some j =>
    if !x.active || !j.started then true
    else
      j.streams.all EStream.issued
        && (x.cmds.all fun k => decide (w.tick + 1 < k.dueTick))
        && ((List.range 64).all fun t => !j.tileMask.getLsbD t || (decide ((w.tile t).run ≠ .running) && (w.tile t).drained))
        && (w.d.copies.all fun k => k.ctx != c || k.host || decide (w.tick + 1 < k.dueTick))
        && (w.d.colls.all fun o => o.ref.ctx != c || o.finished || decide (w.tick + 1 < o.dueTick))
        && (w.d.rowMoves.all fun m => m.ctx != c || m.copied || m.action != 0 || decide (w.tick + 1 < m.commit))
        && (match x.replay with | some r => !r.checking | none => true)

/-- Whether the device is done: every context that is not urgent is, and no machine job's context has halted or been
reset (R46, R434, R496). After an overrun the ticks go on without reports (R52, log 14). -/
def Work.deviceDone (w : Work) : Bool :=
  (!w.d.machineStopped || w.d.pitch.overran) && contexts.all fun c => (w.ctx c).urgent || w.ctxDone c

/-- The order of sequence keys (R393). -/
def keyLt (s1 q1 s2 q2 : Nat) : Bool := decide (s1 < s2) || (s1 == s2 && decide (q1 < q2))

/-- Whether everything before the oldest machine fence of every context has completed (R403). -/
def Work.fenceClear (w : Work) : Bool :=
  contexts.all fun c =>
    let x := w.ctx c
    match x.fences.find? fun f => decide (f.scope = .machine) with
    | none => true
    | some f => x.cmds.all fun k => !keyLt k.step k.desc.q f.step f.q

/-- Whether a swap would replace the row map while a row of it has a move pending or in transition (R59). -/
def Work.rowmapBusy (w : Work) : Bool := w.d.shadow.rowMap != w.d.active.rowMap && !w.d.rowMoves.isEmpty

/-- Whether the device holds a machine-scope arm for the tick that closes this pitch, not blocked (R69). -/
def Work.swapReady (w : Work) : Bool :=
  decide (w.d.cfg.armed = some .machine) && w.d.cfg.target == w.tick + 1 && !w.rowmapBusy

/-- The links to the children (R581). -/
def Pitch.children (p : Pitch) : List Nat := (List.range 36).filter fun n => p.childLinks.getLsbD n

/-- Whether the device's tree holds every child's report (R47). -/
def Pitch.childrenDone (p : Pitch) : Bool := p.children.all fun l => p.reports.any fun r => r.link == l

/-- Whether this device generates its own ticks: anchor or standalone (R43, R72). -/
def Role.generates : Role → Bool
  | .follower => false
  | _ => true

/-- The decision margin L (R48): D × 150 ns; 0 for a standalone device (R54). -/
def Pitch.margin (p : Pitch) : Nat :=
  match p.role with
  | .anchor => p.treeDepth * 150
  | .follower => p.treeDepth * 150
  | _ => 0

/-- The report margin (R45). -/
def Pitch.reportMargin (p : Pitch) : Nat :=
  match p.role with
  | .anchor => p.treeDepth * 300
  | .follower => p.treeDepth * 300
  | _ => 100

/-- The grace of the active set in nanoseconds (R50). -/
def Work.graceNs (w : Work) : Nat := w.d.active.pitchLen * w.d.active.grace / 1000

/-- A message given to the links, with its flit counted (R464, R482). -/
def Work.send (w : Work) (link dest : Nat) (job : W32) (m : LinkMsg) : Work :=
  (w.upd fun d => { d with linkOut := d.linkOut ++ [{ link := link, dest := dest, jobTag := job, msg := m }] }).countInst
    Ctr.linkFlitsSent link 1

/-- A BELAY flit on a tree link. -/
def Work.sendBelay (w : Work) (l : Nat) (p : Belay) : Work :=
  (w.send l (w.link l).peerId 0 (.belay p)).updLink l fun k => { k with lastBelay := some (0, p, w.d.pitch.timerNs) }

/-- A link's latency in the 0.1 ns units of R475. -/
def Link.latency (l : Link) : Nat := l.latencyNs10

/-- An announcement sent to every child, with each link's latency added (R474). -/
def Work.forward (w : Work) (p : Belay) : Work :=
  w.d.pitch.children.foldl (fun w l => w.sendBelay l { p with accLatency := p.accLatency + (w.link l).latency }) w

/-- The anchor's announcement of the tick that closes this pitch (R48, R49, R51): its tick follows L later. -/
def Work.announce (w : Work) (stretch : Nat) (overrun : Bool) : Work :=
  let p := w.d.pitch
  let swap := !overrun && w.swapReady && p.reports.all fun r => r.swapReady
  let fence := !overrun && w.fenceClear && p.reports.all fun r => r.fenceClear
  let b : Belay :=
    { kind := 0, flags := (if swap then 1 else 0) + (if overrun then 2 else 0) + (if fence then 4 else 0), accLatency := 0,
      tick := w.tick + 1, length := w.d.active.pitchLen, grace := w.d.active.grace, subdiv := w.d.active.subdiv,
      stretch := stretch }
  let w := w.upd fun d =>
    { d with pitch := { d.pitch with announced := some b, announceAt := d.pitch.timerNs + d.pitch.margin, held := false, reportedSwap := swap } }
  w.forward b

/-- Whether a tick generator holds everything that its announcement needs (R48, R52). -/
def Work.canAnnounce (w : Work) : Bool := w.d.pitch.overran || (w.deviceDone && w.d.pitch.childrenDone)

/-- DONE_REPORT_SEND (R47) on a follower, and the announcement of a held tick at the anchor (R50): what follows whenever
the device may have become done. -/
def Work.tryReport (w : Work) : Work :=
  let p := w.d.pitch
  if !p.run then w
  else if p.role.generates then
    if p.held && p.announced.isNone && w.canAnnounce then w.announce (p.timerNs + p.margin - w.d.active.pitchLen) false else w
  else if p.reported || !w.deviceDone || !p.childrenDone then w
  else
    let swap := w.swapReady && p.reports.all fun r => r.swapReady
    let fence := w.fenceClear && p.reports.all fun r => r.fenceClear
    let b : Belay :=
      { kind := 1, flags := (if swap then 1 else 0) + (if fence then 2 else 0), accLatency := 0, tick := w.tick + 1,
        length := 0, grace := 0, subdiv := 0, stretch := 0 }
    (w.upd fun d => { d with pitch := { d.pitch with reported := true, reportedSwap := w.swapReady } }).sendBelay p.parentLink b

/-! ### Starting and stopping the pitch timer -/

/-- The failing check of one tree link, if any (R44): 2 fused off, 1 untrained, 3 above 140 ns. A fused-off link is also
untrained; cause 2 says more (log 15). -/
def Work.treeLinkCause (w : Work) (l : Nat) : Option Nat :=
  if !w.fz.links.getLsbD l then some 2
  else if decide ((w.link l).state ≠ .up) then some 1
  else if 1400 < (w.link l).latencyNs10 then some 3
  else none

/-- PITCH_TREE_CHECK (R44): the cause and the link of the first failure. -/
def Work.treeCause (w : Work) : Option (Nat × Nat) :=
  let p := w.d.pitch
  let follower := decide (p.role = .follower)
  if follower && decide (36 ≤ p.parentLink) then some (4, p.parentLink)
  else if follower && p.childLinks.getLsbD p.parentLink then some (4, p.parentLink)
  else if !follower && decide (p.role ≠ .anchor) && p.childLinks != 0 then some (4, p.children.headD 0)
  else
    ((if follower then [p.parentLink] else []) ++ p.children).findSome? fun l =>
      match w.treeLinkCause l with
      | some c => some (c, l)
      | none => none

/-- The pitch timer started (R41, R55). -/
def Pitch.start (p : Pitch) : Pitch :=
  { p with
    run := true, ticking := false, tickCount := 0, timerNs := 0, cycle := 0, cycleFrac := 0, reports := [], reported := false,
    reportedSwap := false, announced := none, announceAt := 0, held := false, overran := false }

/-- PITCH_RUN set (R44, R55, R61). -/
def Work.setRun (w : Work) : Work :=
  if w.d.pitch.run then w
  else
    match w.treeCause with
    | some (cause, l) => w.deviceEvent 0x0022 (leBytes 1 cause ++ leBytes 1 l)
    | none =>
      let w := w.upd fun d => { d with pitch := d.pitch.start, machineStopped := false }
      let w := if w.d.pitch.role.generates then w.subTickNow else w
      w.tryReport

/-- Whether any context that is not urgent has an active job, or the urgent context runs (R56). -/
def Work.jobActive (w : Work) : Bool := contexts.any fun c => decide ((w.ctx c).state = .running) && !(w.ctx c).halt.valid

/-- PITCH_RUN cleared (R56). -/
def Work.clearRun (w : Work) : Work :=
  if !w.d.pitch.run then w
  else
    let w := if w.jobActive then w.haltAll (machineRec 0xC3 0) else w
    w.upd fun d =>
      { d with pitch := { d.pitch with run := false, ticking := false, announced := none, held := false, reports := [], reported := false } }

/-! ### Announcements received -/

/-- Whether an announcement disagrees with this follower (R49). -/
def Work.mismatch (w : Work) (p : Belay) : Bool :=
  w.d.active.pitchLen != p.length || w.d.active.grace != p.grace || w.d.active.subdiv != p.subdiv
    || (w.d.pitch.ticking && p.tick != w.tick + 1)

/-- A tick announcement on the parent link (R48, R49, R474, R476): the check, the forwarding, and the tick's moment. -/
def Work.takeAnnouncement (w : Work) (p : Belay) : Work :=
  let w := if w.mismatch p then w.haltNonUrgent (machineRec 0xC4 0) else w
  let l10 := w.d.pitch.margin * 10
  let w := if l10 < p.accLatency then w.countInst Ctr.tickLateArrivals w.d.pitch.parentLink 1 else w
  let w := w.upd fun d =>
    { d with pitch := { d.pitch with announced := some p, announceAt := d.pitch.timerNs + (l10 - p.accLatency) / 10 } }
  w.forward p

/-- A done-report on a child link (R47, R475): kept for the pitch it names, and the device's own report tried. -/
def Work.takeReport (w : Work) (link : Nat) (p : Belay) : Work :=
  let r : ChildReport := { link := link, swapReady := bitOf p.flags 0, fenceClear := bitOf p.flags 1 }
  (w.upd fun d =>
    { d with pitch := { d.pitch with reports := (d.pitch.reports.filter fun e => e.link != link) ++ [r] } }).tryReport

/-- What a LINK_FLIT_INVALID condition does: contexts of machine jobs halt (R481, R501). -/
def Work.flitInvalid (w : Work) (detail : Nat) : Work :=
  contexts.foldl
    (fun w c =>
      match (w.ctx c).job with
      | some j => if j.machine then w.halt c (machineRec 0x69 detail) else w
      | none => w) w

/-! ### The commands -/

/-- PITCH_RUN_SET. -/
def execPitchRunSet (s : State) : Host.Outcome State Fault Refusal := .next (s.exec Work.setRun)

/-- PITCH_RUN_CLEAR. -/
def execPitchRunClear (s : State) : Host.Outcome State Fault Refusal := .next (s.exec Work.clearRun)

/-- ANCHOR_DECISION_POINT: the announcement, or the tick held (R48, R50, R54). -/
def execAnchorDecisionPoint (s : State) : Host.Outcome State Fault Refusal :=
  .next (s.exec fun w =>
    let p := w.d.pitch
    if !p.run || !p.role.generates || p.announced.isSome then w
    else if w.canAnnounce then w.announce 0 false
    else w.upd fun d => { d with pitch := { d.pitch with held := true } })

/-- DONE_REPORT: only while PITCH_RUN is 1, on a child link, and for the pitch that closes (R475). -/
def execDoneReport (link : Nat) (p : Belay) (s : State) : Host.Outcome State Fault Refusal :=
  .next (s.exec fun w =>
    if !w.d.pitch.run then w
    else if p.kind != 1 || !w.d.pitch.childLinks.getLsbD link || p.tick != w.tick + 1 then w.flitInvalid link
    else w.takeReport link p)

/-- TICK_ANNOUNCEMENT: only while PITCH_RUN is 1, on a follower's parent link (R475). -/
def execTickAnnouncement (link : Nat) (p : Belay) (s : State) : Host.Outcome State Fault Refusal :=
  .next (s.exec fun w =>
    if !w.d.pitch.run then w
    else if p.kind != 0 || decide (w.d.pitch.role ≠ .follower) || link != w.d.pitch.parentLink then w.flitInvalid link
    else w.takeAnnouncement p)

/-- OVERRUN_ANNOUNCEMENT: L before the end of the grace, while the tick is held (R51, R54). -/
def execOverrunAnnouncement (s : State) : Host.Outcome State Fault Refusal :=
  .next (s.exec fun w =>
    let p := w.d.pitch
    if !p.run || !p.role.generates || !p.held || p.announced.isSome then w else w.announce w.graceNs true)

/-- TICK_LOST_TIMEOUT: on a follower that has had its first tick, with no announcement; not after a loss of its parent
link, which has halted with LINK_DOWN (R53). -/
def execTickLostTimeout (s : State) : Host.Outcome State Fault Refusal :=
  .next (s.exec fun w =>
    let p := w.d.pitch
    if !p.run || p.role.generates || !p.ticking || p.announced.isSome || decide ((w.link p.parentLink).state ≠ .up) then w
    else w.haltAll (machineRec 0xC3 0))

/-- SUB_TICK: while the pitch timer runs; on a follower only after its first tick (R61, R62). -/
def execSubTick (s : State) : Host.Outcome State Fault Refusal :=
  .next (s.exec fun w => if !w.d.pitch.run || (!w.d.pitch.role.generates && !w.d.pitch.ticking) then w else w.subTickNow)

/-- URGENT_EXECUTION_END: when every tile of the urgent context has stopped and drained (R251, R455). -/
def execUrgentExecutionEnd (s : State) : Host.Outcome State Fault Refusal :=
  .next (s.exec fun w =>
    match w.urgentCtx with
    | none => w
    | some c => if (w.ctx c).executing = [] ∨ !w.tilesIdle c ∨ !(w.ctx c).active then w else w.endUrgent c)

/-- SUBPITCH_OVERRUN: an execution still running one sub-pitch after its dispatch halts the urgent context (R63). -/
def execSubpitchOverrun (s : State) : Host.Outcome State Fault Refusal :=
  .next (s.exec fun w =>
    match w.urgentCtx with
    | none => w
    | some c => if (w.ctx c).executing = [] then w else w.halt c (machineRec 0xC2 0))

end Sys2Proof.Machine
end

