-- ==== Sys2Proof/Machine/Links.lean ====
section
/-!
DEFINITION. The chip-to-chip links: routes over the topology table (R467 to R470), flits with retry and credits (R461
to R466), training (R477, R478), link loss (R463), and the commands of the family.
-/

namespace Sys2Proof.Machine

/-! ### Topology and routes -/

/-- The header of a topology table (R467). -/
structure Topo where
  base : Nat
  proto : Nat
  count : Nat
  rope : Nat
  x : Nat
  y : Nat
  z : Nat
  closure : Nat
  plane : Nat
  deriving DecidableEq, Repr

/-- The topology header at a base (R467). -/
def Work.topo (w : Work) (base : Nat) : Topo :=
  { base := base, proto := w.le (base + 6) 1, count := w.le (base + 8) 2, rope := w.le (base + 10) 1, x := w.le (base + 11) 1,
    y := w.le (base + 12) 1, z := w.le (base + 13) 1, closure := w.le (base + 14) 1, plane := w.le (base + 15) 1 }

/-- Position and rope coordinates of a device (R467). -/
def Topo.coords (t : Topo) (d : Nat) : Nat × Nat × Nat × Nat :=
  (d % t.rope, d / t.rope % t.x, d / t.rope / t.x % t.y, d / t.rope / t.x / t.y)

/-- The device at a position and rope coordinates. -/
def Topo.device (t : Topo) (c : Nat × Nat × Nat × Nat) : Nat := c.1 + t.rope * (c.2.1 + t.x * (c.2.2.1 + t.y * c.2.2.2))

/-- The role of a link of a device (R468). -/
def Work.role (w : Work) (t : Topo) (d l : Nat) : Nat := w.le (t.base + 64 + 64 * d + l) 1

/-- A step along a dimension of size `n`: the neighbour's coordinate, none past the end of a line. -/
def neighbour (n : Nat) (ring plus : Bool) (c : Nat) : Option Nat :=
  if plus then (if c + 1 < n then some (c + 1) else if ring then some 0 else none)
  else if 0 < c then some (c - 1)
  else if ring then some (n - 1)
  else none

/-- The device that a link role leads to from a device (R468); none for a role that leads nowhere. -/
def Topo.peerOf (t : Topo) (d role : Nat) : Option Nat :=
  let (p, x, y, z) := t.coords d
  let plus := role % 2 == 0
  if 0x10 ≤ role ∧ role < 0x18 then
    (if role - 0x10 < t.rope ∧ role - 0x10 ≠ p then some (t.device (role - 0x10, x, y, z)) else none)
  else if role = 0x20 ∨ role = 0x21 then (neighbour t.x (bitOf t.closure 0) plus x).map fun x => t.device (p, x, y, z)
  else if role = 0x22 ∨ role = 0x23 then (neighbour t.y (bitOf t.closure 1) plus y).map fun y => t.device (p, x, y, z)
  else if role = 0x24 ∨ role = 0x25 then (neighbour t.z (bitOf t.closure 2) plus z).map fun z => t.device (p, x, y, z)
  else none

/-- The role that the far end of a link of a role has (R468). -/
def Topo.inverse (t : Topo) (d role : Nat) : Nat := if role < 0x20 then 0x10 + d % t.rope else role ^^^ 1

/-- Valid role codes (R468). -/
def roleValid (r : Nat) : Bool := r == 0 || (decide (0x10 ≤ r) && decide (r < 0x18)) || (decide (0x20 ≤ r) && decide (r ≤ 0x25))

/-- The first link of a device with a property of its role. -/
def firstLink (f : Nat → Bool) : Option Nat := (List.range 36).find? f

/-- The check of an armed topology table (R469): the cause and the offending link. -/
def Work.topoCause (w : Work) (base : Nat) : Option (Nat × Nat) :=
  let t := w.topo base
  let own := w.d.deviceNumber
  let badField := w.le base 4 != 0x4F504F54 || w.le (base + 4) 2 != 1 || decide (1 < t.proto) || t.count == 0
    || decide (16384 < t.count) || t.rope == 0 || decide (8 < t.rope) || t.x == 0 || decide (16 < t.x) || t.y == 0
    || decide (16 < t.y) || t.z == 0 || decide (16 < t.z) || decide (t.rope ≤ t.plane)
  if badField then some (1, 0)
  else if t.count ≠ t.rope * t.x * t.y * t.z then some (2, 0)
  else if t.count ≤ own then some (7, 0)
  else
    let role := fun l => w.role t own l
    let named := fun l => role l != 0
    match firstLink fun l => !roleValid (role l) with
    | some l => some (1, l)
    | none =>
    match firstLink fun l => named l && !w.fz.links.getLsbD l with
    | some l => some (3, l)
    | none =>
    match firstLink fun l => named l && decide ((w.link l).state ≠ .up) with
    | some l => some (4, l)
    | none =>
    match firstLink fun l =>
        named l && (t.peerOf own (role l) != some (w.link l).peerId
          || w.role t (w.link l).peerId (w.link l).peerLink != t.inverse own (role l)) with
    | some l => some (5, l)
    | none =>
    match firstLink fun l => named l && (w.link l).v1 && t.proto == 0 with
    | some l => some (6, l)
    | none => none

/-- The direction along a ring or line of size `n` (R470): the shorter way on a ring, + when equal. -/
def goPlus (n : Nat) (ring : Bool) (a b : Nat) : Bool :=
  if ring then decide ((b + n - a) % n ≤ (a + n - b) % n) else decide (a < b)

/-- The role of the link on which a flit leaves a device for another (R470). -/
def Topo.hopRole (t : Topo) (s d : Nat) : Nat :=
  let (_, x, y, z) := t.coords s
  let (q, x', y', z') := t.coords d
  if x ≠ x' then (if goPlus t.x (bitOf t.closure 0) x x' then 0x20 else 0x21)
  else if y ≠ y' then (if goPlus t.y (bitOf t.closure 1) y y' then 0x22 else 0x23)
  else if z ≠ z' then (if goPlus t.z (bitOf t.closure 2) z z' then 0x24 else 0x25)
  else 0x10 + q

/-- Whether a hop of a role crosses its dimension's dateline (R471). -/
def Topo.crossesDateline (t : Topo) (s role : Nat) : Bool :=
  let (_, x, y, z) := t.coords s
  match role with
  | 0x20 => bitOf t.closure 0 && x + 1 == t.x
  | 0x21 => bitOf t.closure 0 && x == 0
  | 0x22 => bitOf t.closure 1 && y + 1 == t.y
  | 0x23 => bitOf t.closure 1 && y == 0
  | 0x24 => bitOf t.closure 2 && z + 1 == t.z
  | 0x25 => bitOf t.closure 2 && z == 0
  | _ => false

/-- Credits that a link holds for a class and sub-channel (R465). -/
def Link.creditsOf (l : Link) (cls sub : Nat) : Nat := ((l.credits.find? fun e => e.1 == 2 * cls + sub).map fun e => e.2).getD 0

/-- A change of a link's credits. -/
def Link.setCredits (l : Link) (cls sub n : Nat) : Link :=
  { l with credits := (l.credits.filter fun e => e.1 != 2 * cls + sub) ++ [(2 * cls + sub, n)] }

/-- The link that a flit of a class takes toward a device (R470): of the trained links of the hop's role, the one with the
most free credits, the lowest number on a tie. -/
def Work.routeLink (w : Work) (cls dest : Nat) : Option Nat :=
  let t := w.topo w.d.active.topology
  if w.d.active.topology = 0 ∨ t.count ≤ dest then none
  else
    let own := w.d.deviceNumber
    let role := t.hopRole own dest
    let sub := if t.crossesDateline own role then 1 else 0
    ((List.range 36).filter fun l => w.role t own l == role && decide ((w.link l).state = .up)).foldl
      (fun (best : Option Nat) l =>
        match best with
        | none => some l
        | some b => if ((w.link b).creditsOf cls sub) < ((w.link l).creditsOf cls sub) then some l else best) none

/-- The machine's device count; 0 with no machine configured (R469, R567). -/
def Work.deviceCount (w : Work) : Nat := if w.d.active.topology = 0 then 0 else (w.topo w.d.active.topology).count

/-- Whether the machine runs with protocol MIXED (R479). -/
def Work.mixed (w : Work) : Bool := w.d.active.topology != 0 && (w.topo w.d.active.topology).proto == 1

/-- The halt of a request to a peer's global address, if any (R348, R349, R470): address range, device, route. -/
def Work.peerFault (w : Work) (addr : Nat) : Option (Nat × Nat) :=
  let dev := addr / 2 ^ 50
  let a := addr % 2 ^ 50
  if w.d.active.topology = 0 then some (0x68, dev)
  else if w.deviceCount ≤ dev then some (0x44, addr)
  else if !(decide (a < 0x006000000000) || (decide (sharedBase ≤ a) && decide (a < sharedBase + sharedSize))) then some (0x44, addr)
  else
    match w.routeLink 1 dev with
    | none => some (0x68, dev)
    | some _ => none

/-- A routed message of a context toward a device: the link that R470 gives, a credit used, the copy kept for retry (R462,
R465), and the request counted as outstanding where it waits for an answer (R463). -/
def Work.sendRouted (w : Work) (c cls dest : Nat) (job : W32) (request : Bool) (m : LinkMsg) : Work :=
  match w.routeLink cls dest with
  | none => w
  | some l =>
    let t := w.topo w.d.active.topology
    let sub := if t.crossesDateline w.d.deviceNumber (t.hopRole w.d.deviceNumber dest) then 1 else 0
    let free := (w.link l).creditsOf cls sub
    let w := if free = 0 then w.stall c Ctr.stallLinkCredit 10 else w
    let out : LinkOut := { link := l, dest := dest, jobTag := job, msg := m }
    let w := w.send l dest job m
    w.updLink l fun k =>
      let k := k.setCredits cls sub (free - 1)
      { k with
        sendSeq := (k.sendSeq + 1) % 4096
        retry := (k.retry ++ [(k.sendSeq, out)]).drop (k.retry.length + 1 - 512)
        outstanding := if request then k.outstanding ++ [c] else k.outstanding }

/-- An answer to a request of a context has come: one outstanding request less over the links (R463). -/
def Work.answered (w : Work) (c : Nat) : Work :=
  match firstLink fun l => (w.link l).outstanding.contains c with
  | none => w
  | some l => w.updLink l fun k => { k with outstanding := k.outstanding.erase c }

/-- The job tag of a context: its job's, or 0 without one (R361). -/
def Ctx.jobTag (x : Ctx) : W32 := match x.job with | some j => j.tag | none => 0

/-- The context whose LOADED or RUNNING job carries a job tag (R361). -/
def Work.tagged (w : Work) (tag : Nat) : Option Nat :=
  contexts.find? fun c =>
    match (w.ctx c).job with
    | some j => j.tag.toNat == tag && (decide ((w.ctx c).state = .running) || decide ((w.ctx c).state = .loaded))
    | none => false

/-! ### Going down, training -/

/-- Everything of a link that training sets, cleared. -/
def Link.down (l : Link) (s : LinkState) : Link :=
  { l with
    state := s, v1 := false, lanes := 0, spareIn := false, failCause := 0, latencyNs10 := 0, peerId := 0, peerLink := 0,
    peer9300 := false, expectSeq := 0, sendSeq := 0, ackedSeq := 0, discarding := false, retry := [], lastBelay := none,
    nakSeq := none, nakRuns := 0, credits := [], outstanding := [] }

/-- LINK_DOWN (R463): the link leaves UP, and every context that runs a machine job or has a request over it halts. -/
def Work.linkDown (w : Work) (l : Nat) (s : LinkState) : Work :=
  let k := w.link l
  let w := w.updLink l fun k => k.down s
  if k.state = .up then
    contexts.foldl
      (fun w c =>
        let machine := match (w.ctx c).job with | some j => j.machine && decide ((w.ctx c).state = .running) | none => false
        if machine || k.outstanding.contains c then w.halt c (machineRec 0x61 l) else w) w
  else w

/-- A request to switch a domain: four switch at once, further requests queue in order (R537). -/
def Pwr.request (p : Pwr) (dom : Nat) (on : Bool) : Pwr :=
  let s : Switch := { domain := dom, on := on }
  if p.switching.length < 4 then { p with switching := p.switching ++ [s] } else { p with queued := p.queued ++ [s] }

/-- The power domain of a link's group (R536, R557). -/
def linkDomain (l : Nat) : Nat := 44 + l / 6

/-- A write of LINK_TRAIN (R477): ignored on an absent, held or TRAINING link; on an UP link a reset of it (R463). -/
def Work.trainLink (w : Work) (l : Nat) : Work :=
  let k := w.link l
  if !w.fz.links.getLsbD l || k.disable || decide (k.state = .training) then w
  else
    let w := w.linkDown l .training
    if w.d.pwr.domains.getLsbD (linkDomain l) then w
    else w.upd fun d => { d with pwr := { d.pwr.request (linkDomain l) true with linkGroupEn := d.pwr.linkGroupEn ||| BitVec.ofNat 6 (2 ^ (l / 6)) } }

/-- Receive buffers per sub-channel, as credits are initialised (R464). -/
def initialCredits : List (Nat × Nat) := [(2, 64), (3, 64), (4, 128), (5, 128), (6, 256), (7, 256), (8, 16)]

/-- A training that failed (R477). -/
def Work.trainFailed (w : Work) (l cause : Nat) : Work :=
  (w.updLink l fun k => { k.down .failed with failCause := cause }).deviceEvent 0x0041 (leBytes 1 l ++ leBytes 1 cause)

/-- The lowest failing lane of the four that run without a spare. -/
def failedLane (passing : List Nat) : Option Nat := (List.range 4).find? fun n => !passing.contains n

/-- The outcome of a training (R477, R478, R473). -/
def Work.finishTraining (w : Work) (l : Nat) (r : TrainResult) : Work :=
  let passing := (List.range 5).filter fun n => r.passing.contains n
  if passing.length < 4 then w.trainFailed l 1
  else
    let v1 := !r.peerV2 && r.peerV1
    let spare := (failedLane passing).isSome
    let w := match failedLane passing with
      | some n => if r.peerAnswers && v1 then w else w.deviceEvent 0x0042 (leBytes 1 l ++ leBytes 1 n)
      | none => w
    if !r.peerAnswers then w.trainFailed l 2
    else if !r.peerV2 && !r.peerV1 then w.trainFailed l 3
    else if v1 && spare then w.trainFailed l 1
    else if 3500 < r.latencyNs10 then w.trainFailed l 4
    else
      let w := w.updLink l fun k =>
        { k.down .up with
          v1 := v1, lanes := BitVec.ofNat 5 ((passing.take 4).foldl (fun n i => n + 2 ^ i) 0), spareIn := spare,
          latencyNs10 := r.latencyNs10, peerId := r.peerId, peerLink := r.peerLink, peer9300 := r.peer9300,
          credits := initialCredits }
      w.deviceEvent 0x0040 (leBytes 1 l ++ leBytes 1 (if v1 then 1 else 0) ++ leBytes 2 r.latencyNs10)

/-! ### Flits -/

/-- How far sequence number `a` lies after `b`, modulo 4,096. -/
def seqAfter (a b : Nat) : Nat := (a + 4096 - b % 4096) % 4096

/-- A NAK for a sequence at the sender (R462, R463): the retry buffer replayed from there, a BELAY flit built again with
its latency brought up (R474); the eighth in a row for one sequence takes the link down. -/
def Work.nak (w : Work) (l seq : Nat) : Work :=
  let k := w.link l
  let runs := if k.nakSeq = some seq then k.nakRuns + 1 else 1
  if 8 ≤ runs then w.linkDown l .down
  else
    let again := k.retry.filter fun e => decide (seqAfter e.1 seq < 2048)
    let w := w.updLink l fun k => { k with nakSeq := some seq, nakRuns := runs, retry := k.retry.filter fun e => decide (seqAfter e.1 seq < 2048) }
    let w := again.foldl (fun w e => w.send l e.2.dest e.2.jobTag e.2.msg) w
    let w := w.countInst Ctr.linkRetries l again.length
    match k.lastBelay with
    | some (_, b, at_) =>
      w.send l k.peerId 0 (.belay { b with accLatency := if b.kind = 0 then b.accLatency + (w.d.pitch.timerNs - at_) * 10 else 0 })
    | none => w

/-- The BELAY payload in a flit (R475). -/
def parseBelay (bs : List Byte) : Belay :=
  { kind := leNat (bs.take 1), flags := leNat ((bs.drop 1).take 1), accLatency := leNat ((bs.drop 4).take 4),
    tick := leNat ((bs.drop 8).take 8), length := leNat ((bs.drop 16).take 4), grace := leNat ((bs.drop 20).take 2),
    subdiv := leNat ((bs.drop 22).take 1), stretch := leNat ((bs.drop 24).take 4) }

/-- A BELAY payload that has arrived on a link (R475). -/
def Work.takeBelay (w : Work) (l : Nat) (p : Belay) : Work :=
  if !w.d.pitch.run then w
  else if p.kind = 0 then
    (if decide (w.d.pitch.role = .follower) && l == w.d.pitch.parentLink then w.takeAnnouncement p else w.flitInvalid l)
  else if p.kind = 1 then
    (if w.d.pitch.childLinks.getLsbD l && p.tick == w.tick + 1 then w.takeReport l p else w.flitInvalid l)
  else w.flitInvalid l

/-- A peer read served on the owner, or denied (R361, R348): against the context that carries its job tag. -/
def Work.servePeerRead (w : Work) (f : Flit) (addr len reqTag : Nat) : Work :=
  let deny := w.sendRouted 0 2 f.source (BitVec.ofNat 32 f.jobTag) false (.denied reqTag)
  match w.tagged f.jobTag with
  | none => deny
  | some c =>
    if (outside (w.rights c false) addr len).isSome || (w.unmappedIn addr len).isSome
        || !(decide (w.fz.space addr = .hbm) || decide (w.fz.space addr = .shared)) then deny
    else w.sendRouted c 2 f.source (BitVec.ofNat 32 f.jobTag) false (.data reqTag (w.rdN addr len))

/-- A DATA flit taken in order (R461, R470): for another device it is sent on; for this one its messages are taken by
their own commands, a peer read being served here. -/
def Work.takeData (w : Work) (l : Nat) (f : Flit) : Work :=
  if f.dest = w.d.deviceNumber then
    match f.read with
    | some (a, n, tag) => w.servePeerRead f a n tag
    | none => w
  else if w.deviceCount ≤ f.dest then w.flitInvalid l
  else w.sendRouted 0 f.cls f.dest (BitVec.ofNat 32 f.jobTag) false (.data 0 f.payload)

/-- Credits and acknowledgement that any flit carries (R461, R462, R465). -/
def Link.acknowledge (l : Link) (f : Flit) : Link :=
  let l := l.setCredits f.creditClass f.creditSub (l.creditsOf f.creditClass f.creditSub + f.credits)
  { l with ackedSeq := f.ack, retry := l.retry.filter fun e => decide (seqAfter f.ack e.1 ≥ 2048), nakSeq := none, nakRuns := 0 }

/-- A flit with a correct CRC (R461, R462, R481). Sequence numbers order DATA flits; a NULL, NAK, BELAY or TIMESTAMP flit
stands outside the retry buffer (log 16). -/
def Work.takeFlit (w : Work) (l : Nat) (f : Flit) : Work :=
  let k := w.link l
  if f.type_ = 0 ∧ f.seq ≠ k.expectSeq then w
  else
    let w := if f.type_ = 1 then w else w.countInst Ctr.linkFlitsReceived l 1
    if 5 ≤ f.cls ∨ 5 ≤ f.type_ ∨ (f.type_ = 3 ∧ f.cls ≠ 0) then w.flitInvalid l
    else
      let w := w.updLink l fun k =>
        let k := if f.type_ = 2 then k else k.acknowledge f
        if f.type_ = 0 then { k with expectSeq := (k.expectSeq + 1) % 4096, discarding := false } else k
      match f.type_ with
      | 0 => w.takeData l f
      | 2 => w.nak l f.seq
      | 3 => w.takeBelay l (parseBelay f.payload)
      | _ => w

/-- A flit whose CRC does not match (R462): it and the later ones are discarded until a replay, and a NAK names the
expected sequence. -/
def Work.badFlit (w : Work) (l : Nat) : Work :=
  let k := w.link l
  let w := (w.countInst Ctr.linkCrcErrors l 1).updLink l fun k => { k with discarding := true }
  w.send l k.peerId 0 (.nak k.expectSeq)

/-! ### The commands -/

/-- LINK_TRAIN. -/
def execLinkTrain (link : Nat) (s : State) : Host.Outcome State Fault Refusal := .next (s.exec fun w => w.trainLink link)

/-- LINK_TRAINING_DONE: of a link that is TRAINING. -/
def execLinkTrainingDone (link : Nat) (result : TrainResult) (s : State) : Host.Outcome State Fault Refusal :=
  .next (s.exec fun w => if (w.link link).state = .training then w.finishTraining link result else w)

/-- LINK_DISABLE: 1 holds the link DOWN (R463, R477); an absent link takes no write (R560). -/
def execLinkDisable (link : Nat) (value : Bool) (s : State) : Host.Outcome State Fault Refusal :=
  .next (s.exec fun w =>
    if !w.fz.links.getLsbD link then w
    else
      let w := if value then w.linkDown link .down else w
      w.updLink link fun k => { k with disable := value })

/-- FLIT_RECEIVE: on an UP link; corrected symbols counted, then the CRC judged (R462). -/
def execFlitReceive (link : Nat) (f : Flit) (corrected : Nat) (crcOk : Bool) (s : State) : Host.Outcome State Fault Refusal :=
  .next (s.exec fun w =>
    if (w.link link).state ≠ .up then w
    else
      let w := w.countInst Ctr.linkFecCorrected link corrected
      if crcOk then w.takeFlit link f else w.badFlit link)

/-- NAK_RECEIVE. -/
def execNakReceive (link seq : Nat) (s : State) : Host.Outcome State Fault Refusal :=
  .next (s.exec fun w => if (w.link link).state = .up then w.nak link seq else w)

/-- LANE_LOSS_OF_LOCK: of an active lane of an UP link (R463). -/
def execLaneLossOfLock (link lane : Nat) (s : State) : Host.Outcome State Fault Refusal :=
  .next (s.exec fun w => if (w.link link).state = .up ∧ (w.link link).lanes.getLsbD lane then w.linkDown link .down else w)

/-- ACK_TIMEOUT: with flits outstanding (R463). -/
def execAckTimeout (link : Nat) (s : State) : Host.Outcome State Fault Refusal :=
  .next (s.exec fun w => if (w.link link).state = .up ∧ (w.link link).retry ≠ [] then w.linkDown link .down else w)

end Sys2Proof.Machine
end

