-- ==== Sys2Proof/Machine/Rings.lean ====
section
/-!
DEFINITION. Which fetched descriptor an opcode's command acts on: ring order, serial and streaming opcodes (R442).
-/

namespace Sys2Proof.Machine

/-- The first fetched descriptor of a ring that has not started. -/
def Ctx.nextOf (x : Ctx) (ring : Nat) : Option Desc := x.fetched.find? fun d => d.ring == ring && !d.started

/-- Whether every earlier descriptor of its ring has completed (R442). -/
def Ctx.alone (x : Ctx) (d : Desc) : Bool := !x.fetched.any fun e => e.ring == d.ring && decide (e.seq < d.seq)

/-- Whether every earlier descriptor of the context has completed (R442, SYNC). -/
def Ctx.oldest (x : Ctx) (d : Desc) : Bool := !x.fetched.any fun e => decide (e.seq < d.seq)

/-- The descriptor of an opcode that can start now on a ring: the next of the ring, serial ones (and those with FENCE)
alone in it (R442). -/
def Work.ready (w : Work) (c ring opcode : Nat) (serial : Bool) : Option Desc :=
  let x := w.ctx c
  if !x.enable || x.halt.valid then none
  else
    match x.nextOf ring with
    | none => none
    | some d => if d.opcode = opcode ∧ (!(serial || d.fence) ∨ x.alone d) then some d else none

/-- A descriptor marked as started. -/
def Work.startDesc (w : Work) (c seq : Nat) : Work :=
  w.updCtx c fun x => { x with fetched := x.fetched.map fun d => if d.seq = seq then { d with started := true } else d }

/-- A little-endian operand field of a descriptor, by its bytes within the operands (R441, R442). -/
def Desc.field (d : Desc) (off n : Nat) : Nat := leNat ((d.operands.drop off).take n)

end Sys2Proof.Machine
end

