-- ==== Sys2Proof/Machine/Haul.lean ====
section
/-!
DEFINITION. The haul engine: objects and transitions (R356 to R369), quotas and arenas (R370 to R374), haul queues and
streams (R375 to R378), and the commands of the family.
-/

namespace Sys2Proof.Machine

/-! ### The residency table -/

/-- The entry of a handle that is not FREE (R356, R358). -/
def Work.obj (w : Work) (h : Nat) : Option ResEntry := w.d.residency.find? fun e => e.handle == h && decide (e.state ≠ .free)

/-- A change of the entry of a handle. -/
def Work.updObj (w : Work) (h : Nat) (f : ResEntry → ResEntry) : Work :=
  w.upd fun d => { d with residency := d.residency.map fun e => if e.handle = h ∧ e.state ≠ .free then f e else e }

/-- Tiers in order: 0 capacity, 1 HBM, 2 shared store (R345, R346). -/
def Fuses.tier (f : Fuses) (a : Nat) : Option Nat :=
  match f.space a with
  | .cap _ => some 0
  | .hbm => some 1
  | .shared => some 2
  | _ => none

/-- The bytes charged to a context in a tier: homes, new homes, and old homes not yet released (R365, R370). -/
def Work.chargeOf (w : Work) (c t : Nat) : Nat :=
  (w.d.residency.map fun e =>
    let at_ := fun (a owner : Nat) => if owner = c ∧ w.fz.tier a = some t then e.length else 0
    (if e.state = .free ∨ e.state = .installing then 0 else at_ e.home e.charged)
      + (if e.newHome = 0 then 0 else at_ e.newHome e.newCharged)
      + (if e.releasing = 0 then 0 else at_ e.releasing e.relCharged)
      + (match e.deferred with | some d => (if d.newHome = 0 then 0 else at_ d.newHome d.ctx) | none => 0)).sum

/-- A context's byte quota in a tier (R372). -/
def Work.quotaOf (w : Work) (c t : Nat) : Nat :=
  let q := (w.d.active.quotas[c]?).getD Quota.zero
  match t with
  | 0 => q.capacity * 2 ^ 20
  | 1 => q.hbm * 2 ^ 20
  | _ => q.shared * 4096

/-- The detail word of QUOTA_EXCEEDED by tier (R371). -/
def tierDetail (t : Nat) : Nat := match t with | 0 => 3 | 1 => 2 | _ => 1

/-- Whether a range lies in a context's arena for its tier (R364, R373). -/
def Work.inArena (w : Work) (c a len : Nat) : Bool :=
  let x := w.ctx c
  let within := fun (b n : W64) => decide (b.toNat ≤ a) && decide (a + len ≤ b.toNat + n.toNat)
  x.arenaValid
    && (match w.fz.space a with
      | .hbm => within x.arena.hbmBase x.arena.hbmLen
      | .shared => within x.arena.sharedBase x.arena.sharedLen
      | .cap p => if p = 0 then within x.arena.cap0Base x.arena.cap0Len else within x.arena.cap1Base x.arena.cap1Len
      | _ => false)

/-- Whether two ranges overlap. -/
def overlaps (a n b m : Nat) : Bool := decide (a < b + m) && decide (b < a + n)

/-- Whether a range overlaps a place of an object other than `h` (R356, R364). -/
def Work.overlapsOther (w : Work) (h a len : Nat) : Bool :=
  w.d.residency.any fun e =>
    (e.handle != h || decide (e.state = .free))
      && ((decide (e.state ≠ .free) && decide (e.state ≠ .installing) && overlaps a len e.home e.length)
        || (e.newHome != 0 && overlaps a len e.newHome e.length) || (e.releasing != 0 && overlaps a len e.releasing e.length)
        || (match e.deferred with | some d => d.newHome != 0 && overlaps a len d.newHome e.length | none => false))

/-- The 48 bytes of a residency entry (R357). -/
def residencyBytes (e : ResEntry) : List Byte :=
  let code : Nat := match e.state with
    | .free => 0 | .resident => 1 | .moving => 2 | .installing => 3 | .releasing => 4 | .replacing => 5
  leBytes 8 e.home ++ leBytes 8 e.newHome ++ leBytes 8 e.length ++ leBytes 1 code
    ++ leBytes 1 ((if e.evictable then 1 else 0) + (if e.deferred.isSome then 2 else 0)) ++ leBytes 2 e.readers.toNat
    ++ leBytes 1 e.owner ++ leBytes 1 e.charged ++ leBytes 2 0 ++ leBytes 8 e.commitTick ++ leBytes 8 e.releasing

/-! ### Issuers -/

/-- Who issues a haul action: the context, the stream's reference, or the descriptor on the host channel (R442). -/
structure Issuer where
  ctx : Nat
  ref : Option StreamRef
  desc : Option Desc
  queue : Option Nat
  deriving DecidableEq, Repr

/-- A halt of the issuer's context: the stream's record, or that of a host descriptor (R443). -/
def Work.haltIssuer (w : Work) (i : Issuer) (reason detail : Nat) : Work :=
  match i.ref with
  | some r => w.haltStream r 5 reason detail
  | none => w.halt i.ctx (machineRec reason detail)

/-- The haul queue of a stream (R386). -/
def Ctx.queueOf (x : Ctx) (stream : Nat) : Option Nat :=
  match x.job with
  | none => none
  | some j => (j.streams.find? fun s => s.number == stream && s.engine == 5).map fun s => s.queue

/-- The issuer of an action: a running context's stream, or the HAUL descriptor of that action that can start (R442). -/
def Work.issuer (w : Work) (h : HaulFrom) (action : Nat) : Option Issuer :=
  match h with
  | .stream r =>
    if (w.ctx r.ctx).active then some { ctx := r.ctx, ref := some r, desc := none, queue := (w.ctx r.ctx).queueOf r.stream } else none
  | .host c ring =>
    match w.ready c ring 0x20 false with
    | some d => if d.field 0 1 = action then some { ctx := c, ref := none, desc := some d, queue := none } else none
    | none => none

/-- A descriptor's address as a haul source: local, or global where it names a device above bit 49 (R349, log 17). -/
def srcOf (a : Nat) : HaulSrc := if 2 ^ 50 ≤ a then .glob a else .loc a

/-- The place of a source on this device, or none at a peer (R349). -/
def Work.localSource (w : Work) (s : HaulSrc) : Option Nat :=
  match s with
  | .loc a => some (a % 2 ^ 50)
  | .glob a => if a / 2 ^ 50 = w.d.deviceNumber then some (a % 2 ^ 50) else none

/-- The descriptors that an issuer's action completes. -/
def Issuer.descs (i : Issuer) : List (Nat × Nat) := match i.desc with | some d => [(i.ctx, d.seq)] | none => []

/-- The issuer's descriptor completed with OK; nothing for a stream. -/
def Work.finishIssuer (w : Work) (i : Issuer) : Work :=
  match i.desc with
  | some d => w.complete i.ctx d.seq .ok 0
  | none => w

/-- The descriptors of a list completed with OK. -/
def Work.finishDescs (w : Work) (ds : List (Nat × Nat)) : Work := ds.foldl (fun w d => w.complete d.1 d.2 .ok 0) w

/-- The halt of reading a source, if any (R349, R361, R363, R371). -/
def Work.sourceFault (w : Work) (c : Nat) (s : HaulSrc) (len : Nat) : Option (Nat × Nat) :=
  match w.localSource s with
  | some a =>
    match w.accessFault c a len false with
    | some f => some f
    | none =>
      let q := (w.d.active.quotas[c]?).getD Quota.zero
      if w.fz.tier a = some 0 ∧ q.capTags = 0 then some (0x43, 4) else none
  | none => match s with | .glob a => w.peerFault a | .loc a => some (0x44, a)

/-- The halt of writing a capacity port without a tag allowance, if any (R371). -/
def Work.capTagFault (w : Work) (c a : Nat) : Option (Nat × Nat) :=
  if w.fz.tier a = some 0 ∧ ((w.d.active.quotas[c]?).getD Quota.zero).capTags = 0 then some (0x43, 4) else none

/-! ### Copies and transitions -/

/-- A copy put in flight; a read of a peer goes out over the links (R376). -/
def Work.startCopy (w : Work) (k : HaulCopy) : Work :=
  let (id, w) := w.fresh
  let w := w.upd fun d => { d with copies := d.copies ++ [{ k with id := id }] }
  match w.localSource k.source, k.source with
  | none, .glob a => w.sendRouted k.ctx 1 (a / 2 ^ 50) (w.ctx k.ctx).jobTag true (.read (a % 2 ^ 50) k.length id)
  | _, _ => w

/-- The bytes that a copy moves: this device's, or those that the peer returned. -/
def Work.copyBytes (w : Work) (k : HaulCopy) (peer : List Byte) : List Byte :=
  match w.localSource k.source with
  | some a => w.ldN k.ctx a k.length
  | none => padTo k.length peer

/-- The fault of a copy's source data: an uncorrectable block, or a checksum that fails (R487, R493, R494). -/
def Work.copyFault (w : Work) (k : HaulCopy) : Except (Nat × Nat) Nat :=
  match w.localSource k.source with
  | none => .ok 0
  | some a =>
    match w.poisonIn a k.length with
    | some p => .error (0x41, p)
    | none =>
      match w.verifyRange a k.length with
      | .ok n => .ok n
      | .error b => .error (0x42, b)

/-- A transition as its action gives it: kind (R442's action code), context, new home, source, k, and who waits. -/
structure Transition where
  action : Nat
  ctx : Nat
  newHome : Nat
  source : HaulSrc
  k : Nat
  host : Bool
  descs : List (Nat × Nat)
  ref : Option StreamRef
  deriving DecidableEq, Repr

/-- The state an action puts an object into (R358, R363). -/
def actionState (a : Nat) : ObjState :=
  match a with
  | 1 => .installing
  | 2 => .moving
  | 3 => .replacing
  | _ => .releasing

/-- A transition begun on an entry: its state, its new home and charge, its commit tick, and its copy (R363, R365). -/
def Work.begin (w : Work) (h : Nat) (t : Transition) : Work :=
  let due := w.tick + t.k
  let e0 := w.obj h
  let w := w.updObj h fun e =>
    { e with
      state := actionState t.action, newHome := if t.action = 4 then 0 else t.newHome, newCharged := t.ctx, commitTick := due,
      host := t.host, descs := t.descs, copied := decide (t.action = 4), deferred := none }
  match e0 with
  | none => w
  | some e =>
    if t.action = 4 then w
    else
      w.startCopy
        { id := 0, ctx := t.ctx, source := if t.action = 2 then .loc e.home else t.source, dest := t.newHome,
          length := e.length, handle := some h, queue := none, ref := t.ref, stage := false, host := t.host, desc := none, dueTick := due }

/-- How an action meets an object's transitions (R368). -/
inductive Meeting where
  | runs | joinsRunning | joinsWaiting | defers (pingpong : Bool) | conflicts
  deriving DecidableEq, Repr

/-- A running MOVE's or a waiting MOVE's target tier equals a request's (R368). -/
def Work.sameTier (w : Work) (a b : Nat) : Bool := decide (w.fz.tier a = w.fz.tier b)

/-- The rows of R368, for an action on an entry. -/
def Work.meet (w : Work) (e : ResEntry) (action newHome : Nat) : Meeting :=
  let waitsRelease := match e.deferred with | some d => d.action == 4 | none => false
  let waitsMove := match e.deferred with | some d => d.action == 2 && w.sameTier d.newHome newHome | none => false
  if e.state = .resident then .runs
  else if e.state = .releasing then (if action = 4 then .joinsRunning else .conflicts)
  else if waitsRelease then (if action = 4 then .joinsWaiting else .conflicts)
  else if action = 2 ∧ e.state = .moving ∧ w.sameTier e.newHome newHome then .joinsRunning
  else if action = 2 ∧ waitsMove then .joinsWaiting
  else if e.deferred.isSome then .conflicts
  else
    let evicting := decide (e.state = .moving) && decide ((w.fz.tier e.newHome).getD 0 < (w.fz.tier e.home).getD 0)
    let up := decide (action = 2) && decide ((w.fz.tier e.newHome).getD 0 < (w.fz.tier newHome).getD 0)
    .defers (evicting && up)

/-- An action on an existing object taken up under R368, after its checks. -/
def Work.takeUp (w : Work) (h : Nat) (e : ResEntry) (t : Transition) : Work :=
  match w.meet e t.action t.newHome with
  | .runs => w.begin h t
  | .joinsRunning => (w.count Ctr.residencyJoins 1).updObj h fun e => { e with descs := e.descs ++ t.descs }
  | .joinsWaiting =>
    (w.count Ctr.residencyJoins 1).updObj h fun e =>
      { e with deferred := e.deferred.map fun d => { d with descs := d.descs ++ t.descs } }
  | .defers pp =>
    let w := (w.count Ctr.residencyDeferrals 1).count Ctr.residencyPingpong (if pp then 1 else 0)
    w.updObj h fun e =>
      { e with
        deferred := some { action := t.action, ctx := t.ctx, newHome := t.newHome, source := t.source, k := t.k,
                           host := t.host, descs := t.descs, ref := t.ref } }
  | .conflicts => w

/-- The haul allowance of a context (R364, R371). -/
def Work.haulAllowed (w : Work) (c : Nat) : Bool := ((w.d.active.quotas[c]?).getD Quota.zero).haul != 0

/-- Whether a context's own handle range holds a handle (R356). -/
def ownsHandle (c h : Nat) : Bool := h / 4096 == c

/-- The checks of R364 for an action that makes an object or gives it a new home; `some` is the halt. -/
def Work.homeFault (w : Work) (c h home len : Nat) (inUse : Bool) : Option (Nat × Nat) :=
  match w.unmappedIn home len with
  | some f => some f
  | none =>
    if !w.inArena c home len then some (0x48, home)
    else if w.overlapsOther h home len then some (0x46, home)
    else if inUse then some (0x46, h)
    else
      match w.fz.tier home with
      | none => some (0x48, home)
      | some t => if w.quotaOf c t < w.chargeOf c t + len then some (0x43, tierDetail t) else none

/-- Check 1 of R364 on numbers: alignment, lengths, k. -/
def badNumbers (home len k : Nat) (needsLen needsK : Bool) : Bool :=
  home % 4096 != 0 || (needsLen && (len % 4096 != 0 || len == 0 || decide (2 ^ 40 < len))) || (needsK && (k == 0 || decide (255 < k)))

/-- A new entry of the residency table. -/
def newEntry (c h home len readers : Nat) (evictable : Bool) (s : ObjState) (now : Nat) : ResEntry :=
  { handle := h, home := home, newHome := 0, length := len, state := s, evictable := evictable, deferred := none,
    readers := BitVec.ofNat 16 readers, owner := c, charged := c, newCharged := c, commitTick := 0, releasing := 0,
    relCharged := 0, host := false, descs := [], copied := false, resolvedAt := now }

/-- Whether an action with a commit stands in an open replay section of its stream's context (R304). -/
def Work.inSection (w : Work) (i : Issuer) : Bool := i.ref.isSome && (w.ctx i.ctx).replay.isSome

/-- REGISTER (R363, R364). -/
def Work.register (w : Work) (i : Issuer) (h home len readers : Nat) (evictable : Bool) : Work :=
  let c := i.ctx
  if !w.haulAllowed c then w.haltIssuer i 0x43 4
  else if !ownsHandle c h || badNumbers home len 0 true false then w.haltIssuer i 0x22 h
  else
    match w.homeFault c h home len (w.obj h).isSome with
    | some (r, a) => w.haltIssuer i r a
    | none => (w.upd fun d => { d with residency := d.residency ++ [newEntry c h home len readers evictable .resident d.nowNs] }).finishIssuer i

/-- INSTALL (R363, R364). -/
def Work.install (w : Work) (i : Issuer) (h home : Nat) (src : HaulSrc) (len readers k : Nat) : Work :=
  let c := i.ctx
  if w.inSection i then w.haltIssuer i 0x83 0
  else if !w.haulAllowed c then w.haltIssuer i 0x43 4
  else if !ownsHandle c h || badNumbers home len k true true then w.haltIssuer i 0x22 h
  else
    match ((w.homeFault c h home len (w.obj h).isSome).or (w.sourceFault c src len)).or (w.capTagFault c home) with
    | some (r, a) => w.haltIssuer i r a
    | none =>
      let w := w.upd fun d => { d with residency := d.residency ++ [newEntry c h 0 len readers false .installing d.nowNs] }
      let w := match i.desc with | some d => w.startDesc c d.seq | none => w
      w.begin h { action := 1, ctx := c, newHome := home, source := src, k := k, host := i.desc.isSome, descs := i.descs, ref := i.ref }

/-- MOVE, REPLACE and RELEASE on an object (R363, R364, R368). -/
def Work.transition (w : Work) (i : Issuer) (h action newHome : Nat) (src : HaulSrc) (k : Nat) : Work :=
  let c := i.ctx
  if w.inSection i then w.haltIssuer i 0x83 0
  else if !w.haulAllowed c then w.haltIssuer i 0x43 4
  else if badNumbers newHome 0 k false true then w.haltIssuer i 0x22 h
  else
    match w.obj h with
    | none => w.haltIssuer i 0x48 h
    | some e =>
      let may := if action = 2 then e.owner == c || e.readers.getLsbD c else e.owner == c
      let m := w.meet e action newHome
      if !may then w.haltIssuer i 0x48 h
      else if decide (m = .conflicts) then w.haltIssuer i 0x46 h
      else
        let joins := decide (m = .joinsRunning) || decide (m = .joinsWaiting)
        let fault :=
          if joins || action == 4 then none
          else
            match w.homeFault c h newHome e.length false with
            | some f => some f
            | none => (if action = 3 then w.sourceFault c src e.length else none).or (w.capTagFault c newHome)
        match fault with
        | some (r, a) => w.haltIssuer i r a
        | none =>
          let w := match i.desc with | some d => w.startDesc c d.seq | none => w
          w.takeUp h e { action := action, ctx := c, newHome := newHome, source := src, k := k, host := i.desc.isSome, descs := i.descs, ref := i.ref }

/-- A STAGE window: wholly in HBM or the shared store (R367). -/
def Work.windowOk (w : Work) (a len : Nat) : Bool :=
  (decide (w.fz.space a = .hbm) && decide (w.fz.space (a + len - 1) = .hbm))
    || (decide (w.fz.space a = .shared) && decide (w.fz.space (a + len - 1) = .shared))

/-- Whether a source is in the lower tier: a capacity port, or a peer (R345, R367). -/
def Work.lowerTier (w : Work) (s : HaulSrc) : Bool :=
  match w.localSource s with
  | some a => decide (w.fz.tier a = some 0)
  | none => true

/-- The halt of a plain copy, if any (R363, R367). -/
def Work.plainFault (w : Work) (c : Nat) (stage : Bool) (src : HaulSrc) (dst len : Nat) : Option (Nat × Nat) :=
  if len = 0 ∨ 2 ^ 40 < len then some (0x22, len % 2 ^ 32)
  else if stage && (!w.lowerTier src || !w.windowOk dst len) then some (0x22, dst)
  else (w.sourceFault c src len).or (w.accessFault c dst len true)

/-- STAGE and COPY (R363, R367). -/
def Work.plainCopy (w : Work) (i : Issuer) (stage : Bool) (src : HaulSrc) (dst len : Nat) : Work :=
  if !w.haulAllowed i.ctx then w.haltIssuer i 0x43 4
  else
    match w.plainFault i.ctx stage src dst len with
    | some (r, a) => w.haltIssuer i r a
    | none =>
      let w := match i.desc with | some d => w.startDesc i.ctx d.seq | none => w
      w.startCopy
        { id := 0, ctx := i.ctx, source := src, dest := dst, length := len, handle := none, queue := none, ref := i.ref, stage := stage,
          host := i.desc.isSome, desc := i.desc.map fun d => (i.ctx, d.seq), dueTick := w.tick + 1 }

/-- RESIDENCY_QUERY (R357); a handle that is not in use reads as a FREE entry. -/
def Work.query (w : Work) (i : Issuer) (h dst : Nat) : Work :=
  if !w.haulAllowed i.ctx then w.haltIssuer i 0x43 4
  else
    match w.accessFault i.ctx dst 48 true with
    | some (r, a) => w.haltIssuer i r a
    | none =>
      let bytes := match w.obj h with | some e => residencyBytes e | none => List.replicate 48 0
      (w.stN i.ctx dst bytes).finishIssuer i

/-! ### Commit and release -/

/-- An entry after its transition commits (R363, R365): the home changes, the old place is releasing. -/
def ResEntry.committed (e : ResEntry) : ResEntry :=
  match e.state with
  | .installing => { e with home := e.newHome, charged := e.newCharged, newHome := 0, state := .resident, commitTick := 0, descs := [] }
  | .moving | .replacing =>
    { e with releasing := e.home, relCharged := e.charged, home := e.newHome, charged := e.newCharged, newHome := 0, state := .resident,
             commitTick := 0, descs := [] }
  | .releasing => { e with state := .free, releasing := e.home, relCharged := e.charged, commitTick := 0, descs := [] }
  | _ => e

/-- Whether a transition commits at this tick (R365): its commit tick has come and its copy is written. -/
def ResEntry.due (e : ResEntry) (tick : Nat) : Bool :=
  (decide (e.state = .moving) || decide (e.state = .installing) || decide (e.state = .releasing) || decide (e.state = .replacing))
    && decide (e.commitTick ≤ tick) && e.copied

/-- One transition committed at step 2 (R57, R365, R368): descriptors that wait for it complete, and a deferred action
starts from the new home. -/
def Work.commitOne (w : Work) (e : ResEntry) : Work :=
  let w := (w.updObj e.handle ResEntry.committed).count Ctr.haulCommits 1
  let w := w.finishDescs e.descs
  match e.deferred with
  | none => w
  | some d =>
    w.begin e.handle { action := d.action, ctx := d.ctx, newHome := d.newHome, source := d.source, k := d.k, host := d.host, descs := d.descs, ref := d.ref }

/-- Residency moves committed at step 2 of a tick (R57); a transition whose copy is not written waits for the next tick. -/
def Work.commitResidency (w : Work) : Work :=
  let due := w.d.residency.filter fun e => e.due w.tick
  let w := due.foldl Work.commitOne w
  w.upd fun d =>
    { d with
      residency := d.residency.map fun e =>
        if (e.state = .moving ∨ e.state = .installing ∨ e.state = .replacing) ∧ e.commitTick ≤ d.pitch.tickCount.toNat ∧ !e.copied then
          { e with commitTick := d.pitch.tickCount.toNat + 1 }
        else e }

/-- Whether any issued command still holds a range (R362). -/
def Work.heldByCmd (w : Work) (lo len : Nat) : Bool :=
  (contexts.any fun c => (w.ctx c).cmds.any fun k => k.started && k.regions.any fun r => overlaps r.lo r.len lo len)
    || w.d.copies.any fun k => match w.localSource k.source with | some a => overlaps a k.length lo len | none => false

/-- The old home of a handle released, where nothing holds it (R362); a FREE entry then goes. -/
def Work.releaseOld (w : Work) (h : Nat) : Work :=
  let can := fun (e : ResEntry) => e.handle == h && e.releasing != 0 && !w.heldByCmd e.releasing e.length
  w.upd fun d =>
    { d with
      residency :=
        (d.residency.map fun e => if can e then { e with releasing := 0, relCharged := 0 } else e).filter fun e =>
          !(e.handle == h && decide (e.state = .free) && e.releasing == 0) }

/-- Bytes of a copy that pass a capacity port (R382). -/
def Work.countCapacity (w : Work) (k : HaulCopy) : Work :=
  let rd := match w.localSource k.source with | some a => w.fz.tier a == some 0 | none => false
  let w := w.count Ctr.capacityBytesRead (if rd then k.length else 0)
  w.count Ctr.capacityBytesWritten (if w.fz.tier k.dest = some 0 then k.length else 0)

/-- A re-arm taken into effect at stream end (R378): chunk 0 follows into the next window. -/
def HaulQueue.rearmed (q : HaulQueue) (r : Rearm) : HaulQueue :=
  { q with source := r.source, chunks := r.count.getD q.chunks, next := 0, pending := none }

/-- A change of a haul queue. -/
def Work.updQueue (w : Work) (n : Nat) (f : HaulQueue → HaulQueue) : Work :=
  w.upd fun d => { d with queues := d.queues.map fun q => if q.number = n then f q else q }

/-- A haul queue by number. -/
def Work.queue (w : Work) (n : Nat) : Option HaulQueue := w.d.queues.find? fun q => q.number == n

/-- The record of a queue's own stream. -/
def Work.queueRef (w : Work) (q : HaulQueue) : StreamRef :=
  let n := match (w.ctx q.ctx).job with
    | some j => ((j.streams.find? fun s => s.engine == 5 && s.queue == q.number).map fun s => s.number).getD 0
    | none => 0
  { ctx := q.ctx, stream := n, section_ := 0, offset := 0, cmdAddr := 0, keyStep := (w.ctx q.ctx).step, keyQ := 0 }

/-- The halt record of a copy (R407, R443, R570): its stream's, its haul queue's stream, or a host descriptor's. -/
def Work.copyRec (w : Work) (k : HaulCopy) (reason detail : Nat) : HaltRec :=
  match k.ref, k.queue.bind w.queue with
  | some r, _ => streamRec r 5 reason detail
  | none, some q => streamRec (w.queueRef q) 5 reason detail
  | none, none => machineRec reason detail

/-- A finished copy (R365, R367, R377, R493): its bytes written, the transition's copy marked, the descriptor completed, the
stream's chunk counted. -/
def Work.finishCopy (w : Work) (k : HaulCopy) (peer : List Byte) : Work :=
  let w := w.upd fun d => { d with copies := d.copies.filter fun e => e.id != k.id }
  let w := if (w.localSource k.source).isNone then w.answered k.ctx else w
  match w.copyFault k with
  | .error (r, a) => if r = 0x41 then w.poisonHalt k.ctx (w.copyRec k r a) a else w.halt k.ctx (w.copyRec k r a)
  | .ok n =>
    let w := w.count Ctr.tensorBlocksVerified n
    let w := w.stN k.ctx k.dest (w.copyBytes k peer)
    let w := (w.count Ctr.haulBytes k.length).countCapacity k
    let w := w.count Ctr.haulStages (if k.stage then 1 else 0)
    let w := match k.handle with
      | some h => w.updObj h fun e => { e with copied := true }
      | none => w
    let w := match k.queue with
      | some q => w.updQueue q fun q =>
          { q with filling := false, next := q.next + 1, window := (q.window + 1) % max 1 ((q.params.map fun (p : HaulStreamParams) => p.windows.length).getD 1) }
      | none => w
    let w := match k.desc with
      | some d => w.complete d.1 d.2 .ok 0
      | none => w
    w.tryReport

/-! ### Streams -/

/-- Whether a stream's parameters are in range (R377). -/
def HaulStreamParams.ok (p : HaulStreamParams) : Bool :=
  p.chunkLength % 4096 == 0 && decide (4096 ≤ p.chunkLength) && decide (p.chunkLength ≤ 2 ^ 30) && decide (1 ≤ p.chunkCount)
    && decide (p.chunkCount ≤ 65535) && (p.windows.length == 1 || p.windows.length == 2)

/-- The source of a chunk. -/
def chunkSource (s : HaulSrc) (off : Nat) : HaulSrc :=
  match s with
  | .loc a => .loc (a + off)
  | .glob a => .glob (a + off)

/-- Whether issued commands still read a window (R377). -/
def Work.windowRead (w : Work) (c lo len : Nat) : Bool :=
  (w.ctx c).cmds.any fun k => k.regions.any fun r => overlaps r.lo r.len lo len

/-- The next chunk of a queue's stream started into its window, once the window's readers have completed (R377). -/
def Work.fillChunk (w : Work) (n : Nat) : Work :=
  match w.queue n with
  | none => w
  | some q =>
    match q.params with
    | none => w
    | some p =>
      if q.filling || decide (q.chunks ≤ q.next) then w
      else
        let dst := (p.windows[q.window]?).getD 0
        let src := chunkSource q.source (q.next * p.chunkLength)
        if w.windowRead q.ctx dst p.chunkLength then w.stall q.ctx Ctr.stallScoreboard 10
        else
          match w.plainFault q.ctx p.stage src dst p.chunkLength with
          | some (r, a) => w.haltStream (w.queueRef q) 5 r a
          | none =>
            (w.updQueue n fun q => { q with filling := true }).startCopy
              { id := 0, ctx := q.ctx, source := src, dest := dst, length := p.chunkLength, handle := none, queue := some n, ref := none,
                stage := p.stage, host := false, desc := none, dueTick := w.tick + 1 }

/-- A stream armed in a queue (R377), then its first chunk. -/
def Work.armStream (w : Work) (n : Nat) (p : HaulStreamParams) : Work :=
  match w.queue n with
  | none => w
  | some q =>
    if !w.haulAllowed q.ctx then w.haltStream (w.queueRef q) 5 0x43 4
    else if !HaulStreamParams.ok p then w.haltStream (w.queueRef q) 5 0x22 n
    else
      (w.updQueue n fun q => { q with params := some p, source := p.source, chunks := p.chunkCount, next := 0, window := 0, filling := false, pending := none }).fillChunk n

/-- Re-arms released at step 5 of a tick (R378); one whose stream has already ended takes effect at once. -/
def Work.releaseRearms (w : Work) : Work :=
  let ended := (w.d.queues.filter fun q => q.pending.isSome && !q.filling && decide (q.chunks ≤ q.next)).length
  (w.upd fun d =>
    { d with
      queues := d.queues.map fun q =>
        match q.pending with
        | none => q
        | some r => if !q.filling && decide (q.chunks ≤ q.next) then q.rearmed r else { q with pending := some { r with released := true } } }).count
    Ctr.haulRearms ended

/-! ### Residency policy -/

/-- Where the firmware puts an evicted object: the first free place of its length in the context's capacity arena. -/
def Work.evictPlace (w : Work) (c h len : Nat) : Option Nat :=
  let a := (w.ctx c).arena
  let places := fun (b n : W64) =>
    b.toNat :: (w.d.residency.flatMap fun e => [e.home + e.length, e.newHome + e.length]).filter fun p =>
      decide (b.toNat ≤ p) && decide (p + len ≤ b.toNat + n.toNat)
  ((places a.cap0Base a.cap0Len ++ places a.cap1Base a.cap1Len).mergeSort (· ≤ ·)).find? fun p => (w.homeFault c h p len false).isNone

/-- One eviction of the firmware's policy, with k = 2 (R374). -/
def Work.evict (w : Work) (c : Nat) (e : ResEntry) : Work :=
  match w.evictPlace c e.handle e.length with
  | none => w
  | some p => w.begin e.handle { action := 2, ctx := c, newHome := p, source := .loc 0, k := 2, host := false, descs := [], ref := none }

/-- The charge of a context in HBM after its pending commits (R374). -/
def Work.chargeAfter (w : Work) (c : Nat) : Nat :=
  (w.d.residency.map fun e =>
    let a := if e.newHome ≠ 0 then e.newHome else e.home
    let who := if e.newHome ≠ 0 then e.newCharged else e.charged
    if who = c ∧ w.fz.tier a = some 1 ∧ e.state ≠ .free ∧ e.state ≠ .releasing then e.length else 0).sum

/-- The firmware's residency policy for a context at a tick (R374): least recently resolved first, down to 90 %. -/
def Work.residencyPolicy (w : Work) (c : Nat) : Work :=
  let q := w.quotaOf c 1
  if !(w.ctx c).policy || decide (w.chargeOf c 1 * 100 ≤ q * 95) then w
  else
    let cands := (w.d.residency.filter fun e =>
      e.charged == c && e.evictable && decide (e.state = .resident) && decide (w.fz.tier e.home = some 1) && !w.heldByCmd e.home e.length).mergeSort
        fun a b => a.resolvedAt ≤ b.resolvedAt
    cands.foldl (fun w e => if w.chargeAfter c * 100 ≤ q * 90 then w else w.evict c e) w

/-! ### The commands -/

/-- The operands of a haul action: the command's own for a stream, the descriptor's for the host channel (R442). -/
structure HaulArgs where
  handle : Nat
  a : Nat
  source : HaulSrc
  b : Nat
  length : Nat
  readers : Nat
  k : Nat
  evictable : Bool
  deriving DecidableEq, Repr

/-- The operands in force. -/
def Issuer.args (i : Issuer) (own : HaulArgs) : HaulArgs :=
  match i.desc with
  | none => own
  | some d =>
    { handle := d.field 4 2, a := d.field 8 8, source := srcOf (if d.field 0 1 = 5 ∨ d.field 0 1 = 6 then d.field 8 8 else d.field 16 8),
      b := d.field 16 8, length := d.field 24 8, readers := d.field 2 2, k := d.field 1 1, evictable := bitOf (d.field 6 1) 0 }

/-- A host REGISTER or INSTALL outside its handle range completes with OPCODE_INVALID instead of halting (R443). -/
def Work.hostHandleBad (w : Work) (i : Issuer) (h : Nat) : Option Work :=
  match i.desc with
  | some d => if ownsHandle i.ctx h then none else some (w.complete i.ctx d.seq .opcodeInvalid 0)
  | none => none

/-- An action run for its issuer, if it has one now. -/
def Work.haul (w : Work) (h : HaulFrom) (action : Nat) (own : HaulArgs) (f : Work → Issuer → HaulArgs → Work) : Work :=
  match w.issuer h action with
  | none => w
  | some i => f w i (i.args own)

/-- Operands that an action does not use. -/
def HaulArgs.none : HaulArgs :=
  { handle := 0, a := 0, source := .loc 0, b := 0, length := 0, readers := 0, k := 0, evictable := false }

/-- REGISTER. -/
def execRegister (h : HaulFrom) (handle home length readers : Nat) (evictable : Bool) (s : State) : Host.Outcome State Fault Refusal :=
  .next (s.exec fun w =>
    w.haul h 0 { HaulArgs.none with handle := handle, a := home, length := length, readers := readers, evictable := evictable }
      fun w i p => (w.hostHandleBad i p.handle).getD (w.register i p.handle p.a p.length p.readers p.evictable))

/-- INSTALL. -/
def execInstall (h : HaulFrom) (handle newHome : Nat) (source : HaulSrc) (length readers k : Nat) (s : State) : Host.Outcome State Fault Refusal :=
  .next (s.exec fun w =>
    w.haul h 1 { HaulArgs.none with handle := handle, a := newHome, source := source, length := length, readers := readers, k := k }
      fun w i p => (w.hostHandleBad i p.handle).getD (w.install i p.handle p.a p.source p.length p.readers p.k))

/-- MOVE. -/
def execMove (h : HaulFrom) (handle newHome k : Nat) (s : State) : Host.Outcome State Fault Refusal :=
  .next (s.exec fun w =>
    w.haul h 2 { HaulArgs.none with handle := handle, a := newHome, k := k } fun w i p => w.transition i p.handle 2 p.a (.loc 0) p.k)

/-- REPLACE. -/
def execReplace (h : HaulFrom) (handle newHome : Nat) (source : HaulSrc) (k : Nat) (s : State) : Host.Outcome State Fault Refusal :=
  .next (s.exec fun w =>
    w.haul h 3 { HaulArgs.none with handle := handle, a := newHome, source := source, k := k }
      fun w i p => w.transition i p.handle 3 p.a p.source p.k)

/-- RELEASE. -/
def execRelease (h : HaulFrom) (handle k : Nat) (s : State) : Host.Outcome State Fault Refusal :=
  .next (s.exec fun w =>
    w.haul h 4 { HaulArgs.none with handle := handle, k := k } fun w i p => w.transition i p.handle 4 0 (.loc 0) p.k)

/-- STAGE. -/
def execStage (h : HaulFrom) (source : HaulSrc) (window length : Nat) (s : State) : Host.Outcome State Fault Refusal :=
  .next (s.exec fun w =>
    w.haul h 5 { HaulArgs.none with source := source, b := window, length := length } fun w i p => w.plainCopy i true p.source p.b p.length)

/-- COPY. -/
def execCopy (h : HaulFrom) (source : HaulSrc) (dest length : Nat) (s : State) : Host.Outcome State Fault Refusal :=
  .next (s.exec fun w =>
    w.haul h 6 { HaulArgs.none with source := source, b := dest, length := length } fun w i p => w.plainCopy i false p.source p.b p.length)

/-- RESIDENCY_QUERY. -/
def execResidencyQuery (h : HaulFrom) (handle dest : Nat) (s : State) : Host.Outcome State Fault Refusal :=
  .next (s.exec fun w => w.haul h 7 { HaulArgs.none with handle := handle, a := dest } fun w i p => w.query i p.handle p.a)

/-- HAUL_COPY_DONE: `peer` holds what a peer source returned; a denial halts (R361). -/
def execHaulCopyDone (copy : Nat) (peer : Option PeerData) (s : State) : Host.Outcome State Fault Refusal :=
  .next (s.exec fun w =>
    match w.d.copies.find? fun k => k.id == copy with
    | none => w
    | some k =>
      match peer with
      | some (.denied a) =>
        (w.upd fun d => { d with copies := d.copies.filter fun e => e.id != k.id }).halt k.ctx (w.copyRec k 0x48 a)
      | some (.data bs) => w.finishCopy k bs
      | none => if (w.localSource k.source).isSome then w.finishCopy k [] else w.stall k.ctx Ctr.stallDataLatePeer 10)

/-- OLD_HOME_RELEASE. -/
def execOldHomeRelease (handle : Nat) (s : State) : Host.Outcome State Fault Refusal := .next (s.exec fun w => w.releaseOld handle)

/-- STREAM_REARM: one re-arm may be pending (R378). -/
def execStreamRearm (r : StreamRef) (source : HaulSrc) (count : Option Nat) (s : State) : Host.Outcome State Fault Refusal :=
  .next (s.exec fun w =>
    if !(w.ctx r.ctx).active then w
    else
      match ((w.ctx r.ctx).queueOf r.stream).bind w.queue with
      | none => w.haltStream r 5 0x22 0
      | some q =>
        let bad := match count with | some n => n == 0 || decide (65535 < n) | none => false
        if q.params.isNone || q.pending.isSome || bad then w.haltStream r 5 0x22 q.number
        else w.updQueue q.number fun q => { q with pending := some { source := source, count := count, released := false } })

/-- STREAM_CHUNK_FILL: a stream armed with its parameters, or its next chunk (R377). -/
def execStreamChunkFill (queue : Nat) (arm : Option HaulStreamParams) (s : State) : Host.Outcome State Fault Refusal :=
  .next (s.exec fun w =>
    match w.queue queue with
    | none => w
    | some q =>
      if !(w.ctx q.ctx).active then w
      else
        match arm with
        | some p => w.armStream queue p
        | none => w.fillChunk queue)

/-- STREAM_END: after the last chunk a released re-arm takes effect; without one the stream stands stopped (R378). -/
def execStreamEnd (queue : Nat) (s : State) : Host.Outcome State Fault Refusal :=
  .next (s.exec fun w =>
    match w.queue queue with
    | none => w
    | some q =>
      if q.filling || decide (q.next < q.chunks) then w
      else
        match q.pending with
        | some r => if r.released then (w.updQueue queue fun q => q.rearmed r).count Ctr.haulRearms 1 else w
        | none => w)

end Sys2Proof.Machine
end

