-- ==== Sys2Proof/Machine/RowMap.lean ====
section
/-!
DEFINITION. Row maps, width classes, row moves and the hot set (R163 to R186), and the commands of the family.
-/

namespace Sys2Proof.Machine

/-! ### The row map -/

/-- The active row map's base; 0 with none (R163, R567). -/
def Work.mapBase (w : Work) : Nat := w.d.active.rowMap

/-- Whether the active row map's header has its magic and version (R163, R166). -/
def Work.mapHeaderOk (w : Work) : Bool := w.le w.mapBase 4 == 0x504D5752 && w.le (w.mapBase + 4) 2 == 1

/-- The entry count; 0 with no row map (R567). -/
def Work.mapCount (w : Work) : Nat := if w.mapBase = 0 then 0 else w.le (w.mapBase + 8) 8

/-- The hot pool: base, slot size, slot count (R163). -/
def Work.hotPool (w : Work) : Nat × Nat × Nat :=
  if w.mapBase = 0 then (0, 0, 0) else (w.le (w.mapBase + 16) 8, w.le (w.mapBase + 24) 4, w.le (w.mapBase + 28) 4)

/-- The slot of the hot pool that begins at an address (R175). -/
def Work.hotSlot (w : Work) (a : Nat) : Option Nat :=
  let (b, size, n) := w.hotPool
  if b = 0 ∨ size = 0 ∨ a < b ∨ (a - b) % size ≠ 0 ∨ n ≤ (a - b) / size then none else some ((a - b) / size)

/-- Whether an address lies in the hot pool (R182). -/
def Work.isHot (w : Work) (a : Nat) : Bool :=
  let (b, size, n) := w.hotPool
  b != 0 && decide (b ≤ a) && decide (a < b + size * n)

/-- A row map entry (R164). -/
structure RowEntry where
  addr : Nat
  home : Nat
  newHome : Nat
  state : Nat
  cls : Nat
  newCls : Nat
  flags : Nat
  elems : Nat
  commit : Nat
  deriving DecidableEq, Repr

/-- Entry `i` (R163, R164). -/
def Work.rowEntry (w : Work) (i : Nat) : RowEntry :=
  let a := w.mapBase + 128 + 32 * i
  { addr := a, home := w.le a 8 % 2 ^ 50, newHome := w.le (a + 8) 8 % 2 ^ 50, state := w.le (a + 16) 1, cls := w.le (a + 17) 1,
    newCls := w.le (a + 18) 1, flags := w.le (a + 19) 1, elems := w.le (a + 20) 2, commit := w.le (a + 24) 8 }

/-- An entry written back (R164, R167). -/
def Work.writeEntry (w : Work) (e : RowEntry) : Work :=
  w.wr e.addr
    (leBytes 8 e.home ++ leBytes 8 e.newHome ++ leBytes 1 e.state ++ leBytes 1 e.cls ++ leBytes 1 e.newCls ++ leBytes 1 e.flags
      ++ leBytes 2 e.elems ++ leBytes 2 0 ++ leBytes 8 e.commit)

/-- PENDING (R164). -/
def RowEntry.pending (e : RowEntry) : Bool := bitOf e.flags 6

/-- CHARGED (R164, R182). -/
def RowEntry.isCharged (e : RowEntry) : Bool := bitOf e.flags 5

/-- Firmware-managed (R164). -/
def RowEntry.managed (e : RowEntry) : Bool := bitOf e.flags 4

/-- The flags byte (R164). -/
def rowFlags (ctx : Nat) (managed charged pending : Bool) : Nat :=
  ctx % 16 + (if managed then 16 else 0) + (if charged then 32 else 0) + (if pending then 64 else 0)

/-- Bytes of a row before rounding (R168). -/
def rowBytes (cls e : Nat) : Nat :=
  match cls with
  | 0 => 4 * e
  | 1 => 2 * e
  | 2 => e + 4
  | _ => ceilDiv e 2 + 4

/-- A row's stored length (R168). -/
def storedLen (cls e : Nat) : Nat := roundUp (rowBytes cls e) 16

/-- The halt of a lookup that reads an entry which cannot hold a row of these elements (R166). -/
def RowEntry.invalid (e : RowEntry) (elems : Nat) : Bool :=
  decide (5 ≤ e.state) || decide (4 ≤ e.cls)
    || ((e.state == 1 || e.state == 2 || e.state == 3) && (e.elems == 0 || decide (4096 < e.elems) || e.elems != elems))

/-- Whether an entry holds a row that a gather reads at its home (R165). -/
def RowEntry.holdsRow (e : RowEntry) : Bool := e.state == 1 || e.state == 2 || e.state == 3

/-! ### Width classes -/

/-- The elements of a stored row, widened exactly (R168 to R170); none for ROW_SCALE_INVALID. -/
def widenRow (cls e : Nat) (bs : List Byte) : Option (List Val) :=
  match cls with
  | 0 => some (tab e fun i => f32.decode (unpackElem 32 bs i))
  | 1 => some (tab e fun i => bf16.decode (unpackElem 16 bs i))
  | c =>
    let off := if c = 2 then e else ceilDiv e 2
    let word := leNat ((bs.drop off).take 4)
    let s := toSigned 8 word
    if s < -100 ∨ 100 < s ∨ bitsOf word 15 8 ≠ c then none
    else if c = 2 then some (tab e fun i => (e4m3.decode (unpackElem 8 bs i)).scale s)
    else some (tab e fun i => Val.ofInt (toSigned 4 (unpackElem 4 bs i)) s)

/-- What a narrowing counts (R172). -/
structure NarrowCount where
  sat : Nat
  nan : Nat
  under : Nat
  deriving DecidableEq, Repr

/-- The row scale that R171 chooses. -/
def rowScale (cls : Nat) (vs : List Val) : Int :=
  match vs.foldl (fun (m : Option Val) v => if v.isFin1 then (match m with | none => some v.abs | some k => if k.lt v.abs then some v.abs else some k) else m) none with
  | none => 0
  | some m =>
    let s := if cls = 2 then m.exp - 7 else (let s := m.exp - 2; if (m.scale (-s)).lt (.fin false 15 (-1) false) then s else s + 1)
    min (max s (-100)) 100

/-- An element narrowed to INT4S at a scale (R171, R172). -/
def int4Elem (s : Int) (v : Val) : Stored :=
  match v with
  | .nan => { code := 0, sat := false }
  | .inf n => { code := if n then 8 else 7, sat := true }
  | v =>
    let i := (v.scale (-s)).toInt .rne
    if 7 < i then { code := 7, sat := true } else if i < -8 then { code := 8, sat := true } else { code := ofSigned 4 i, sat := false }

/-- A row narrowed into a class: its stored bytes without padding, and what is counted (R171, R172). -/
def narrowRow (cls : Nat) (vs : List Val) : List Byte × NarrowCount :=
  let s := rowScale cls vs
  let es : List Stored := match cls with
    | 0 => vs.map (f32.encode .rne)
    | 1 => vs.map (bf16.encode .rne)
    | 2 => vs.map fun v => let r := e4m3.encode .rne (v.scale (-s)); { r with sat := r.sat || v.isInf }
    | _ => vs.map (int4Elem s)
  let zero := fun (c : Nat) => match cls with | 0 => c % 2 ^ 31 == 0 | 1 => c % 2 ^ 15 == 0 | 2 => c % 128 == 0 | _ => c == 0
  let cnt : NarrowCount :=
    if cls = 0 then { sat := 0, nan := 0, under := 0 }
    else
      { sat := (es.filter fun e => e.sat).length
        nan := if cls = 3 then (vs.filter Val.isNan).length else 0
        under := ((vs.zip es).filter fun p => p.1.isFin1 && zero p.2.code).length }
  let codes := es.map fun e => e.code
  let bytes := match cls with
    | 0 => packElems 32 codes
    | 1 => packElems 16 codes
    | 2 => packElems 8 codes ++ leBytes 4 (ofSigned 8 s + 2 * 256)
    | _ => packElems 4 codes ++ leBytes 4 (ofSigned 8 s + 3 * 256)
  (bytes, cnt)

/-- A narrowing's counts taken (R172, R186). -/
def Work.countNarrow (w : Work) (n : NarrowCount) : Work :=
  ((w.count Ctr.rowNarrowSaturated n.sat).count Ctr.rowNarrowNan n.nan).count Ctr.rowNarrowUnderflow n.under

/-- A row stored at a home in a class, padded to its stored length (R168, R171). -/
def Work.storeRow (w : Work) (home cls : Nat) (vs : List Val) : Work :=
  let (bs, n) := narrowRow cls vs
  (w.wr home (padTo (storedLen cls vs.length) bs)).countNarrow n

/-! ### Row moves -/

/-- The header's moves in flight field (R163): entries pending or in transition. -/
def Work.writeInFlight (w : Work) : Work :=
  if w.mapBase = 0 then w else w.wrLe (w.mapBase + 72) 4 w.d.rowMoves.length

/-- The row of a MOVE copied from its home to its new home, converted where the class changes (R176). -/
def Work.copyRow (w : Work) (m : RowMove) : Work :=
  let e := w.rowEntry m.index
  match w.poisonIn e.home (storedLen e.cls e.elems) with
  | some p => w.poisonHalt m.ctx (machineRec 0x41 p) p
  | none =>
    let bs := w.rdN e.home (storedLen e.cls e.elems)
    if e.cls = m.newClass then w.wr m.newHome bs
    else
      match widenRow e.cls e.elems bs with
      | none => w.halt m.ctx (machineRec 0x37 m.index)
      | some vs => w.storeRow m.newHome m.newClass vs

/-- An entry at its start tick (R176). -/
def Work.startMove (w : Work) (m : RowMove) : Work :=
  let e := w.rowEntry m.index
  w.writeEntry
    { e with
      newHome := if m.action = 2 then e.newHome else m.newHome
      newCls := if m.action = 2 then e.newCls else m.newClass
      state := match m.action with | 0 => 2 | 1 => 4 | _ => 3
      elems := if m.action = 1 then m.elems else e.elems
      flags := rowFlags (e.flags % 16) e.managed e.isCharged false
      commit := m.commit }

/-- The hot charge that an entry carries released (R182). -/
def Work.dropCharge (w : Work) (e : RowEntry) : Work :=
  if e.isCharged then w.updCtx (e.flags % 16) fun x => { x with hotCharged := x.hotCharged - 1 } else w

/-- An entry at its commit tick (R177, R182); a MOVE whose copy has not been written is copied first. -/
def Work.commitMove (w : Work) (m : RowMove) : Work :=
  let w := if m.action = 0 ∧ !m.copied then w.copyRow m else w
  let e := w.rowEntry m.index
  let w := w.count Ctr.rowMovesCommitted 1
  if m.action = 2 then
    (w.dropCharge e).writeEntry { e with state := 0, elems := 0, flags := rowFlags 0 false false false, commit := 0 }
  else
    let w := if m.action = 0 then w.dropCharge e else w
    w.writeEntry
      { e with
        home := m.newHome, newHome := 0, state := 1, cls := m.newClass, newCls := 0, commit := 0
        flags := rowFlags (if m.hot then m.ctx else e.flags % 16) m.managed m.hot false }

/-- Row migrations at step 2 of a tick (R57, R176, R177): those that commit at it, then those that start at it. -/
def Work.stepRowMoves (w : Work) : Work :=
  let t := w.tick
  let w := (w.d.rowMoves.filter fun m => decide (m.commit ≤ t) && m.began).foldl Work.commitMove w
  let w := w.upd fun d => { d with rowMoves := d.rowMoves.filter fun m => !(decide (m.commit ≤ t) && m.began) }
  let w := (w.d.rowMoves.filter fun m => decide (m.start ≤ t) && !m.began).foldl Work.startMove w
  (w.upd fun d => { d with rowMoves := d.rowMoves.map fun m => if m.start ≤ t then { m with began := true } else m }).writeInFlight

/-- A move as a list entry or the firmware asks for it (R174). -/
structure MoveAsk where
  index : Nat
  newHome : Nat
  action : Nat
  cls : Nat
  managed : Bool
  elems : Nat
  deriving DecidableEq, Repr

/-- The result of a move's acceptance, from the table of R175. -/
def Work.moveResult (w : Work) (c start commit : Nat) (m : MoveAsk) : Nat :=
  if start ≤ w.tick then 1
  else if w.mapCount ≤ m.index then 7
  else
    let e := w.rowEntry m.index
    let elems := if m.action = 1 then m.elems else e.elems
    let space := w.fz.space m.newHome
    let inShared := decide (space = .shared)
    let badHome :=
      m.action != 2
        && (m.newHome % 16 != 0 || !(decide (space = .hbm) || inShared || decide (space = .cap 0) || decide (space = .cap 1))
          || (inShared && ((w.hotSlot m.newHome).isNone || decide (w.hotPool.2.1 < storedLen m.cls elems))))
    let hot := m.action != 2 && (w.hotSlot m.newHome).isSome
    if e.pending ∨ e.state = 2 ∨ e.state = 3 ∨ e.state = 4 then 2
    else if (m.action = 1 ∧ e.state ≠ 0) ∨ (m.action ≠ 1 ∧ e.state ≠ 1) then 3
    else if badHome then 4
    else if hot ∧ ((w.d.active.quotas[c]?).getD Quota.zero).hotSlots ≤ (w.ctx c).hotCharged then 5
    else if 65536 ≤ (w.d.rowMoves.filter fun k => k.commit == commit).length then 6
    else 0

/-- One move accepted or refused, with its counters (R175, R182). -/
def Work.askMove (w : Work) (c start commit : Nat) (m : MoveAsk) : Nat × Work :=
  let r := w.moveResult c start commit m
  if r ≠ 0 then (r, (w.count Ctr.rowMovesRefused 1).count Ctr.hotQuotaRefused (if r = 5 then 1 else 0))
  else
    let e := w.rowEntry m.index
    let hot := m.action != 2 && (w.hotSlot m.newHome).isSome
    let w := w.writeEntry { e with flags := rowFlags (e.flags % 16) e.managed e.isCharged true }
    let w := if hot then w.updCtx c fun x => { x with hotCharged := x.hotCharged + 1 } else w
    let k : RowMove :=
      { ctx := c, index := m.index, action := m.action, newHome := m.newHome, newClass := m.cls, managed := m.managed,
        elems := if m.action = 1 then m.elems else e.elems, start := start, commit := commit, began := false, copied := false, hot := hot }
    (0, (w.upd fun d => { d with rowMoves := d.rowMoves ++ [k] }).count Ctr.rowMovesAccepted 1)

/-- Entry `i` of a move list (R174). -/
def Work.moveAsk (w : Work) (list i : Nat) : MoveAsk :=
  let a := list + 64 + 32 * i
  { index := w.le a 8 % 2 ^ 36, newHome := w.le (a + 8) 8 % 2 ^ 50, action := w.le (a + 16) 1, cls := w.le (a + 17) 1,
    managed := bitOf (w.le (a + 18) 1) 0, elems := w.le (a + 20) 2 }

/-- Whether a list entry's codes are in range (R175). -/
def MoveAsk.ok (m : MoveAsk) : Bool :=
  decide (m.action ≤ 2) && (m.action == 2 || decide (m.cls ≤ 3)) && (m.action != 1 || (decide (1 ≤ m.elems) && decide (m.elems ≤ 4096)))

/-- The entries of a list examined in order, each with its result written (R175). -/
def Work.takeList (w : Work) (c list start commit n : Nat) : Work :=
  let (acc, w) := (List.range n).foldl
    (fun (p : Nat × Work) i =>
      let (r, w) := p.2.askMove c start commit (p.2.moveAsk list i)
      (if r = 0 then p.1 + 1 else p.1, w.wrLe (list + 64 + 32 * i + 19) 1 r)) (0, w)
  let w := (w.wrLe (list + 32) 4 acc).wrLe (list + 36) 4 (n - acc)
  let w := if start ≤ w.tick then w.postEvent c 0x0030 (leBytes 8 start) else w
  w.writeInFlight

/-- The halt of a ROW_MOVE, if any (R166, R175, R304, R361, R371). -/
def Work.rowMoveFault (w : Work) (c list : Nat) : Option (Nat × Nat) :=
  if (w.ctx c).replay.isSome then some (0x83, 0)
  else if !w.haulAllowed c then some (0x43, 4)
  else if list % 64 ≠ 0 then some (0x22, list % 2 ^ 32)
  else
    match w.accessFault c list 64 true with
    | some f => some f
    | none =>
      let n := w.le (list + 8) 4
      let s := w.le (list + 16) 8
      let t := w.le (list + 24) 8
      if w.le list 4 ≠ 0x564F4D52 ∨ w.le (list + 4) 2 ≠ 1 ∨ n = 0 ∨ 65536 < n ∨ t ≤ s ∨ s + 255 < t then some (0x22, list % 2 ^ 32)
      else
        match w.accessFault c list (64 + 32 * n) true with
        | some f => some f
        | none =>
          if (List.range n).any fun i => !(w.moveAsk list i).ok then some (0x22, list % 2 ^ 32)
          else if w.mapBase ≠ 0 ∧ !w.mapHeaderOk then some (0x39, 0)
          else none

/-! ### The hot set -/

/-- The popularity log: base, entries, exponent n (R163). -/
def Work.popLog (w : Work) : Nat × Nat × Nat :=
  if w.mapBase = 0 then (0, 1, 0) else (w.le (w.mapBase + 32) 8, w.le (w.mapBase + 40) 4, w.le (w.mapBase + 44) 1)

/-- POP_LOG_WRITE (R183): the entry of one logged position. -/
def Work.logRow (w : Work) (c row : Nat) : Work :=
  let (base, n, _) := w.popLog
  let e := row % 2 ^ 36 + c % 16 * 2 ^ 36 + w.tick % 2 ^ 24 * 2 ^ 40
  let w := w.wrLe (base + 8 * (w.d.logCount % max 1 n)) 8 e
  (w.upd fun d => { d with logCount := d.logCount + 1 }).count Ctr.popLogEntries 1

/-- The log write count put into the header at step 1 of a tick (R183). -/
def Work.writeLogCount (w : Work) : Work :=
  if w.mapBase = 0 then w else (w.wrLe (w.mapBase + 64) 8 w.d.logCount).upd fun d => { d with logRead := d.logCount }

/-- The rows and contexts of the log entries from one count up to another (R183). -/
def Work.logged (w : Work) (lo hi : Nat) : List (Nat × Nat) :=
  let (base, n, _) := w.popLog
  (List.range (hi - lo)).map fun i =>
    let e := w.le (base + 8 * ((lo + i) % max 1 n)) 8
    (e % 2 ^ 36, bitsOf e 39 36)

/-- The decayed counts after a refresh (R184): each halved, with the hits of the interval added. -/
def decayCounts (old : List (Nat × Nat × Nat)) (hits : List (Nat × Nat)) : List (Nat × Nat × Nat) :=
  let rows := (old.map fun e => (e.1, e.2.1)) ++ hits
  (rows.eraseDups.map fun r =>
    let c := ((old.find? fun e => e.1 == r.1 && e.2.1 == r.2).map fun e => e.2.2).getD 0
    (r.1, r.2, c / 2 + hits.count r)).filter fun e => e.2.2 != 0

/-- The rows of a context that stand in the hot pool under the firmware's care, coldest first (R184). -/
def Work.hotRows (w : Work) (c : Nat) : List (Nat × Nat) :=
  let rows := (List.range w.mapCount).filter fun i =>
    let e := w.rowEntry i
    e.state == 1 && !e.pending && e.managed && e.isCharged && e.flags % 16 == c && w.isHot e.home
  (rows.map fun i => (i, ((w.d.fw.counts.find? fun k => k.1 == i && k.2.1 == c).map fun k => k.2.2).getD 0)).mergeSort
    fun a b => decide (a.2 < b.2) || (a.2 == b.2 && decide (a.1 ≤ b.1))

/-- The rows of a context that could be promoted, hottest first (R184). -/
def Work.coldRows (w : Work) (c : Nat) : List (Nat × Nat) :=
  let rows := w.d.fw.counts.filter fun k =>
    let e := w.rowEntry k.1
    k.2.1 == c && decide (k.1 < w.mapCount) && e.state == 1 && !e.pending && e.managed && !w.isHot e.home
      && decide (storedLen e.cls e.elems ≤ w.hotPool.2.1)
  (rows.map fun k => (k.1, k.2.2)).mergeSort fun a b => decide (b.2 < a.2) || (a.2 == b.2 && decide (a.1 ≤ b.1))

/-- The free slots of the hot pool: none is the home of a row or the new home of a move (R184). -/
def Work.freeHotSlots (w : Work) : List Nat :=
  let (b, size, n) := w.hotPool
  let used := ((List.range w.mapCount).filterMap fun i => let e := w.rowEntry i; if e.state = 0 then none else some e.home)
    ++ w.d.rowMoves.map fun m => m.newHome
  ((List.range n).map fun k => b + size * k).filter fun a => !used.contains a

/-- What a refresh plans for a context: fills and demotions (list A), promotions into freed slots (list B), moves left. -/
structure RefreshPlan where
  a : List MoveAsk
  b : List Promotion
  slots : List Nat
  moves : Nat
  deriving DecidableEq, Repr

/-- The swaps of R184: demote the coldest hot row and promote the hottest candidate while the margin holds. -/
def Work.planSwaps (w : Work) (c margin start : Nat) : List (Nat × Nat) → List (Nat × Nat) → RefreshPlan → RefreshPlan
  | k :: cand, h :: hot, p =>
    if p.moves = 0 ∨ k.2 * 100 < h.2 * (100 + margin) then p
    else
      match w.d.fw.reservedHomes.find? fun r => r.1 == h.1 with
      | none => p
      | some r =>
        let e := w.rowEntry h.1
        w.planSwaps c margin start cand hot
          { p with
            a := p.a ++ [{ index := h.1, newHome := r.2.1, action := 0, cls := e.cls, managed := true, elems := 0 }]
            b := p.b ++ [{ ctx := c, index := k.1, newHome := e.home, cls := (w.rowEntry k.1).cls, start := start + 2 }]
            moves := p.moves - 2 }
  | _, _, p => p

/-- The plan of one context (R184). -/
def Work.planContext (w : Work) (c margin start : Nat) (p : RefreshPlan) : RefreshPlan :=
  let quota := ((w.d.active.quotas[c]?).getD Quota.zero).hotSlots
  let room := min (min p.slots.length (quota - (w.ctx c).hotCharged)) p.moves
  let cand := w.coldRows c
  let fills := ((cand.take room).zip p.slots).map fun k =>
    ({ index := k.1.1, newHome := k.2, action := 0, cls := (w.rowEntry k.1.1).cls, managed := true, elems := 0 } : MoveAsk)
  w.planSwaps c margin start (cand.drop fills.length) (w.hotRows c)
    { a := fills, b := [], slots := p.slots.drop fills.length, moves := p.moves - fills.length }

/-- The HBM homes kept for rows that a list promotes (R184). -/
def Work.reserveHomes (w : Work) (rows : List Nat) : Work :=
  w.upd fun d =>
    { d with
      fw := { d.fw with
              reservedHomes := (d.fw.reservedHomes.filter fun r => !rows.contains r.1)
                ++ rows.map fun i => (i, (w.rowEntry i).home, (w.rowEntry i).cls) } }

/-- One context's refresh: list A submitted, list B kept until list A has committed (R184). -/
def Work.refreshContext (w : Work) (p0 : RefreshPlan) (c margin : Nat) : RefreshPlan × Work :=
  let start := w.tick + 2
  let p := w.planContext c margin start p0
  let w := w.reserveHomes ((p.a.filter fun m => w.isHot m.newHome).map fun m => m.index)
  let w := p.a.foldl (fun w m => (w.askMove c start (start + 1) m).2) w
  (p, (w.upd fun d => { d with fw := { d.fw with promotions := d.fw.promotions ++ p.b } }).writeInFlight)

/-- The firmware's refresh (R184). -/
def Work.refresh (w : Work) : Work :=
  let b := w.mapBase
  let interval := w.le (b + 46) 2
  let (base, n, _) := w.popLog
  if b = 0 ∨ !w.mapHeaderOk ∨ !bitOf (w.le (b + 45) 1) 0 ∨ interval = 0 ∨ w.tick % interval ≠ 0 ∨ base = 0 then w
  else
    let upTo := w.d.logRead
    let w1 := w.upd fun d => { d with fw := { d.fw with logReadTo := upTo } }
    if n < w.d.logCount - w.d.fw.logReadTo then w1.deviceEvent 0x0031 (leBytes 8 w.tick)
    else
      let w2 := w1.upd fun d => { d with fw := { d.fw with counts := decayCounts d.fw.counts (w.logged w.d.fw.logReadTo upTo) } }
      (contexts.foldl (fun (q : RefreshPlan × Work) c => q.2.refreshContext q.1 c (w.le (b + 50) 2))
        ({ a := [], b := [], slots := w2.freeHotSlots, moves := w.le (b + 48) 2 }, w2)).2

/-- Promotions submitted in the pitch after the demotions before them have committed (R184). -/
def Work.submitPromotions (w : Work) : Work :=
  let due := w.d.fw.promotions.filter fun p => decide (p.start ≤ w.tick + 1)
  let w := w.reserveHomes (due.map fun p => p.index)
  let w := due.foldl
    (fun w p => (w.askMove p.ctx p.start (p.start + 1)
      { index := p.index, newHome := p.newHome, action := 0, cls := p.cls, managed := true, elems := 0 }).2) w
  if due = [] then w
  else (w.upd fun d => { d with fw := { d.fw with promotions := d.fw.promotions.filter fun p => !decide (p.start ≤ d.pitch.tickCount.toNat + 1) } }).writeInFlight

/-! ### The commands -/

/-- ROW_MOVE. -/
def execRowMove (r : StreamRef) (list : Nat) (s : State) : Host.Outcome State Fault Refusal :=
  .next (s.exec fun w =>
    if !(w.ctx r.ctx).active then w
    else
      match w.rowMoveFault r.ctx list with
      | some (reason, a) => w.haltStream r 5 reason a
      | none => w.takeList r.ctx list (w.le (list + 16) 8) (w.le (list + 24) 8) (w.le (list + 8) 4))

/-- ROW_MOVE_COPY_DONE: of a MOVE in transition whose copy is still running (R176). -/
def execRowMoveCopyDone (index : Nat) (s : State) : Host.Outcome State Fault Refusal :=
  .next (s.exec fun w =>
    match w.d.rowMoves.find? fun m => m.index == index && m.action == 0 && m.began && !m.copied with
    | none => w
    | some m =>
      let w := w.copyRow m
      (w.upd fun d => { d with rowMoves := d.rowMoves.map fun k => if k.index = index then { k with copied := true } else k }).tryReport)

/-- HOTSET_REFRESH. -/
def execHotsetRefresh (s : State) : Host.Outcome State Fault Refusal := .next (s.exec Work.refresh)

end Sys2Proof.Machine
end

