-- ==== Sys2Proof/Config.lean ====
section
/-!
DEFINITION. What an implementation fixes and the manual leaves open: constants without a body, so that nothing can be
proved about their values. A statement that mentions one holds whatever it is. Each is named in the assumption log.
-/

namespace Sys2Proof.Config

/-- The 32-bit job tag that a job handle and its machine give (R361, R391): no rule gives its bits. -/
opaque jobTag : Nat → W32

/-- A transcendental of R237 on a finite FP32 input that the rule gives no exact result for: operation, input, output
bits. R237 bounds its error; it is a fixed function of the input bits. -/
opaque trans : Nat → W32 → W32

/-- The exponential of SOFTMAX_SUM and ATTENTION_WEIGHTS, on the FP32 pattern of the argument (R149). -/
opaque softExp : W32 → W32

/-- GSH: one component at a unit vector, by degree, component, and the displacement's three patterns (R270, R271). -/
opaque sphHarm : Bool → Nat → Nat → W32 → W32 → W32 → W32

/-- The gradient forms of GSH (R277): form, normalisation, degree, component (3 × row + axis for products), and the
input patterns. -/
opaque sphHarmGrad : Nat → Bool → Nat → Nat → List W32 → W32

/-- GRADIAL: basis function `n` of a family with an envelope at a displacement (R272, R273). -/
opaque radial : Nat → Nat → Nat → Nat → List W32 → W32

/-- GRADIAL_BWD: one component of the displacement gradient after its addition (R277): family, envelope, N, axis, and the old
value, displacement, r, rc, γ and gradients. -/
opaque radialGrad : Nat → Nat → Nat → Nat → List W32 → W32

/-- An addition of a backward coupling (R277), whose rounding no rule gives: the old FP32 value, and the exact addend by
kind (0 and 1 finite of either sign, 2 and 3 infinite, 4 NaN), significand and exponent. -/
opaque gradAdd : W32 → Nat → Nat → Int → W32

/-- The hash of a row that picks its first slot of an update area (R154): the rule names a hash and not which. -/
opaque slotHash : Nat → Nat

/-- A value that the manual leaves undefined, by the counter of draws and a position within the draw. -/
opaque freeByte : Nat → Nat → Byte

/-- A choice that the manual leaves open, by the counter of draws. -/
opaque freeChoice : Nat → Nat

/-- SHA-384 of a byte list (R507, R510). -/
opaque sha384 : List Byte → List Byte

/-- The ECDSA P-384 signature of a message with the device's key, followed by its HSS signature with a leaf: secret, message,
leaf (R525 to R527). -/
opaque sign : List Byte → List Byte → Nat → List Byte

/-- The identity certificate chain in flash, by secret and serial (R525). -/
opaque certificate : List Byte → List Byte → List Byte

/-- The nonce drawn for a debug challenge (R531): number of draws so far. -/
opaque nonce : Nat → List Byte

/-- The verdict of the loader verifier on a GLV8200 image of container version 1 (R408, R409): 0 accepts, else the
completion's detail. -/
opaque verifyV1 : List Byte → Nat

/-- The native instruction image of a tile that the firmware's translation of a GLV8200 image gives (R388, R408): image bytes
and tile. -/
opaque translateV1 : List Byte → Nat → List Byte

/-- The measurement of a part of the shipped contents (R528): index 1 boot ROM, 2 firmware body, 3 firmware bytes 0 to 319,
4 factory defaults; and the firmware version word. -/
opaque measured : Nat → Nat → List Byte

end Sys2Proof.Config
end

