-- ==== Sys2Proof/Machine/Traverse.lean ====
section
/-!
DEFINITION. The traverse engine (R74 to R102): graphs, partition maps, sampling and walks, the sample block, and the
commands of the family.
-/

namespace Sys2Proof.Machine

/-! ### Graphs -/

/-- A graph descriptor (R74). -/
structure GraphDesc where
  formOk : Bool
  wide : Bool
  wfmt : Nat
  sorted : Bool
  n : Nat
  rows : Nat
  offs : Nat
  idx : Nat
  wts : Nat
  eids : Nat
  map : Nat
  mapN : Nat
  deriving DecidableEq, Repr

/-- A descriptor read from its bytes (R74). -/
def parseGraph (bs : List Byte) : GraphDesc :=
  let f := fun (o n : Nat) => leNat ((bs.drop o).take n)
  let flags := f 6 2
  { formOk := f 0 4 == 0x47524446 && f 4 2 == 1, wide := bitOf flags 0, wfmt := bitsOf flags 2 1, sorted := bitOf flags 3,
    n := f 8 8, rows := f 16 8, offs := f 24 8, idx := f 32 8, wts := f 40 8, eids := f 48 8, map := f 56 8, mapN := f 64 4 }

/-- Whether a descriptor's fields lie in their ranges (R74). -/
def GraphDesc.ok (d : GraphDesc) : Bool :=
  d.formOk && decide (1 ≤ d.n) && decide (d.n ≤ 2 ^ 48) && decide (d.rows ≤ 2 ^ 48) && decide (d.mapN ≤ 1048576)

/-- Why the engine stops before a block is complete: a halt, an uncorrectable block, or peer data that has not returned. -/
inductive TravStop where
  | halt (reason detail : Nat)
  | poison (addr : Nat)
  | late (addr len : Nat)
  deriving DecidableEq, Repr

/-- Bytes of a list of cells from an address upward, if all are there. -/
def cellsAt (cells : List Host.Cell) (a n : Nat) : Option (List Byte) := (List.range n).mapM fun i => Memory.find cells (a + i)

/-- A read of an operation: on this device, checked under R361 and R371; on a peer, from what has returned (R78, R100). -/
def Work.travRead (w : Work) (c : Nat) (ret : List Host.Cell) (dev a n : Nat) : Except TravStop (List Byte) :=
  if n = 0 then .ok []
  else if dev = w.d.deviceNumber then
    match w.accessFault c a n false with
    | some (r, d) => .error (.halt r d)
    | none =>
      let cap := decide (w.fz.space a = .cap 0) || decide (w.fz.space a = .cap 1)
      if cap && ((w.d.active.quotas[c]?).getD Quota.zero).capTags == 0 then .error (.halt 0x43 4)
      else
        match w.poisonIn a n with
        | some p => .error (.poison p)
        | none => .ok (w.ldN c a n)
  else
    match w.peerFault (dev * 2 ^ 50 + a) with
    | some (r, d) => .error (.halt r d)
    | none =>
      match cellsAt ret (dev * 2 ^ 50 + a) n with
      | some bs => .ok bs
      | none => .error (.late (dev * 2 ^ 50 + a) n)

/-- The search of a partition map for the last entry that begins at or below a node (R77): its index, and the entries read
with their first nodes. The order of reads is the halving search (log 24). -/
def Work.mapSearch (w : Work) (c map g : Nat) : Nat → Nat → Nat → List (Nat × Nat) → Except TravStop (Option Nat × List (Nat × Nat))
  | 0, lo, _, rs => .ok (if lo = 0 then none else some (lo - 1), rs)
  | k + 1, lo, hi, rs =>
    if hi ≤ lo then .ok (if lo = 0 then none else some (lo - 1), rs)
    else
      let mid := (lo + hi) / 2
      match w.travRead c [] w.d.deviceNumber (map + 32 * mid) 8 with
      | .error e => .error e
      | .ok bs =>
        let first := leNat bs % 2 ^ 48
        if first ≤ g then w.mapSearch c map g k (mid + 1) hi ((mid, first) :: rs) else w.mapSearch c map g k lo mid ((mid, first) :: rs)

/-- Whether read entries ascend strictly in the order of their positions (R77). -/
def ascending (rs : List (Nat × Nat)) : Bool := rs.all fun a => rs.all fun b => !decide (a.1 < b.1) || decide (a.2 < b.2)

/-- What a partition map says of a node (R77): owner, replica flag, row, and the descriptor's address. -/
structure MapHit where
  owner : Nat
  replica : Bool
  row : Nat
  desc : Nat
  deriving DecidableEq, Repr

/-- A node looked up in a partition map of `n` entries (R77): none where no entry covers it. -/
def Work.mapFind (w : Work) (c map n g : Nat) : Except TravStop (Option MapHit) :=
  match w.mapSearch c map g 21 0 n [] with
  | .error e => .error e
  | .ok (i, rs) =>
    if !ascending rs then .error (.halt 0x31 map)
    else
      match i with
      | none => .ok none
      | some i =>
        (w.travRead c [] w.d.deviceNumber (map + 32 * i) 32).map fun bs =>
          let f := fun (o n : Nat) => leNat ((bs.drop o).take n)
          some { owner := f 24 2 % 2 ^ 14, replica := bitOf (f 26 2) 0, row := g - f 0 8 % 2 ^ 48 + f 8 8, desc := f 16 8 }

/-- Where a node's row stands: the device read, the descriptor there, the row, and the owner for the node table. -/
structure NodeRow where
  dev : Nat
  desc : GraphDesc
  row : Nat
  owner : Nat
  deriving DecidableEq, Repr

/-- What a sampling operation reads with: its context, its parameters, its local descriptor, the peer data. -/
structure Trav where
  w : Work
  c : Nat
  p : SampleParams
  g : GraphDesc
  ret : List Host.Cell

/-- A read of the operation. -/
def Trav.read (t : Trav) (dev a n : Nat) : Except TravStop (List Byte) := t.w.travRead t.c t.ret dev a n

/-- Methods that walk (R86). -/
def isWalk : Method → Bool
  | .uniformWalk | .biasedWalk => true
  | _ => false

/-- Whether the operation is a biased walk. -/
def isBiased (p : SampleParams) : Bool := p.hops.any fun h => decide (h.method = .biasedWalk)

/-- The descriptor that a partition map entry names, checked (R98). -/
def Trav.namedDesc (t : Trav) (dev a : Nat) : Except TravStop GraphDesc :=
  match t.read dev a 128 with
  | .error e => .error e
  | .ok bs =>
    let d := parseGraph bs
    if !d.ok || a % 128 != 0 || (isBiased t.p && !d.sorted) then .error (.halt 0x31 a) else .ok d

/-- The row of a node (R75, R77, R78), or none where R98 drops the node. -/
def Trav.lookup (t : Trav) (g : Nat) : Except TravStop (Option NodeRow) :=
  let own := t.w.d.deviceNumber
  if t.g.n ≤ g then .ok none
  else if t.g.map = 0 then .ok (if g < t.g.rows then some { dev := own, desc := t.g, row := g, owner := own } else none)
  else
    match t.w.mapFind t.c t.g.map t.g.mapN g with
    | .error e => .error e
    | .ok none => .ok none
    | .ok (some h) =>
      let dev := if h.replica then own else h.owner
      (t.namedDesc dev h.desc).map fun d =>
        if h.row < d.rows then some { dev := dev, desc := d, row := h.row, owner := h.owner } else none

/-- The index positions of a row (R75). -/
def Trav.span (t : Trav) (r : NodeRow) : Except TravStop (Nat × Nat) :=
  match t.read r.dev (r.desc.offs + 8 * r.row) 16 with
  | .error e => .error e
  | .ok bs =>
    let a := leNat (bs.take 8)
    let b := leNat (bs.drop 8)
    if b < a then .error (.halt 0x31 (r.desc.offs + 8 * r.row)) else .ok (a, b - a)

/-- The column index at a position (R75). -/
def Trav.column (t : Trav) (r : NodeRow) (pos : Nat) : Except TravStop Nat :=
  let k := if r.desc.wide then 8 else 4
  (t.read r.dev (r.desc.idx + k * pos) k).map fun bs => leNat bs % 2 ^ 48

/-- The edge identifier at a position (R76). -/
def Trav.edgeId (t : Trav) (r : NodeRow) (pos : Nat) : Except TravStop Nat :=
  if r.desc.eids = 0 then .ok (pos % 2 ^ 48 + r.dev * 2 ^ 48) else (t.read r.dev (r.desc.eids + 8 * pos) 8).map leNat

/-- The stored weight at a position; 1 without weights (R74, R79). -/
def Trav.weight (t : Trav) (r : NodeRow) (pos : Nat) : Except TravStop Nat :=
  match r.desc.wfmt with
  | 0 => .ok 1
  | 1 => (t.read r.dev (r.desc.wts + 2 * pos) 2).map leNat
  | _ => (t.read r.dev (r.desc.wts + 4 * pos) 4).map leNat

/-- A weight as a selection takes it: value, invalid, clamped (R79). -/
def intWeight (wfmt raw : Nat) : Nat × Bool × Bool :=
  if wfmt < 3 then (raw, false, false)
  else
    match f32.decode raw with
    | .nan => (0, true, false)
    | .inf n => if n then (0, true, false) else (2 ^ 32 - 1, false, true)
    | v =>
      let i := (v.scale 16).toInt .rne
      if v.lt Val.zero then (0, true, false)
      else if (2 ^ 32 - 1 : Int) < i then (2 ^ 32 - 1, false, true)
      else (i.toNat, false, false)

/-- The FP32 pattern of a stored weight (R96). -/
def weightF32 (wfmt raw : Nat) : Nat := if wfmt = 3 then raw else (f32.encode .rne (Val.ofInt raw 0)).code

/-! ### Draws and selections -/

/-- A draw of the engine (R84). -/
def sampleDraw (p : SampleParams) (node hop purpose index : Nat) : Nat :=
  let x := philox (p.randomSeed % 2 ^ 32) (p.randomSeed / 2 ^ 32 % 2 ^ 32) (node % 2 ^ 32)
    (node / 2 ^ 32 % 2 ^ 16 + hop % 16 * 2 ^ 16 + purpose * 2 ^ 20) (p.step % 2 ^ 32) (index % 2 ^ 32)
  philoxWord x 1 * 2 ^ 32 + philoxWord x 0

/-- A uniform integer below `n` from a draw (R85). -/
def uniformOf (u n : Nat) : Nat := u * n / 2 ^ 64

/-- The index of the first weight whose running sum exceeds `r` (R85). -/
def pickAt : List Nat → Nat → Nat → Nat
  | [], _, i => i
  | x :: xs, r, i => if r < x then i else pickAt xs (r - x) (i + 1)

/-- Floyd's selection of `k` of `d` positions (R87), in ascending order. -/
def floyd (u : Nat → Nat) (d k : Nat) : List Nat :=
  ((List.range k).foldl
    (fun s i =>
      let j := d - k + i
      let x := uniformOf (u i) (j + 1)
      if s.contains x then s ++ [j] else s ++ [x]) []).mergeSort (· ≤ ·)

/-- WEIGHTED: draws in turn over what remains (R88), from `k` draws left and draw index `i`. -/
def weightedGo (u : Nat → Nat) (ws : List (Nat × Nat)) (i : Nat) : Nat → List Nat → List Nat
  | 0, got => got
  | k + 1, got =>
    let left := ws.filter fun e => !got.contains e.1
    let total := (left.map fun e => e.2).sum
    if total = 0 then got
    else
      match left[pickAt (left.map fun e => e.2) (uniformOf (u i) total) 0]? with
      | some e => weightedGo u ws (i + 1) k (e.1 :: got)
      | none => got

/-- TOP_K: the `k` largest weights, ties to the lower position (R86). -/
def topK (ws : List (Nat × Nat)) (k : Nat) : List Nat :=
  ((ws.mergeSort fun a b => decide (b.2 < a.2) || (a.2 == b.2 && decide (a.1 ≤ b.1))).take k).map fun e => e.1

/-! ### Building a block -/

/-- One hop of a block as it is built (R93). `segs` holds segment offsets, or the paths of a walk block. -/
structure HopOut where
  frontier : List Nat
  segs : List Nat
  edges : List (Nat × Nat)
  ids : List Nat
  weights : List Nat
  firstNew : Nat
  newCount : Nat
  dropped : Bool
  capped : Bool
  deriving DecidableEq, Repr

/-- A block as it is built: nodes with their owners by local identifier, hops, and what is counted (R102). -/
structure Block where
  nodes : List (Nat × Nat)
  hops : List HopOut
  seeds : Nat
  drops : Nat
  dupSeeds : Nat
  cappedNodes : Nat
  badWeights : Nat
  clamped : Nat
  deadEnds : Nat
  peerRows : Nat
  lookups : Nat
  deriving DecidableEq, Repr

/-- Nothing built. -/
def Block.empty : Block :=
  { nodes := [], hops := [], seeds := 0, drops := 0, dupSeeds := 0, cappedNodes := 0, badWeights := 0, clamped := 0,
    deadEnds := 0, peerRows := 0, lookups := 0 }

/-- The local identifier of a node, a new one where it has none (R83). -/
def Block.localId (b : Block) (g owner : Nat) : Nat × Block :=
  match b.nodes.findIdx? fun n => n.1 == g with
  | some i => (i, b)
  | none => (b.nodes.length, { b with nodes := b.nodes ++ [(g, owner)] })

/-- A hop before its first expansion. -/
def HopOut.start (frontier : List Nat) (firstNew : Nat) : HopOut :=
  { frontier := frontier, segs := [0], edges := [], ids := [], weights := [], firstNew := firstNew, newCount := 0, dropped := false,
    capped := false }

/-- The integer weights of a row's positions, with what they count (R79). -/
def Trav.weights (t : Trav) (r : NodeRow) (d first : Nat) : Except TravStop (List (Nat × Nat) × Nat × Nat) :=
  ((List.range d).mapM fun i => t.weight r (first + i)).map fun raws =>
    let ws := raws.map (intWeight r.desc.wfmt)
    ((ws.mapIdx fun i x => (i, x.1)), (ws.filter fun x => x.2.1).length, (ws.filter fun x => x.2.2).length)

/-- The positions within a row that a neighbourhood method selects, in ascending order, with the invalid and clamped
weights met (R86 to R89). -/
def Trav.select (t : Trav) (h : HopSpec) (hop node : Nat) (r : NodeRow) (first d : Nat) : Except TravStop (List Nat × Nat × Nat) :=
  let u := sampleDraw t.p node hop 0
  let all := List.range d
  match h.method with
  | .uniform => .ok (if d ≤ h.fanOut then all else floyd u d h.fanOut, 0, 0)
  | .fullCap => .ok (if d ≤ h.fanOut then all else floyd u d h.fanOut, 0, 0)
  | .weighted =>
    (t.weights r d first).map fun ws => ((weightedGo u (ws.1.filter fun e => e.2 != 0) 0 h.fanOut []).mergeSort (· ≤ ·), ws.2)
  | .topK => (t.weights r d first).map fun ws => ((topK ws.1 h.fanOut).mergeSort (· ≤ ·), ws.2)
  | _ => .ok (all, 0, 0)

/-- One selected edge emitted, or dropped (R95, R98). -/
def Trav.emit (t : Trav) (h : HopSpec) (target : Nat) (r : NodeRow) (first : Nat) (s : Block × HopOut) (i : Nat) :
    Except TravStop (Block × HopOut) := do
  let (b, o) := s
  let col ← t.column r (first + i)
  let row ← t.lookup col
  let b := { b with lookups := b.lookups + 1 }
  match row with
  | none => .ok ({ b with drops := b.drops + 1 }, { o with dropped := true })
  | some k =>
    let eid ← t.edgeId r (first + i)
    let raw ← if h.weights then t.weight r (first + i) else .ok 0
    let (id, b) := b.localId col k.owner
    .ok (b, { o with edges := o.edges ++ [(target, id)], ids := o.ids ++ [eid],
                     weights := if h.weights then o.weights ++ [weightF32 r.desc.wfmt raw] else o.weights })

/-- One frontier node expanded (R82, R86). -/
def Trav.expand (t : Trav) (h : HopSpec) (hop : Nat) (s : Block × HopOut) (target : Nat) : Except TravStop (Block × HopOut) := do
  let (b, o) := s
  let node := ((b.nodes[target]?).getD (0, 0)).1
  let row ← t.lookup node
  match row with
  | none => .ok (b, { o with segs := o.segs ++ [o.edges.length] })
  | some r =>
    let (first, d) ← t.span r
    let (sel, bad, cl) ← t.select h hop node r first d
    let capped := decide (h.method = .fullCap) && decide (h.fanOut < d)
    let b :=
      { b with
        lookups := b.lookups + 1, peerRows := b.peerRows + (if r.dev = t.w.d.deviceNumber then 0 else 1)
        badWeights := b.badWeights + bad, clamped := b.clamped + cl, cappedNodes := b.cappedNodes + (if capped then 1 else 0) }
    let (b, o) ← sel.foldlM (t.emit h target r first) (b, { o with capped := o.capped || capped })
    .ok (b, { o with segs := o.segs ++ [o.edges.length] })

/-- The frontier of the hop after one: the distinct neighbours sampled, in ascending local identifier (R82). -/
def HopOut.next (o : HopOut) : List Nat := (o.edges.map fun e => e.2).eraseDups.mergeSort (· ≤ ·)

/-- One hop of a neighbourhood operation. -/
def Trav.hop (t : Trav) (s : Block × List Nat × Nat) (h : HopSpec) : Except TravStop (Block × List Nat × Nat) := do
  let (b, frontier, n) := s
  let (b', o) ← frontier.foldlM (t.expand h n) (b, HopOut.start frontier b.nodes.length)
  let o := { o with newCount := b'.nodes.length - b.nodes.length }
  .ok ({ b' with hops := b'.hops ++ [o] }, o.next, n + 1)

/-- The seeds taken: distinct ones in list order, those that R98 omits left out (R82). -/
def Trav.seeds (t : Trav) : Except TravStop Block := do
  let bs ← t.read t.w.d.deviceNumber t.p.seeds (8 * t.p.seedCount)
  let all := (List.range t.p.seedCount).map fun i => leNat ((bs.drop (8 * i)).take 8) % 2 ^ 48
  let once := all.eraseDups
  once.foldlM
    (fun (b : Block) g => do
      let row ← t.lookup g
      let b := { b with lookups := b.lookups + 1 }
      match row with
      | none => .ok { b with drops := b.drops + 1 }
      | some r => .ok { (b.localId g r.owner).2 with seeds := b.seeds + 1 })
    { Block.empty with dupSeeds := all.length - once.length }

/-! ### Walks -/

/-- Whether a node is a neighbour of another, by the latter's row (R90). -/
def Trav.adjacent (t : Trav) (p : Option NodeRow) (col : Nat) : Except TravStop Bool :=
  match p with
  | none => .ok false
  | some r => do
    let (first, d) ← t.span r
    let cols ← (List.range d).mapM fun i => t.column r (first + i)
    .ok (cols.contains col)

/-- The candidate weights of a walk step (R90): row positions with their weights. -/
def Trav.candidates (t : Trav) (r : NodeRow) (first d : Nat) (prev : Option (Nat × NodeRow)) :
    Except TravStop (List Nat × Nat × Nat) := do
  let (ws, bad, cl) ← t.weights r d first
  match (if isBiased t.p then prev else none) with
  | none => .ok (ws.map fun e => e.2, bad, cl)
  | some (p, pr) =>
    let biased ← ws.mapM fun e => do
      let col ← t.column r (first + e.1)
      let near ← t.adjacent (some pr) col
      .ok (e.2 * (if col = p then t.p.returnBias else if near then 256 else t.p.outBias))
    .ok (biased, bad, cl)

/-- Where a walk stands: the node's local identifier and row, and the node before. -/
structure Walker where
  node : Nat
  row : NodeRow
  prev : Option (Nat × NodeRow)
  path : List Nat
  deriving DecidableEq, Repr

/-- The steps of one walk (R90, R91): `k` steps left, step number `s`. -/
def Trav.walkGo (t : Trav) (h : HopSpec) (seed walk : Nat) : Nat → Nat → Block × HopOut × Walker → Except TravStop (Block × HopOut × Walker)
  | 0, _, st => .ok st
  | k + 1, s, (b, o, v) => do
    let (first, d) ← t.span v.row
    let (ws, bad, cl) ← t.candidates v.row first d v.prev
    let b := { b with badWeights := b.badWeights + bad, clamped := b.clamped + cl, peerRows := b.peerRows + (if v.row.dev = t.w.d.deviceNumber then 0 else 1) }
    let total := ws.sum
    if total = 0 then .ok ({ b with deadEnds := b.deadEnds + 1 }, o, v)
    else
      let i := pickAt ws (uniformOf (sampleDraw t.p seed 0 1 (walk * 256 + s)) total) 0
      let col ← t.column v.row (first + i)
      let row ← t.lookup col
      let b := { b with lookups := b.lookups + 1 }
      match row with
      | none => .ok ({ b with drops := b.drops + 1 }, { o with dropped := true }, v)
      | some r =>
        let eid ← t.edgeId v.row (first + i)
        let raw ← if h.weights then t.weight v.row (first + i) else .ok 0
        let here := ((b.nodes[v.node]?).getD (0, 0)).1
        let (id, b) := b.localId col r.owner
        let o := { o with edges := o.edges ++ [(v.node, id)], ids := o.ids ++ [eid],
                          weights := if h.weights then o.weights ++ [weightF32 v.row.desc.wfmt raw] else o.weights }
        t.walkGo h seed walk k (s + 1) (b, o, { node := id, row := r, prev := some (here, v.row), path := v.path ++ [id] })

/-- One walk from a seed, its path put behind those before it (R96). -/
def Trav.oneWalk (t : Trav) (h : HopSpec) (s : Block × HopOut) (sw : Nat × Nat) : Except TravStop (Block × HopOut) := do
  let (b, o) := s
  let node := ((b.nodes[sw.1]?).getD (0, 0)).1
  let row ← t.lookup node
  match row with
  | none => .ok (b, o)
  | some r =>
    let (b, o, v) ← t.walkGo h node sw.2 t.p.walkLength 1 (b, o, { node := sw.1, row := r, prev := none, path := [sw.1] })
    .ok (b, { o with segs := o.segs ++ v.path ++ List.replicate (t.p.walkLength + 1 - v.path.length) 0xFFFFFFFF })

/-- The one hop of a walk block: every walk of every seed in order (R90, R96). -/
def Trav.walks (t : Trav) (h : HopSpec) (b : Block) : Except TravStop Block := do
  let starts := (List.range b.seeds).flatMap fun s => (List.range t.p.walks).map fun k => (s, k)
  let o0 := { HopOut.start (starts.map fun s => s.1) b.nodes.length with segs := [] }
  let (b', o) ← starts.foldlM (t.oneWalk h) (b, o0)
  .ok { b' with hops := [{ o with newCount := b'.nodes.length - b.nodes.length }] }

/-- The whole operation: seeds, then hops or walks. -/
def Trav.run (t : Trav) : Except TravStop Block := do
  let b ← t.seeds
  match t.p.hops with
  | [h] => if isWalk h.method then t.walks h b else (t.hop (b, List.range b.seeds, 1) h).map fun r => r.1
  | hs => (hs.foldlM t.hop (b, List.range b.seeds, 1)).map fun r => r.1

/-! ### The block in memory -/

/-- Bytes padded with zeros to a multiple of 64. -/
def pad64 (bs : List Byte) : List Byte := bs ++ List.replicate (roundUp bs.length 64 - bs.length) 0

/-- The method code (R93). -/
def methodCode : Method → Nat
  | .uniform => 0 | .weighted => 1 | .topK => 2 | .fullCap => 3 | .halo => 4 | .uniformWalk => 5 | .biasedWalk => 6

/-- The arrays of a hop in their order (R92, R93): frontier, segments or paths, edges, edge identifiers, weights. -/
def HopOut.arrays (o : HopOut) (weights : Bool) : List (List Byte) :=
  [pad64 (o.frontier.flatMap (leBytes 4)), pad64 (o.segs.flatMap (leBytes 4)),
    pad64 (o.edges.flatMap fun e => leBytes 4 e.1 ++ leBytes 4 e.2), pad64 (o.ids.flatMap (leBytes 8)),
    if weights then pad64 (o.weights.flatMap (leBytes 4)) else []]

/-- The running offsets of arrays from a start, in 64-byte units. -/
def arrayOffsets : Nat → List (List Byte) → List Nat
  | _, [] => []
  | a, x :: xs => a :: arrayOffsets (a + x.length / 64) xs

/-- A hop record (R93). -/
def HopOut.record (o : HopOut) (h : HopSpec) (len : Nat) (offs : List Nat) : List Byte :=
  let at_ := fun (i : Nat) => leBytes 4 ((offs[i]?).getD 0)
  leBytes 4 o.frontier.length ++ leBytes 4 o.edges.length ++ leBytes 4 o.firstNew ++ leBytes 4 o.newCount ++ at_ 0 ++ at_ 1 ++ at_ 2
    ++ at_ 3 ++ (if h.weights then at_ 4 else leBytes 4 0) ++ leBytes 1 (methodCode h.method)
    ++ leBytes 1 ((if h.weights then 1 else 0) + (if o.dropped then 2 else 0) + (if o.capped then 4 else 0))
    ++ leBytes 2 (if isWalk h.method then len else h.fanOut) ++ leBytes 8 0

/-- A node table entry (R94). -/
def nodeEntry (own : Nat) (n : Nat × Nat) : List Byte :=
  leBytes 8 (n.1 % 2 ^ 48 + n.2 % 2 ^ 14 * 2 ^ 48 + (if n.2 = own then 0 else 2 ^ 62))

/-- Hop records with their arrays from an offset upward. -/
def layHops (p : SampleParams) : Nat → List (HopSpec × HopOut) → List Byte × List Byte
  | _, [] => ([], [])
  | a, (h, o) :: r =>
    let arrays := o.arrays h.weights
    let (recs, data) := layHops p (a + arrays.flatten.length / 64) r
    (o.record h p.walkLength (arrayOffsets a arrays) ++ recs, arrays.flatten ++ data)

/-- The bytes of a block (R92 to R96). -/
def Block.bytes (b : Block) (p : SampleParams) (own : Nat) : List Byte :=
  let table := pad64 (b.nodes.flatMap (nodeEntry own))
  let (recs, data) := layHops p (7 + table.length / 64) (p.hops.zip b.hops)
  let walk := p.hops.any fun h => isWalk h.method
  let total := 448 + table.length + data.length
  let header :=
    leBytes 4 0x4B4C4253 ++ leBytes 2 1 ++ leBytes 1 p.hops.length
      ++ leBytes 1 ((if walk then 1 else 0) + (if b.drops = 0 then 0 else 2)) ++ leBytes 8 p.randomSeed ++ leBytes 4 p.step
      ++ leBytes 4 b.seeds ++ leBytes 4 b.nodes.length ++ leBytes 4 7 ++ leBytes 8 ((b.hops.map fun o => o.edges.length).sum)
      ++ leBytes 8 total ++ leBytes 2 own ++ leBytes 2 0 ++ leBytes 4 (if walk then p.walks else 0) ++ leBytes 8 0
  header ++ padTo 384 recs ++ table ++ data

/-! ### The operation -/

/-- The slots that a scratch region must hold: the least power of two of at least 1.5 × U_max (R81). -/
def scratchSlots (u : Nat) : Nat := let n := ceilDiv (3 * u) 2; if n ≤ 1 then 1 else 2 ^ (Nat.log2 (n - 1) + 1)

/-- Whether a hop's parameters are out of range (R81). -/
def hopBad (n : Nat) (h : HopSpec) : Bool := decide (h.fanOut < 1) || decide (1024 < h.fanOut) || (isWalk h.method && n != 1)

/-- Whether the parameters of an operation are out of range (R81). -/
def sampleBad (p : SampleParams) (f : Fuses) : Bool :=
  let walk := p.hops.any fun h => isWalk h.method
  p.graph % 128 != 0 || decide (p.seedCount < 1) || decide (2 ^ 28 < p.seedCount) || p.hops.isEmpty || decide (8 < p.hops.length)
    || p.hops.any (hopBad p.hops.length)
    || (walk && (decide (p.walks < 1) || decide (2 ^ 24 < p.walks) || decide (p.walkLength < 1) || decide (255 < p.walkLength)))
    || (isBiased p && (decide (p.returnBias < 1) || decide (65536 ≤ p.returnBias) || decide (p.outBias < 1) || decide (65536 ≤ p.outBias)))
    || p.output % 64 != 0 || decide (2 ^ 38 < p.capacity) || decide (p.maxUnique < 1) || decide (2 ^ 32 - 2 < p.maxUnique)
    || p.scratch % 64 != 0 || !(decide (f.space p.scratch = .hbm) || decide (f.space p.scratch = .shared))
    || decide (p.scratchSize < 16 * scratchSlots p.maxUnique)

/-- The halt of a SAMPLE at its start (R81, R361, R371). -/
def Work.sampleFault (w : Work) (c : Nat) (p : SampleParams) : Option TravStop :=
  if ((w.d.active.quotas[c]?).getD Quota.zero).traverse = 0 then some (.halt 0x43 4)
  else if sampleBad p w.fz then some (.halt 0x22 (p.graph % 2 ^ 32))
  else
    match w.travRead c [] w.d.deviceNumber p.graph 128 with
    | .error e => some e
    | .ok bs =>
      let g := parseGraph bs
      if !g.formOk || (isBiased p && !g.sorted) then some (.halt 0x22 (p.graph % 2 ^ 32)) else none

/-- A stop of an engine (R386's kind, R575's class) taken: the halt, or for late data one stalled cycle and the peer read
(R100). -/
def Work.engineStop (w : Work) (r : StreamRef) (engine cls : Nat) (e : TravStop) : Work :=
  match e with
  | .halt reason d => w.haltStream r engine reason d
  | .poison p => w.poisonHalt r.ctx (streamRec r engine 0x41 p) p
  | .late a n =>
    (w.stall r.ctx Ctr.stallDataLatePeer cls).sendRouted r.ctx 1 (a / 2 ^ 50) (w.ctx r.ctx).jobTag true (.read (a % 2 ^ 50) n 0)

/-- A stop of the traverse engine. -/
def Work.travStop (w : Work) (r : StreamRef) (e : TravStop) : Work := w.engineStop r 0 5 e

/-- An operation removed from the engine. -/
def Work.endTrav (w : Work) (id : Nat) : Work := w.upd fun d => { d with trav := d.trav.filter fun o => o.id != id }

/-- The counts of a finished block (R102). The misses of the map cache follow its contents, which no rule fixes beyond
their number: they are a free value (log 25). -/
def Work.countBlock (w : Work) (b : Block) (mapped : Bool) : Work :=
  let w := w.count Ctr.sampledEdges (b.hops.map fun o => o.edges.length).sum
  let w := w.count Ctr.sampleUniqueNodes b.nodes.length
  let w := (w.count Ctr.seedDuplicates b.dupSeeds).count Ctr.sampleCapped b.cappedNodes
  let w := (w.count Ctr.weightInvalid b.badWeights).count Ctr.weightClamped b.clamped
  let w := (w.count Ctr.walkDeadEnd b.deadEnds).count Ctr.traversePeerRows b.peerRows
  let w := w.count Ctr.dropIndexRange b.drops
  if !mapped || b.lookups == 0 then w
  else
    let (k, w) := w.draw
    w.count Ctr.traverseMapMisses (Config.freeChoice k)

/-- A sampling operation finished (R83, R97, R98): the whole block written, or the halt, or late data. -/
def Work.finishSample (w : Work) (o : TravOp) : Work :=
  let c := o.ref.ctx
  let p := o.params
  let t : Trav := { w := w, c := c, p := p, g := parseGraph (w.ldN c p.graph 128), ret := o.returned }
  match t.run with
  | .error (.late a n) => w.travStop o.ref (.late a n)
  | .error e => (w.endTrav o.id).travStop o.ref e
  | .ok b =>
    let bytes := b.bytes p w.d.deviceNumber
    let w := w.endTrav o.id
    if p.maxUnique < b.nodes.length ∨ p.capacity < bytes.length then w.haltStream o.ref 0 0x30 (p.output % 2 ^ 32)
    else
      match w.accessFault c p.output bytes.length true with
      | some (r, a) => w.haltStream o.ref 0 r a
      | none => ((w.stN c p.output bytes).countBlock b (t.g.map != 0)).tryReport

/-! ### The commands -/

/-- SAMPLE: the checks of command start, and the operation taken up (R81, R371). -/
def execSample (r : StreamRef) (p : SampleParams) (s : State) : Host.Outcome State Fault Refusal :=
  .next (s.exec fun w =>
    if !(w.ctx r.ctx).active then w
    else
      match w.sampleFault r.ctx p with
      | some e => w.travStop r e
      | none =>
        let (id, w) := w.fresh
        w.upd fun d => { d with trav := d.trav ++ [{ id := id, ref := r, params := p, returned := [], returns := 0 }] })

/-- SAMPLE_COMPLETE. -/
def execSampleComplete (op : Nat) (s : State) : Host.Outcome State Fault Refusal :=
  .next (s.exec fun w =>
    match w.d.trav.find? fun o => o.id == op with
    | none => w
    | some o => w.finishSample o)

/-- The cells of returned data, from an address upward. -/
def cellsOf (a : Nat) (bs : List Byte) : List Host.Cell := bs.mapIdx fun i b => (a + i, b)

/-- TRAVERSE_READ_RETURN: a tag comes back; a peer's data are kept for the operation (R100), or its denial halts (R361). -/
def execTraverseReadReturn (op : Nat) (kind : SourceKind) (address : Nat) (data : PeerData) (s : State) : Host.Outcome State Fault Refusal :=
  .next (s.exec fun w =>
    match w.d.trav.find? fun o => o.id == op with
    | none => w
    | some o =>
      let peer := decide (kind = .peer)
      let w := if peer then w.answered o.ref.ctx else w
      match data with
      | .denied a => w.haltStream o.ref 0 0x48 a
      | .data bs =>
        w.upd fun d =>
          { d with
            trav := d.trav.map fun k =>
              if k.id = op then { k with returns := k.returns + 1, returned := if peer then cellsOf address bs ++ k.returned else k.returned } else k })

end Sys2Proof.Machine
end

