-- ==== Sys2Proof/Machine/Gather.lean ====
section
/-!
DEFINITION. The gather units (R103 to R131): feature tables, keys, routing, deduplication, invalid keys, widening, served
lookups, and the commands of the family.
-/

namespace Sys2Proof.Machine

/-! ### Tables -/

/-- A feature table descriptor (R103). -/
structure Table where
  formOk : Bool
  kind : Nat
  hasDefault : Bool
  id : Nat
  cls : Nat
  first : Nat
  elems : Nat
  rows : Nat
  base : Nat
  stride : Nat
  block : Nat
  tile : Nat
  tiles : Nat
  map : Nat
  mapN : Nat
  defaultAt : Nat
  deriving DecidableEq, Repr

/-- The descriptor at an address (R103). -/
def Work.table (w : Work) (a : Nat) : Table :=
  let tb := w.le (a + 36) 4
  { formOk := w.le a 4 == 0x4C425446 && w.le (a + 4) 2 == 1, kind := w.le (a + 6) 1, hasDefault := bitOf (w.le (a + 7) 1) 0,
    id := w.le (a + 8) 2, cls := w.le (a + 10) 1, first := w.le (a + 11) 1 % 16 * 2 ^ 32 + w.le (a + 52) 4, elems := w.le (a + 12) 4,
    rows := w.le (a + 16) 8, base := w.le (a + 24) 8, stride := w.le (a + 32) 4, block := bitsOf tb 15 0, tile := bitsOf tb 21 16,
    tiles := bitsOf tb 29 23, map := w.le (a + 40) 8, mapN := w.le (a + 48) 4, defaultAt := w.le (a + 56) 8 }

/-- Whether a descriptor is well formed, each field in its range (R103, R130). -/
def Table.ok (t : Table) : Bool :=
  t.formOk && decide (t.kind ≤ 4) && decide (1 ≤ t.elems) && decide (t.elems ≤ 4096) && decide (1 ≤ t.rows) && decide (t.rows ≤ 2 ^ 48)
    && decide (t.mapN ≤ 1048576) && (!t.hasDefault || t.defaultAt % 64 == 0)
    && (t.kind == 3 || (decide (t.cls ≤ 3) && t.stride % 16 == 0 && decide (storedLen t.cls t.elems ≤ t.stride) && decide (t.stride ≤ 65536)))
    && (t.kind != 4 || (decide (1 ≤ t.block) && decide (1 ≤ t.tiles) && decide (t.tile + t.tiles ≤ 64)))

/-- The place of row `k` of a tile-blocked region (R104): tile, and offset within its store. -/
def tileBlocked (b first count base stride k : Nat) : Nat × Nat :=
  let q := k / b
  (first + q % count, base + (q / count * b + k % b) * stride)

/-! ### Keys -/

/-- Where an operation's keys stand: the first one's address, their spacing, the bytes of each, and how many there are
(R108). A hop's edge array holds two keys in each entry. -/
structure KeyArray where
  base : Nat
  step : Nat
  bytes : Nat
  count : Nat
  blockOk : Bool
  lo : Nat
  len : Nat
  deriving DecidableEq, Repr

/-- The key array of a source (R92, R93, R108). -/
def Work.keyArray (w : Work) (src : KeySource) (a count hop : Nat) : KeyArray :=
  let ok := w.le a 4 == 0x4B4C4253
  let rec_ := a + 64 + (hop - 1) * 48
  let e := w.le (rec_ + 4) 4
  let edges := a + 64 * w.le (rec_ + 24) 4
  let ids := a + 64 * w.le (rec_ + 28) 4
  match src with
  | .list32 => { base := a, step := 4, bytes := 4, count := count, blockOk := true, lo := a, len := 4 * count }
  | .list64 => { base := a, step := 8, bytes := 6, count := count, blockOk := true, lo := a, len := 8 * count }
  | .nodeTable =>
    let n := w.le (a + 24) 4
    let b := a + 64 * w.le (a + 28) 4
    { base := b, step := 8, bytes := 6, count := n, blockOk := ok, lo := b, len := 8 * n }
  | .edgeTarget => { base := edges, step := 8, bytes := 4, count := e, blockOk := ok, lo := edges, len := 8 * e }
  | .edgeNeighbour => { base := edges + 4, step := 8, bytes := 4, count := e, blockOk := ok, lo := edges, len := 8 * e }
  | .edgeId => { base := ids, step := 8, bytes := 8, count := e, blockOk := ok, lo := ids, len := 8 * e }

/-- Key `i`, its used bits alone (R108). -/
def Work.keyAt (w : Work) (c : Nat) (k : KeyArray) (i : Nat) : Nat := leNat (w.ldN c (k.base + k.step * i) k.bytes) % 2 ^ (if k.bytes = 8 then 62 else 8 * k.bytes)

/-- The null key of a source: its used bits all ones (R108). -/
def nullKey (src : KeySource) : Nat :=
  match src with
  | .list32 | .edgeTarget | .edgeNeighbour => 2 ^ 32 - 1
  | .list64 | .nodeTable => 2 ^ 48 - 1
  | .edgeId => 2 ^ 62 - 1

/-- Whether a source takes its keys from a sample block (R107). -/
def blockSource (src : KeySource) : Bool :=
  match src with
  | .list32 | .list64 => false
  | _ => true

/-! ### Routing -/

/-- The present gather units in ascending order (R110). -/
def Fuses.units (f : Fuses) : List Nat := (List.range 16).filter fun n => f.gather.getLsbD n

/-- The routing hash (R110). -/
def routeHash (table key : Nat) : Nat := (key * 0x9E3779B97F4A7C15 + table * 0xC2B2AE3D27D4EB4F) % 2 ^ 64

/-- The unit of a key (R110). -/
def Fuses.unitOf (f : Fuses) (table key : Nat) : Nat := (f.units[routeHash table key / 2 ^ 32 * f.units.length / 2 ^ 32]?).getD 0

/-- The deduplication set of a key (R110). -/
def dedupSet (table key : Nat) : Nat := routeHash table key / 2 ^ 23 % 512

/-- The unit that the router gives a key at a position (R110, R111). -/
def Fuses.routeKey (f : Fuses) (table : Nat) (spread : List Nat) (pos key : Nat) : Nat :=
  if spread.contains key then (f.units[pos % max 1 f.units.length]?).getD 0 else f.unitOf table key

/-! ### Rows -/

/-- Where a key's row stands (R104, R116, R120, R121). -/
inductive RowPlace where
  | invalid
  | here (addr cls : Nat) (mapped : Option Nat)
  | peer (dev addr : Nat)
  | served (dev entry : Nat)
  deriving DecidableEq, Repr

/-- A device on which a row may stand: this one, or one of the machine (R116). -/
def Work.inMachine (w : Work) (dev : Nat) : Bool := dev == w.d.deviceNumber || decide (dev < w.deviceCount)

/-- The row of a row map entry on this device (R116, R165, R166). -/
def Work.mappedRow (w : Work) (t : Table) (entry : Nat) : Except TravStop RowPlace :=
  if w.mapBase ≠ 0 ∧ !w.mapHeaderOk then .error (.halt 0x39 0)
  else if w.mapCount ≤ entry then .ok .invalid
  else
    let e := w.rowEntry entry
    match w.poisonIn e.addr 32 with
    | some p => .error (.poison p)
    | none =>
      if e.invalid t.elems then .error (.halt 0x39 (entry % 2 ^ 32))
      else .ok (if e.holdsRow then .here e.home e.cls (some entry) else .invalid)

/-- The place of a key's row (R104, R116). -/
def Work.rowPlace (w : Work) (c : Nat) (t : Table) (key : Nat) : Except TravStop RowPlace :=
  let own := w.d.deviceNumber
  let at_ := fun (dev row : Nat) => if dev = own then RowPlace.here (t.base + row * t.stride) t.cls none else .peer dev (t.base + row * t.stride)
  match t.kind with
  | 0 => .ok (if key < t.rows then .here (t.base + key * t.stride) t.cls none else .invalid)
  | 1 =>
    (w.mapFind c t.map t.mapN key).map fun h =>
      match h with
      | none => .invalid
      | some h => if t.rows ≤ h.row then .invalid else at_ (if h.replica then own else h.owner) h.row
  | 2 =>
    let row := key % 2 ^ 48
    let dev := key / 2 ^ 48 % 2 ^ 14
    .ok (if t.rows ≤ row ∨ !w.inMachine dev then .invalid else at_ dev row)
  | 3 =>
    if w.mapBase ≠ 0 ∧ !w.mapHeaderOk then .error (.halt 0x39 0)
    else if t.rows ≤ key then .ok .invalid
    else if t.map = 0 then w.mappedRow t (t.first + key)
    else
      match w.mapFind c t.map t.mapN key with
      | .error e => .error e
      | .ok none => .ok .invalid
      | .ok (some h) =>
        if h.owner = own ∨ h.replica then w.mappedRow t (t.first + h.row) else .ok (.served h.owner (t.first + h.row))
  | _ =>
    let (tile, off) := tileBlocked t.block t.tile t.tiles t.base t.stride key
    .ok (if key < t.rows then .here (tileStoreAddr tile off) t.cls none else .invalid)

/-- The tags that a read of a row holds (R125). -/
def tagsFor (len : Nat) : Nat := max 1 (ceilDiv len 256)

/-- What stops a row's read as it is issued (R121, R348, R361, R371). -/
def Work.issueFault (w : Work) (c : Nat) (t : Table) (p : RowPlace) : Option TravStop :=
  let q := (w.d.active.quotas[c]?).getD Quota.zero
  match p with
  | .invalid => none
  | .here a cls mapped =>
    let len := storedLen cls t.elems
    let fault := if mapped.isSome then w.unmappedIn a len else w.accessFault c a len false
    match fault with
    | some (r, d) => some (.halt r d)
    | none => if w.fz.tier a = some 0 ∧ q.capTags = 0 then some (.halt 0x43 4) else none
  | .peer dev a =>
    if q.gatherPeer = 0 then some (.halt 0x43 4)
    else
      match w.peerFault (dev * 2 ^ 50 + a) with
      | some (r, d) => some (.halt r d)
      | none => none
  | .served dev _ =>
    if q.gatherPeer = 0 then some (.halt 0x43 4)
    else
      match w.routeLink 1 dev with
      | none => some (.halt 0x68 dev)
      | some l => if (w.link l).v1 then some (.halt 0x32 dev) else none

/-! ### Output -/

/-- The address of output row `i` (R104, R109). -/
def placeRow (p : Placement) (stride i : Nat) : Nat :=
  match p with
  | .at b => b + i * stride
  | .tiled b first count base => let (t, off) := tileBlocked b first count base stride i; tileStoreAddr t off

/-- The largest row index within one tile store that `n` rows reach. -/
def tiledTop (b count n : Nat) : Nat :=
  let k := n - 1
  if k / b % count = 0 then k / b / count * b + k % b else k / b / count * b + b - 1

/-- The bytes that a placement of `n` rows needs from its base (R107, R130). -/
def placeSize (p : Placement) (stride rowLen n : Nat) : Nat :=
  if n = 0 then 0
  else
    match p with
    | .at _ => (n - 1) * stride + rowLen
    | .tiled b _ count _ => tiledTop b count n * stride + rowLen

/-- Whether a placement's fields are out of range (R107). -/
def placeBad (p : Placement) : Bool :=
  match p with
  | .at _ => false
  | .tiled b first count base => b == 0 || decide (65535 < b) || count == 0 || decide (64 < count) || decide (64 < first + count) || decide (tileStoreSize ≤ base)

/-- The fault of reading or writing a placement of `n` rows, if any (R361). -/
def Work.placeFault (w : Work) (c : Nat) (p : Placement) (size n : Nat) (write : Bool) : Option (Nat × Nat) :=
  if n = 0 then none
  else
    match p with
    | .at b => w.accessFault c b size write
    | .tiled b first count base =>
      (List.range (min count (ceilDiv n b))).findSome? fun i => w.accessFault c (tileStoreAddr (first + i) base) size write

/-- Two censuses added. -/
def Tally.merge (a b : Tally) : Tally :=
  { elements := a.elements + b.elements, zeros := a.zeros + b.zeros, underflows := a.underflows + b.underflows
    saturations := a.saturations + b.saturations, nans := a.nans + b.nans, infs := a.infs + b.infs
    maxExp := match a.maxExp, b.maxExp with | none, e => e | e, none => e | some x, some y => some (max x y)
    hist := a.hist.zipWith (· + ·) b.hist }

/-- A gather operation by number. -/
def Work.gatherOp (w : Work) (id : Nat) : Option GatherOp := w.d.gathers.find? fun o => o.id == id

/-- A change of a gather operation. -/
def Work.updGather (w : Work) (id : Nat) (f : GatherOp → GatherOp) : Work :=
  w.upd fun d => { d with gathers := d.gathers.map fun o => if o.id = id then f o else o }

/-- The bytes of an output row with its census (R109, R124). -/
def rowOut (form : OutForm) (vs : List Val) : List Byte × Tally :=
  let (codes, t) := Tally.storeAll form .rne (fun _ => 0) vs
  (packElems (fmtBits form.fmt) codes, t)

/-- An output row written at a position, with its census added and the position counted (R109, R131). -/
def Work.putOut (w : Work) (o : GatherOp) (pos : Nat) (bs : List Byte) (t : Tally) : Work :=
  ((w.stN o.ref.ctx (placeRow o.params.output o.params.stride pos) bs).updGather o.id fun k => { k with tally := k.tally.merge t }).count
    Ctr.gatherRows 1

/-- A position masked: a zero row and its drop mask bit (R108, R118). -/
def Work.putZero (w : Work) (o : GatherOp) (elems pos : Nat) : Work :=
  let (bs, t) := rowOut o.form (List.replicate elems Val.zero)
  (w.putOut o pos bs t).updGather o.id fun k => { k with masked := k.masked ++ [pos] }

/-- Narrowing counts of a row that an output takes from FP32 to BF16 (R124, R172, R186). -/
def Work.countOutput (w : Work) (form : OutForm) (cls : Nat) (vs : List Val) : Work :=
  if cls = 0 ∧ form.fmt = .bf16 then w.countNarrow (narrowRow 1 vs).2 else w

/-- A default row usable (R117). -/
def Work.defaultUsable (w : Work) (t : Table) : Bool :=
  t.hasDefault && (decide (w.fz.space t.defaultAt = .hbm) || decide (w.fz.space t.defaultAt = .shared))

/-- The elements of a default row (R106, R117, R118). -/
def Work.defaultRow (w : Work) (c : Nat) (t : Table) : Except TravStop (List Val) :=
  match w.accessFault c t.defaultAt (4 * t.elems) false with
  | some (r, d) => .error (.halt r d)
  | none =>
    match w.poisonIn t.defaultAt (4 * t.elems) with
    | some p => .error (.poison p)
    | none => .ok (tab t.elems fun i => f32.decode (w.le (t.defaultAt + 4 * i) 4))

/-- An invalid key's position: the default row, or DROP (R117, R118). -/
def Work.serveInvalid (w : Work) (o : GatherOp) (t : Table) (pos : Nat) : Except TravStop Work :=
  if w.defaultUsable t then
    (w.defaultRow o.ref.ctx t).map fun vs =>
      let (bs, k) := rowOut o.form vs
      ((w.putOut o pos bs k).countOutput o.form 0 vs).count Ctr.defaultRowHits 1
  else .ok ((w.putZero o t.elems pos).count Ctr.dropEdge 1)

/-! ### Units -/

/-- A gather unit. -/
def Work.unit (w : Work) (u : Nat) : GatherUnit := (w.d.units[u]?).getD GatherUnit.reset

/-- The entries of a set, most recently used first. -/
def GatherUnit.entries (u : GatherUnit) (s : Nat) : List DedupEntry := ((u.sets.find? fun e => e.1 == s).map fun e => e.2).getD []

/-- The entries of a set replaced. -/
def GatherUnit.put (u : GatherUnit) (s : Nat) (es : List DedupEntry) : GatherUnit :=
  GatherUnit.recount { u with sets := (u.sets.filter fun e => e.1 != s) ++ (if es = [] then [] else [(s, es)]) }

/-- A change of a gather unit. -/
def Work.updUnit (w : Work) (u : Nat) (f : GatherUnit → GatherUnit) : Work := w.upd fun d => { d with units := updAt d.units u f }

/-- The context of an operation. -/
def Work.opCtx (w : Work) (op : Nat) : Nat := ((w.gatherOp op).map fun o => o.ref.ctx).getD 0

/-- Positions that wait in a unit's pending list (R113). -/
def GatherUnit.pending (u : GatherUnit) : Nat := ((u.sets.flatMap fun s => s.2).map fun e => e.waiting.length - 1).sum

/-- The tags of one pool that the entries of some contexts hold. -/
def Work.tagsHeld (w : Work) (u : GatherUnit) (peer : Bool) (who : Nat → Bool) : Nat :=
  (((u.sets.flatMap fun s => s.2).filter fun e => e.outstanding && e.peer == peer && who (w.opCtx e.op)).map fun e => e.tags).sum

/-- Whether a read of a context may take `n` tags of a unit's pool now (R125, R127, R371). -/
def Work.tagsFree (w : Work) (c u : Nat) (peer : Bool) (n : Nat) : Bool :=
  let g := w.unit u
  let q := (w.d.active.quotas[c]?).getD Quota.zero
  let size := if peer then 4096 else 2048
  let own := if peer then q.gatherPeer else q.gatherLocal
  let held := w.tagsHeld g peer
  let room :=
    match w.urgentCtx with
    | some x => if x = c then decide (held (fun _ => true) + n ≤ size) else decide (held (fun k => k != x) + n ≤ size - 128)
    | none => decide (held (fun _ => true) + n ≤ size)
  room && decide (held (fun k => k == c) + n ≤ own)

/-- The entries of a set with a place for one more, if there is one (R113, R127): a free way, or the least recently used
entry that neither fetches nor is waited for. -/
def Work.makeWay (w : Work) (c : Nat) (es : List DedupEntry) : Option (List DedupEntry) :=
  let idle := fun (e : DedupEntry) => !e.outstanding && e.waiting.isEmpty
  let shared := fun (e : DedupEntry) =>
    match w.urgentCtx with
    | some x => x == c || w.opCtx e.op != x
    | none => true
  let ways := match w.urgentCtx with | some x => if x = c then 16 else 15 | none => 16
  let mine := es.filter shared
  if mine.length < ways ∧ es.length < 16 then some es
  else
    match (mine.reverse).find? idle with
    | none => none
    | some e => some (es.erase e)

/-- What taking in a position comes to. -/
inductive Intake where
  | done (w : Work)
  | blocked (cause : Nat)
  | stop (e : TravStop)

/-- A sampled MAPPED position logged (R183). -/
def Work.logPosition (w : Work) (c pos : Nat) (p : RowPlace) : Work :=
  match p with
  | .here _ _ (some entry) =>
    let (base, _, n) := w.popLog
    if base ≠ 0 ∧ (pos + 1) % 2 ^ n = 0 then w.logRow c entry else w
  | _ => w

/-- An entry put at the front of a set, in place of its older self. -/
def Work.touch (w : Work) (u s : Nat) (old : List DedupEntry) (e : DedupEntry) : Work :=
  w.updUnit u fun g => g.put s (e :: old.filter fun k => !(k.op == e.op && k.table == e.table && k.key == e.key))

/-- The request that a fetch sends to a peer, if any (R121). -/
def Work.sendFetch (w : Work) (c : Nat) (t : Table) (tableAt op : Nat) (key : Nat) (p : RowPlace) : Work :=
  let job := (w.ctx c).jobTag
  match p with
  | .peer dev a => w.sendRouted c 1 dev job true (.read a (storedLen t.cls t.elems) op)
  | .served dev _ => w.sendRouted c 1 dev job true (.served tableAt key)
  | _ => w

/-- A new key of an operation: an entry allocated, and its fetch issued (R113, R114, R119, R125). -/
def Work.newKey (w : Work) (o : GatherOp) (t : Table) (u pos key : Nat) (p : RowPlace) : Intake :=
  let c := o.ref.ctx
  let s := dedupSet t.id key
  match w.makeWay c ((w.unit u).entries s) with
  | none => .blocked Ctr.stallQueueFull
  | some es =>
    let e : DedupEntry :=
      { key := key, op := o.id, table := t.id, first := none, invalid := decide (p = .invalid), outstanding := decide (p ≠ .invalid), peer := false, tags := 0,
        tally := Tally.empty, waiting := [] }
    match w.issueFault c t p with
    | some x => .stop x
    | none =>
      match p with
      | .invalid =>
        match w.serveInvalid o t pos with
        | .error x => .stop x
        | .ok w => .done (w.touch u s es e)
      | p =>
        let (peer, n) := match p with
          | .here _ cls _ => (false, tagsFor (storedLen cls t.elems))
          | _ => (true, tagsFor (storedLen t.cls t.elems))
        if !w.tagsFree c u peer n then .blocked Ctr.stallTags
        else
          let again := o.seen.contains (u, key)
          let w := w.touch u s es { e with peer := peer, tags := n, waiting := [pos] }
          let w := w.count Ctr.dedupCollisionRefetch (if again then 1 else 0)
          let w := w.updGather o.id fun k => { k with seen := if again then k.seen else (u, key) :: k.seen }
          .done ((w.sendFetch c t o.params.table o.id key p).logPosition c pos p)

/-- One position taken in by a unit (R113, R119). -/
def Work.takePosition (w : Work) (o : GatherOp) (t : Table) (u pos key : Nat) : Intake :=
  let c := o.ref.ctx
  if key = nullKey o.params.source then .done ((w.putZero o t.elems pos).count Ctr.gatherNullKeys 1)
  else
    match w.rowPlace c t key with
    | .error e => .stop e
    | .ok p =>
      let s := dedupSet t.id key
      let es := (w.unit u).entries s
      match es.find? fun e => e.op == o.id && e.table == t.id && e.key == key with
      | none => w.newKey o t u pos key p
      | some e =>
        if e.invalid then
          match w.serveInvalid o t pos with
          | .error x => .stop x
          | .ok w => .done (w.touch u s es e)
        else if e.outstanding then
          (if 1024 ≤ (w.unit u).pending then .blocked Ctr.stallQueueFull
           else .done ((w.touch u s es { e with waiting := e.waiting ++ [pos] }).logPosition c pos p))
        else
          let len := ceilDiv (fmtBits o.form.fmt * t.elems) 8
          let bs := w.ldN c (placeRow o.params.output o.params.stride (e.first.getD 0)) len
          .done ((((w.putOut o pos bs e.tally).touch u s es e).count Ctr.dedupHits 1).logPosition c pos p)

/-- The operations in the order in which units take their keys: the urgent context's first, then as dispatched (R115,
R127). -/
def Work.gatherOrder (w : Work) : List GatherOp :=
  match w.urgentCtx with
  | none => w.d.gathers
  | some x => (w.d.gathers.filter fun o => o.ref.ctx == x) ++ w.d.gathers.filter fun o => o.ref.ctx != x

/-- The next position that a unit takes in: the operation, the position and its key. -/
def Work.nextPosition (w : Work) (u : Nat) : Option (GatherOp × Nat × Nat) :=
  w.gatherOrder.findSome? fun o =>
    match o.todo.find? fun e => e.1 == u && !e.2.isEmpty with
    | some (_, (p, k) :: _) => some (o, p, k)
    | _ => none

/-- The head of a unit's list of an operation dropped. -/
def GatherOp.drop (o : GatherOp) (u : Nat) : GatherOp := { o with todo := o.todo.map fun e => if e.1 = u then (u, e.2.drop 1) else e }

/-- A unit's intake until it is blocked or has nothing left (R110, R113). -/
def Work.pumpUnit (w : Work) (u : Nat) : Nat → Work
  | 0 => w
  | n + 1 =>
    match w.nextPosition u with
    | none => w
    | some (o, pos, key) =>
      match w.takePosition o (w.table o.params.table) u pos key with
      | .done w => (w.updGather o.id fun k => k.drop u).pumpUnit u n
      | .blocked cause => w.stall o.ref.ctx cause 6
      | .stop e => (w.engineStop o.ref 1 6 e).pumpUnit u n

/-- The positions not yet taken in. -/
def Work.toTake (w : Work) : Nat := (w.d.gathers.map fun o => (o.todo.map fun e => e.2.length).sum).sum

/-- Every unit's intake. -/
def Work.pump (w : Work) : Work := w.fz.units.foldl (fun w u => w.pumpUnit u (w.toTake + 1)) w

/-! ### Starting an operation -/

/-- Whether a source kind is allowed with a table kind (R108). -/
def sourceAllowed (src : KeySource) (kind : Nat) : Bool :=
  match src with
  | .edgeId => kind == 2
  | .edgeTarget | .edgeNeighbour => kind == 0 || kind == 4
  | _ => true

/-- The bytes of a drop mask of `n` positions (R107). -/
def maskBytes (n : Nat) : Nat := roundUp (ceilDiv n 8) 64

/-- The fault of reading a key source, if any: its block header, then its arrays (R361). -/
def Work.keyFault (w : Work) (c : Nat) (src : KeySource) (a : Nat) (k : KeyArray) : Option (Nat × Nat) :=
  ((if blockSource src then w.accessFault c a 448 false else none).or (if k.blockOk then w.accessFault c k.lo k.len false else none))

/-- The halt of a GATHER at its start, if any (R107, R108, R130, R361, R371). -/
def Work.gatherFault (w : Work) (c : Nat) (p : GatherParams) : Option (Nat × Nat) :=
  if ((w.d.active.quotas[c]?).getD Quota.zero).gatherLocal = 0 then some (0x43, 4)
  else
    match w.accessFault c p.table 64 false with
    | some f => some f
    | none =>
      let t := w.table p.table
      let k := w.keyArray p.source p.keys p.count p.hop
      match w.outForm c (if p.bf16 then .bf16 else .fp32) p.tag with
      | none => some (0x82, p.tag.layer.getD 0)
      | some form =>
        let rowLen := ceilDiv (fmtBits form.fmt * t.elems) 8
        let bad :=
          p.table % 64 != 0 || !t.ok || !sourceAllowed p.source t.kind || p.keys % 64 != 0
            || (!blockSource p.source && (p.count == 0 || decide (2 ^ 32 ≤ p.count)))
            || (blockSource p.source && decide (p.source ≠ .nodeTable) && (p.hop == 0 || decide (8 < p.hop)))
            || placeBad p.output || p.stride % 64 != 0 || decide (p.stride < rowLen) || p.dropMask % 64 != 0 || decide (16 < p.spread.length)
        if bad then some (0x22, p.table % 2 ^ 32)
        else
          match w.keyFault c p.source p.keys k with
          | some f => some f
          | none =>
            let size := placeSize p.output p.stride rowLen k.count
            if !k.blockOk || decide (p.outputSize < size) || decide (p.maskSize < maskBytes k.count) then some (0x22, p.table % 2 ^ 32)
            else (w.placeFault c p.output size k.count true).or (if k.count = 0 then none else w.accessFault c p.dropMask (maskBytes k.count) true)

/-- The positions of an operation by unit, in position order (R110, R111). -/
def Work.routeAll (w : Work) (c : Nat) (p : GatherParams) (table : Nat) (k : KeyArray) : List (Nat × List (Nat × Nat)) :=
  let keys := (List.range k.count).map fun i => (i, w.keyAt c k i)
  w.fz.units.map fun u => (u, keys.filter fun e => w.fz.routeKey table p.spread e.1 e.2 == u)

/-- GATHER taken up (R107, R115): at most eight operations at once. -/
def Work.startGather (w : Work) (r : StreamRef) (p : GatherParams) : Work :=
  match w.gatherFault r.ctx p with
  | some (reason, d) => w.haltStream r 1 reason d
  | none =>
    match w.poisonIn p.table 64 with
    | some a => w.poisonHalt r.ctx (streamRec r 1 0x41 a) a
    | none =>
      if 8 ≤ w.d.gathers.length then w.stall r.ctx Ctr.stallQueueFull 6
      else
        let (id, w) := w.fresh
        let k := w.keyArray p.source p.keys p.count p.hop
        let form := (w.outForm r.ctx (if p.bf16 then .bf16 else .fp32) p.tag).getD { fmt := .fp32, scale := 0, ref := 0 }
        let o : GatherOp :=
          { id := id, ref := r, params := p, todo := w.routeAll r.ctx p (w.table p.table).id k, seen := [], masked := [], form := form, tally := Tally.empty }
        (w.upd fun d => { d with gathers := d.gathers ++ [o] }).pump

/-! ### Returns and completion -/

/-- What a returned fetch brings: the elements with their class, or that no row is there (R121, R124, R170). -/
inductive Fetched where
  | row (cls : Nat) (vs : List Val)
  | noRow
  | stop (e : TravStop)
  | late

/-- Widened elements, or the halt of R170. -/
def widened (cls elems : Nat) (bs : List Byte) (key : Nat) : Fetched :=
  match widenRow cls elems bs with
  | some vs => .row cls vs
  | none => .stop (.halt 0x37 (key % 2 ^ 32))

/-- A row read at its home on this device: memory code, checksum, widening (R170, R487, R493). -/
def Work.readHome (w : Work) (c a cls elems key : Nat) : Fetched :=
  let len := storedLen cls elems
  match w.poisonIn a len with
  | some p => .stop (.poison p)
  | none =>
    match (if 4096 ≤ len then w.verifyRange a len else .ok 0) with
    | .error b => .stop (.halt 0x42 b)
    | .ok _ => widened cls elems (w.ldN c a len) key

/-- The row of a returned fetch. -/
def Work.fetched (w : Work) (c : Nat) (t : Table) (key : Nat) (peer : Option PeerRow) : Fetched :=
  match w.rowPlace c t key with
  | .error e => .stop e
  | .ok .invalid => .noRow
  | .ok (.here a cls _) => w.readHome c a cls t.elems key
  | .ok (.peer _ _) =>
    match peer with
    | none => .late
    | some (.denied a) => .stop (.halt 0x48 a)
    | some .invalid => .noRow
    | some (.row _ bs) => widened t.cls t.elems bs key
  | .ok (.served _ _) =>
    match peer with
    | none => .late
    | some (.denied a) => .stop (.halt 0x48 a)
    | some .invalid => .noRow
    | some (.row cls bs) => widened cls t.elems bs key

/-- The sources of a fetch counted (R120, R122, R131). -/
def Work.countFetch (w : Work) (c : Nat) (t : Table) (key : Nat) : Work :=
  let w := w.count Ctr.gatherFetches 1
  match w.rowPlace c t key with
  | .ok (.here a _ mapped) =>
    let w := w.count Ctr.gatherHotRows (if mapped.isSome ∧ w.fz.space a = .shared then 1 else 0)
    w.count Ctr.gatherCapacityRows (if w.fz.tier a = some 0 then 1 else 0)
  | .ok (.peer _ _) => w.count Ctr.gatherPeerRows 1
  | .ok (.served _ _) => w.count Ctr.gatherPeerRows 1
  | _ => w

/-- The waiting positions of an entry written: the first from the data, the others as hits (R113). -/
def Work.fillWaiting (w : Work) (o : GatherOp) (bs : List Byte) (t : Tally) : List Nat → Work
  | [] => w
  | p :: ps => ps.foldl (fun w q => (w.putOut o q bs t).count Ctr.dedupHits 1) (w.putOut o p bs t)

/-- A fetch that has returned, for an outstanding entry of an operation (R113, R119, R121). -/
def Work.takeFetch (w : Work) (o : GatherOp) (u : Nat) (e : DedupEntry) (peer : Option PeerRow) : Work :=
  let c := o.ref.ctx
  let t := w.table o.params.table
  let s := dedupSet t.id e.key
  let es := (w.unit u).entries s
  match w.fetched c t e.key peer with
  | .late => w.stall c Ctr.stallDataLatePeer 6
  | .stop x => w.engineStop o.ref 1 6 x
  | .noRow =>
    let w := if e.peer then w.answered c else w
    let r := e.waiting.foldlM (fun w p => w.serveInvalid o t p) w
    match r with
    | .error x => w.engineStop o.ref 1 6 x
    | .ok w => (w.touch u s es { e with invalid := true, outstanding := false, tags := 0, waiting := [] }).pump
  | .row cls vs =>
    let w := if e.peer then w.answered c else w
    let (bs, k) := rowOut o.form vs
    let w := (w.fillWaiting o bs k e.waiting).countOutput o.form cls vs
    let w := w.countFetch c t e.key
    (w.touch u s es { e with first := e.waiting.head?, outstanding := false, tags := 0, tally := k, waiting := [] }).pump

/-- A drop mask from its masked positions (R107). -/
def dropMask (n : Nat) (masked : List Nat) : List Byte :=
  tab (maskBytes n) fun i => BitVec.ofNat 8 ((masked.filter fun p => p / 8 == i).foldl (fun a p => a ||| 2 ^ (p % 8)) 0)

/-- The entries of an operation that still fetch. -/
def Work.fetching (w : Work) (id : Nat) : List DedupEntry :=
  (w.d.units.flatMap fun u => u.sets.flatMap fun s => s.2).filter fun e => e.op == id && e.outstanding

/-- An operation finished (R109, R112, R290): its drop mask and census written, its entries freed. -/
def Work.finishGather (w : Work) (o : GatherOp) : Work :=
  let c := o.ref.ctx
  let p := o.params
  let k := w.keyArray p.source p.keys p.count p.hop
  let w := if k.count = 0 then w else w.stN c p.dropMask (dropMask k.count o.masked)
  let w := w.upd fun d => { d with gathers := d.gathers.filter fun g => g.id != o.id, units := d.units.map fun u => u.without fun n => n == o.id }
  let w :=
    if (w.table p.table).map = 0 then w
    else
      let (n, w) := w.draw
      w.count Ctr.gatherMapMisses (Config.freeChoice n)
  match w.censusAdd c o.form.fmt p.tag o.form.ref o.tally with
  | .error d => w.haltStream o.ref 1 0x84 d
  | .ok w => w.pump.tryReport

/-! ### Served lookups -/

/-- A served lookup on the owner (R121, R361): the row in its stored width, an invalid result, or a denial. The request
names the table by its descriptor's address (log 26). -/
def Work.serveLookup (w : Work) (link jobTag table key reqTag : Nat) : Work :=
  let dest := (w.link link).peerId
  let answer := fun (w : Work) (r : PeerRow) => w.sendRouted 0 2 dest (BitVec.ofNat 32 jobTag) false (.servedResult reqTag r)
  match w.tagged jobTag with
  | none => answer w (.denied table)
  | some c =>
    match w.accessFault c table 64 false with
    | some (_, a) => answer w (.denied a)
    | none =>
      let t := w.table table
      let place := match w.mapFind c t.map t.mapN key with
        | .error e => Except.error e
        | .ok none => .ok RowPlace.invalid
        | .ok (some h) => w.mappedRow t (t.first + h.row)
      match place with
      | .error (.halt r d) => w.halt c (machineRec r d)
      | .error (.poison p) => w.poisonHalt c (machineRec 0x41 p) p
      | .error (.late _ _) => w
      | .ok (.here a cls _) =>
        let len := storedLen cls t.elems
        match w.poisonIn a len with
        | some p => w.poisonHalt c (machineRec 0x41 p) p
        | none => (answer w (.row cls (w.rdN a len))).count Ctr.gatherServedRows 1
      | .ok _ => answer w .invalid

/-! ### The commands -/

/-- GATHER. -/
def execGather (r : StreamRef) (p : GatherParams) (s : State) : Host.Outcome State Fault Refusal :=
  .next (s.exec fun w => if (w.ctx r.ctx).active then w.startGather r p else w)

/-- GATHER_FETCH_RETURN. -/
def execGatherFetchReturn (op unit key : Nat) (peer : Option PeerRow) (s : State) : Host.Outcome State Fault Refusal :=
  .next (s.exec fun w =>
    match w.gatherOp op with
    | none => w
    | some o =>
      match ((w.unit unit).sets.flatMap fun s => s.2).find? fun e => e.op == op && e.key == key && e.outstanding with
      | none => w
      | some e => w.takeFetch o unit e peer)

/-- GATHER_COMPLETE: once every position is written; else one stalled cycle for the late data. -/
def execGatherComplete (op : Nat) (s : State) : Host.Outcome State Fault Refusal :=
  .next (s.exec fun w =>
    match w.gatherOp op with
    | none => w
    | some o =>
      match w.fetching op with
      | e :: _ => w.stall o.ref.ctx (if e.peer then Ctr.stallDataLatePeer else Ctr.stallDataLateLocal) 6
      | [] => if o.todo.any fun e => !e.2.isEmpty then w.pump else w.finishGather o)

/-- SERVED_LOOKUP. -/
def execServedLookup (link jobTag table key reqTag : Nat) (s : State) : Host.Outcome State Fault Refusal :=
  .next (s.exec fun w => if (w.link link).state = .up then w.serveLookup link jobTag table key reqTag else w)

end Sys2Proof.Machine
end

