-- ==== Sys2Proof/Machine/Coupling.lean ====
section
/-!
DEFINITION. The real Clebsch-Gordan coefficients of R275, from the complex ones of Racah's formula by the basis change of
R270, in fixed point of 256 fraction bits.
-/

namespace Sys2Proof.Machine

/-- A factorial. -/
def fact : Nat → Nat
  | 0 => 1
  | n + 1 => (n + 1) * fact n

/-- The factorial of an integer; `none` below zero. -/
def factI (n : Int) : Option Nat := if n < 0 then none else some (fact n.toNat)

/-- The common denominator of the terms of Racah's sum: degrees are at most 6. -/
def racahUnit : Nat := fact 12 ^ 6

/-- One term of Racah's sum over the common denominator. -/
def racahTerm (l1 l2 l3 m1 m2 k : Int) : Int :=
  match factI k, factI (l1 + l2 - l3 - k), factI (l1 - m1 - k), factI (l2 + m2 - k), factI (l3 - l2 + m1 + k), factI (l3 - l1 - m2 + k) with
  | some a, some b, some c, some d, some e, some f => (if k % 2 = 0 then 1 else -1) * (racahUnit / (a * b * c * d * e * f) : Nat)
  | _, _, _, _, _, _ => 0

/-- The square of a complex coefficient as a fraction, with the sign of the coefficient. -/
def cgSquare (l1 l2 l3 m1 m2 : Int) : Int × Nat × Nat :=
  let m3 := m1 + m2
  let s := ((List.range 13).map fun (k : Nat) => racahTerm l1 l2 l3 m1 m2 k).sum
  match factI (l3 + l1 - l2), factI (l3 - l1 + l2), factI (l1 + l2 - l3), factI (l3 + m3), factI (l3 - m3) with
  | some a, some b, some c, some d, some e =>
    let p := (2 * l3.toNat + 1) * a * b * c * d * e * fact (l1 - m1).toNat * fact (l1 + m1).toNat * fact (l2 - m2).toNat * fact (l2 + m2).toNat
    (s.sign, s.natAbs * s.natAbs * p, racahUnit * racahUnit * fact (l1 + l2 + l3 + 1).toNat)
  | _, _, _, _, _ => (0, 0, 1)

/-- The terms of a real harmonic of order m over the complex ones (R270): the complex order, and the factor as a quarter
turn and whether it carries 1/√2. -/
def realTerms (m : Int) : List (Int × Nat × Bool) :=
  let odd := m.natAbs % 2
  if m = 0 then [(0, 0, false)]
  else if 0 < m then [(m, 2 * odd, true), (-m, 0, true)]
  else [(-m, 2 * odd + 3, true), (m, 1, true)]

/-- A coefficient before its sign is settled: its real and imaginary parts, times 2^256. -/
def coupleRaw (l1 l2 l3 : Nat) (m1 m2 m3 : Int) : Int × Int :=
  let terms := (realTerms m1).flatMap fun a => (realTerms m2).flatMap fun b => (realTerms m3).filterMap fun c =>
    if a.1 + b.1 = c.1 ∧ a.1.natAbs ≤ l1 ∧ b.1.natAbs ≤ l2 then
      let q := cgSquare l1 l2 l3 a.1 b.1
      let halves := [a.2.2, b.2.2, c.2.2].countP fun x => x
      some ((c.2.1 + (4 - a.2.1 % 4) + (4 - b.2.1 % 4)) % 4, q.1 * (isqrt (2 ^ 512 * q.2.1 / (q.2.2 * 2 ^ halves)) : Nat))
    else none
  terms.foldl
    (fun acc t =>
      match t.1 with
      | 0 => (acc.1 + t.2, acc.2)
      | 1 => (acc.1, acc.2 + t.2)
      | 2 => (acc.1 - t.2, acc.2)
      | _ => (acc.1, acc.2 - t.2)) (0, 0)

/-- The orders of a degree, ascending. -/
def orders (l : Nat) : List Int := (List.range (2 * l + 1)).map fun (i : Nat) => (i : Int) - l

/-- The coefficients of a path, in order of ascending (m3, m1, m2), as values (R275): zero where the exact coefficient is,
and the first that is not zero positive. Sums that cancel leave less than 2^−200. -/
def coupleTable (l1 l2 l3 : Nat) : List (Int × Int × Int × Val) :=
  let raw := (orders l3).flatMap fun m3 => (orders l1).flatMap fun m1 => (orders l2).map fun m2 =>
    let z := coupleRaw l1 l2 l3 m1 m2 m3
    let x := if z.1.natAbs < 2 ^ 56 then z.2 else z.1
    (m1, m2, m3, if x.natAbs < 2 ^ 56 then 0 else x)
  let neg := match raw.find? fun e => e.2.2.2 != 0 with | some e => decide (e.2.2.2 < 0) | none => false
  raw.map fun e => (e.1, e.2.1, e.2.2.1, ofF32 (toF32 (Val.ofInt (if neg then -e.2.2.2 else e.2.2.2) (-256))))

/-- The non-zero coefficients of a path (R276). -/
def coupleNz (l1 l2 l3 : Nat) : Nat := (coupleTable l1 l2 l3).countP fun e => !e.2.2.2.isZero

end Sys2Proof.Machine
end

