-- ==== Sys2Proof/Machine/Regions.lean ====
section
/-!
DEFINITION. Declared regions (R395 to R398): which descriptors are valid, how a command's named regions resolve to
addresses with the check of R361, and when two resolved regions conflict.
-/

namespace Sys2Proof.Machine

/-- The key of a peer's global address among resolved ranges; no local key is that large. -/
def globalKey (a : Nat) : Nat := 2 ^ 100 + a

/-- Whether a region may be read, written, or is a ring region, and its ring (R395). -/
def regionReads (r : Region) : Bool := bitOf r.access 0
/-- Write access of a region (R395). -/
def regionWrites (r : Region) : Bool := bitOf r.access 1
/-- The ring that a region names, if it is a ring region (R395). -/
def regionRing (r : Region) : Option Nat := if bitOf r.access 2 then some (bitsOf r.access 4 3) else none

/-- Whether a descriptor breaks R395. -/
def regionBad (r : Region) (tile : Bool) : Bool :=
  let len := r.length % 64 != 0 || decide (r.length < 64) || decide (2 ^ 40 < r.length)
  match r.space with
  | 0 => false
  | 1 => len || r.base % 64 != 0
  | 2 => len || r.base % 64 != 0
  | 3 => len || r.base / 2 ^ 16 % 64 != 0
  | 4 => len || !tile || r.base % 64 != 0 || decide (tileStoreSize < r.base % 2 ^ 22 + r.length)
  | 5 => len || !tile || r.base % 64 != 0 || decide (131072 < r.base % 2 ^ 17 + r.length)
  | _ => true

/-- A region resolved for a command of a context, on a tile or in a stream: where it stands, or the halt (R361, R362, R397). -/
def Work.resolve (w : Work) (c : Nat) (tile : Option Nat) (r : Region) (write : Bool) : Except (Nat × Nat) Resolved :=
  let ring := match tile, regionRing r with | some t, some n => some (4 * t + n) | _, _ => none
  let here := fun (a : Nat) (h : Option Nat) =>
    match w.accessFault c a r.length write with
    | some f => Except.error f
    | none => .ok { lo := a, len := r.length, write := write, handle := h, ring := ring }
  if (write && !regionWrites r) || (!write && !regionReads r) then .error (0x26, 0)
  else
    match r.space, tile with
    | 1, _ => here (r.base % 2 ^ 50) none
    | 2, _ =>
      if r.base / 2 ^ 50 = w.d.deviceNumber then here (r.base % 2 ^ 50) none
      else if write then .error (0x47, r.base)
      else
        match w.peerFault r.base with
        | some f => .error f
        | none => .ok { lo := globalKey r.base, len := r.length, write := false, handle := none, ring := none }
    | 3, _ =>
      let h := r.base % 2 ^ 16
      (match w.d.residency.find? fun e => e.handle == h && decide (e.state ≠ .free) && decide (e.state ≠ .installing) with
        | none => .error (0x48, h)
        | some e => here (e.home + r.base / 2 ^ 16 % 2 ^ 40) (some h))
    | 4, some t => here (tileStoreAddr t (r.base % 2 ^ 22)) none
    | 5, some t => .ok { lo := dmemKey t (r.base % 2 ^ 17), len := r.length, write := write, handle := none, ring := ring }
    | _, _ => .error (0x26, 0)

/-- The named regions of a command resolved in order (R397). -/
def Work.resolveAll (w : Work) (c : Nat) (tile : Option Nat) (regions : List Region) : List Access → Except (Nat × Nat) (List Resolved)
  | [] => .ok []
  | u :: us =>
    match w.resolve c tile ((regions[u.slot]?).getD Region.none) u.write with
    | .error (r, d) => .error (r, if r = 0x26 then u.slot else d)
    | .ok x =>
      match w.resolveAll c tile regions us with
      | .error e => .error e
      | .ok xs => .ok (x :: xs)

/-- Whether two resolved regions share a 64-byte granule (R398). -/
def Resolved.shares (a b : Resolved) : Bool :=
  decide (a.lo / 64 * 64 < b.lo + b.len) && decide (b.lo / 64 * 64 < a.lo + a.len)

/-- Whether two resolved regions conflict (R398): not two accesses through one ring. -/
def Resolved.conflicts (a b : Resolved) : Bool := (a.write || b.write) && a.shares b && !(a.ring.isSome && a.ring == b.ring)

/-- Whether a range of keys lies within one of some resolved regions with the access it needs (R397). -/
def covered (rs : List Resolved) (lo len : Nat) (write : Bool) : Bool :=
  rs.any fun r => (!write || r.write) && (write || !r.write) && decide (r.lo ≤ lo) && decide (lo + len ≤ r.lo + r.len)

end Sys2Proof.Machine
end

