-- ==== Sys2Proof/Machine/TileBase.lean ====
section
/-!
DEFINITION. What every tile instruction shares: general registers, registers and tile store as bytes, hardware loops
(R253, R254), taking an instruction up (R247, R250, R256), rings (R216), and what in-flight array work holds (R225).
-/

namespace Sys2Proof.Machine

/-! ### Registers -/

/-- A general register; g0 reads as 0 (R247). -/
def Tile.greg (t : Tile) (r : Nat) : W64 := if r = 0 then 0 else (t.g[r]?).getD 0

/-- A general register written; a write to g0 is discarded (R247). -/
def Tile.setG (t : Tile) (r : Nat) (v : W64) : Tile := if r = 0 then t else { t with g := updAt t.g r fun _ => v }

/-- The bytes of one vector register (R230). -/
def vregSize : Nat := 16384

/-- The key of byte `off` from the start of register `v` of a tile; the registers stand one after another. -/
def vregAt (tile v off : Nat) : Nat := vregKey tile (v * vregSize + off)

/-- Whether `n` registers from `v` pass v31 (R227, R258). -/
def pastRegs (v n : Nat) : Bool := decide (32 < v + n)

/-- A mask register (R244). -/
def Tile.mask (t : Tile) (m : Nat) : BitVec 4096 := (t.masks[m]?).getD 0

/-- A mask register written. -/
def Tile.setMask (t : Tile) (m : Nat) (v : BitVec 4096) : Tile := { t with masks := updAt t.masks m fun _ => v }

/-- The fault of a tile-store range that passes the store (R227, R243): its first address outside. -/
def storeFault (off len : Nat) : Option Nat := if off + len ≤ tileStoreSize then none else some (max off tileStoreSize)

/-! ### Hardware loops -/

/-- What follows the instruction at `pc` (R254): each level that ends there counts down, innermost first; the levels left,
and where execution goes on. -/
def loopEnd (pc next : Nat) : List Loop → List Loop × Nat
  | [] => ([], next)
  | l :: ls =>
    if l.last = pc then
      (if 1 < l.remaining then ({ l with remaining := l.remaining - 1, iteration := l.iteration + 1 } :: ls, l.first) else loopEnd pc next ls)
    else (l :: ls, next)

/-- The levels that a taken branch leaves active: it pops each level whose body it leaves, with every level inside (R254). -/
def branchLoops (target : Nat) (ls : List Loop) : List Loop :=
  (ls.reverse.takeWhile fun l => decide (l.first ≤ target) && decide (target ≤ l.last)).reverse

/-- Execution after the instruction at `pc` (R254). -/
def Tile.advance (t : Tile) (pc next : Nat) : Tile :=
  let (ls, n) := loopEnd pc next t.loops
  { t with loops := ls, pc := n }

/-! ### Taking an instruction up -/

/-- What an instruction comes to: done; a taken branch, which may leave loop bodies; execution elsewhere with the loop levels
as they stand (CALL, RET, LOOP); waiting under a stall cause of a consumer class; or a halt of a unit (R254, R256, R412,
R570). -/
inductive Issued where
  | done (w : Work)
  | jump (w : Work) (target : Nat)
  | go (w : Work) (target : Nat)
  | wait (cause cls : Nat)
  | halt (unit reason detail : Nat)

/-- The context whose running tile core is at an instruction (R247, R249). -/
def Work.executing (w : Work) (t : TileRef) : Option Nat :=
  match w.owner t.tile with
  | none => none
  | some c => if (w.ctx c).active ∧ (w.tile t.tile).run = .running ∧ (w.tile t.tile).pc = t.pc then some c else none

/-- An instruction that the tile core takes up (R247, R250, R256): nothing where the core is not at it; a halt at or beyond
the loaded image; else its effect, the instruction counted and the next address. -/
def Work.issue (w : Work) (t : TileRef) (f : Nat → Work → Issued) : Work :=
  match w.executing t with
  | none => w
  | some c =>
    if (w.tile t.tile).imageLen ≤ t.pc then w.haltTile t 0 0x01 0
    else
      match f c w with
      | .done v => (v.updTile t.tile fun k => k.advance t.pc t.next).count Ctr.tileCoreInstructions 1
      | .jump v a => (v.updTile t.tile fun k => { k with pc := a, loops := branchLoops a k.loops }).count Ctr.tileCoreInstructions 1
      | .go v a => (v.updTile t.tile fun k => { k with pc := a }).count Ctr.tileCoreInstructions 1
      | .wait cause cls => w.stall c cause cls
      | .halt unit reason detail => w.haltTile t unit reason detail

/-- A vector instruction taken up (R233): it waits while the queue of 8 is full, else it takes its place in the queue. -/
def Work.issueVector (w : Work) (t : TileRef) (f : Nat → Work → Issued) : Work :=
  w.issue t fun c w =>
    if 8 ≤ (w.tile t.tile).vecQueue then .wait Ctr.stallQueueFull 0
    else
      match f c w with
      | .done v => .done (v.updTile t.tile fun k => { k with vecQueue := k.vecQueue + 1 })
      | r => r

/-! ### Rings -/

/-- A ring of a tile. -/
def Tile.ring (t : Tile) (n : Nat) : TileRing := (t.rings[n]?).getD TileRing.reset

/-- Slots that a consumer can read (R216). -/
def TileRing.filled (r : TileRing) : Nat := (r.produced - r.consumed).toNat

/-- Slots that a producer can fill (R216). -/
def TileRing.room (r : TileRing) : Nat := r.slots - r.filled

/-- The tile-store offset of a slot (R216). -/
def TileRing.slotOff (r : TileRing) (i : W32) : Nat := r.base + i.toNat % max 1 r.slots * r.slotSize

/-- A ring of a tile changed. -/
def Tile.updRing (t : Tile) (n : Nat) (f : TileRing → TileRing) : Tile := { t with rings := updAt t.rings n f }

/-- Slots filled by a producer. -/
def Tile.produce (t : Tile) (n k : Nat) : Tile := t.updRing n fun r => { r with produced := r.produced + BitVec.ofNat 32 k }

/-- Slots read by a consumer. -/
def Tile.consume (t : Tile) (n k : Nat) : Tile := t.updRing n fun r => { r with consumed := r.consumed + BitVec.ofNat 32 k }

/-! ### What in-flight array work holds -/

/-- Registers, tile-store ranges and masks that an instruction touches. -/
structure Foot where
  regs : List (Nat × Nat)
  store : List (Nat × Nat)
  masks : List Nat
  deriving DecidableEq, Repr

/-- Nothing touched. -/
def Foot.none : Foot := { regs := [], store := [], masks := [] }

/-- Registers touched. -/
def Foot.ofRegs (rs : List (Nat × Nat)) : Foot := { Foot.none with regs := rs }

/-- Two footprints together. -/
def Foot.join (a b : Foot) : Foot := { regs := a.regs ++ b.regs, store := a.store ++ b.store, masks := a.masks ++ b.masks }

/-- Whether two ranges meet. -/
def meets (a b : Nat × Nat) : Bool := decide (a.1 < b.1 + b.2) && decide (b.1 < a.1 + a.2)

/-- Whether two footprints meet. -/
def Foot.meets (a b : Foot) : Bool :=
  (a.regs.any fun x => b.regs.any fun y => Sys2Proof.Machine.meets x y) || (a.store.any fun x => b.store.any fun y => Sys2Proof.Machine.meets x y)
    || a.masks.any fun m => b.masks.contains m

/-- The registers or tile-store range of `rows` rows of `len` bytes at a source or target of the array (R215); a ring holds
none. -/
def srcFoot (s : TileSrc) (rows len : Nat) : Foot :=
  match s with
  | .regs v => Foot.ofRegs [(v, ceilDiv (rows * len) vregSize)]
  | .store b st => { Foot.none with store := [(b, (rows - 1) * st + len)] }
  | .ring _ => Foot.none

/-- The bytes of a streamed row: 512 in FP32, else 256 (R215). -/
def streamRowLen (f : Fmt) : Nat := if f = .fp32 then 512 else 256

/-- What a queued array instruction reads or writes (R225). -/
def MatOp.foot : MatOp → Foot
  | .load l =>
    let regs := Foot.ofRegs (l.params.regs.map fun v => (v, 1))
    let scales := match l.params.scales with | some s => srcFoot s 1 (ceilDiv l.params.k 32 * 64) | Option.none => Foot.none
    let store := match l.params.store with | some a => { Foot.none with store := [(a, 2 * vregSize)] } | Option.none => Foot.none
    (regs.join scales).join store
  | .stream s =>
    let p := s.params
    let src := srcFoot p.source p.rows (streamRowLen p.fmt)
    let scales := match p.scales with | some x => srcFoot x p.rows 16 | Option.none => Foot.none
    let dst := srcFoot p.target p.rows (64 * fmtBits s.form.fmt / 8)
    let bits := match p.bits with
      | .none => Foot.none
      | .mask m => { Foot.none with masks := [m] }
      | .store a => { Foot.none with store := [(a, 8 * p.rows)] }
    ((src.join scales).join dst).join bits

/-- Whether array work still in flight holds anything that an instruction touches (R225): the instruction waits for it. -/
def Work.heldByArray (w : Work) (tile : Nat) (f : Foot) : Bool := (w.tile tile).mat.any fun m => m.foot.meets f

end Sys2Proof.Machine
end

