-- ==== Sys2Proof/Machine/Matrix.lean ====
section
/-!
DEFINITION. The matrix array (R206 to R229): loading the stationary operand, streaming rows in every mode, its queue, and
the commands of the family.
-/

namespace Sys2Proof.Machine

/-! ### Formats -/

/-- The longest contraction of a format, for the formats that enter the array (R208, R209). -/
def kMax : Fmt → Option Nat
  | .fp32 | .bf16 | .fp16 => some 128
  | .e4m3 | .e5m2 | .mxE4m3 | .mxE5m2 | .mxInt8 | .mxE3m2 | .mxE2m3 => some 256
  | .mxE2m1 => some 512
  | _ => none

/-- Cycles per row: three passes in FP32 (R208). -/
def rowCycles (f : Fmt) : Nat := if f = .fp32 then 3 else 1

/-- Whether a streamed and a stationary format pair (R209). -/
def pairs (a b : Fmt) : Bool :=
  a == b || ((a == .e4m3 || a == .e5m2) && (b == .e4m3 || b == .e5m2))

/-- Element `i` of `bits` bits from a key upward (R231, R284). -/
def Work.elemAt (w : Work) (key bits i : Nat) : Nat :=
  let lo := bits * i
  w.le (key + lo / 8) ((lo % 8 + bits + 7) / 8) >>> (lo % 8) % 2 ^ bits

/-! ### Loading -/

/-- Whether a LOAD's operands are invalid (R210 to R213, R227): the register number, or 0, as detail. -/
def loadBad (p : LoadParams) : Option Nat :=
  match kMax p.fmt with
  | none => some 0
  | some k =>
    let straight := if p.fmt = .fp32 then 2 else 1
    let turned := if fmtBits p.fmt = 8 then 4 else 2
    let parts := if p.fmt = .fp32 then 1 else if fmtBits p.fmt = 8 then 4 else 2
    let scalesBad := fmtMx p.fmt && (match p.scales with | some (.regs v) => decide (32 ≤ v) | some (.store _ _) => false | _ => true)
    if p.k = 0 ∨ k < p.k ∨ p.n = 0 ∨ 64 < p.n ∨ scalesBad then some 0
    else if p.transposed then
      (if fmtMx p.fmt ∨ p.store.isSome ∨ p.regs.length ≠ turned ∨ parts ≤ p.part then some 0 else p.regs.find? fun v => decide (32 ≤ v))
    else if p.store.isSome then none
    else if p.regs.length ≠ straight then some 0
    else p.regs.find? fun v => decide (32 ≤ v)

/-- The first address of a LOAD's tile-store operands outside the store (R227). -/
def loadStoreFault (p : LoadParams) : Option Nat :=
  let a := match p.store with | some a => storeFault a (ceilDiv (64 * (p.k - 1) + p.n) 1 * fmtBits p.fmt / 8) | none => none
  let s := match p.scales with | some (.store b _) => if fmtMx p.fmt then storeFault b (64 * ceilDiv p.k 32) else none | _ => none
  a.or s

/-- The code of element (k, n) of a LOAD's operand (R210, R211). -/
def Work.loadElem (w : Work) (tile : Nat) (p : LoadParams) (k n : Nat) : Nat :=
  let bits := fmtBits p.fmt
  let reg := fun (i : Nat) => vregAt tile ((p.regs[i]?).getD 0) 0
  if p.transposed then
    let t := k / 64
    let base := if p.fmt = .fp32 then 0 else 64 * p.part
    w.elemAt (reg t) bits (64 * (base + n) + k % 64)
  else
    match p.store with
    | some a => w.elemAt (tileStoreAddr tile a) bits (64 * k + n)
    | none => if p.fmt = .fp32 ∧ 64 ≤ k then w.elemAt (reg 1) bits (64 * (k - 64) + n) else w.elemAt (reg 0) bits (64 * k + n)

/-- A byte at an offset of a source in registers or the tile store; `r` rows of `st` bytes come before it. -/
def Work.srcByte (w : Work) (tile : Nat) (s : TileSrc) (r len off : Nat) : Nat :=
  match s with
  | .regs v => (w.rd (vregAt tile v (r * len + off))).toNat
  | .store b st => (w.rd (tileStoreAddr tile (b + r * st + off))).toNat
  | .ring _ => 0

/-- The stationary operand that a LOAD builds (R210, R211, R213). -/
def Work.stationary (w : Work) (tile : Nat) (p : LoadParams) : Stationary :=
  { fmt := p.fmt, k := p.k, n := p.n, vals := tab p.k fun k => tab p.n fun n => w.loadElem tile p k n
    scales := match p.scales with
      | some s => if fmtMx p.fmt then tab (ceilDiv p.k 32) fun b => tab p.n fun n => w.srcByte tile s 0 0 (64 * b + n) else []
      | none => [] }

/-- The slots that no STREAM before a LOAD uses (R213). -/
def freeSlots (before : List MatOp) : List Nat :=
  [0, 1].filter fun s =>
    !before.any fun m => match m with | .stream k => k.params.slot == s | .load l => l.slot == some s

/-- The slot of a LOAD, of those that are free: which of two is free, no rule says (log 33). -/
def Work.pickSlot (w : Work) (free : List Nat) : Option (Nat × Work) :=
  match free with
  | [] => none
  | [s] => some (s, w)
  | _ => let (n, w) := w.draw; some (Config.freeChoice n % 2, w)

/-! ### Streaming -/

/-- Whether a mode is one of R221. -/
def comparingMode (m : StreamMode) : Bool := decide (m ≠ .multiply)

/-- Whether a STREAM's own parameters are invalid (R214, R222, R223, R227). -/
def streamBad (p : StreamParams) (out : Fmt) : Bool :=
  let ringTarget := match p.target with | .ring _ => true | _ => false
  let regRange := fun (s : TileSrc) (per : Nat) => match s with | .regs v => pastRegs v (ceilDiv p.rows per) | .ring n => decide (4 ≤ n) | _ => false
  let distFmt := p.fmt == .bf16 || p.fmt == .fp16 || p.fmt == .fp32
  (kMax p.fmt).isNone || decide (2 ≤ p.slot) || p.rows == 0 || decide (2 ^ 24 < p.rows)
    || !(p.result == .fp32 || p.result == .bf16 || p.result == .fp16) || p.rnd == .rtz
    || (p.accumulate && (out != .fp32 || ringTarget || comparingMode p.mode))
    || (comparingMode p.mode && !distFmt)
    || regRange p.source (if p.fmt = .fp32 then 32 else 64) || regRange p.target 64
    || (fmtMx p.fmt && (match p.scales with | some (.ring _) => true | none => true | _ => false))
    || (match p.bits with | .mask m => decide (8 ≤ m) || decide (64 < p.rows) | _ => false)

/-- Whether a tile-store or ring operand of rows of `len` bytes is invalid (R215, R216). -/
def Tile.rowsBad (t : Tile) (s : TileSrc) (len : Nat) : Bool :=
  match s with
  | .regs _ => false
  | .store _ st => st % 16 != 0 || decide (st < len)
  | .ring n => decide ((t.ring n).slotSize < len)

/-- The first address outside the tile store that rows of `len` bytes reach (R215, R227). -/
def Tile.rowsFault (t : Tile) (s : TileSrc) (rows len : Nat) : Option Nat :=
  match s with
  | .regs _ => none
  | .store b st => storeFault b ((rows - 1) * st + len)
  | .ring n => storeFault (t.ring n).base ((t.ring n).slots * (t.ring n).slotSize)

/-- Where row `r` of an operand begins: rows of `len` bytes, `per` to a register (R215). -/
def Tile.rowKey (t : Tile) (tile : Nat) (s : TileSrc) (r len : Nat) (count : TileRing → W32) : Nat :=
  match s with
  | .regs v => vregAt tile v (len * r)
  | .store b st => tileStoreAddr tile (b + r * st)
  | .ring n => tileStoreAddr tile ((t.ring n).slotOff (count (t.ring n)))

/-- The halt of a STREAM at the moment its first row would enter, if any (R209, R215, R227). -/
def Work.streamStart (w : Work) (tile : Nat) (s : MatStream) (x : Stationary) : Option (Nat × Nat) :=
  let p := s.params
  let t := w.tile tile
  let inLen := ceilDiv (x.k * fmtBits p.fmt) 8
  let outLen := x.n * fmtBits s.form.fmt / 8
  if !pairs p.fmt x.fmt || t.rowsBad p.source inLen || t.rowsBad p.target outLen then some (0x18, 0)
  else
    let bits := match p.bits with | .store a => storeFault a (8 * p.rows) | _ => none
    let scales := match p.scales with | some k => if fmtMx p.fmt then t.rowsFault k p.rows (ceilDiv x.k 32) else none | none => none
    (((t.rowsFault p.source p.rows inLen).or (t.rowsFault p.target p.rows outLen)).or (bits.or scales)).map fun a => (0x02, a)

/-- The values of a streamed row, under its block scales and any gradient scale (R215, R220, R297). -/
def Work.streamRow (w : Work) (tile : Nat) (p : StreamParams) (k r : Nat) (g : Int) : List Val :=
  let key := (w.tile tile).rowKey tile p.source r (streamRowLen p.fmt) fun q => q.consumed
  tab k fun i =>
    let code := w.elemAt key (fmtBits p.fmt) i
    let v := match p.scales with
      | some s => if fmtMx p.fmt then mxDecode p.fmt (w.srcByte tile s r (ceilDiv k 32) (i / 32)) code else fmtDecode p.fmt code
      | none => fmtDecode p.fmt code
    v.scale g

/-- The values of a column of the stationary operand (R220). -/
def Stationary.column (x : Stationary) (n : Nat) : List Val :=
  x.vals.mapIdx fun k row =>
    let code := (row[n]?).getD 0
    if fmtMx x.fmt then mxDecode x.fmt ((((x.scales[k / 32]?).getD [])[n]?).getD 0) code else fmtDecode x.fmt code

/-- The high part of an FP32 significand, its upper 12 bits (R219). -/
def Val.high : Val → Val
  | .fin n m e t => .fin n (m / 4096 * 4096) e t
  | v => v

/-- The low part of an FP32 significand (R219). -/
def Val.low : Val → Val
  | .fin n m e t => .fin n (m % 4096) e t
  | v => v

/-- A product as the array forms it: in FP32 without the product of the two low parts (R217, R219). -/
def product (f : Fmt) (a b : Val) : Val :=
  if f = .fp32 ∧ !(a.isInf ∨ b.isInf ∨ a.isNan ∨ b.isNan) then
    ((a.high.mul b.high).add (a.high.mul b.low)).add (a.low.mul b.high)
  else a.mul b

/-- The exact sum of a list of values, with the rules of R218. -/
def sumVals : List Val → Val
  | [] => Val.zero
  | v :: vs => vs.foldl Val.add v

/-- The smaller of two values, −0 below +0, or NaN (R236). -/
def Val.least (a b : Val) : Val :=
  if a.isNan || b.isNan then .nan
  else if a.lt b then a
  else if b.lt a then b
  else match a with | .fin true _ _ _ => a | _ => b

/-- The larger of two values, −0 below +0, or NaN (R236). -/
def Val.greatest (a b : Val) : Val := (a.neg.least b.neg).neg

/-- A result of the array before its rounding (R217, R218, R221, R222). -/
def arrayResult (m : StreamMode) (f : Fmt) (theta : W32) (xs ws : List Val) : Val :=
  let ps := xs.zip ws
  match m with
  | .multiply => sumVals (ps.map fun p => product f p.1 p.2)
  | .sqL2 => sumVals (ps.map fun p => (p.1.sub p.2).mul (p.1.sub p.2))
  | .l1 => sumVals (ps.map fun p => (p.1.sub p.2).abs)
  | .minPlus => match ps.map fun p => p.1.add p.2 with | [] => Val.zero | v :: vs => vs.foldl Val.least v
  | .maxPlus => match ps.map fun p => p.1.add p.2 with | [] => Val.zero | v :: vs => vs.foldl Val.greatest v
  | .countLe => Val.ofInt (ps.filter fun p => let d := p.1.sub p.2; !d.isNan && !(ofF32 theta).isNan && !(ofF32 theta).lt d).length 0

/-- The random number of the element at position `j` of an output (R288). -/
def Work.rho (w : Work) (c : Nat) (tag : TensorTag) (j : Nat) : Nat :=
  srDraw w.roundingSeed (w.ctx c).step tag.tensor tag.instanceNo (tag.indexBase + j)

/-- A row that enters the array, with its results written (R215 to R223). -/
def Work.enterRow (w : Work) (c tile : Nat) (s : MatStream) (x : Stationary) (g : Int) : Work × MatStream :=
  let p := s.params
  let r := s.entered
  let t := w.tile tile
  let bits := fmtBits s.form.fmt
  let xs := w.streamRow tile p x.k r g
  let key := t.rowKey tile p.target (match p.target with | .regs _ => 0 | _ => r) 0 fun q => q.produced
  let at_ := fun (n : Nat) =>
    match p.target with
    | .regs v => vregAt tile (v + r / 64) ((64 * (r % 64) + n) * bits / 8)
    | _ => key + n * bits / 8
  let pos := fun (n : Nat) => match p.target with | .regs _ => 64 * r + n | _ => r * x.n + n
  let res := (List.range x.n).foldl
    (fun (a : List Nat × Tally × List Val) n =>
      let v := arrayResult p.mode p.fmt p.theta xs (x.column n)
      let v := if p.accumulate then (f32.decode (w.le (at_ n) 4)).add v else v
      let (st, t) := a.2.1.store s.form (roundOf p.rnd (if p.rnd = .sr then w.rho c p.tag (pos n) else 0)) v
      (a.1 ++ [st.code], t, a.2.2 ++ [(fmtDecode s.form.fmt st.code).scale s.form.scale])) ([], s.tally, [])
  let w := (res.1.mapIdx fun n code => (n, code)).foldl (fun w e => w.wrLe (at_ e.1) (bits / 8) e.2) w
  let word := (res.2.2.mapIdx fun n v => if !v.isNan && !(ofF32 p.theta).isNan && !(ofF32 p.theta).lt v then 2 ^ n else 0).sum
  let dist := decide (p.mode = .sqL2) || decide (p.mode = .l1)
  let w := match p.bits with
    | .store a => if dist then w.wrLe (tileStoreAddr tile (a + 8 * r)) 8 word else w
    | .mask m =>
      if dist then
        w.updTile tile fun k => k.setMask m ((k.mask m &&& ~~~ BitVec.ofNat 4096 ((2 ^ 64 - 1) * 2 ^ (64 * r))) ||| BitVec.ofNat 4096 (word * 2 ^ (64 * r)))
      else w
    | .none => w
  let w := w.updTile tile fun k =>
    let k := match p.source with | .ring n => k.consume n 1 | _ => k
    match p.target with | .ring n => k.produce n 1 | _ => k
  let w := (w.count Ctr.matrixRows 1).count Ctr.matrixEntryCycles (rowCycles p.fmt)
  (w.count Ctr.matrixCellOps (x.k * x.n * rowCycles p.fmt), { s with entered := r + 1, tally := res.2.1 })

/-- Why the next row of a STREAM cannot enter (R216): an empty input ring, or a full output ring. -/
def Work.rowWait (w : Work) (tile : Nat) (p : StreamParams) : Option Nat :=
  let t := w.tile tile
  let empty := match p.source with | .ring n => (t.ring n).filled == 0 | _ => false
  let full := match p.target with | .ring n => (t.ring n).room == 0 | _ => false
  if empty then some Ctr.stallDataLateLocal else if full then some Ctr.stallQueueFull else none

/-- Rows of a STREAM entered until one must wait or none is left. -/
def Work.enterRows (w : Work) (c tile : Nat) (x : Stationary) (g : Int) : Nat → MatStream → Work × MatStream
  | 0, s => (w, s)
  | n + 1, s =>
    if s.params.rows ≤ s.entered then (w, s)
    else
      match w.rowWait tile s.params with
      | some cause => (w.stall c cause 1, s)
      | none => let (w, s) := w.enterRow c tile s x g; w.enterRows c tile x g n s

/-- An uncorrectable block in the tile-store rows that a STREAM reads, if any (R227). -/
def Work.streamPoison (w : Work) (tile : Nat) (s : MatStream) : Option Nat :=
  match s.params.source with
  | .store b st => w.poisonIn (tileStoreAddr tile b) ((s.params.rows - 1) * st + streamRowLen s.params.fmt)
  | _ => none

/-- An operation of the queue set back. -/
def Work.putMat (w : Work) (tile i : Nat) (m : MatOp) : Work := w.updTile tile fun k => { k with mat := updAt k.mat i fun _ => m }

/-- Operation `i` of the queue begun or carried on (R207, R213, R224 to R226); whether the next may be looked at. -/
def Work.matStep (w : Work) (c tile i : Nat) : Work × Bool :=
  let q := (w.tile tile).mat
  let before := q.take i
  let entering := before.any fun m => match m with | .stream s => decide (s.entered < s.params.rows) | _ => false
  match q[i]? with
  | none => (w, false)
  | some (.load l) =>
    if l.slot.isSome then (w, true)
    else if entering && before.any fun m => m.foot.meets (MatOp.load l).foot then (w, false)
    else
      match w.pickSlot (freeSlots before) with
      | none => (w, false)
      | some (slot, w) =>
        let x := w.stationary tile l.params
        ((w.putMat tile i (.load { l with slot := some slot })).updTile tile fun k => { k with slots := updAt k.slots slot fun _ => some x }, true)
  | some (.stream s) =>
    let loading := before.any fun m => match m with | .load l => l.slot == none || l.slot == some s.params.slot | _ => false
    if entering then (w, false)
    else
      match loading, ((w.tile tile).slots[s.params.slot]?).getD none with
      | false, some x =>
        if s.entered = s.params.rows then (w, true)
        else
          (match (if s.entered = 0 then w.streamStart tile s x else none), w.streamPoison tile s with
            | some (r, d), _ => (w.haltTile s.ref 1 r d, false)
            | none, some p => (w.poisonHalt c (tileRec s.ref 1 (w.tile tile).loops.length 0x41 p) p, false)
            | none, none =>
              match w.readScale c s.params.srcLayer with
              | none => (w.haltTile s.ref 1 0x82 (s.params.srcLayer.getD 0), false)
              | some g =>
                let (w, s) := w.enterRows c tile x g s.params.rows s
                (w.putMat tile i (.stream s), decide (s.entered = s.params.rows)))
      | _, _ => ((w.stall c Ctr.stallScoreboard 1).count Ctr.matrixLoadWaitCycles 1, false)

/-- The queue of the array carried on in issue order (R207). -/
def Work.pumpMat (w : Work) (c tile : Nat) : Work :=
  ((List.range (w.tile tile).mat.length).foldl (fun (a : Work × Bool) i => if a.2 then a.1.matStep c tile i else a) (w, true)).1

/-- The queue of the array of a tile carried on, where its context is active. -/
def Work.pumpTile (w : Work) (tile : Nat) : Work :=
  match w.owner tile with
  | none => w
  | some c => if (w.ctx c).active then w.pumpMat c tile else w

/-- An array instruction put into the queue of 4 (R207). -/
def Work.queueMat (w : Work) (c tile : Nat) (m : MatOp) : Issued :=
  if 4 ≤ (w.tile tile).mat.length then .wait Ctr.stallQueueFull 0
  else .done ((w.updTile tile fun k => { k with mat := k.mat ++ [m] }).pumpMat c tile)

/-- The first operation of a queue that has finished, removed. -/
def takeFirst {α : Type} (f : α → Bool) : List α → Option (α × List α)
  | [] => none
  | x :: xs => if f x then some (x, xs) else (takeFirst f xs).map fun r => (r.1, x :: r.2)

/-! ### The commands -/

/-- LOAD. -/
def execLoad (t : TileRef) (p : LoadParams) (s : State) : Host.Outcome State Fault Refusal :=
  .next (s.exec fun w => w.issue t fun c w =>
    match loadBad p, loadStoreFault p with
    | some r, _ => .halt 1 0x18 r
    | none, some a => .halt 1 0x02 a
    | none, none => w.queueMat c t.tile (.load { ref := t, params := p, slot := none }))

/-- LOAD_COMPLETE: the oldest LOAD that has filled its slot leaves the queue. -/
def execLoadComplete (tile : Nat) (s : State) : Host.Outcome State Fault Refusal :=
  .next (s.exec fun w =>
    match takeFirst (fun m => match m with | .load l => l.slot.isSome | _ => false) (w.tile tile).mat with
    | none => w
    | some (_, rest) => (((w.updTile tile fun k => { k with mat := rest }).count Ctr.matrixLoads 1).pumpTile tile).tryReport)

/-- STREAM. -/
def execStream (t : TileRef) (p : StreamParams) (s : State) : Host.Outcome State Fault Refusal :=
  .next (s.exec fun w => w.issue t fun c w =>
    match w.outForm c p.result p.tag with
    | none => .halt 1 0x82 (p.tag.layer.getD 0)
    | some form =>
      if streamBad p form.fmt then .halt 1 0x18 0
      else w.queueMat c t.tile (.stream { ref := t, params := p, entered := 0, form := form, tally := Tally.empty }))

/-- STREAM_COMPLETE: the oldest STREAM, once all its rows have entered, leaves the array with its census (R224, R290). -/
def execStreamComplete (tile : Nat) (s : State) : Host.Outcome State Fault Refusal :=
  .next (s.exec fun w =>
    match takeFirst (fun m => match m with | .stream s => decide (s.entered = s.params.rows) | _ => false) (w.tile tile).mat, w.owner tile with
    | some (.stream k, rest), some c =>
      let w := w.updTile tile fun x => { x with mat := rest }
      (match w.censusAdd c k.form.fmt k.params.tag k.form.ref k.tally with
        | .error d => w.haltTile k.ref 1 0x84 d
        | .ok w => (w.pumpTile tile).tryReport)
    | _, _ => w)

end Sys2Proof.Machine
end

