-- ==== Sys2Proof/Machine/Scatter.lean ====
section
/-!
DEFINITION. The scatter-reduce units (R132 to R162): quantised combining, lines and flushes, accumulation regions, update
areas, the attention kinds, row updates at a tick, and the commands of the family.
-/

namespace Sys2Proof.Machine

/-! ### Operations and contributions -/

/-- A scatter operation by number. -/
def Work.scatterOp (w : Work) (id : Nat) : Option ScatterOp := w.d.scatters.find? fun o => o.id == id

/-- A change of a scatter operation. -/
def Work.updScatter (w : Work) (id : Nat) (f : ScatterOp → ScatterOp) : Work :=
  w.upd fun d => { d with scatters := d.scatters.map fun o => if o.id = id then f o else o }

/-- The saturation flag of an operation set: clamped values counted, and SCALE in an open section (R139, R144, R301). -/
def Work.saturate (w : Work) (c n : Nat) : Work :=
  if n = 0 then w
  else (w.count Ctr.scatterSaturated n).updCtx c fun x => { x with replay := x.replay.map fun r => { r with scale := true } }

/-- The address of contribution row `i` (R132). -/
def contribAt (p : ScatterParams) (i : Nat) : Nat := placeRow p.contrib p.contribStride i

/-- The bytes of a contribution row. -/
def contribLen (p : ScatterParams) : Nat := p.elems * (if p.contribBf16 then 2 else 4)

/-- The FP32 patterns of a contribution row, widened from BF16 exactly (R146). -/
def Work.contribRow (w : Work) (p : ScatterParams) (i : Nat) : List Nat :=
  let a := contribAt p i
  tab p.elems fun j => if p.contribBf16 then w.le (a + 2 * j) 2 * 2 ^ 16 else w.le (a + 4 * j) 4

/-- An exact multiple of 2^E rounded to a 32-bit integer (R139): the integer, whether it was clamped, and whether a
non-zero value became 0. -/
def quantise (v : Val) : Int × Bool × Bool :=
  match v with
  | .nan => (2 ^ 31 - 1, true, false)
  | .inf n => (if n then -(2 ^ 31 - 1) else 2 ^ 31 - 1, true, false)
  | v =>
    let q := v.toInt .rne
    if 2 ^ 31 - 1 < q then (2 ^ 31 - 1, true, false)
    else if q < -(2 ^ 31 - 1) then (-(2 ^ 31 - 1), true, false)
    else (q, false, v.isFin1 && q == 0)

/-- An addition that stays in the signed 64-bit range (R144): the sum, and whether it was clamped. -/
def satAdd (a b : Int) : Int × Bool :=
  let s := a + b
  if 2 ^ 63 - 1 < s then (2 ^ 63 - 1, true) else if s < -(2 ^ 63) then (-(2 ^ 63), true) else (s, false)

/-- The place of an FP32 pattern in the order of R146, with −0 below +0. -/
def orderOf (x : Nat) : Int := if x.testBit 31 then -((x % 2 ^ 31 : Nat) : Int) - 1 else (x % 2 ^ 31 : Nat)

/-- Whether an FP32 pattern is a NaN. -/
def isNan32 (x : Nat) : Bool := decide (0x7F800000 < x % 2 ^ 31)

/-- The winner of two (pattern, position) pairs (R146, R147): a NaN first, then the larger or smaller value, then the
lower position. -/
def pick (max : Bool) (a b : Nat × Nat) : Nat × Nat :=
  match isNan32 a.1, isNan32 b.1 with
  | true, true => if a.2 ≤ b.2 then a else b
  | true, false => a
  | false, true => b
  | false, false =>
    let x := orderOf a.1
    let y := orderOf b.1
    if x = y then (if a.2 ≤ b.2 then a else b) else if (y < x) = max then a else b

/-- Whether a kind compares instead of adding. -/
def comparing (k : ScatterKind) : Bool := decide (k = .max) || decide (k = .min)

/-- Whether a kind writes rows by position, with no combining (R148, R150). -/
def routing (k : ScatterKind) : Bool := decide (k = .argmaxRoute) || decide (k = .attentionWeights)

/-- The bytes from one row of scores to the next: h FP32 elements as a contribution source of the least stride (log 27). -/
def scoreStride (heads : Nat) : Nat := roundUp (4 * heads) 16

/-- The bytes from one row of maxima to the next: h FP32 elements as an output of the least stride (log 27). -/
def maximaStride (heads : Nat) : Nat := roundUp (4 * heads) 64

/-- The quantised weight a of position `i`, destination `d`, head `t` (R149): exactly 2^30 at the maximum, else the rounded
exponential, which lies in 0 to 2^30. -/
def Work.weightOf (w : Work) (p : ScatterParams) (i d t : Nat) : Nat :=
  let s := f32.decode (w.le (p.scores + scoreStride p.heads * i + 4 * t) 4)
  let m := f32.decode (w.le (p.maxima + maximaStride p.heads * d + 4 * t) 4)
  let x := s.sub m
  if x.isZero then 2 ^ 30 else min ((ofF32 (Config.softExp (toF32 x))).scale 30 |>.toInt .rne).toNat (2 ^ 30)

/-- The head of element `j` (R132). -/
def headOf (p : ScatterParams) (j : Nat) : Nat := j / max 1 (p.elems / max 1 p.heads)

/-! ### Segments -/

/-- The edges of each frontier node of a hop: first and end (R95). -/
def Work.segments (w : Work) (a hop : Nat) : List (Nat × Nat) :=
  let r := a + 64 + (hop - 1) * 48
  let offs := a + 64 * w.le (r + 20) 4
  tab (w.le r 4) fun f => (w.le (offs + 4 * f) 4, w.le (offs + 4 * f + 4) 4)

/-- The split destinations of a hop, in frontier order: the segments of more than T edges (R137, R141). -/
def splitSegments (t : Nat) (segs : List (Nat × Nat)) : List (Nat × Nat) := segs.filter fun s => t < s.2 - s.1

/-- Where a position stands among the segments: its piece, its region row where the segment is split, and whether its
piece ends with it (R137, R140, R141). -/
def pieceOf (t : Nat) (segs : List (Nat × Nat)) (i : Nat) : Nat × Option Nat × Bool :=
  match segs.find? fun s => decide (s.1 ≤ i) && decide (i < s.2) with
  | none => (0, none, true)
  | some s =>
    if t < s.2 - s.1 then ((i - s.1) / t, (splitSegments t segs).findIdx? fun k => k == s, i + 1 == s.2 || (i - s.1 + 1) % t == 0)
    else (0, none, i + 1 == s.2)

/-! ### Rows that updates reach -/

/-- The device and owner-local row that a ROW_UPDATE key names (R104, R116, R153); none for an invalid key. -/
def Work.updateRow (w : Work) (c : Nat) (t : Table) (key : Nat) : Except TravStop (Option (Nat × Nat)) :=
  let own := w.d.deviceNumber
  match t.kind with
  | 1 => (w.mapFind c t.map t.mapN key).map fun h => h.bind fun h => if t.rows ≤ h.row then none else some (h.owner, h.row)
  | 2 => .ok (if t.rows ≤ key % 2 ^ 48 ∨ !w.inMachine (key / 2 ^ 48 % 2 ^ 14) then none else some (key / 2 ^ 48 % 2 ^ 14, key % 2 ^ 48))
  | 3 =>
    if t.rows ≤ key then .ok none
    else
      let held := fun (row : Nat) => (w.mappedRow t (t.first + row)).map fun r => if r = .invalid then none else some (own, row)
      if t.map = 0 then held key
      else
        match w.mapFind c t.map t.mapN key with
        | .error e => .error e
        | .ok none => .ok none
        | .ok (some h) => if h.owner = own then held h.row else .ok (some (h.owner, h.row))
  | _ => .ok (if key < t.rows then some (own, key) else none)

/-- The row of a table that an owner-local row number names on this device. -/
def Work.ownRow (w : Work) (t : Table) (row : Nat) : RowPlace :=
  match t.kind with
  | 3 => match w.mappedRow t (t.first + row) with | .ok r => r | .error _ => .invalid
  | 4 => let (tile, off) := tileBlocked t.block t.tile t.tiles t.base t.stride row; .here (tileStoreAddr tile off) t.cls none
  | _ => .here (t.base + row * t.stride) t.cls none

/-- Whether an address lies in the capacity tier. -/
def Work.inCapacity (w : Work) (a : Nat) : Bool := decide (w.fz.space a = .cap 0) || decide (w.fz.space a = .cap 1)

/-- Whether a row is read-only: its home, or its new home while MOVING, in the capacity tier (R179). -/
def Work.rowReadOnly (w : Work) (t : Table) (row : Nat) : Bool :=
  match w.ownRow t row with
  | .here a _ mapped =>
    w.inCapacity a || (match mapped with | some i => (w.rowEntry i).state == 2 && w.inCapacity (w.rowEntry i).newHome | none => false)
  | _ => false

/-! ### Update areas -/

/-- The bytes of an update area slot (R153). -/
def slotSize (e : Nat) : Nat := roundUp (8 + 8 * e) 64

/-- The address of slot `i`. -/
def slotAt (area e i : Nat) : Nat := area + 64 + slotSize e * i

/-- Whether an update area's header serves a table (R153, R161). -/
def Work.areaOk (w : Work) (area : Nat) (t : Table) : Bool :=
  w.le area 4 == 0x41545055 && w.le (area + 4) 2 == 1 && w.le (area + 6) 2 == t.id && w.le (area + 8) 4 == t.elems
    && decide (1 ≤ w.le (area + 12) 4) && decide (w.le (area + 12) 4 ≤ 2 ^ 24)
    && decide (2 ^ Nat.log2 (w.le (area + 12) 4) = w.le (area + 12) 4)

/-- The slot of a row by linear probing (R154): one that holds it, or the first free one. -/
def Work.findSlot (w : Work) (area e row : Nat) : Option Nat :=
  let n := w.le (area + 12) 4
  ((List.range n).map fun k => slotAt area e ((Config.slotHash row + k) % n)).find? fun a =>
    let h := w.le a 8
    !h.testBit 48 || h % 2 ^ 48 == row

/-- Whether any slot of an area can be taken or added to by a row. -/
def Work.addToSlot (w : Work) (c a e row : Nat) (accs : List Int) : Work :=
  let used := (w.le a 8).testBit 48
  let sums := accs.mapIdx fun j x => satAdd (if used then w.les (a + 8 + 8 * j) 8 else 0) x
  let w := w.wr a (leBytes 8 (row % 2 ^ 48 + 2 ^ 48) ++ ((sums.take e).map fun s => leBytes 8 (ofSigned 64 s.1)).flatten)
  w.saturate c (sums.filter fun s => s.2).length

/-- A flush into an update area of this device (R153, R154, R179): `stop` takes the halt's reason and detail. -/
def Work.areaAdd (w : Work) (c tableAt area alpha row : Nat) (e : Int) (accs : List Int) (stop : Work → Nat → Nat → Work) : Work :=
  let t := w.table tableAt
  if w.rowReadOnly t row then stop w 0x38 (row % 2 ^ 32)
  else
    let opened := w.d.windows.find? fun k => k.area == area
    let clash := opened.isSome && (w.les (area + 17) 1 != e || w.le (area + 20) 4 != alpha)
    if clash then stop w 0x33 (area % 2 ^ 32)
    else
      let w :=
        if opened.isSome then w
        else
          (w.wr (area + 16) (leBytes 1 1 ++ leBytes 1 (ofSigned 8 e) ++ leBytes 2 0 ++ leBytes 4 alpha)).upd fun d =>
            { d with windows := d.windows ++ [{ area := area, table := tableAt, ctx := c }] }
      let w := w.updCtx c fun x =>
        { x with replay := x.replay.map fun r => { r with windows := if r.windows.contains area then r.windows else r.windows ++ [area] } }
      match w.findSlot area t.elems row with
      | none => stop w 0x34 (area % 2 ^ 32)
      | some a => w.addToSlot c a t.elems row accs

/-- Every slot of an area freed and its window closed (R156, R303). -/
def Work.closeArea (w : Work) (k : Window) : Work :=
  let e := (w.table k.table).elems
  let w := (List.range (w.le (k.area + 12) 4)).foldl
    (fun w i =>
      let a := slotAt k.area e i
      if (w.le a 8).testBit 48 then w.wrLe a 8 (w.le a 8 % 2 ^ 48) else w) w
  (w.wrLe (k.area + 16) 1 0).upd fun d => { d with windows := d.windows.filter fun v => v.area != k.area }

/-! ### Row updates at a tick -/

/-- Row updates as step 3 of a tick applies them: the state, and the homes of the rows updated so far. -/
structure Applying where
  w : Work
  rows : List Nat
  deriving DecidableEq, Repr

/-- A row set to its stored value plus α × acc × 2^E, rounded once to FP32 and stored in its class (R156); a row counts once
at a tick. -/
def Applying.update (p : Applying) (t : Table) (row alpha : Nat) (e : Int) (accs : List Int) : Applying :=
  match p.w.ownRow t row with
  | .here a cls _ =>
    match widenRow cls t.elems (p.w.rdN a (storedLen cls t.elems)) with
    | none => { p with w := p.w.count Ctr.rowUpdatesDiscarded 1 }
    | some vs =>
      let al := f32.decode alpha
      let out := (vs.zip accs).map fun v => ofF32 (toF32 (v.1.add (al.mul (Val.ofInt v.2 e))))
      let w := p.w.storeRow a cls out
      if p.rows.contains a then { p with w := w } else { w := w.count Ctr.rowUpdatesApplied 1, rows := a :: p.rows }
  | _ => { p with w := p.w.count Ctr.rowUpdatesDiscarded 1 }

/-- Whether a row of a MAPPED table is MOVING (R158). -/
def Work.rowMoving (w : Work) (t : Table) (row : Nat) : Bool := t.kind == 3 && (w.rowEntry (t.first + row)).state == 2

/-- The unit that a key is routed to, of sixteen (R136). -/
def scatterUnit (table key seg : Nat) : Nat := routeHash table (key + seg * 2 ^ 48) / 2 ^ 32 * 16 / 2 ^ 32

/-- The bytes of the held entries of a unit (R158). -/
def Work.heldBytes (w : Work) (u : Nat) : Nat := ((w.d.held.filter fun h => h.unit_ == u).map fun h => 24 + 8 * h.accs.length).sum

/-- A slot of a MOVING row held in the combining buffer (R158). -/
def Work.holdUpdate (w : Work) (k : Window) (t : Table) (row alpha : Nat) (e : Int) (accs : List Int) : Work :=
  let u := scatterUnit t.id row 0
  if 262144 < w.heldBytes u + 24 + 8 * accs.length then w.halt k.ctx (machineRec 0x35 (row % 2 ^ 32))
  else
    (w.upd fun d =>
      { d with held := d.held ++ [{ unit_ := u, table := k.table, row := row, exponent := e, alpha := alpha, tick := w.tick, accs := accs }] }).count
      Ctr.migrationHeldUpdates 1

/-- One occupied slot at a tick (R156, R158). -/
def Applying.slot (p : Applying) (k : Window) (t : Table) (alpha : Nat) (e : Int) (a : Nat) : Applying :=
  let h := p.w.le a 8
  if !h.testBit 48 then p
  else
    let row := h % 2 ^ 48
    let accs := tab t.elems fun j => p.w.les (a + 8 + 8 * j) 8
    if p.w.rowMoving t row then { p with w := p.w.holdUpdate k t row alpha e accs } else p.update t row alpha e accs

/-- One window at a tick: its slots applied or held, then freed, and the window closed (R156, R158). -/
def Applying.window (p : Applying) (k : Window) : Applying :=
  let t := p.w.table k.table
  let e := p.w.les (k.area + 17) 1
  let alpha := p.w.le (k.area + 20) 4
  let p := (List.range (p.w.le (k.area + 12) 4)).foldl (fun p i => p.slot k t alpha e (slotAt k.area t.elems i)) p
  { p with w := p.w.closeArea k }

/-- The held entries whose row has stopped moving, in tick order (R158). -/
def Applying.held (p : Applying) : Applying :=
  let due := p.w.d.held.filter fun h => !p.w.rowMoving (p.w.table h.table) h.row
  let p := due.foldl (fun p h => p.update (p.w.table h.table) h.row h.alpha h.exponent h.accs) p
  { p with w := p.w.upd fun d => { d with held := d.held.filter fun h => !due.contains h } }

/-- Row updates at step 3 of a tick (R57, R156, R158). -/
def Work.stepRowUpdates (w : Work) : Work :=
  let p : Applying := { w := w, rows := [] }
  (w.d.windows.foldl Applying.window p.held).w

/-! ### Flushes -/

/-- The row of the accumulation region that a line flushes into, rewritten (R143, R147): accumulators replaced where the
stamp differs, else added or combined; the number of clamped additions. -/
def Work.regionRow (w : Work) (o : ScatterOp) (a : Nat) (l : Line) : List Byte × Nat :=
  let p := o.params
  let same := w.le a 4 == o.stamp
  let n := (if same then w.le (a + 4) 4 else 0) + l.count
  let head := leBytes 4 o.stamp ++ leBytes 4 n
  if comparing p.kind then
    let es := (l.accs.zip l.posn).mapIdx fun j v =>
      let mine := (v.1.toNat, v.2)
      if same then pick (decide (p.kind = .max)) (w.le (a + 8 + 8 * j) 4, w.le (a + 12 + 8 * j) 4) mine else mine
    (head ++ (es.map fun e => leBytes 4 e.1 ++ leBytes 4 e.2).flatten, 0)
  else
    let es := l.accs.mapIdx fun j v => satAdd (if same then w.les (a + 8 + 8 * j) 8 else 0) v
    (head ++ (es.map fun e => leBytes 8 (ofSigned 64 e.1)).flatten, (es.filter fun e => e.2).length)

/-- The address of a row of the accumulation region (R143). -/
def regionAt (p : ScatterParams) (r : Nat) : Nat := p.region + r * (8 + 8 * p.elems)

/-- Head sums added to those kept for a region row (R149, log 28). -/
def addDenoms (ds : List (Nat × List Int)) (r : Nat) (xs : List Int) : List (Nat × List Int) :=
  match ds.find? fun e => e.1 == r with
  | none => if xs = [] then ds else (r, xs) :: ds
  | some e => (r, e.2.zipWith (· + ·) xs) :: ds.filter fun k => k.1 != r

/-- A value that no rule gives: a quotient by a zero sum. -/
def freeVal (n j : Nat) : Val := f32.decode (leNat (tab 4 fun b => Config.freeByte n (4 * j + b)))

/-- The elements of a finished destination (R144, R146, R149), from its sums or winners. -/
def destVals (o : ScatterOp) (draw : Nat) (accs : List Int) (count : Nat) (denom : List Int) : List Val :=
  match o.params.kind with
  | .max => accs.map fun x => f32.decode (if isNan32 x.toNat then 0x7FC00000 else x.toNat)
  | .min => accs.map fun x => f32.decode (if isNan32 x.toNat then 0x7FC00000 else x.toNat)
  | .mean => accs.map fun x => (Val.ofInt x o.exponent).div (Val.ofInt count 0)
  | .softmaxSum =>
    accs.mapIdx fun j x =>
      let s := (denom[headOf o.params j]?).getD 0
      if s = 0 then freeVal draw j else (Val.ofInt x o.exponent).div (Val.ofInt s (-30))
  | _ => accs.map fun x => Val.ofInt x o.exponent

/-- A destination row written with its auxiliary entries and its census (R135, R144, R147, R149). -/
def Work.putDest (w : Work) (o : ScatterOp) (d : Nat) (vs : List Val) (posn : List Nat) (denom : List Int) : Work :=
  let p := o.params
  match p.target with
  | .rowUpdate .. => w
  | .output _ place _ stride =>
    let (bs, t) := rowOut o.form vs
    let w := w.wr (placeRow place stride d) bs
    let w := (w.updScatter o.id fun k => { k with tally := k.tally.merge t }).saturate o.ref.ctx t.saturations
    let w := if comparing p.kind then w.wr (p.argmax + 4 * p.elems * d) (posn.map (leBytes 4)).flatten else w
    if p.kind = .softmaxSum then
      w.wr (p.denominators + 4 * p.heads * d) ((tab p.heads fun t => leBytes 4 (toF32 (Val.ofInt ((denom[t]?).getD 0) (-30))).toNat).flatten)
    else w

/-- The output of a line of an unsplit EDGE_TARGET destination (R141). -/
def Work.writeDirect (w : Work) (o : ScatterOp) (l : Line) : Work :=
  let (n, w) := w.draw
  (w.putDest o l.key (destVals o n l.accs l.count l.denom) l.posn l.denom).updScatter o.id fun k => { k with written := l.key :: k.written }

/-- A line's partial added into an update area, here or at the row's owner (R136, R154, R155, R371). -/
def Work.flushUpdate (w : Work) (o : ScatterOp) (tableAt area alpha : Nat) (l : Line) : Work :=
  let c := o.ref.ctx
  match w.updateRow c (w.table tableAt) l.key with
  | .error e => w.engineStop o.ref 2 7 e
  | .ok none => w
  | .ok (some (dev, row)) =>
    if dev = w.d.deviceNumber then w.areaAdd c tableAt area alpha row o.exponent l.accs fun w reason d => w.haltStream o.ref 2 reason d
    else if ((w.d.active.quotas[c]?).getD Quota.zero).gatherPeer = 0 then w.haltStream o.ref 2 0x43 4
    else
      match w.routeLink 1 dev with
      | none => w.haltStream o.ref 2 0x68 dev
      | some k =>
        if (w.link k).v1 then w.haltStream o.ref 2 0x36 dev
        else
          (w.sendRouted c 1 dev (w.ctx c).jobTag true (.contribution tableAt area alpha row o.exponent l.accs)).updScatter o.id fun k =>
            { k with acks := k.acks + 1 }

/-- A line that leaves its buffer (R140, R141). -/
def Work.flushLine (w : Work) (l : Line) : Work :=
  match w.scatterOp l.op with
  | none => w
  | some o =>
    match o.params.target with
    | .rowUpdate t a al => (w.count Ctr.combineFlushes 1).flushUpdate o t a al l
    | .output .. =>
      match l.row with
      | none => w.writeDirect o l
      | some r =>
        let a := regionAt o.params r
        match w.poisonIn a (8 + 8 * o.params.elems) with
        | some p => w.poisonHalt o.ref.ctx (streamRec o.ref 2 0x41 p) p
        | none =>
          let (bs, sat) := w.regionRow o a l
          let w := (w.wr a bs).saturate o.ref.ctx sat
          (w.updScatter o.id fun k => { k with denoms := addDenoms k.denoms r l.denom }).count Ctr.combineFlushes 1

/-! ### Combining -/

/-- One contribution as it enters a line: its elements, positions, head weights. -/
structure Taken where
  accs : List Int
  posn : List Nat
  denom : List Int
  sat : Nat
  under : Nat
  deriving DecidableEq, Repr

/-- A contribution quantised, or taken as values with its position (R139, R146, R149). -/
def Work.taken (w : Work) (o : ScatterOp) (i key : Nat) : Taken :=
  let p := o.params
  let xs := w.contribRow p i
  if comparing p.kind then { accs := xs.map Int.ofNat, posn := xs.map fun _ => i, denom := [], sat := 0, under := 0 }
  else
    let ws := if p.kind = .softmaxSum then tab p.heads fun t => w.weightOf p i key t else []
    let qs := xs.mapIdx fun j x =>
      let v := (f32.decode x).scale (-o.exponent)
      quantise (if p.kind = .softmaxSum then v.mul (Val.ofInt ((ws[headOf p j]?).getD 0) (-30)) else v)
    { accs := qs.map fun q => q.1, posn := [], denom := ws.map Int.ofNat, sat := (qs.filter fun q => q.2.1).length
      under := (qs.filter fun q => q.2.2).length }

/-- A contribution combined into a line (R140, R147). -/
def Line.take (l : Line) (kind : ScatterKind) (t : Taken) : Line :=
  if comparing kind then
    let es := ((l.accs.zip l.posn).zip (t.accs.zip t.posn)).map fun v =>
      pick (decide (kind = .max)) (v.1.1.toNat, v.1.2) (v.2.1.toNat, v.2.2)
    { l with accs := es.map fun e => Int.ofNat e.1, posn := es.map fun e => e.2, count := l.count + 1 }
  else { l with accs := l.accs.zipWith (· + ·) t.accs, denom := l.denom.zipWith (· + ·) t.denom, count := l.count + 1 }

/-- The bytes of a line (R140). -/
def lineSize (e : Nat) : Nat := roundUp (16 + 6 * e) 64

/-- The bytes of a unit that an operation's lines may use (R159). -/
def Work.bufferRoom (w : Work) (c u : Nat) : Nat :=
  let reserve := match w.urgentCtx with | some x => if x = c then 0 else 65536 | none => 0
  1048576 - w.heldBytes u - reserve

/-- Room for a line of `n` bytes made on a unit (R142): the least recently used line that may go is flushed. -/
def Work.evictLine (w : Work) (c u n : Nat) : Nat → Work
  | 0 => w
  | k + 1 =>
    let mine := w.d.lines.filter fun l => l.unit_ == u
    if (mine.map fun l => l.size).sum + n ≤ w.bufferRoom c u then w
    else
      match mine.reverse.find? fun l => !l.pinned with
      | none => w
      | some l =>
        let w := w.upd fun d => { d with lines := d.lines.erase l }
        ((w.flushLine l).count Ctr.combineEvictions 1).evictLine c u n k

/-- A contribution taken in by a unit: its line found or made, combined, and flushed where it is full or its piece ends
(R139, R140, R142). -/
def Work.takeIn (w : Work) (o : ScatterOp) (u i key seg : Nat) (row : Option Nat) (pinned : Bool) : Work :=
  let t := w.taken o i key
  let w := (w.saturate o.ref.ctx t.sat).count Ctr.scatterUnderflow t.under
  let is := fun (l : Line) => l.op == o.id && l.unit_ == u && l.key == key && l.seg == seg
  match w.d.lines.find? is with
  | some l =>
    let l := l.take o.params.kind t
    let rest := w.d.lines.filter fun l => !is l
    if l.count = 65536 ∧ (row.isSome ∨ !pinned) then (w.upd fun d => { d with lines := rest }).flushLine l
    else w.upd fun d => { d with lines := l :: rest }
  | none =>
    let n := lineSize o.params.elems
    let w := w.evictLine o.ref.ctx u n w.d.lines.length
    let l : Line :=
      { op := o.id, unit_ := u, key := key, seg := seg, row := row, size := n, pinned := pinned, accs := t.accs, posn := t.posn,
        denom := t.denom, count := 1 }
    w.upd fun d => { d with lines := l :: d.lines }

/-- The lines of an operation that match, flushed in the order in which they were last used. -/
def Work.flushWhere (w : Work) (f : Line → Bool) : Work :=
  let out := (w.d.lines.filter f).reverse
  out.foldl Work.flushLine (w.upd fun d => { d with lines := d.lines.filter fun l => !f l })

/-- Whether a position is masked: its drop mask bit, or a null key (R108, R134). -/
def Work.positionMasked (w : Work) (p : ScatterParams) (key i : Nat) : Bool :=
  (p.dropMask != 0 && (w.le (p.dropMask + i / 8) 1).testBit (i % 8)) || key == nullKey p.source

/-- What a position comes to before it is combined (R134). -/
inductive Sorted where
  | masked | dropped | valid
  | stop (e : TravStop)

/-- A position sorted (R134, R116). -/
def Work.sortKey (w : Work) (c : Nat) (p : ScatterParams) (dests key i : Nat) : Sorted :=
  if w.positionMasked p key i then .masked
  else
    match p.target with
    | .output .. => if dests ≤ key then .dropped else .valid
    | .rowUpdate t _ _ =>
      match w.updateRow c (w.table t) key with
      | .error e => .stop e
      | .ok none => .dropped
      | .ok (some _) => .valid

/-- What a contribution row's memory does to its operation: an uncorrectable block, or a checksum that differs (R161). -/
def Work.contribStop (w : Work) (p : ScatterParams) (i : Nat) : Option TravStop :=
  let a := contribAt p i
  match w.poisonIn a (contribLen p) with
  | some b => some (.poison b)
  | none =>
    match (if 4096 ≤ contribLen p then w.verifyRange a (contribLen p) else .ok 0) with
    | .error b => some (.halt 0x42 b)
    | .ok _ => none

/-- One position of an operation (R134, R136 to R142). -/
def Work.takePos (w : Work) (id dests : Nat) (k : KeyArray) (segs : List (Nat × Nat)) (i : Nat) : Work :=
  match w.scatterOp id with
  | none => w
  | some o =>
    let p := o.params
    let c := o.ref.ctx
    let key := w.keyAt c k i
    let edge := decide (p.source = .edgeTarget)
    let (seg, split, last) := if edge then pieceOf p.threshold segs i else (0, none, false)
    let table := match p.target with | .output .. => 0 | .rowUpdate t _ _ => (w.table t).id
    let u := if !edge && p.spread.contains key then i % 16 else scatterUnit table key seg
    let w := w.count Ctr.scatterContributions 1
    let w := match w.sortKey c p dests key i with
      | .masked => w.count Ctr.scatterMasked 1
      | .dropped => w.count Ctr.dropIndexRange 1
      | .stop e => w.engineStop o.ref 2 7 e
      | .valid =>
        match w.contribStop p i with
        | some e => w.engineStop o.ref 2 7 e
        | none => w.takeIn o u i key seg (if edge then split else some key) edge
    if last then w.flushWhere fun l => l.op == id && l.unit_ == u && l.key == key && l.seg == seg else w

/-- The operation's scale exponent (R132, R145, R303, R312): given, agreed under AUTO, or the layer entry's; raised by 8 for
each raise of an open section and held within its range where it is not AUTO's (log 29). With no finite non-zero
contribution AUTO leaves E open: a free value (log 30). -/
def Work.scatterExp (w : Work) (c : Nat) (p : ScatterParams) (vs : List Val) : Int × Work :=
  let x := w.ctx c
  let up : Int := match x.replay with | some r => 8 * ((x.layerState r.layer).raises : Nat) | none => 0
  let update : Bool := match p.target with | .rowUpdate .. => true | .output .. => false
  let given := fun (e : Int) => min (e + up) 127
  let auto : Int × Work :=
    match maxExpOf vs with
    | some k => (k - 29 + up, w)
    | none => let (n, w) := w.draw; ((Config.freeChoice n % 256 : Nat) - 128, w)
  match p.exponent with
  | .fixed e => (given e, w)
  | .auto => auto
  | .layer n =>
    match w.layerEntry c n with
    | none => (0, w)
    | some e => if bitOf e.flags 2 ∨ update then (given e.scatterE, w) else auto

/-! ### The kinds that write by position -/

/-- ARGMAX_ROUTE at one position (R148): the gradient element where the position won, 0 elsewhere. The gradient rows lie at
the output stride in the output format (log 31). -/
def Work.argmaxVals (w : Work) (p : ScatterParams) (key i : Nat) : List Val :=
  match p.target with
  | .rowUpdate .. => []
  | .output _ _ b16 stride =>
    tab p.elems fun j =>
      if w.le (p.argmax + 4 * (key * p.elems + j)) 4 = i then
        (if b16 then bf16.decode (w.le (p.gradients + stride * key + 2 * j) 2) else f32.decode (w.le (p.gradients + stride * key + 4 * j) 4))
      else Val.zero

/-- ATTENTION_WEIGHTS at one position (R150): each head's weight, from the denominators of the forward sum. -/
def Work.attentionVals (w : Work) (p : ScatterParams) (draw key i : Nat) : List Val :=
  tab p.heads fun t =>
    let den := f32.decode (w.le (p.denominators + 4 * (p.heads * key + t)) 4)
    if den.isZero then freeVal draw (p.heads * i + t)
    else ofF32 (toF32 ((Val.ofInt (w.weightOf p i key t) (-30)).div den))

/-- One position of a kind that writes by position (R134, R148, R150). -/
def Work.routePos (w : Work) (o : ScatterOp) (dests draw : Nat) (k : KeyArray) (i : Nat) : Work :=
  let p := o.params
  let key := w.keyAt o.ref.ctx k i
  let w := w.count Ctr.scatterContributions 1
  let zero := List.replicate (if p.kind = .argmaxRoute then p.elems else p.heads) Val.zero
  let (vs, w) : List Val × Work := match w.sortKey o.ref.ctx p dests key i with
    | .masked => (zero, w.count Ctr.scatterMasked 1)
    | .valid => (if p.kind = ScatterKind.argmaxRoute then w.argmaxVals p key i else w.attentionVals p draw key i, w)
    | _ => (zero, w.count Ctr.dropIndexRange 1)
  let (bs, t) := rowOut o.form vs
  let at_ : Nat := match p.kind, p.target with
    | ScatterKind.attentionWeights, ScatterTarget.output _ place _ stride => placeRow place stride i
    | _, _ => contribAt p i
  (w.wr at_ bs).updScatter o.id fun k => { k with tally := k.tally.merge t }

/-! ### Starting an operation -/

/-- The named output format of an operation (R132, R148, R150). -/
def scatterFmt (p : ScatterParams) : Fmt :=
  match p.kind, p.target with
  | .argmaxRoute, _ => if p.contribBf16 then .bf16 else .fp32
  | .attentionWeights, _ => .fp32
  | _, .output _ _ b _ => if b then .bf16 else .fp32
  | _, .rowUpdate .. => .fp32

/-- The destination count: D, or U of the block for the edge sources (R132). -/
def Work.scatterDests (w : Work) (p : ScatterParams) : Nat :=
  match p.target with
  | .output d _ _ _ => if blockSource p.source then w.le (p.keys + 24) 4 else d
  | .rowUpdate .. => 0

/-- The rows of the accumulation region that an operation needs (R141). -/
def regionRows (p : ScatterParams) (edges dests : Nat) : Nat := if p.source = .edgeTarget then edges / (p.threshold + 1) else dests

/-- Whether a contribution placement is out of range: in HBM, the shared store, or tile-blocked (R132). -/
def Fuses.sourceBad (f : Fuses) (p : Placement) : Bool :=
  placeBad p || (match p with | .at b => !(decide (f.space b = .hbm) || decide (f.space b = .shared)) | _ => false)

/-- Whether the scale exponent is out of range (R132, R161). -/
def scaleBad (p : ScatterParams) : Bool :=
  match p.exponent, p.target with
  | .auto, .rowUpdate .. => true
  | .fixed e, _ => decide (e < -128) || decide (127 < e)
  | _, _ => false

/-- Whether an operation's plain parameters are out of range (R132, R133, R161). Only SUM updates rows (log 32). -/
def Work.scatterBad (w : Work) (p : ScatterParams) : Bool :=
  let list := !blockSource p.source
  let heads := decide (p.kind = .softmaxSum) || decide (p.kind = .attentionWeights)
  decide (p.source = .nodeTable) || decide (p.source = .edgeId) || p.keys % 64 != 0
    || (list && (p.count == 0 || decide (2 ^ 32 ≤ p.count)))
    || (!list && (p.hop == 0 || decide (8 < p.hop)))
    || p.contribStride % 16 != 0 || w.fz.sourceBad p.contrib || p.elems == 0 || decide (4096 < p.elems) || p.dropMask % 64 != 0
    || (heads && (p.heads == 0 || decide (64 < p.heads) || p.elems % p.heads != 0))
    || decide (16 < p.spread.length) || scaleBad p
    || (decide (p.source = .edgeTarget) && (decide (p.threshold < 256) || decide (65536 < p.threshold)))
    || (match p.target with
        | .output d place _ stride =>
          placeBad place || stride % 64 != 0 || (list && (d == 0 || decide (2 ^ 32 ≤ d)))
            || (!routing p.kind && (p.stamp == 0 || decide (2 ^ 32 ≤ p.stamp) || p.region % 64 != 0))
        | .rowUpdate t a _ =>
          decide (p.kind ≠ .sum) || t % 64 != 0 || a % 64 != 0 || !(decide (w.fz.space a = .hbm) || decide (w.fz.space a = .shared)))

/-- The fault of a ROW_UPDATE's table and update area, if any (R153, R161, R361). -/
def Work.updateFault (w : Work) (c : Nat) (p : ScatterParams) (table area : Nat) : Option (Nat × Nat) :=
  match w.accessFault c table 64 false with
  | some f => some f
  | none =>
    let t := w.table table
    if !t.ok || t.elems != p.elems || !sourceAllowed p.source t.kind then some (0x22, table % 2 ^ 32)
    else
      match w.accessFault c area 64 true with
      | some f => some f
      | none =>
        if !w.areaOk area t then some (0x22, area % 2 ^ 32)
        else w.accessFault c area (64 + slotSize t.elems * w.le (area + 12) 4) true

/-- The first fault of a list of checks. -/
def firstFault : List (Option (Nat × Nat)) → Option (Nat × Nat)
  | [] => none
  | some f :: _ => some f
  | none :: fs => firstFault fs

/-- The fault of an operation's outputs and auxiliary arrays, if any (R132, R135, R141, R161, R361). -/
def Work.outputFault (w : Work) (c : Nat) (p : ScatterParams) (positions dests : Nat) (form : OutForm) : Option (Nat × Nat) :=
  match p.target with
  | .rowUpdate t a _ => w.updateFault c p t a
  | .output _ place _ stride =>
    let bits := fmtBits form.fmt
    let n := if p.kind = .attentionWeights then positions else dests
    let rowLen := ceilDiv (bits * (if p.kind = .attentionWeights then p.heads else p.elems)) 8
    let rows := regionRows p positions dests
    let need := rows * (8 + 8 * p.elems)
    let read := fun (a len : Nat) => if len = 0 then none else w.accessFault c a len false
    let write := fun (a len : Nat) => if len = 0 then none else w.accessFault c a len true
    match p.kind with
    | .argmaxRoute =>
      firstFault
        [w.placeFault c p.contrib (placeSize p.contrib p.contribStride (ceilDiv (bits * p.elems) 8) positions) positions true,
          read p.argmax (4 * dests * p.elems), read p.gradients (dests * stride)]
    | .attentionWeights =>
      if stride < rowLen then some (0x22, p.keys % 2 ^ 32)
      else
        firstFault
          [w.placeFault c place (placeSize place stride rowLen n) n true, read p.scores (scoreStride p.heads * positions),
            read p.maxima (maximaStride p.heads * dests), read p.denominators (4 * p.heads * dests)]
    | k =>
      if stride < rowLen ∨ p.regionSize < need ∨ (rows ≠ 0 ∧ !(w.fz.space p.region = .hbm ∨ w.fz.space p.region = .shared)) then
        some (0x22, p.keys % 2 ^ 32)
      else
        firstFault
          [w.placeFault c p.contrib (placeSize p.contrib p.contribStride (contribLen p) positions) positions false,
            w.placeFault c place (placeSize place stride rowLen n) n true, write p.region need,
            if comparing k then write p.argmax (4 * dests * p.elems) else none,
            if k = .softmaxSum then
              firstFault
                [read p.scores (scoreStride p.heads * positions), read p.maxima (maximaStride p.heads * dests),
                  write p.denominators (4 * p.heads * dests)]
            else none]

/-- The halt of a SCATTER at its start, if any (R132, R161, R297, R304, R361, R371). -/
def Work.scatterFault (w : Work) (c : Nat) (p : ScatterParams) : Option (Nat × Nat) :=
  let x := w.ctx c
  if ((w.d.active.quotas[c]?).getD Quota.zero).gatherLocal = 0 then some (0x43, 4)
  else if w.scatterBad p then some (0x22, p.keys % 2 ^ 32)
  else if x.replay.isSome ∧ 2 ^ 29 ≤ p.stamp then some (0x83, 0)
  else
    let k := w.keyArray p.source p.keys p.count p.hop
    match w.keyFault c p.source p.keys k with
    | some f => some f
    | none =>
      if !k.blockOk then some (0x22, p.keys % 2 ^ 32)
      else
        match (match p.exponent with | .layer n => if (w.layerEntry c n).isNone then some n else none | _ => none),
            w.outForm c (scatterFmt p) p.tag with
        | some n, _ => some (0x82, n)
        | none, none => some (0x82, p.tag.layer.getD 0)
        | none, some form =>
          let mask := if p.dropMask = 0 ∨ k.count = 0 then none else w.accessFault c p.dropMask (maskBytes k.count) false
          firstFault [mask, w.outputFault c p k.count (w.scatterDests p) form]

/-- SCATTER taken up (R132 to R150, R159): at most eight operations at once; its contributions are taken in whole, and its
lines flush at the end of its keys. -/
def Work.startScatter (w : Work) (r : StreamRef) (p : ScatterParams) : Work :=
  let c := r.ctx
  match w.scatterFault c p with
  | some (reason, d) => w.haltStream r 2 reason d
  | none =>
    if 8 ≤ w.d.scatters.length then w.stall c Ctr.stallQueueFull 7
    else
      let (id, w) := w.fresh
      let k := w.keyArray p.source p.keys p.count p.hop
      let dests := w.scatterDests p
      let segs := if p.source = .edgeTarget then w.segments p.keys p.hop else []
      let splits := (splitSegments p.threshold segs).mapIdx fun j s => (j, w.keyAt c k s.1)
      let unmasked := (List.range k.count).filter fun i =>
        match w.sortKey c p dests (w.keyAt c k i) i with | .valid => true | _ => false
      let vs := match p.exponent with
        | .fixed _ => []
        | _ => unmasked.flatMap fun i => (w.contribRow p i).map f32.decode
      let (e, w) := w.scatterExp c p vs
      let form := (w.outForm c (scatterFmt p) p.tag).getD { fmt := .fp32, scale := 0, ref := 0 }
      let o : ScatterOp :=
        { id := id, ref := r, params := p, form := form, exponent := e, stamp := (p.stamp + (w.ctx c).attempt * 2 ^ 29) % 2 ^ 32, acks := 0,
          splits := splits, written := [], denoms := [], tally := Tally.empty,
          finalised := routing p.kind || (match p.target with | .rowUpdate .. => true | .output .. => false) }
      let w := w.upd fun d => { d with scatters := d.scatters ++ [o] }
      if routing p.kind then
        let (n, w) := w.draw
        (List.range k.count).foldl (fun w i => w.routePos o dests n k i) w
      else
        let w := w.count Ctr.scatterSegmentsSplit splits.length
        let w := (List.range k.count).foldl (fun w i => w.takePos id dests k segs i) w
        w.flushWhere fun l => l.op == id

/-! ### Finalising and completing -/

/-- A destination with no unmasked contribution (R135). -/
def Work.putEmpty (w : Work) (o : ScatterOp) (d : Nat) : Work :=
  (w.putDest o d (List.replicate o.params.elems Val.zero) (List.replicate o.params.elems 0xFFFFFFFF) (List.replicate o.params.heads 0)).count
    Ctr.scatterEmptyRows 1

/-- A destination finalised from its row of the accumulation region (R144). -/
def Work.finaliseRow (w : Work) (o : ScatterOp) (d r : Nat) : Work :=
  let p := o.params
  let a := regionAt p r
  if w.le a 4 ≠ o.stamp then w.putEmpty o d
  else
    let (n, w) := w.draw
    let denom := ((o.denoms.find? fun e => e.1 == r).map fun e => e.2).getD []
    if comparing p.kind then
      let accs := tab p.elems fun j => Int.ofNat (w.le (a + 8 + 8 * j) 4)
      w.putDest o d (destVals o n accs 0 denom) (tab p.elems fun j => w.le (a + 12 + 8 * j) 4) denom
    else w.putDest o d (destVals o n (tab p.elems fun j => w.les (a + 8 + 8 * j) 8) (w.le (a + 4) 4) denom) [] denom

/-- One destination of an operation, unless its line has written it (R135, R141, R144). -/
def Work.finaliseDest (w : Work) (o : ScatterOp) (d : Nat) : Work :=
  if o.written.contains d then w
  else if o.params.source = .edgeTarget then
    match o.splits.find? fun s => s.2 == d with
    | none => w.putEmpty o d
    | some s => w.finaliseRow o d s.1
  else w.finaliseRow o d d

/-- Every destination of an operation finalised (R135, R144). -/
def Work.finaliseScatter (w : Work) (o : ScatterOp) : Work :=
  let w := (List.range (w.scatterDests o.params)).foldl (fun w d => w.finaliseDest o d) w
  w.updScatter o.id fun k => { k with finalised := true }

/-- An operation reported complete (R135, R155, R290). -/
def Work.finishScatter (w : Work) (o : ScatterOp) : Work :=
  let w := w.upd fun d => { d with scatters := d.scatters.filter fun k => k.id != o.id }
  let update : Bool := match o.params.target with | .rowUpdate .. => true | .output .. => false
  if update then w.tryReport
  else
    match w.censusAdd o.ref.ctx o.form.fmt o.params.tag o.form.ref o.tally with
    | .error d => w.haltStream o.ref 2 0x84 d
    | .ok w => w.tryReport

/-- A peer's contribution on the owner (R155, R361): added, counted and acknowledged, or denied. -/
def Work.serveContribution (w : Work) (link jobTag table area alpha row : Nat) (e : Int) (accs : List Int) : Work :=
  let dest := (w.link link).peerId
  let answer := fun (w : Work) (m : LinkMsg) => w.sendRouted 0 2 dest (BitVec.ofNat 32 jobTag) false m
  match w.tagged jobTag with
  | none => answer w (.denied row)
  | some c =>
    match (w.accessFault c table 64 false).or (w.accessFault c area 64 true) with
    | some _ => answer w (.denied row)
    | none =>
      let t := w.table table
      if !t.ok || !w.areaOk area t || t.elems != accs.length then w.halt c (machineRec 0x22 (area % 2 ^ 32))
      else
        let valid : Bool := match t.kind with | 3 => decide (w.ownRow t row ≠ .invalid) | _ => decide (row < t.rows)
        let w := w.count Ctr.scatterServedRows 1
        let w :=
          if valid then w.areaAdd c table area alpha row e accs fun w reason d => w.halt c (machineRec reason d)
          else w.count Ctr.dropIndexRange 1
        answer w (.ack row)

/-! ### The commands -/

/-- SCATTER. -/
def execScatter (r : StreamRef) (p : ScatterParams) (s : State) : Host.Outcome State Fault Refusal :=
  .next (s.exec fun w => if (w.ctx r.ctx).active then w.startScatter r p else w)

/-- SCATTER_FINALISE. -/
def execScatterFinalise (op : Nat) (s : State) : Host.Outcome State Fault Refusal :=
  .next (s.exec fun w =>
    match w.scatterOp op with
    | none => w
    | some o => if o.finalised then w else w.finaliseScatter o)

/-- SCATTER_COMPLETE: once its outputs are written and every acknowledgement has returned; else one stalled cycle. -/
def execScatterComplete (op : Nat) (s : State) : Host.Outcome State Fault Refusal :=
  .next (s.exec fun w =>
    match w.scatterOp op with
    | none => w
    | some o =>
      if o.acks ≠ 0 then w.stall o.ref.ctx Ctr.stallDataLatePeer 7
      else if o.finalised then w.finishScatter o else w)

/-- SERVED_CONTRIBUTION. -/
def execServedContribution (link jobTag table area alpha row : Nat) (exponent : Int) (accs : List Int) (s : State) :
    Host.Outcome State Fault Refusal :=
  .next (s.exec fun w => if (w.link link).state = .up then w.serveContribution link jobTag table area alpha row exponent accs else w)

/-- SERVED_ACK. -/
def execServedAck (op unit : Nat) (s : State) : Host.Outcome State Fault Refusal :=
  .next (s.exec fun w =>
    match w.scatterOp op with
    | none => w
    | some o => if o.acks = 0 ∨ 16 ≤ unit then w else (w.updScatter op fun k => { k with acks := k.acks - 1 }).answered o.ref.ctx)

end Sys2Proof.Machine
end

