-- ==== Sys2Proof/Machine/Vector.lean ====
section
/-!
DEFINITION. The vector engine (R230 to R246, R308, R309): element-wise classes, conversions, reductions, UPDATE_REM, data
movement and masks. An instruction's effect is whole at its issue; its place in the queue of 8 ends with
VECTOR_INSTRUCTION_COMPLETE.
-/

namespace Sys2Proof.Machine

/-! ### Elements and masks -/

/-- Elements of a register at a width (R231). -/
def regElems (bits : Nat) : Nat := 8 * vregSize / bits

/-- Whether a masking is under granule ELEMENT on 16-bit or 8-bit data (R244). -/
def narrowed (bits : Nat) (m : Masking) : Bool := decide (bits < 32) && m.mask.isSome && decide (m.granule = .element)

/-- Elements of each register that an instruction covers (R244). -/
def coverage (bits : Nat) (m : Masking) : Nat := if narrowed bits m then min 4096 (regElems bits) else regElems bits

/-- Whether element `i` of a register is selected (R244, R245). -/
def Tile.selects (t : Tile) (bits : Nat) (m : Masking) (i : Nat) : Bool :=
  match m.mask, m.granule with
  | none, _ => true
  | some k, .element => (t.mask k).getLsbD i
  | some k, .lane => (t.mask k).getLsbD (i * bits / 32)

/-- The positions that an instruction covers, by register of the span and element, in order. -/
def positions (span per : Nat) : List (Nat × Nat) := (List.range span).flatMap fun p => (List.range per).map fun i => (p, i)

/-- A code of `bits` bits stored at element `i` from a key upward (R231, R284). -/
def Work.putElem (w : Work) (key bits i code : Nat) : Work :=
  let lo := bits * i
  let n := (lo % 8 + bits + 7) / 8
  let old := w.le (key + lo / 8) n
  let hole := old - old >>> (lo % 8) % 2 ^ bits * 2 ^ (lo % 8)
  w.wrLe (key + lo / 8) n (hole + code % 2 ^ bits * 2 ^ (lo % 8))

/-- An operand's element: of register `p` of its span, or the general register's low bits as read at issue (R235). -/
def Work.operand (w : Work) (tile bits : Nat) (s : VSrc) (p i : Nat) : Nat :=
  match s with
  | .v r => w.elemAt (vregAt tile (r + p) 0) bits i
  | .g r => ((w.tile tile).greg r).toNat % 2 ^ bits

/-- Each covered element written: a selected one with what `f` answers from its register and element, an unselected one
kept or 0 (R245). `f` reads the operands as they stood. Elements of another output width follow one another in the numbering
of R231 from the destination on. -/
def Work.eachElem {σ : Type} (w : Work) (tile bits outBits span dst : Nat) (m : Masking) (s : σ) (f : σ → Nat → Nat → Nat × σ) :
    Work × σ :=
  let t := w.tile tile
  (positions span (coverage bits m)).foldl
    (fun (a : Work × σ) e =>
      let j := e.1 * regElems bits + e.2
      if t.selects bits m e.2 then
        let r := f a.2 e.1 e.2
        (a.1.putElem (vregAt tile dst 0) outBits j r.1, r.2)
      else if m.zero then (a.1.putElem (vregAt tile dst 0) outBits j 0, a.2)
      else a) (w, s)

/-- The elements of an instruction's span that its mask selects. -/
def Tile.active (t : Tile) (bits span : Nat) (m : Masking) : Nat :=
  span * ((List.range (coverage bits m)).filter fun i => t.selects bits m i).length

/-! ### Checks and counts -/

/-- The vector register of an operand. -/
def srcReg : VSrc → List Nat
  | .v r => [r]
  | .g _ => []

/-- The operand fault of a span, its registers and its mask: the register as detail (R257, R258). -/
def spanBad (span : Nat) (rs : List Nat) (m : Masking) : Option Nat :=
  if span = 0 ∨ 8 < span then some 0
  else if m.mask.any fun k => decide (8 ≤ k) then some 0
  else rs.find? fun r => pastRegs r span

/-- The registers that elements of one width take at another. -/
def outSpan (bits outBits span : Nat) : Nat := ceilDiv (span * regElems bits * outBits) (8 * vregSize)

/-- Cycles of a pass of the element-wise classes (R234). -/
def passCycles (bits : Nat) (m : Masking) : Nat :=
  if narrowed bits m then (if bits = 16 then 4 else 2) else 8

/-- The passes of an arithmetic instruction counted (R259). -/
def Work.countPasses (w : Work) (tile bits span cycles : Nat) (m : Masking) : Work :=
  let w := w.count Ctr.vectorBusyCycles (span * cycles)
  let w := w.count Ctr.vectorElementSlots (span * coverage bits m)
  w.count Ctr.vectorActiveElements ((w.tile tile).active bits span m)

/-- The census of an instruction, or its halt (R290). -/
def Work.vecCensus (w : Work) (c : Nat) (form : OutForm) (tag : TensorTag) (y : Tally) : Issued :=
  match w.censusAdd c form.fmt tag form.ref y with
  | .error d => .halt 2 0x84 d
  | .ok w => .done w

/-- Whether in-flight array work holds what an instruction touches (R225); masks named count as read. -/
def Work.vecHeld (w : Work) (tile : Nat) (regs : List (Nat × Nat)) (masks : List Nat) : Bool :=
  w.heldByArray tile { Foot.none with regs := regs, masks := masks }

/-- The mask of a masking, as a list. -/
def maskOf (m : Masking) : List Nat := m.mask.toList

/-- An element-wise instruction with a census: the checks of R258, the wait of R225, the values stored (R236, R286, R297). -/
def Work.valueInstr (w : Work) (c : Nat) (t : TileRef) (f out : Fmt) (rnd : Rnd) (span dst : Nat) (srcs : List VSrc) (m : Masking)
    (tag : TensorTag) (cycles : Nat) (v : Nat → Nat → Val) : Issued :=
  let bits := fmtBits f
  match w.outForm c out tag with
  | none => .halt 2 0x82 (tag.layer.getD 0)
  | some form =>
    let ob := fmtBits form.fmt
    let outs := outSpan bits ob span
    match spanBad span (srcs.flatMap srcReg) m with
    | some r => .halt 2 0x06 r
    | none =>
      if pastRegs dst outs then .halt 2 0x06 dst
      else if w.vecHeld t.tile ((dst, outs) :: (srcs.flatMap srcReg).map fun r => (r, span)) (maskOf m) then .wait Ctr.stallScoreboard 0
      else
        let w1 := w.countPasses t.tile bits span cycles m
        let (w2, y) := w1.eachElem t.tile bits ob span dst m Tally.empty fun y p i =>
          let rho := if rnd = .sr then w.rho c tag (p * regElems bits + i) else 0
          let (s, y) := y.store form (roundOf rnd rho) (v p i)
          (s.code, y)
        w2.vecCensus c form tag y

/-- Whether a format is one of the floating-point arithmetic formats (R235). -/
def arithFmt (f : Fmt) : Bool := f == .fp32 || f == .bf16 || f == .fp16

/-! ### Arithmetic -/

/-- An arithmetic operation, exactly (R236). -/
def fpOp (op : FOp) (a b c : Val) : Val :=
  match op with
  | .add => a.add b
  | .sub => a.sub b
  | .mul => a.mul b
  | .fma => (a.mul b).add c
  | .neg => a.neg
  | .abs => a.abs
  | .min => a.least b
  | .max => a.greatest b
  | .div => a.div b
  | .sqrt => a.sqrt

/-- How many operands an arithmetic operation reads. -/
def fpArity : FOp → Nat
  | .fma => 3
  | .neg | .abs | .sqrt => 1
  | _ => 2

/-- Cycles of a pass of an arithmetic operation (R234). -/
def fpCycles (op : FOp) (bits : Nat) (m : Masking) : Nat :=
  match op with
  | .div | .sqrt => 32
  | _ => passCycles bits m

/-- A transcendental's number among the fixed functions. -/
def transCode : TOp → Nat
  | .exp => 0 | .log2 => 1 | .recip => 2 | .rsqrt => 3 | .tanh => 4 | .sigmoid => 5

/-- A transcendental on FP32 (R237): NaN gives NaN; otherwise a fixed function of the input bits, the exponential that of
R149. -/
def transOp (op : TOp) (x : Val) : Val :=
  if x.isNan then .nan
  else if op = .exp then ofF32 (Config.softExp (toF32 x))
  else ofF32 (Config.trans (transCode op) (toF32 x))

/-- Whether an integer operation is a shift. -/
def shiftOp : IOp → Bool
  | .shl | .shrl | .shra => true
  | _ => false

/-- An integer operation at a width, wrapping (R238, R247). -/
def intOp (op : IOp) (w a b : Nat) : Nat :=
  let sa := toSigned w a
  let sb := toSigned w b
  match op with
  | .add => (a + b) % 2 ^ w
  | .sub => ofSigned w (sa - sb)
  | .mul => a * b % 2 ^ w
  | .shl => a * 2 ^ b % 2 ^ w
  | .shrl => a / 2 ^ b
  | .shra => ofSigned w (sa >>> b)
  | .and => a &&& b
  | .or => a ||| b
  | .xor => a ^^^ b
  | .min => if sb < sa then b else a
  | .max => if sa < sb then b else a
  | .minu => min a b
  | .maxu => max a b

/-- An integer operation whose shift amount may pass the width: no rule gives that result, and it is free (R238, R247). -/
def intOpFree (op : IOp) (w a b draw j : Nat) : Nat :=
  if shiftOp op && decide (w ≤ b) then leNat (tab (w / 8) fun k => Config.freeByte draw (8 * j + k)) else intOp op w a b

/-- A comparison (R235); a NaN makes every one false but ≠ and unordered. -/
def compareVals (op : COp) (a b : Val) : Bool :=
  match op with
  | .eq => a.eq b
  | .ne => !a.eq b
  | .lt => a.lt b
  | .le => a.lt b || a.eq b
  | .gt => b.lt a
  | .ge => b.lt a || a.eq b
  | .unord => a.isNan || b.isNan

/-! ### Conversions -/

/-- Formats that a conversion reads or writes (R235). -/
def convFmt (f : Fmt) : Bool :=
  match f with
  | .fp32 | .bf16 | .fp16 | .e4m3 | .e5m2 | .int32 | .int8 => true
  | f => fmtMx f

/-- Whether a conversion's formats, rounding and registers are outside R235, R285 and R287; the register as detail. -/
def convBad (p : ConvParams) (out : Fmt) (m : Masking) : Option Nat :=
  let mx := fmtMx p.src || fmtMx out
  let plain := if fmtMx p.src then out else p.src
  let span := outSpan (fmtBits p.src) (fmtBits out) p.span
  if !convFmt p.src || !convFmt out || (mx && !arithFmt plain) || (fmtMx p.src && fmtMx out)
      || (p.rnd == .rtz && !fmtInt out) || (mx && decide (32 ≤ p.scaleReg)) then some 0
  else if pastRegs p.dstReg span then some p.dstReg
  else spanBad p.span [p.srcReg] m

/-- Whether a stored value is of another kind than its input (R238). -/
def kindChanged (v : Val) (s : Stored) (out : Val) : Bool :=
  (s.sat && !v.isNan && !v.isInf) || (v.isInf && !out.isInf && !out.isNan) || (v.isNan && !out.isNan)

/-- A conversion to a format other than MX, element by element: from values as they are read, the count of R238. -/
def Work.convertPlain (w : Work) (c : Nat) (t : TileRef) (p : ConvParams) (form : OutForm) (m : Masking) (tag : TensorTag)
    (v : Nat → Nat → Val) : Work × Tally × Nat :=
  w.eachElem t.tile (fmtBits p.src) (fmtBits form.fmt) p.span p.dstReg m (Tally.empty, 0) fun (y, n) q i =>
    let rho := if p.rnd = .sr then w.rho c tag (q * regElems (fmtBits p.src) + i) else 0
    let x := v q i
    let (s, y) := y.store form (roundOf p.rnd rho) x
    (s.code, y, n + (if kindChanged x s (fmtDecode form.fmt s.code) then 1 else 0))

/-- One block of an MX quantise: its selected elements as a block, each stored at its place (R245, R285). -/
def Work.quantiseBlock (w : Work) (c : Nat) (t : TileRef) (p : ConvParams) (form : OutForm) (m : Masking) (tag : TensorTag)
    (v : Nat → Nat → Val) (a : Work × Tally × Nat) (b : Nat) : Work × Tally × Nat :=
  let bits := fmtBits p.src
  let per := regElems bits
  let js := (List.range 32).map fun k => 32 * b + k
  let sel := js.filter fun j => decide (j % per < coverage bits m) && (w.tile t.tile).selects bits m (j % per)
  let rest := js.filter fun j => decide (j % per < coverage bits m) && !(w.tile t.tile).selects bits m (j % per)
  let vs := sel.map fun j => v (j / per) (j % per)
  let q := mxQuantise form.fmt p.rnd (fun i => if p.rnd = .sr then w.rho c tag ((sel[i]?).getD 0) else 0) vs
  let key := vregAt t.tile p.dstReg 0
  let w1 := if sel = [] then a.1 else a.1.putElem (vregAt t.tile p.scaleReg 0) 8 b q.scale
  let w2 := if m.zero then rest.foldl (fun w j => w.putElem key (fmtBits form.fmt) j 0) w1 else w1
  (sel.zip (vs.zip q.elems)).foldl
    (fun a e =>
      let out := mxDecode form.fmt q.scale e.2.2.code
      (a.1.putElem key (fmtBits form.fmt) e.1 e.2.2.code, a.2.1.add form.ref e.2.1 e.2.2 out,
        a.2.2 + (if kindChanged e.2.1 e.2.2 out then 1 else 0))) (w2, a.2.1, a.2.2)

/-- The values that a conversion reads (R285, R297). -/
def Work.convRead (w : Work) (t : TileRef) (p : ConvParams) (g : Int) (q i : Nat) : Val :=
  let bits := fmtBits p.src
  let j := q * regElems bits + i
  let code := w.elemAt (vregAt t.tile p.srcReg 0) bits j
  if fmtMx p.src then mxDecode p.src (w.elemAt (vregAt t.tile p.scaleReg 0) 8 (j / 32)) code else (fmtDecode p.src code).scale g

/-- A conversion (R235, R238, R285, R286). -/
def Work.convert (w : Work) (c : Nat) (t : TileRef) (p : ConvParams) (m : Masking) (tag : TensorTag) : Issued :=
  match w.outForm c p.dst tag, w.readScale c p.srcLayer with
  | none, _ => .halt 2 0x82 (tag.layer.getD 0)
  | _, none => .halt 2 0x82 (p.srcLayer.getD 0)
  | some form, some g =>
    match convBad p form.fmt m with
    | some r => .halt 2 0x06 r
    | none =>
      let bits := fmtBits p.src
      let scales := if fmtMx p.src || fmtMx form.fmt then [(p.scaleReg, 1)] else []
      if w.vecHeld t.tile ((p.dstReg, outSpan bits (fmtBits form.fmt) p.span) :: (p.srcReg, p.span) :: scales) (maskOf m) then
        .wait Ctr.stallScoreboard 0
      else
        let v := w.convRead t p g
        let w1 := w.countPasses t.tile bits p.span (passCycles bits m) m
        let (w2, y, n) :=
          if fmtMx form.fmt then
            (List.range (p.span * regElems bits / 32)).foldl (w.quantiseBlock c t p form m tag v) (w1, Tally.empty, 0)
          else w1.convertPlain c t p form m tag v
        (w2.count Ctr.vectorSaturated n).vecCensus c form tag y

/-! ### Reductions -/

/-- The elements of a reduction's register `p`, in order: its value and whether it is selected. -/
def Work.reduceRow (w : Work) (tile : Nat) (f : Fmt) (src p : Nat) (m : Masking) : List (Val × Bool) :=
  let t := w.tile tile
  (List.range (coverage (fmtBits f) m)).map fun i =>
    (fmtDecode f (w.elemAt (vregAt tile (src + p) 0) (fmtBits f) i), t.selects (fmtBits f) m i)

/-- Every 64th element of a list, from element `n` (R239). -/
def columnOf {α : Type} (n : Nat) (l : List α) : List α := (chunks 64 l.length l).filterMap fun r => r[n]?

/-- The groups of one register (R239). -/
def groupsOf {α : Type} (g : RGroup) (l : List α) : List (List α) :=
  match g with
  | .contiguous k => chunks (2 ^ k) l.length l
  | .column => (List.range 64).map fun n => columnOf n l
  | .whole => [l]

/-- One level of the tree of R240. -/
def pairUp (f : Val → Val → Val) : List Val → List Val
  | a :: b :: r => f a b :: pairUp f r
  | r => r

/-- The tree of R240: adjacent pairs, level by level. -/
def treeGo (f : Val → Val → Val) (z : Val) : Nat → List Val → Val
  | _, [] => z
  | _, [v] => v
  | 0, v :: _ => v
  | n + 1, l => treeGo f z n (pairUp f l)

/-- A tree over a list. -/
def tree (f : Val → Val → Val) (z : Val) (l : List Val) : Val := treeGo f z l.length l

/-- FP32 addition, rounded (R240). -/
def add32 (a b : Val) : Val := ofF32 (toF32 (a.add b))

/-- How a reduction combines, and what a masked element enters as (R240). -/
def reduceBy : ROp → (Val → Val → Val) × Val
  | .max => (Val.greatest, .inf true)
  | .min => (Val.least, .inf false)
  | _ => (add32, Val.zero)

/-- Results of the registers joined: one after another for CONTIGUOUS, else combined in register order (R239, R240). -/
def joinRegs {α : Type} (g : RGroup) (f : α → α → α) (rows : List (List α)) : List α :=
  match g, rows with
  | .contiguous _, rows => rows.flatten
  | _, [] => []
  | _, r :: rs => rs.foldl (fun acc x => List.zipWith f acc x) r

/-- The results of SUM, MAX and MIN (R240). -/
def Work.reduce (w : Work) (tile : Nat) (op : ROp) (f : Fmt) (g : RGroup) (src span : Nat) (m : Masking) : List Val :=
  let (comb, z) := reduceBy op
  joinRegs g comb ((List.range span).map fun p =>
    (groupsOf g ((w.reduceRow tile f src p m).map fun e => if e.2 then e.1 else z)).map (tree comb z))

/-- The bits of a mask by groups, counted (R239, R240). -/
def maskCounts (g : RGroup) (m : BitVec 4096) : List Nat :=
  (groupsOf g ((List.range 4096).map fun i => m.getLsbD i)).map fun l => l.countP fun b => b

/-- Whether a group, a destination and a format are outside R239. -/
def reduceBad (bits : Nat) (g : RGroup) (dst : RDst) : Bool :=
  (match g with
    | .contiguous k => k == 0 || decide ((if bits = 32 then 12 else 13) < k)
    | _ => false)
    || (match dst, g with
      | .g r, .whole => decide (32 ≤ r)
      | .g _, _ => true
      | .v r, _ => decide (32 ≤ r))

/-- Group results written, from element 0 of the destination or to a general register, with their census (R239, R297). -/
def Work.putResults (w : Work) (c tile : Nat) (form : OutForm) (tag : TensorTag) (dst : RDst) (vs : List Val) : Issued :=
  let (codes, y) := Tally.storeAll form .rne (fun _ => 0) vs
  match dst with
  | .g r => (w.updTile tile fun k => k.setG r (BitVec.ofNat 64 (codes.headD 0))).vecCensus c form tag y
  | .v r =>
    let ob := fmtBits form.fmt
    if pastRegs r (ceilDiv (codes.length * ob) (8 * vregSize)) then .halt 2 0x06 r
    else
      ((codes.mapIdx fun i x => (i, x)).foldl (fun w e => w.putElem (vregAt tile r 0) ob e.1 e.2) w).vecCensus c form tag y

/-- The registers of a reduction's results. -/
def dstRegs : RDst → List (Nat × Nat)
  | .v r => [(r, 1)]
  | .g _ => []

/-- A reduction that is not SUMX (R239, R240). -/
def Work.reduction (w : Work) (c : Nat) (t : TileRef) (op : ROp) (f : Fmt) (g : RGroup) (dst : RDst) (src span : Nat) (m : Masking)
    (tag : TensorTag) : Issued :=
  let bits := fmtBits f
  let named : Fmt := match op with | .sum => .fp32 | .count => .int32 | _ => f
  let countBits := if op = .count then 32 else bits
  match w.outForm c named tag with
  | none => .halt 2 0x82 (tag.layer.getD 0)
  | some form =>
    match spanBad span (if op = .count then [] else [src]) m with
    | some r => .halt 2 0x06 r
    | none =>
      if reduceBad countBits g dst || (op != .count && !arithFmt f) || (op == .count && m.mask.isNone) then .halt 2 0x06 0
      else if w.vecHeld t.tile (dstRegs dst ++ (if op = .count then [] else [(src, span)])) (maskOf m) then .wait Ctr.stallScoreboard 0
      else if op = .count then
        (w.count Ctr.vectorBusyCycles 8).putResults c t.tile form tag dst
          ((maskCounts g ((w.tile t.tile).mask (m.mask.getD 0))).map fun (n : Nat) => Val.ofInt (n : Int) 0)
      else (w.countPasses t.tile bits span 8 m).putResults c t.tile form tag dst (w.reduce t.tile op f g src span m)

/-- The exact sums of SUMX by group, with the elements clamped (R241). -/
def Work.sumExact (w : Work) (tile : Nat) (f : Fmt) (e : Int) (g : RGroup) (src span : Nat) (m : Masking) : List Int × Nat :=
  let rows := (List.range span).map fun p =>
    (w.reduceRow tile f src p m).map fun x => if x.2 then let q := quantise (x.1.scale (-e)); (q.1, q.2.1) else (0, false)
  (joinRegs g (· + ·) (rows.map fun r => (groupsOf g r).map fun l => (l.map (·.1)).sum), (rows.flatten.filter (·.2)).length)

/-- SUMX (R241). -/
def Work.exactSum (w : Work) (c : Nat) (t : TileRef) (f : Fmt) (e : Int) (g : RGroup) (dst : RDst) (src span : Nat) (m : Masking)
    (tag : TensorTag) : Issued :=
  match w.outForm c .fp32 tag with
  | none => .halt 2 0x82 (tag.layer.getD 0)
  | some form =>
    match spanBad span [src] m with
    | some r => .halt 2 0x06 r
    | none =>
      if e < -128 ∨ 127 < e ∨ reduceBad (fmtBits f) g dst ∨ !arithFmt f then .halt 2 0x06 0
      else if w.vecHeld t.tile (dstRegs dst ++ [(src, span)]) (maskOf m) then .wait Ctr.stallScoreboard 0
      else
        let (sums, n) := w.sumExact t.tile f e g src span m
        let w := w.countPasses t.tile (fmtBits f) span 16 m
        let w := (w.count Ctr.vectorSaturated n).updTile t.tile fun k => { k with satFlag := k.satFlag || decide (0 < n) }
        w.putResults c t.tile form tag dst (sums.map fun s => Val.ofInt s e)

/-! ### Update with remainder -/

/-- The exponent of ulp(w) of a BF16 weight (R308). -/
def ulpExp (w : Nat) : Int := max ((w / 128 % 256 : Nat) - 127 : Int) (-126) - 7

/-- What UPDATE_REM makes of a weight: the weight, the remainder, and the exact v with what was stored (R308, R309). -/
def updateRem (w r : Nat) (u : W32) : Nat × Nat × Val × Stored :=
  let wv := bf16.decode w
  let uv := ofF32 u
  let clash := match wv, uv with | .inf a, .inf b => a != b | _, _ => false
  if wv.isNan || uv.isNan || clash then (0x7FC0, 0, .nan, { code := 0x7FC0, sat := false })
  else if wv.isInf then (w, r, wv, { code := w, sat := false })
  else
    match uv with
    | .inf n =>
      let x := if n then 0xFF80 else 0x7F80
      (x, 0, uv, { code := x, sat := false })
    | _ =>
      let v := (wv.add (Val.ofInt (toSigned 16 r) (ulpExp w - 16))).add uv
      let s := bf16.encode .tiesUp v
      if s.sat then (s.code, 0, v, s)
      else
        let q := ((v.sub (bf16.decode s.code)).scale (16 - ulpExp s.code)).toInt .rne
        (s.code, ofSigned 16 (max (-32768) (min 32767 q)), v, s)

/-- UPDATE_REM on half `h` (R242). -/
def Work.updateHalf (w : Work) (c : Nat) (t : TileRef) (h wr rr ur : Nat) (m : Masking) (tag : TensorTag) : Issued :=
  match w.outForm c .bf16 tag with
  | none => .halt 2 0x82 (tag.layer.getD 0)
  | some form =>
    let form : OutForm := { fmt := .bf16, scale := 0, ref := form.ref }
    match spanBad 1 [wr, rr, ur] m with
    | some r => .halt 2 0x06 r
    | none =>
      if 2 ≤ h ∨ (m.mask.isSome ∧ m.granule ≠ .element) then .halt 2 0x06 wr
      else if w.vecHeld t.tile [(wr, 1), (rr, 1), (ur, 1)] (maskOf m) then .wait Ctr.stallScoreboard 0
      else
        let k := w.tile t.tile
        let sel := (List.range 4096).filter fun j => k.selects 32 { m with granule := .element } j
        let (w1, y) := sel.foldl
          (fun (a : Work × Tally) j =>
            let i := 4096 * h + j
            let x := updateRem (w.elemAt (vregAt t.tile wr 0) 16 i) (w.elemAt (vregAt t.tile rr 0) 16 i)
              (BitVec.ofNat 32 (w.elemAt (vregAt t.tile ur 0) 32 j))
            ((a.1.putElem (vregAt t.tile wr 0) 16 i x.1).putElem (vregAt t.tile rr 0) 16 i x.2.1,
              a.2.add form.ref x.2.2.1 x.2.2.2 (bf16.decode x.1))) (w, Tally.empty)
        let w1 := ((w1.count Ctr.vectorBusyCycles 16).count Ctr.vectorElementSlots 4096).count Ctr.vectorActiveElements sel.length
        w1.vecCensus c form tag y

/-! ### Moving data -/

/-- The rows of a VLOAD or VSTORE moved (R243). -/
def Work.moveRows (w : Work) (tile : Nat) (p : VLsParams) (at_ : Nat → Nat) : Work :=
  (List.range p.rows).foldl
    (fun w r =>
      let reg := vregAt tile p.reg (r * p.rowBytes)
      if p.store then w.wr (at_ r) (w.rdN reg p.rowBytes) else w.wr reg (w.rdN (at_ r) p.rowBytes)) w

/-- The halt of an uncorrectable block in a tile-store range that a vector instruction reads (R487). -/
def Work.vecPoison (w : Work) (tile off len : Nat) : Option Nat := w.poisonIn (tileStoreAddr tile off) len

/-- VLOAD and VSTORE with the tile store (R243). -/
def Work.moveStore (w : Work) (t : TileRef) (p : VLsParams) (base stride : Nat) : Issued :=
  let len := (p.rows - 1) * stride + p.rowBytes
  match storeFault base len, (if p.store then none else w.vecPoison t.tile base len) with
  | some a, _ => .halt 2 0x02 a
  | none, some q => .halt 2 0x41 q
  | none, none =>
    if w.heldByArray t.tile
        { Foot.none with regs := [(p.reg, ceilDiv (p.rows * p.rowBytes) vregSize)], store := [(base, len)] } then
      .wait Ctr.stallScoreboard 0
    else
      .done ((w.moveRows t.tile p fun r => tileStoreAddr t.tile (base + r * stride)).count Ctr.vectorLsBytes (p.rows * p.rowBytes))

/-- VLOAD and VSTORE with a ring: a row of each slot, once all of them are there (R216). -/
def Work.moveRing (w : Work) (t : TileRef) (p : VLsParams) (n : Nat) : Issued :=
  let q := (w.tile t.tile).ring n
  let first := if p.store then q.produced else q.consumed
  match storeFault q.base (q.slots * q.slotSize) with
  | some a => .halt 2 0x02 a
  | none =>
    if !p.store && decide (q.filled < p.rows) then .wait Ctr.stallDataLateLocal 2
    else if p.store && decide (q.room < p.rows) then .wait Ctr.stallQueueFull 2
    else if w.heldByArray t.tile (Foot.ofRegs [(p.reg, ceilDiv (p.rows * p.rowBytes) vregSize)]) then .wait Ctr.stallScoreboard 0
    else
      let w := w.moveRows t.tile p fun r => tileStoreAddr t.tile (q.slotOff (first + BitVec.ofNat 32 r))
      let w := w.updTile t.tile fun k => if p.store then k.produce n p.rows else k.consume n p.rows
      .done ((w.count Ctr.vectorLsBytes (p.rows * p.rowBytes)).pumpTile t.tile)

/-- VLOAD and VSTORE (R243). -/
def Work.moveVector (w : Work) (t : TileRef) (p : VLsParams) : Issued :=
  if p.rows = 0 ∨ p.rowBytes = 0 ∨ vregSize < p.rowBytes then .halt 2 0x06 p.reg
  else if pastRegs p.reg (ceilDiv (p.rows * p.rowBytes) vregSize) then .halt 2 0x06 p.reg
  else
    match p.place with
    | .regs v => .halt 2 0x06 v
    | .store base stride => if stride % 16 ≠ 0 then .halt 2 0x06 p.reg else w.moveStore t p base stride
    | .ring n => if 4 ≤ n ∨ ((w.tile t.tile).ring n).slotSize < p.rowBytes then .halt 2 0x06 p.reg else w.moveRing t p n

/-- Bytes stored one after another; a byte that an earlier element of the same instruction stored keeps or takes its value by
a free choice, since no rule orders them (R243). -/
def Work.putLoose (w : Work) (draw key : Nat) (bs : List Byte) : Work :=
  (bs.mapIdx fun i b => (key + i, b)).foldl
    (fun w e => if (Memory.find w.log e.1).isSome && (Config.freeByte draw e.1).getLsbD 0 then w else w.wr e.1 [e.2]) w

/-- VGATHER and VSCATTER (R243). -/
def Work.moveIndexed (w : Work) (t : TileRef) (p : VGsParams) : Issued :=
  let bits := if p.wide then 32 else 16
  let n := bits / 8
  let offs := (List.range p.count).map fun i => p.base + w.elemAt (vregAt t.tile p.indexReg 0) 32 i
  if pastRegs p.reg (ceilDiv (p.count * bits) (8 * vregSize)) then .halt 2 0x06 p.reg
  else if pastRegs p.indexReg (ceilDiv p.count 4096) then .halt 2 0x06 p.indexReg
  else
    match offs.findSome? (fun o => storeFault o n), (if p.scatter then none else offs.findSome? fun o => w.vecPoison t.tile o n) with
    | some a, _ => .halt 2 0x02 a
    | none, some q => .halt 2 0x41 q
    | none, none =>
      if w.heldByArray t.tile
          { Foot.none with
            regs := [(p.reg, ceilDiv (p.count * bits) (8 * vregSize)), (p.indexReg, ceilDiv p.count 4096)]
            store := offs.map fun o => (o, n) } then .wait Ctr.stallScoreboard 0
      else
        let (draw, w) := w.draw
        let w1 :=
          if p.scatter then
            let v := (offs.mapIdx fun i o => (i, o)).foldl
              (fun v e => v.putLoose draw (tileStoreAddr t.tile e.2) (w.rdN (vregAt t.tile p.reg (n * e.1)) n)) { w with log := [] }
            { v with log := v.log ++ w.log }
          else
            (offs.mapIdx fun i o => (i, o)).foldl
              (fun v e => v.wr (vregAt t.tile p.reg (n * e.1)) (w.rdN (tileStoreAddr t.tile e.2) n)) w
        .done (w1.count Ctr.vectorLsBytes (p.count * n))

/-- The element that a shuffle, broadcast or transpose takes for element `i` of register `p` (R243). -/
def Work.shuffleFrom (w : Work) (tile bits : Nat) (op : ShuffleOp) (p i : Nat) : Nat :=
  let per := regElems bits
  match op with
  | .shuffle x => w.elemAt (vregAt tile x 0) 32 (p * per + i)
  | .broadcast e => e
  | .transpose => p * per + (i / 4096 * 4096 + 64 * (i % 64) + i / 64 % 64)

/-- Cycles of a pass of a shuffle or transpose (R234). -/
def shuffleCycles : ShuffleOp → Nat
  | .transpose => 16
  | _ => 32

/-- Shuffle, broadcast and transpose (R243). -/
def Work.shuffleInstr (w : Work) (t : TileRef) (op : ShuffleOp) (f : Fmt) (span dst src : Nat) (m : Masking) : Issued :=
  let bits := fmtBits f
  let index := match op with | .shuffle x => [(x, ceilDiv (span * regElems bits) 4096)] | _ => []
  match spanBad span [dst, src] m, index.find? fun x => pastRegs x.1 x.2 with
  | some r, _ => .halt 2 0x06 r
  | none, some x => .halt 2 0x06 x.1
  | none, none =>
    if fmtMx f ∨ fmtBits f = 64 then .halt 2 0x06 dst
    else if w.vecHeld t.tile ((dst, span) :: (src, span) :: index) (maskOf m) then .wait Ctr.stallScoreboard 0
    else
      let (w1, n) := (w.countPasses t.tile bits span (shuffleCycles op) m).eachElem t.tile bits bits span dst m 0 fun n p i =>
        let k := w.shuffleFrom t.tile bits op p i
        if span * regElems bits ≤ k then (0, n + 1) else (w.elemAt (vregAt t.tile src 0) bits k, n)
      .done (w1.count Ctr.dropIndexRange n)

/-! ### Masks -/

/-- The mask registers that a mask instruction reads and writes. -/
def maskFoot (op : MaskOp) (dst : Nat) : List Nat :=
  match op with
  | .and a b | .or a b | .xor a b | .andNot a b => [dst, a, b]
  | .not a => [dst, a]
  | _ => [dst]

/-- A mask instruction (R246). -/
def Work.maskInstr (w : Work) (t : TileRef) (op : MaskOp) (dst : Nat) : Issued :=
  let k := w.tile t.tile
  let put := fun (v : BitVec 4096) => Issued.done (w.updTile t.tile fun k => k.setMask dst v)
  if (maskFoot op dst).any fun m => decide (8 ≤ m) then .halt 2 0x06 dst
  else if w.vecHeld t.tile [] (maskFoot op dst) then .wait Ctr.stallScoreboard 0
  else
    match op with
    | .and a b => put (k.mask a &&& k.mask b)
    | .or a b => put (k.mask a ||| k.mask b)
    | .xor a b => put (k.mask a ^^^ k.mask b)
    | .andNot a b => put (k.mask a &&& ~~~ k.mask b)
    | .not a => put (~~~ k.mask a)
    | .setAll => put (BitVec.allOnes 4096)
    | .clearAll => put 0
    | .fromG piece g =>
      if 64 ≤ piece then .halt 2 0x06 dst
      else put ((k.mask dst &&& ~~~ BitVec.ofNat 4096 ((2 ^ 64 - 1) * 2 ^ (64 * piece))) ||| BitVec.ofNat 4096 ((k.greg g).toNat * 2 ^ (64 * piece)))
    | .toG piece g =>
      if 64 ≤ piece then .halt 2 0x06 dst
      else .done (w.updTile t.tile fun x => x.setG g (BitVec.ofNat 64 ((k.mask dst).toNat / 2 ^ (64 * piece))))
    | .load a =>
      match storeFault a 512, w.vecPoison t.tile a 512 with
      | some x, _ => .halt 2 0x02 x
      | none, some q => .halt 2 0x41 q
      | none, none => put (BitVec.ofNat 4096 (w.le (tileStoreAddr t.tile a) 512))
    | .store a =>
      match storeFault a 512 with
      | some x => .halt 2 0x02 x
      | none => .done (w.wrLe (tileStoreAddr t.tile a) 512 (k.mask dst).toNat)

/-- What a mask query answers (R246). -/
def maskAnswer (op : MaskQ) (m : BitVec 4096) : Nat :=
  match op with
  | .count => (List.range 4096).countP fun i => m.getLsbD i
  | .any => if m = 0 then 0 else 1
  | .first => ((List.range 4096).find? fun i => m.getLsbD i).getD 4096

/-! ### The commands -/

/-- VECTOR_ARITHMETIC. -/
def execVectorArithmetic (t : TileRef) (op : FOp) (f : Fmt) (rnd : Rnd) (span dst : Nat) (a b c : VSrc) (m : Masking) (tag : TensorTag)
    (s : State) : Host.Outcome State Fault Refusal :=
  .next (s.exec fun w => w.issueVector t fun x w =>
    if !arithFmt f || rnd == .rtz then .halt 2 0x06 0
    else
      w.valueInstr x t f f rnd span dst ([a, b, c].take (fpArity op)) m tag (fpCycles op (fmtBits f) m) fun p i =>
        let v := fun s => fmtDecode f (w.operand t.tile (fmtBits f) s p i)
        fpOp op (v a) (v b) (v c))

/-- VECTOR_TRANSCENDENTAL: a 16-bit result is rounded once more, from FP32 (R237). -/
def execVectorTranscendental (t : TileRef) (op : TOp) (f : Fmt) (span dst : Nat) (a : VSrc) (m : Masking) (tag : TensorTag)
    (s : State) : Host.Outcome State Fault Refusal :=
  .next (s.exec fun w => w.issueVector t fun x w =>
    if !arithFmt f then .halt 2 0x06 0
    else w.valueInstr x t f f .rne span dst [a] m tag 32 fun p i => transOp op (fmtDecode f (w.operand t.tile (fmtBits f) a p i)))

/-- VECTOR_INTEGER. -/
def execVectorInteger (t : TileRef) (op : IOp) (f : Fmt) (span dst : Nat) (a b : VSrc) (m : Masking) (s : State) :
    Host.Outcome State Fault Refusal :=
  .next (s.exec fun w => w.issueVector t fun _ w =>
    let bits := fmtBits f
    let regs := dst :: srcReg a ++ srcReg b
    match spanBad span regs m with
    | some r => .halt 2 0x06 r
    | none =>
      if !fmtInt f || f == .int64 then .halt 2 0x06 0
      else if w.vecHeld t.tile (regs.map fun r => (r, span)) (maskOf m) then .wait Ctr.stallScoreboard 0
      else
        let (draw, w) := w.draw
        let (w1, _) := (w.countPasses t.tile bits span (passCycles bits m) m).eachElem t.tile bits bits span dst m () fun _ p i =>
          (intOpFree op bits (w.operand t.tile bits a p i) (w.operand t.tile bits b p i) draw (p * regElems bits + i), ())
        .done w1)

/-- VECTOR_COMPARE: one register of each source, its bits to a mask register (R235, R244, R245). -/
def execVectorCompare (t : TileRef) (op : COp) (f : Fmt) (dst : Nat) (a b : VSrc) (m : Masking) (s : State) :
    Host.Outcome State Fault Refusal :=
  .next (s.exec fun w => w.issueVector t fun _ w =>
    let bits := fmtBits f
    let regs := srcReg a ++ srcReg b
    match spanBad 1 regs m with
    | some r => .halt 2 0x06 r
    | none =>
      if fmtMx f || f == .int64 || decide (8 ≤ dst) || (decide (bits < 32) && m.granule != .element) then .halt 2 0x06 0
      else if w.vecHeld t.tile (regs.map fun r => (r, 1)) (dst :: maskOf m) then .wait Ctr.stallScoreboard 0
      else
        let k := w.tile t.tile
        let bit := fun (i : Nat) =>
          if k.selects bits m i then
            compareVals op (fmtDecode f (w.operand t.tile bits a 0 i)) (fmtDecode f (w.operand t.tile bits b 0 i))
          else !m.zero && (k.mask dst).getLsbD i
        let r := (List.range 4096).foldl (fun n i => if bit i then n + 2 ^ i else n) 0
        let full : Masking := if bits < 32 ∧ m.mask.isNone then { m with mask := some 0 } else m
        let w := ((w.count Ctr.vectorBusyCycles (passCycles bits full)).count Ctr.vectorElementSlots 4096).count
          Ctr.vectorActiveElements ((List.range 4096).filter fun i => k.selects bits m i).length
        .done (w.updTile t.tile fun k => k.setMask dst (BitVec.ofNat 4096 r)))

/-- VECTOR_SELECT: element from the first source where the mask's bit is 1, else from the second (R235). -/
def execVectorSelect (t : TileRef) (f : Fmt) (span dst : Nat) (a b : VSrc) (mask : Nat) (g : Granule) (s : State) :
    Host.Outcome State Fault Refusal :=
  .next (s.exec fun w => w.issueVector t fun _ w =>
    let bits := fmtBits f
    let m : Masking := { mask := some mask, granule := g, zero := false }
    let regs := dst :: srcReg a ++ srcReg b
    match spanBad span regs m with
    | some r => .halt 2 0x06 r
    | none =>
      if fmtMx f || f == .int64 then .halt 2 0x06 0
      else if w.vecHeld t.tile (regs.map fun r => (r, span)) [mask] then .wait Ctr.stallScoreboard 0
      else
        let k := w.tile t.tile
        let w1 := (positions span (coverage bits m)).foldl
          (fun v e =>
            v.putElem (vregAt t.tile dst 0) bits (e.1 * regElems bits + e.2)
              (w.operand t.tile bits (if k.selects bits m e.2 then a else b) e.1 e.2)) w
        .done (w1.countPasses t.tile bits span (passCycles bits m) m))

/-- VECTOR_CONVERSION. -/
def execVectorConversion (t : TileRef) (p : ConvParams) (m : Masking) (tag : TensorTag) (s : State) : Host.Outcome State Fault Refusal :=
  .next (s.exec fun w => w.issueVector t fun c w => w.convert c t p m tag)

/-- VECTOR_REDUCTION. -/
def execVectorReduction (t : TileRef) (op : ROp) (f : Fmt) (group : RGroup) (dst : RDst) (src span : Nat) (m : Masking) (tag : TensorTag)
    (s : State) : Host.Outcome State Fault Refusal :=
  .next (s.exec fun w => w.issueVector t fun c w => w.reduction c t op f group dst src span m tag)

/-- SUMX. -/
def execSumx (t : TileRef) (f : Fmt) (exponent : Int) (group : RGroup) (dst : RDst) (src span : Nat) (m : Masking) (tag : TensorTag)
    (s : State) : Host.Outcome State Fault Refusal :=
  .next (s.exec fun w => w.issueVector t fun c w => w.exactSum c t f exponent group dst src span m tag)

/-- UPDATE_REM. -/
def execUpdateRem (t : TileRef) (half w rem upd : Nat) (m : Masking) (tag : TensorTag) (s : State) : Host.Outcome State Fault Refusal :=
  .next (s.exec fun k => k.issueVector t fun c k => k.updateHalf c t half w rem upd m tag)

/-- VLOAD_VSTORE. -/
def execVloadVstore (t : TileRef) (p : VLsParams) (s : State) : Host.Outcome State Fault Refusal :=
  .next (s.exec fun w => w.issueVector t fun _ w => w.moveVector t p)

/-- VGATHER_VSCATTER. -/
def execVgatherVscatter (t : TileRef) (p : VGsParams) (s : State) : Host.Outcome State Fault Refusal :=
  .next (s.exec fun w => w.issueVector t fun _ w => w.moveIndexed t p)

/-- SHUFFLE. -/
def execShuffle (t : TileRef) (op : ShuffleOp) (f : Fmt) (span dst src : Nat) (m : Masking) (s : State) : Host.Outcome State Fault Refusal :=
  .next (s.exec fun w => w.issueVector t fun _ w => w.shuffleInstr t op f span dst src m)

/-- VEXTRACT_VINSERT: one element between a vector register and a general register, by the tile core (R243). -/
def execVextractVinsert (t : TileRef) (insert : Bool) (width v elem g : Nat) (s : State) : Host.Outcome State Fault Refusal :=
  .next (s.exec fun w => w.issue t fun _ w =>
    if 32 ≤ v ∨ !(width == 8 || width == 16 || width == 32) ∨ regElems width ≤ elem then .halt 2 0x06 v
    else if w.vecHeld t.tile [(v, 1)] [] then .wait Ctr.stallScoreboard 0
    else if insert then .done (w.putElem (vregAt t.tile v 0) width elem ((w.tile t.tile).greg g).toNat)
    else .done (w.updTile t.tile fun k => k.setG g (BitVec.ofNat 64 (w.elemAt (vregAt t.tile v 0) width elem))))

/-- MASK_LOGIC. -/
def execMaskLogic (t : TileRef) (op : MaskOp) (dst : Nat) (s : State) : Host.Outcome State Fault Refusal :=
  .next (s.exec fun w => w.issue t fun _ w => w.maskInstr t op dst)

/-- MASK_QUERY. -/
def execMaskQuery (t : TileRef) (op : MaskQ) (mask g : Nat) (s : State) : Host.Outcome State Fault Refusal :=
  .next (s.exec fun w => w.issue t fun _ w =>
    if 8 ≤ mask then .halt 2 0x06 mask
    else if w.vecHeld t.tile [] [mask] then .wait Ctr.stallScoreboard 0
    else .done (w.updTile t.tile fun k => k.setG g (BitVec.ofNat 64 (maskAnswer op (k.mask mask)))))

/-- VECTOR_INSTRUCTION_COMPLETE: an instruction leaves the queue (R233, R251). -/
def execVectorInstructionComplete (tile : Nat) (s : State) : Host.Outcome State Fault Refusal :=
  .next (s.exec fun w => (w.updTile tile fun k => { k with vecQueue := k.vecQueue - 1 }).tryReport)

end Sys2Proof.Machine
end

