-- ==== Sys2Proof/Machine/TileCore.lean ====
section
/-!
DEFINITION. The tile core (R247 to R258): scalar instructions, data memory, hardware loops, PITCH_END, STOP and TRAP.
-/

namespace Sys2Proof.Machine

/-! ### Scalar instructions -/

/-- A general register as an FP32 value, by its bits [31:0] (R247). -/
def Tile.fpReg (k : Tile) (r : Nat) : Val := f32.decode ((k.greg r).toNat % 2 ^ 32)

/-- A general register written. -/
def Work.setG (w : Work) (tile r : Nat) (v : W64) : Work := w.updTile tile fun k => k.setG r v

/-- The quotient and remainder of two general registers, read as signed and truncated (log 34); by zero, all ones and the
dividend (R247). -/
def divRem (a b : W64) : W64 × W64 := if b = 0 then (BitVec.allOnes 64, a) else (a.sdiv b, a.srem b)

/-- Whether a branch is taken. -/
def branchTaken (op : BrOp) (a b : W64) : Bool :=
  match op with
  | .always => true
  | .eq => a == b
  | .ne => a != b
  | .lt => a.slt b
  | .ge => !a.slt b
  | .ltu => a.ult b
  | .geu => !a.ult b

/-- A ring set by the tile core, its counts from 0 (R216); values outside R216 are no instruction of the tile core (log 35). -/
def Work.setRing (w : Work) (t : TileRef) (n base slot slots : Nat) : Issued :=
  let k := w.tile t.tile
  let b := (k.greg base).toNat
  let z := (k.greg slot).toNat
  let m := (k.greg slots).toNat
  if 4 ≤ n ∨ b % 64 ≠ 0 ∨ z % 64 ≠ 0 ∨ z < 64 ∨ 4096 < z ∨ m = 0 ∨ 65536 < m then .halt 0 0x01 0
  else
    match storeFault b (z * m) with
    | some a => .halt 0 0x02 a
    | none => .done (w.updTile t.tile fun k => k.updRing n fun _ => { base := b, slotSize := z, slots := m, produced := 0, consumed := 0 })

/-- A scalar instruction (R41, R216, R241, R247, R254). -/
def Work.scalar (w : Work) (t : TileRef) (op : ScalarOp) : Issued :=
  let k := w.tile t.tile
  match op with
  | .imm rd v => .done (w.setG t.tile rd v)
  | .int op rd ra rb =>
    let (n, w) := w.draw
    .done (w.setG t.tile rd (BitVec.ofNat 64 (intOpFree op 64 (k.greg ra).toNat (k.greg rb).toNat n 0)))
  | .div rd ra rb => .done (w.setG t.tile rd (divRem (k.greg ra) (k.greg rb)).1)
  | .rem rd ra rb => .done (w.setG t.tile rd (divRem (k.greg ra) (k.greg rb)).2)
  | .fp op rd ra rb rc => .done (w.setG t.tile rd ((toF32 (fpOp op (k.fpReg ra) (k.fpReg rb) (k.fpReg rc))).zeroExtend 64))
  | .trans op rd ra => .done (w.setG t.tile rd ((toF32 (transOp op (k.fpReg ra))).zeroExtend 64))
  | .branch op ra rb target => if branchTaken op (k.greg ra) (k.greg rb) then .jump w target else .done w
  | .call rd target => .go (w.setG t.tile rd (BitVec.ofNat 64 t.next)) target
  | .ret ra => .go w (k.greg ra).toNat
  | .readTick rd => .done (w.setG t.tile rd w.d.pitch.tickCount)
  | .readCycle rd => .done (w.setG t.tile rd (w.d.pitch.cycle.zeroExtend 64))
  | .readSat rd => .done (w.updTile t.tile fun k => { k.setG rd (if k.satFlag then 1 else 0) with satFlag := false })
  | .ring n base slot slots => w.setRing t n base slot slots
  | .illegal => .halt 0 0x01 0

/-! ### Data memory -/

/-- The data-memory bytes that an unfinished tile DMA writes: its rows from the first to the last (R248). -/
def dmaDataRange (p : DmaParams) : Option (Nat × Nat) :=
  match p.dst with
  | .dataMem o => some (o, (p.count - 1) * p.dstStride + p.length)
  | _ => none

/-- Whether an unfinished tile DMA writes a range of data memory. -/
def Tile.dmaWrites (k : Tile) (a n : Nat) : Bool :=
  k.dma.any fun d =>
    match dmaDataRange d.params with
    | some r => meets r (a, n)
    | none => false

/-- A data memory access (R248). -/
def Work.dataMem (w : Work) (t : TileRef) (p : DmemParams) : Issued :=
  let k := w.tile t.tile
  if !(p.size == 1 || p.size == 2 || p.size == 4 || p.size == 8) then .halt 0 0x01 0
  else if p.addr % p.size ≠ 0 ∨ 131072 < p.addr + p.size then .halt 0 0x03 p.addr
  else if p.store then .done (w.wrLe (dmemKey t.tile p.addr) p.size (k.greg p.reg).toNat)
  else if k.dmaWrites p.addr p.size then .wait Ctr.stallScoreboard 0
  else
    let v := w.le (dmemKey t.tile p.addr) p.size
    .done (w.setG t.tile p.reg (BitVec.ofNat 64 (if p.signed then ofSigned 64 (toSigned (8 * p.size) v) else v)))

/-! ### Loops -/

/-- The count of a LOOP (R253); an immediate beyond 65,535 is no encoding. -/
def Tile.loopCount (k : Tile) (n : LoopCount) : Option Nat :=
  match n with
  | .reg g => some ((k.greg g).toNat % 2 ^ 32)
  | .imm n => if n ≤ 65535 then some n else none

/-- LOOP (R253 to R255). -/
def Work.loopInstr (w : Work) (t : TileRef) (n : LoopCount) (last after : Nat) : Issued :=
  let k := w.tile t.tile
  match k.loopCount n with
  | none => .halt 0 0x01 0
  | some c =>
    if last ≤ t.pc ∨ k.imageLen ≤ last then .halt 0 0x07 0
    else if c = 0 then
      let (ls, a) := loopEnd last after k.loops
      .go (w.updTile t.tile fun k => { k with loops := ls }) a
    else if 4 ≤ k.loops.length then .halt 0 0x04 0
    else
      .go (w.updTile t.tile fun k => { k with loops := { first := t.next, last := last, remaining := c, iteration := 0 } :: k.loops })
        t.next

/-! ### The commands -/

/-- SCALAR_INSTRUCTION. -/
def execScalarInstruction (t : TileRef) (op : ScalarOp) (s : State) : Host.Outcome State Fault Refusal :=
  .next (s.exec fun w => w.issue t fun _ w => w.scalar t op)

/-- DATA_MEMORY_ACCESS. -/
def execDataMemoryAccess (t : TileRef) (p : DmemParams) (s : State) : Host.Outcome State Fault Refusal :=
  .next (s.exec fun w => w.issue t fun _ w => w.dataMem t p)

/-- LOOP. -/
def execLoop (t : TileRef) (count : LoopCount) (last after : Nat) (s : State) : Host.Outcome State Fault Refusal :=
  .next (s.exec fun w => w.issue t fun _ w => w.loopInstr t count last after)

/-- LOOP_INDEX: the iteration of a level, 0 for one that is not active (R253). -/
def execLoopIndex (t : TileRef) (g level : Nat) (s : State) : Host.Outcome State Fault Refusal :=
  .next (s.exec fun w => w.issue t fun _ w =>
    let i := match (w.tile t.tile).loops[level]? with | some l => l.iteration | none => 0
    .done (w.setG t.tile g (BitVec.ofNat 64 i)))

/-- PITCH_END: the tile is done once all it has issued has completed; before that the core waits (R251). -/
def execPitchEnd (t : TileRef) (s : State) : Host.Outcome State Fault Refusal :=
  .next (s.exec fun w =>
    match w.executing t with
    | none => w
    | some c =>
      if !(w.ctx c).urgent && decide (t.pc < (w.tile t.tile).imageLen) && !(w.tile t.tile).drained then w
      else
        (w.issue t fun c w =>
          if (w.ctx c).urgent then .halt 0 0x01 0
          else .done (w.updTile t.tile fun k => { k with run := .pitchDone, doneCycle := w.d.pitch.cycle.toNat })).tryReport)

/-- STOP: the core stops (R250, R251). -/
def execStop (t : TileRef) (s : State) : Host.Outcome State Fault Refusal :=
  .next (s.exec fun w => (w.issue t fun _ w => .done (w.updTile t.tile fun k => { k with run := .stopped })).tryReport)

/-- TRAP: its 16-bit operand goes to the detail word (R257, R258). -/
def execTrap (t : TileRef) (operand : Nat) (s : State) : Host.Outcome State Fault Refusal :=
  .next (s.exec fun w => w.issue t fun _ _ => .halt 0 0x05 (operand % 65536))

end Sys2Proof.Machine
end

