-- ==== Sys2Proof/Machine/TileDma.lean ====
section
/-!
DEFINITION. The tile DMA (R252): its checks, its requests of up to 512 bytes under 512 tags, rings (R216), and overlapping
rows.
-/

namespace Sys2Proof.Machine

/-! ### Checks -/

/-- Whether lengths, counts and strides are outside R252. -/
def dmaBad (p : DmaParams) : Bool :=
  p.length == 0 || decide (2 ^ 32 < p.length) || p.count == 0 || decide (65536 < p.count)
    || decide (2 ^ 40 ≤ p.srcStride) || decide (2 ^ 40 ≤ p.dstStride)

/-- The rings of a transfer: its source's and its destination's. -/
def dmaRings (p : DmaParams) : List Nat :=
  (match p.src with | .ring n => [n] | _ => []) ++ (match p.dst with | .ring n => [n] | _ => [])

/-- Whether an instruction declares ring `n` with the access of its side: a producer writes it, a consumer reads it (R252,
R395). -/
def ownsRing (regions : List Region) (uses : List Access) (n : Nat) (write : Bool) : Bool :=
  uses.any fun u => u.write == write && regionRing ((regions[u.slot]?).getD Region.none) == some n

/-- Whether a side is a ring that the instruction does not own, or whose slots are too short for a row (R252). -/
def Tile.ringBad (k : Tile) (p : DmaParams) (s : DmaSide) (write : Bool) : Bool :=
  match s with
  | .ring n => decide (4 ≤ n) || !ownsRing k.regions p.uses n write || decide ((k.ring n).slotSize < p.length)
  | _ => false

/-- The first row of a side outside the declared regions, by its address. -/
def rowOutside (rs : List Resolved) (p : DmaParams) (base stride : Nat) (write : Bool) : Option Nat :=
  ((List.range p.count).map fun r => base + r * stride).find? fun a => !covered rs a p.length write

/-- Where a side begins, and whether it is on a peer (R252, R349): the first of the readings of an address whose declared
regions cover every row; else the halt. -/
def Work.dmaSide (w : Work) (c tile : Nat) (rs : List Resolved) (p : DmaParams) (s : DmaSide) (stride : Nat) (write : Bool) :
    Except (Nat × Nat) (Nat × Bool) :=
  match s with
  | .tileStore o =>
    match storeFault o ((p.count - 1) * stride + p.length), rowOutside rs p (tileStoreAddr tile o) stride write with
    | some a, _ => .error (0x02, a)
    | none, some a => .error (0x02, a)
    | none, none => .ok (tileStoreAddr tile o, false)
  | .dataMem o =>
    match rowOutside rs p (dmemKey tile o) stride write with
    | some _ => .error (0x02, o)
    | none => .ok (dmemKey tile o, false)
  | .ring n =>
    let q := (w.tile tile).ring n
    (match storeFault q.base (q.slots * q.slotSize) with
      | some a => .error (0x02, a)
      | none => .ok (0, false))
  | .addr a =>
    if a < localEnd ∧ rowOutside rs p a stride write = none then .ok (localKey c a, false)
    else if a / localEnd = w.d.deviceNumber ∧ rowOutside rs p (a % localEnd) stride write = none then .ok (localKey c (a % localEnd), false)
    else if !write ∧ rowOutside rs p (globalKey a) stride write = none then .ok (a, true)
    else .error (0x02, (rowOutside rs p a stride write).getD a)

/-- The first failure of reading a local source: no capacity tags, an uncorrectable block, or a checksum (R371, R487, R493). -/
def Work.dmaSourceFault (w : Work) (c : Nat) (p : DmaParams) (key : Nat) : Except (Nat × Nat) Nat :=
  if (decide (w.fz.space key = .cap 0) || decide (w.fz.space key = .cap 1)) && ((w.d.active.quotas[c]?).getD Quota.zero).capTags == 0 then
    .error (0x43, 4)
  else if p.length < 4096 then .ok 0
  else
    (List.range p.count).foldl
      (fun acc r =>
        match acc with
        | .error e => .error e
        | .ok n =>
          match w.verifyRange (key + r * p.srcStride) p.length with
          | .ok k => .ok (n + k)
          | .error b => .error (0x42, b)) (.ok 0)

/-! ### Requests -/

/-- Requests of one row. -/
def DmaOp.perRow (o : DmaOp) : Nat := ceilDiv o.params.length 512

/-- Requests of a transfer. -/
def DmaOp.total (o : DmaOp) : Nat := o.perRow * o.params.count

/-- How many requests rings let a transfer issue: a row takes one slot (R216). -/
def Tile.dmaLimit (k : Tile) (o : DmaOp) : Nat :=
  let src := match o.params.src with | .ring n => (k.ring n).filled | _ => o.params.count
  let dst := match o.params.dst with | .ring n => (k.ring n).room | _ => o.params.count
  min o.total ((o.completed / o.perRow + min src dst) * o.perRow)

/-- Requests issued in order while tags are free; a ring serves one transfer at a time (R216, R252). -/
def Tile.issueRequests (k : Tile) : Nat → List Nat → List DmaOp → List DmaOp
  | _, _, [] => []
  | free, seen, o :: os =>
    let lim := if (dmaRings o.params).any seen.contains then o.issued else k.dmaLimit o
    let n := min free (lim - o.issued)
    { o with issued := o.issued + n } :: k.issueRequests (free - n) (seen ++ dmaRings o.params) os

/-- Tags held (R252). -/
def Tile.dmaTags (k : Tile) : Nat := (k.dma.map fun o => o.issued - o.completed).sum

/-- The tile's transfers carried on. -/
def Work.pumpDma (w : Work) (tile : Nat) : Work :=
  w.updTile tile fun k => { k with dma := k.issueRequests (512 - k.dmaTags) [] k.dma }

/-- The wait of a transfer that has requests still to issue, counted (R216, R252). -/
def Work.dmaWait (w : Work) (c tile : Nat) : Work :=
  let k := w.tile tile
  match k.dma.getLast? with
  | none => w
  | some o =>
    if o.total ≤ o.issued then w
    else if 512 ≤ k.dmaTags then w.stall c Ctr.stallTags 4
    else
      match o.params.src with
      | .ring _ => w.stall c Ctr.stallDataLateLocal 4
      | _ => w.stall c Ctr.stallQueueFull 4

/-- The bytes of a request: row `r`, from byte `b`, `n` of them. -/
def Work.dmaRead (w : Work) (tile : Nat) (o : DmaOp) (r b n : Nat) : List Byte :=
  match o.params.src with
  | .ring q => let q := (w.tile tile).ring q; w.rdN (tileStoreAddr tile (q.slotOff q.consumed + b)) n
  | _ =>
    if o.peer then
      match o.params.peerData with
      | .data bs => padTo n ((bs.drop (r * o.params.length + b)).take n)
      | .denied _ => []
    else w.rdN (o.src + r * o.params.srcStride + b) n

/-- The bytes of a request stored. A byte that an earlier row also writes keeps or takes its value by a free choice (R252). -/
def Work.dmaStore (w : Work) (tile : Nat) (o : DmaOp) (r b : Nat) (bs : List Byte) : Work :=
  match o.params.dst with
  | .ring q => let q := (w.tile tile).ring q; w.wr (tileStoreAddr tile (q.slotOff q.produced + b)) bs
  | _ =>
    let key := o.dst + r * o.params.dstStride + b
    if r = 0 ∨ o.params.length ≤ o.params.dstStride then w.wr key bs
    else
      (bs.mapIdx fun i x => (i, x)).foldl
        (fun w e =>
          let again := decide (b + e.1 + o.params.dstStride < o.params.length)
          if again && (Config.freeByte o.draw (r * 2 ^ 33 + b + e.1)).getLsbD 0 then w else w.wr (key + e.1) [e.2]) w

/-- A row that is complete: its ring slots, and a peer's answer taken (R216, R463). -/
def Work.rowDone (w : Work) (c tile : Nat) (o : DmaOp) : Work :=
  let w := if o.peer then w.answered c else w
  let w := w.updTile tile fun k =>
    let k := match o.params.src with | .ring n => k.consume n 1 | _ => k
    match o.params.dst with | .ring n => k.produce n 1 | _ => k
  if dmaRings o.params = [] then w else w.pumpTile tile

/-- The oldest outstanding request of a transfer completed: its bytes move, its tag is free (R252). -/
def Work.finishRequestOf (w : Work) (c tile i : Nat) (o : DmaOp) : Work :=
  let r := o.completed / o.perRow
  let b := o.completed % o.perRow * 512
  let n := min 512 (o.params.length - b)
  let poison := match o.params.src with
    | .ring q => let q := (w.tile tile).ring q; w.poisonIn (tileStoreAddr tile (q.slotOff q.consumed + b)) n
    | _ => if o.peer then none else w.poisonIn (o.src + r * o.params.srcStride + b) n
  match poison with
  | some p => w.poisonHalt c (tileRec o.ref 4 (w.tile tile).loops.length 0x41 p) p
  | none =>
    let w := w.dmaStore tile o r b (w.dmaRead tile o r b n)
    let w := w.count Ctr.tileDmaBytes n
    let w := if decide (w.fz.space o.src = .cap 0) || decide (w.fz.space o.src = .cap 1) then w.count Ctr.capacityBytesRead n else w
    let o := { o with completed := o.completed + 1 }
    let w := w.updTile tile fun k => { k with dma := updAt k.dma i fun _ => o }
    let w := if o.completed % o.perRow = 0 then w.rowDone c tile o else w
    let w := w.updTile tile fun k => { k with dma := k.dma.filter fun o => decide (o.completed < o.total) }
    (w.pumpDma tile).tryReport

/-- A tile DMA instruction taken up: its checks in turn, then its first requests (R252). -/
def Work.startDma (w : Work) (c : Nat) (t : TileRef) (p : DmaParams) : Issued :=
  let k := w.tile t.tile
  if dmaBad p || k.ringBad p p.src false || k.ringBad p p.dst true then .halt 4 0x08 0
  else
    match w.resolveAll c (some t.tile) k.regions p.uses with
    | .error (r, d) => .halt 4 r d
    | .ok rs =>
      match w.dmaSide c t.tile rs p p.src p.srcStride false, w.dmaSide c t.tile rs p p.dst p.dstStride true with
      | .error (r, d), _ => .halt 4 r d
      | _, .error (r, d) => .halt 4 r d
      | .ok (src, peer), .ok (dst, _) =>
        let range := fun (s : DmaSide) (stride : Nat) =>
          match s with | .tileStore o => [(o, (p.count - 1) * stride + p.length)] | _ => []
        if w.heldByArray t.tile { Foot.none with store := range p.src p.srcStride ++ range p.dst p.dstStride } then
          .wait Ctr.stallScoreboard 0
        else
          match (if peer then none else some (w.dmaSourceFault c p src)), (match peer, p.peerData with | true, .denied a => some a | _, _ => none) with
          | some (.error (r, d)), _ => .halt 4 r d
          | _, some a => .halt 4 0x48 a
          | verified, none =>
            let w := match verified with | some (.ok n) => w.count Ctr.tensorBlocksVerified n | _ => w
            let w :=
              if peer then
                (List.range p.count).foldl
                  (fun w r =>
                    let a := src + r * p.srcStride
                    w.sendRouted c 1 (src / localEnd) (w.ctx c).jobTag true (.read (a % localEnd) p.length t.tile)) w
              else w
            let (n, w) := w.draw
            let o : DmaOp :=
              { ref := t, params := p, src := if peer then 2 ^ 100 else src, dst := dst, peer := peer, issued := 0, completed := 0, draw := n }
            .done (((w.updTile t.tile fun k => { k with dma := k.dma ++ [o] }).pumpDma t.tile).dmaWait c t.tile)

/-! ### The commands -/

/-- TILE_DMA. -/
def execTileDma (t : TileRef) (p : DmaParams) (s : State) : Host.Outcome State Fault Refusal :=
  .next (s.exec fun w => w.issue t fun c w => w.startDma c t p)

/-- TILE_DMA_COMPLETE: the oldest outstanding request of the tile completes; requests that now can are issued. -/
def execTileDmaComplete (tile : Nat) (s : State) : Host.Outcome State Fault Refusal :=
  .next (s.exec fun w =>
    let w := w.pumpDma tile
    match w.owner tile, ((w.tile tile).dma.mapIdx fun i o => (i, o)).find? fun e => decide (e.2.completed < e.2.issued) with
    | some c, some (i, o) => w.finishRequestOf c tile i o
    | _, _ => w)

end Sys2Proof.Machine
end

