-- ==== Sys2Proof/Machine/Geometry.lean ====
section
/-!
DEFINITION. The geometry unit (R260 to R279): binning, staging and emitting radius graphs, harmonics, radial bases and
coupling, with their backward forms. Each instruction is whole in its command: no row of the table ends one, so its queue
of 4 never fills (log 36).
-/

namespace Sys2Proof.Machine

/-! ### Exact geometry -/

/-- The floor of a finite value. -/
def Val.floor : Val → Int
  | .fin n m e _ =>
    let i : Int := if n then -(m : Int) else m
    if 0 ≤ e then i * 2 ^ e.toNat else i / (2 ^ (-e).toNat : Nat)
  | _ => 0

/-- The ceiling of a finite value of either sign; `tiny` lies beyond the digits. -/
def Val.ceil : Val → Int
  | .fin n m e t => let v := Val.fin n m e t; if v.floor = -(v.neg.floor) ∧ !t then v.floor else v.floor + 1
  | _ => 0

/-- 1 / sqrt of a positive value, to 96 bits and a mark for what remains. -/
def Val.rsqrt : Val → Val
  | .fin _ m e _ =>
    let m := if e % 2 = 0 then m else 2 * m
    let e := if e % 2 = 0 then e else e - 1
    let k := 96 + Nat.log2 m
    let r := isqrt (2 ^ (2 * k) / m)
    .fin false r (-(k : Int) - e / 2) (r * r * m != 2 ^ (2 * k))
  | _ => .nan

/-- A value rounded once to FP32. -/
def Val.round32 (v : Val) : Val := ofF32 (toF32 v)

/-- A value rounded up to FP32 (R265). -/
def Val.up32 (v : Val) : Nat :=
  let s := (f32.encode .rtz v).code
  if (f32.decode s).lt v then s + 1 else s

/-- Whether a value is finite. -/
def Val.isFinite (v : Val) : Bool := !v.isNan && !v.isInf

/-- The exact sum of products. -/
def dot (a b : List Val) : Val := sumVals (List.zipWith Val.mul a b)

/-- The FP32 at a key. -/
def Work.f32At (w : Work) (k : Nat) : Val := f32.decode (w.le k 4)

/-- Three FP32 values from a key. -/
def Work.vec3 (w : Work) (k : Nat) : List Val := [w.f32At k, w.f32At (k + 4), w.f32At (k + 8)]

/-- A cell as its descriptor gives it, with plane spacings and bin counts (R262, R263). -/
structure Cell where
  periodic : List Bool
  images : Nat
  rc : Val
  h : List (List Val)
  g : List (List Val)
  spacing : List Val
  bins : List Nat
  reach : List Nat
  deriving DecidableEq, Repr

/-- Element `a` of a list of three. -/
def at3 {α : Type} (z : α) (l : List α) (a : Nat) : α := (l[a]?).getD z

/-- The cell of a descriptor, or the halt of R262 to R264. -/
def Work.cell (w : Work) (k : Nat) : Except Nat Cell :=
  let rc := w.f32At (k + 8)
  let h := (List.range 3).map fun a => w.vec3 (k + 16 + 12 * a)
  let g := (List.range 3).map fun a => w.vec3 (k + 52 + 12 * a)
  let images := w.le (k + 7) 1
  let periodic := (List.range 3).map fun a => bitOf (w.le (k + 6) 1) a
  let bad := (List.range 3).any fun a => (List.range 3).any fun b =>
    let x := ((dot (at3 [] g a) (at3 [] h b)).sub (Val.ofInt (if a = b then 1 else 0) 0)).abs
    !x.isFinite || (Val.fin false 1 (-16) false).lt x
  if w.le k 4 ≠ 0x4C4C4543 ∨ w.le (k + 4) 2 ≠ 1 ∨ 1 < images ∨ k % 64 ≠ 0 then .error 0x10
  else if bad ∨ !rc.isFinite ∨ !Val.zero.lt rc then .error 0x11
  else
    let d := (List.range 3).map fun a => (dot (at3 [] g a) (at3 [] g a)).rsqrt.round32
    let nb := d.map fun x => (max 1 (min 1024 (x.div rc).floor)).toNat
    let m := List.zipWith (fun (x : Val) (n : Nat) => ((rc.mul (Val.ofInt n 0)).div x).ceil.toNat) d nb
    let near := images = 0 ∧ (List.range 3).any fun a => at3 false periodic a && !rc.lt ((at3 .nan d a).scale (-1))
    if near ∨ m.any (fun x => decide (8 < x)) then .error 0x11
    else .ok { periodic := periodic, images := images, rc := rc, h := h, g := g, spacing := d, bins := nb, reach := m }

/-- The bins of a cell. -/
def Cell.total (c : Cell) : Nat := c.bins.foldl (· * ·) 1

/-- A bin's number, a-major (R263). -/
def Cell.binNo (c : Cell) (b : List Nat) : Nat := (at3 0 b 0 * at3 1 c.bins 1 + at3 0 b 1) * at3 1 c.bins 2 + at3 0 b 2

/-- A bin's three indices. -/
def Cell.binAt (c : Cell) (n : Nat) : List Nat :=
  [n / (at3 1 c.bins 1 * at3 1 c.bins 2), n / at3 1 c.bins 2 % at3 1 c.bins 1, n % at3 1 c.bins 2]

/-- Lattice vectors summed with integer factors, exactly: one component. -/
def Cell.shiftBy (c : Cell) (t : List Int) (x : Nat) : Val :=
  sumVals ((List.range 3).map fun a => (Val.ofInt (at3 0 t a) 0).mul (at3 .nan (at3 [] c.h a) x))

/-- A binned atom. -/
structure Atom where
  idx : Nat
  home : Bool
  bin : Nat
  pos : List Val
  deriving DecidableEq, Repr

/-- An atom wrapped and binned, or dropped (R263). A fraction whose rounding overflows drops it too (log 37). -/
def Work.binAtom (w : Work) (c : Cell) (atoms i : Nat) : Option Atom :=
  let k := atoms + 16 * i
  let r := w.vec3 k
  let s := (List.range 3).map fun a => (dot (at3 [] c.g a) r).round32
  let n := (List.range 3).map fun a => if at3 false c.periodic a then (at3 .nan s a).floor else 0
  let out := (List.range 3).any fun a =>
    !at3 false c.periodic a && ((at3 .nan s a).lt Val.zero || !(at3 .nan s a).lt (Val.ofInt 1 0))
  if r.any (fun x => !x.isFinite) ∨ s.any (fun x => !x.isFinite) ∨ out then none
  else
    let b := (List.range 3).map fun a =>
      let nb := at3 1 c.bins a
      min (((at3 .nan s a).sub (Val.ofInt (at3 0 n a) 0)).mul (Val.ofInt nb 0)).floor.toNat (nb - 1)
    some
      { idx := i, home := bitOf (w.le (k + 12) 4) 0, bin := c.binNo b
        pos := (List.range 3).map fun x => ((at3 .nan r x).sub (c.shiftBy n x)).round32 }

/-- An element put into a sorted list, after those of its key. -/
def insertBy {α : Type} (lt : α → α → Bool) (x : α) : List α → List α
  | [] => [x]
  | y :: ys => if lt x y then x :: y :: ys else y :: insertBy lt x ys

/-- A stable sort. -/
def sortBy {α : Type} (lt : α → α → Bool) (l : List α) : List α := l.foldl (fun acc x => insertBy lt x acc) []

/-- The bytes of an FP32 value. -/
def bytes32 (v : Val) : List Byte := leBytes 4 (toF32 v).toNat

/-- The entry of the binned list that the model keeps: position, index and home bit, bin (log 36). -/
def atomEntry (a : Atom) : List Byte :=
  (a.pos.map bytes32).flatten ++ leBytes 4 (2 * a.idx + if a.home then 1 else 0) ++ leBytes 4 a.bin ++ leBytes 12 0

/-- An entry of the binned list. -/
def Work.readAtom (w : Work) (list i : Nat) : Atom :=
  let k := list + 32 * i
  { idx := w.le (k + 12) 4 / 2, home := bitOf (w.le (k + 12) 4) 0, bin := w.le (k + 16) 4, pos := w.vec3 k }

/-- The first fault among tile-store ranges: beyond the store, or an uncorrectable block where it is read. -/
def Work.storeRanges (w : Work) (tile : Nat) (rs : List (Nat × Nat × Bool)) : Option (Nat × Nat) :=
  rs.findSome? fun r =>
    match storeFault r.1 r.2.1 with
    | some a => some (0x02, a)
    | none => if r.2.2 then (w.poisonIn (tileStoreAddr tile r.1) r.2.1).map fun p => (0x41, p) else none

/-- A geometry instruction on tile-store ranges: their faults, the wait for array work (R225), then its effect. -/
def Work.geoInstr (w : Work) (tile : Nat) (rs : List (Nat × Nat × Bool)) (regs : List (Nat × Nat)) (f : Work → Issued) : Issued :=
  match w.storeRanges tile rs with
  | some (r, a) => .halt 3 r a
  | none =>
    if w.heldByArray tile { Foot.none with regs := regs, store := rs.map fun r => (r.1, r.2.1) } then .wait Ctr.stallScoreboard 0
    else f w

/-- GBIN (R263). -/
def Work.gbin (w : Work) (t : TileRef) (p : GbinParams) : Issued :=
  let key := tileStoreAddr t.tile
  if 2 ^ 24 < p.count then .halt 3 0x10 0
  else
    w.geoInstr t.tile [(p.cell, 128, true), (p.atoms, 16 * p.count, true)] [] fun w =>
      match w.cell (key p.cell) with
      | .error r => .halt 3 r 0
      | .ok c =>
        let atoms := (List.range p.count).filterMap fun i => w.binAtom c (key p.atoms) i
        let sorted := sortBy (fun a b => decide (a.bin < b.bin)) atoms
        w.geoInstr t.tile [(p.list, 32 * atoms.length, false), (p.starts, 4 * (c.total + 1), false)] [] fun w =>
          let w := w.wr (key p.list) (sorted.map atomEntry).flatten
          let w := w.wr (key p.starts)
            ((List.range (c.total + 1)).map fun b => leBytes 4 (atoms.filter fun a => decide (a.bin < b)).length).flatten
          .done ((w.count Ctr.geomAtomsDropped (p.count - atoms.length)).count Ctr.geomBusyCycles (ceilDiv p.count 16))

/-! ### Staging -/

/-- The (index, shift) pairs of one axis around a bin (R264). -/
def Cell.around (c : Cell) (a b : Nat) : List (Nat × Int) :=
  let m := at3 0 c.reach a
  let nb := at3 1 c.bins a
  (List.range (2 * m + 1)).filterMap fun (k : Nat) =>
    let x : Int := (b : Int) + k - m
    if at3 false c.periodic a then some ((x % nb).toNat, x / nb)
    else if 0 ≤ x ∧ x < nb then some (x.toNat, 0) else none

/-- The neighbourhood of a bin (R264). -/
def Cell.neighbours (c : Cell) (bin : Nat) : List (Nat × List Int) :=
  let b := c.binAt bin
  (c.around 0 (at3 0 b 0)).flatMap fun x => (c.around 1 (at3 0 b 1)).flatMap fun y => (c.around 2 (at3 0 b 2)).map fun z =>
    (c.binNo [x.1, y.1, z.1], [x.2, y.2, z.2])

/-- Lists of integers in order. -/
def lexLt : List Int → List Int → Bool
  | [], [] => false
  | [], _ => true
  | _, [] => false
  | a :: as, b :: bs => decide (a < b) || (a == b && lexLt as bs)

/-- A group and its candidates, as GSTAGE forms them (R265). -/
structure Stage where
  cell : Cell
  group : List Atom
  cands : List (Atom × List Int)
  list : List Atom
  deriving DecidableEq, Repr

/-- The group and candidates of a GSTAGE (R264, R265), or its halt. -/
def Work.stage (w : Work) (tile : Nat) (p : GstageParams) : Except (Nat × Nat) Stage :=
  let key := tileStoreAddr tile
  match w.storeRanges tile [(p.bin.cell, 128, true)] with
  | some e => .error e
  | none =>
    match w.cell (key p.bin.cell) with
    | .error r => .error (r, 0)
    | .ok c =>
      match w.storeRanges tile [(p.bin.starts, 4 * (c.total + 1), true)] with
      | some e => .error e
      | none =>
        let start := fun (b : Nat) => w.le (key p.bin.starts + 4 * b) 4
        (match w.storeRanges tile [(p.bin.list, 32 * start c.total, true)] with
          | some e => .error e
          | none =>
            let list := (List.range (start c.total)).map fun i => w.readAtom (key p.bin.list) i
            let group := ((list.drop p.first).filter fun a => a.home).take p.size
            if p.size = 0 ∨ 64 < p.size ∨ group.length < p.size ∨ 32 ≤ p.opReg ∨ 32 ≤ p.thetaReg then .error (0x10, 0)
            else
              let cells := ((group.map fun a => a.bin).eraseDups.flatMap fun b => c.neighbours b).eraseDups
              let cells := sortBy (fun a b => decide (a.1 < b.1) || (a.1 == b.1 && lexLt a.2 b.2)) cells
              let cands := cells.flatMap fun x => ((list.take (start (x.1 + 1))).drop (start x.1)).map fun a => (a, x.2)
              if 2 ^ 24 < cands.length then .error (0x10, 0) else .ok { cell := c, group := group, cands := cands, list := list })

/-- A staged coordinate: position plus shift less the origin, exactly, rounded once to BF16 (R265). -/
def Stage.coord (s : Stage) (a : Atom) (t : List Int) (x : Nat) : Nat :=
  let o := match s.group with | g :: _ => at3 .nan g.pos x | [] => .nan
  (bf16.encode .rne (((at3 .nan a.pos x).add (s.cell.shiftBy t x)).sub o)).code

/-- A power of two at or above a magnitude (R265). -/
def Val.upPow2 (v : Val) : Val :=
  match v with
  | .fin _ m e _ => if m = 0 then Val.zero else if 2 ^ Nat.log2 m = m then v.abs else .fin false 1 (Nat.log2 m + 1 + e) false
  | v => v.abs

/-- GSTAGE (R265). -/
def Work.gstage (w : Work) (t : TileRef) (p : GstageParams) : Issued :=
  let key := tileStoreAddr t.tile
  match w.stage t.tile p with
  | .error (r, d) => .halt 3 r d
  | .ok s =>
    let n := s.cands.length
    w.geoInstr t.tile [(p.rows, 16 * n, false), (p.cands, 8 * n, false)] [(p.opReg, 1)] fun w =>
      let group := s.group.map fun a => (List.range 3).map fun x => s.coord a [0, 0, 0] x
      let rows := s.cands.map fun a => (List.range 3).map fun x => s.coord a.1 a.2 x
      let w := (group.mapIdx fun i r => (i, r)).foldl
        (fun w e => (List.range 3).foldl (fun w k => w.putElem (vregAt t.tile p.opReg 0) 16 (64 * k + e.1) (at3 0 e.2 k)) w) w
      let w := (rows.mapIdx fun i r => (i, r)).foldl (fun w e => w.wr (key p.rows + 16 * e.1) (e.2.flatMap fun x => leBytes 2 x)) w
      let w := w.wr (key p.cands)
        (s.cands.flatMap fun a => leBytes 4 a.1.idx ++ (a.2.flatMap fun x => leBytes 1 (ofSigned 8 x)) ++ leBytes 1 0)
      let big := ((group ++ rows).flatten.map fun x => (bf16.decode x).abs).foldl Val.greatest Val.zero
      let r := s.cell.rc.add (big.upPow2.scale (-6))
      .done ((w.setG t.tile p.thetaReg (BitVec.ofNat 64 (r.mul r).up32)).count Ctr.geomBusyCycles (ceilDiv (p.size + n) 32))

/-! ### Emitting -/

/-- A kept edge: neighbour, shift, displacement and distance (R266). -/
structure Edge where
  nbr : Nat
  shift : List Int
  d : List Val
  r : Val
  deriving DecidableEq, Repr

/-- What the exact test makes of a set bit (R266): an edge, the self pair, or a rejected pair. -/
inductive Tested where
  | edge (e : Edge)
  | self
  | rejected
  deriving DecidableEq, Repr

/-- The exact test of a pair (R266). -/
def testPair (c : Cell) (i j : Atom) (t : List Int) : Tested :=
  let d := (List.range 3).map fun x => (((at3 .nan j.pos x).add (c.shiftBy t x)).sub (at3 .nan i.pos x)).round32
  let q := (dot d d).round32
  let lim := (c.rc.mul c.rc).round32
  if i.idx = j.idx ∧ t = [0, 0, 0] then .self
  else if q.isNan ∨ lim.lt q then .rejected
  else .edge { nbr := j.idx, shift := t, d := d, r := q.sqrt.round32 }

/-- The tested bits of one home atom, its edges in the order of R267. -/
def Work.segment (w : Work) (tile : Nat) (p : GemitParams) (s : Stage) (n : Nat) (i : Atom) : List Edge × Nat :=
  let key := tileStoreAddr tile
  let tests := (List.range p.candCount).filterMap fun r =>
    if bitOf (w.le (key p.bits + 8 * r) 8) n then
      let idx := w.le (key p.stage.cands + 8 * r) 4
      let t := (List.range 3).map fun x => w.les (key p.stage.cands + 8 * r + 4 + x) 1
      (s.list.find? fun a => a.idx == idx).map fun j => testPair s.cell i j t
    else none
  let edges := tests.filterMap fun x => match x with | .edge e => some e | _ => none
  (sortBy (fun a b => decide (a.nbr < b.nbr) || (a.nbr == b.nbr && lexLt a.shift b.shift)) edges,
    (tests.filter fun x => decide (x = .rejected)).length)

/-- The largest edge count of a block's capacity with `homes` segments (R268). -/
def edgeRoom (capacity homes : Nat) : Nat :=
  let rest := (capacity - 64 - roundUp (4 * (homes + 1)) 64) / 64
  16 * (rest / 7) + (if 4 ≤ rest % 7 then 4 * (rest % 7 - 3) else 0)

/-- Offsets of a block's arrays, in 64-byte units (R268). -/
structure BlockLay where
  seg : Nat
  centre : Nat
  nbr : Nat
  disp : Nat
  shift : Nat
  deriving DecidableEq, Repr

/-- The layout of a block that holds its largest edge count (R268; the segments are the home atoms of the list, log 38). -/
def blockLay (capacity homes : Nat) : BlockLay :=
  let e := edgeRoom capacity homes
  let a := 1 + ceilDiv (4 * (homes + 1)) 64
  let b := a + ceilDiv (4 * e) 64
  let c := b + ceilDiv (4 * e) 64
  { seg := 1, centre := a, nbr := b, disp := c, shift := c + ceilDiv (16 * e) 64 }

/-- A block's header (R268). -/
def blockHeader (images : Nat) (dropped : Bool) (atoms segs edges capacity : Nat) (l : BlockLay) : List Byte :=
  leBytes 4 0x48444152 ++ leBytes 2 1 ++ leBytes 1 images ++ leBytes 1 (if dropped then 1 else 0) ++ leBytes 4 atoms
    ++ leBytes 4 segs ++ leBytes 4 edges ++ leBytes 4 capacity ++ leBytes 4 l.seg ++ leBytes 4 l.centre ++ leBytes 4 l.nbr
    ++ leBytes 4 l.disp ++ leBytes 4 l.shift ++ leBytes 20 0

/-- The edges of a segment written behind edge `e0` (R268). -/
def Work.putEdges (w : Work) (c block : Nat) (l : BlockLay) (i e0 : Nat) (es : List Edge) : Work :=
  (es.mapIdx fun k e => (e0 + k, e)).foldl
    (fun w e =>
      let w := w.stN c (block + 64 * l.centre + 4 * e.1) (leBytes 4 i)
      let w := w.stN c (block + 64 * l.nbr + 4 * e.1) (leBytes 4 e.2.nbr)
      let w := w.stN c (block + 64 * l.disp + 16 * e.1) ((e.2.d.map bytes32).flatten ++ bytes32 e.2.r)
      w.stN c (block + 64 * l.shift + 4 * e.1) ((e.2.shift.flatMap fun x => leBytes 1 (ofSigned 8 x)) ++ leBytes 1 0)) w

/-- Segments appended to a block (R267). -/
def Work.putSegments (w : Work) (c block : Nat) (l : BlockLay) : List (Nat × List Edge) → Nat → Nat → Work
  | [], _, _ => w
  | s :: ss, seg, e0 =>
    let w := w.putEdges c block l s.1 e0 s.2
    (w.stN c (block + 64 * l.seg + 4 * (seg + 1)) (leBytes 4 (e0 + s.2.length))).putSegments c block l ss (seg + 1) (e0 + s.2.length)

/-- GEMIT (R266 to R268). A call whose block holds no header is its first (log 38). -/
def Work.gemit (w : Work) (c : Nat) (t : TileRef) (p : GemitParams) : Issued :=
  match w.stage t.tile p.stage, w.storeRanges t.tile [(p.stage.cands, 8 * p.candCount, true), (p.bits, 8 * p.candCount, true)] with
  | .error (r, d), _ => .halt 3 r d
  | _, some (r, a) => .halt 3 r a
  | .ok s, none =>
    let segs := s.group.mapIdx fun n i => (i.idx, w.segment t.tile p s n i)
    let key := localKey c p.block
    let first := w.le key 4 ≠ 0x48444152 ∨ w.le (key + 4) 2 ≠ 1
    let homes := (s.list.filter fun a => a.home).length
    let cap := if first then p.capacity else w.le (key + 20) 4
    let lay := blockLay cap homes
    let s0 := if first then 0 else w.le (key + 12) 4
    let e0 := if first then 0 else w.le (key + 16) 4
    let edges := (segs.map fun x => x.2.1.length).sum
    if p.capacity < 128 ∨ 2 ^ 32 - 64 < p.capacity then .halt 3 0x10 0
    else
      match w.accessFault c p.block cap true with
      | some (r, a) => .halt 3 r a
      | none =>
        if segs.any (fun x => decide (4096 < x.2.1.length)) then .halt 3 0x15 0
        else if edgeRoom cap homes < e0 + edges ∨ homes < s0 + segs.length then .halt 3 0x12 p.block
        else if 512 ≤ (w.tile t.tile).dmaTags then .wait Ctr.stallTags 4
        else if w.heldByArray t.tile { Foot.none with store := [(p.bits, 8 * p.candCount), (p.stage.cands, 8 * p.candCount)] } then
          .wait Ctr.stallScoreboard 0
        else
          let w1 := if first then w.stN c (p.block + 64 * lay.seg) (leBytes 4 0) else w
          let w1 := w1.stN c p.block
            (blockHeader s.cell.images (decide (s.list.length < p.stage.bin.count)) p.stage.bin.count (s0 + segs.length) (e0 + edges) cap lay)
          let w1 := w1.putSegments c p.block lay (segs.map fun x => (x.1, x.2.1)) s0 e0
          let rejected := (segs.map fun x => x.2.2).sum
          let bits := ((List.range p.candCount).map fun r =>
            (List.range p.stage.size).countP fun n => bitOf (w.le (tileStoreAddr t.tile p.bits + 8 * r) 8) n).sum
          .done (((w1.count Ctr.geomEdges edges).count Ctr.geomPairsRejected rejected).count Ctr.geomBusyCycles
            (max p.candCount (ceilDiv bits 4)))

/-! ### Rows of the other instructions -/

/-- An operand of rows: its place, the bytes of a row, how many, and whether it is written. -/
structure GeoRows where
  src : TileSrc
  len : Nat
  rows : Nat
  out : Bool
  deriving DecidableEq, Repr

/-- The fault of an operand (R270, R279). -/
def Work.geoFault (w : Work) (tile : Nat) (o : GeoRows) : Option (Nat × Nat) :=
  match o.src with
  | .regs v => if pastRegs v (ceilDiv (o.rows * o.len) vregSize) then some (0x10, v) else none
  | .store b st =>
    if o.out ∧ (st % 16 ≠ 0 ∨ st < o.len) then some (0x10, 0)
    else w.storeRanges tile [(b, (o.rows - 1) * st + o.len, !o.out)]
  | .ring n =>
    let q := (w.tile tile).ring n
    if 4 ≤ n ∨ q.slotSize < o.len then some (0x10, 0) else w.storeRanges tile [(q.base, q.slots * q.slotSize, !o.out)]

/-- The wait of an operand in a ring (R216). -/
def Tile.geoWait (k : Tile) (o : GeoRows) : Option Nat :=
  match o.src with
  | .ring n =>
    if o.out then (if (k.ring n).room < o.rows then some Ctr.stallQueueFull else none)
    else if (k.ring n).filled < o.rows then some Ctr.stallDataLateLocal else none
  | _ => none

/-- Where row `r` of an operand begins. -/
def Work.geoKey (w : Work) (tile : Nat) (o : GeoRows) (r : Nat) : Nat :=
  match o.src with
  | .regs v => vregAt tile v (r * o.len)
  | .store b st => tileStoreAddr tile (b + r * st)
  | .ring n =>
    let q := (w.tile tile).ring n
    tileStoreAddr tile (q.slotOff ((if o.out then q.produced else q.consumed) + BitVec.ofNat 32 r))

/-- The registers and ranges of operands. -/
def geoFoot (os : List GeoRows) : Foot := os.foldl (fun f o => f.join (srcFoot o.src o.rows o.len)) Foot.none

/-- The ring counts of operands moved on. -/
def Tile.geoDone (k : Tile) (os : List GeoRows) : Tile :=
  os.foldl (fun k o => match o.src with | .ring n => if o.out then k.produce n o.rows else k.consume n o.rows | _ => k) k

/-- An instruction over rows: faults, waits, its effect, and its rings moved on. -/
def Work.rowInstr (w : Work) (tile : Nat) (os : List GeoRows) (f : Work → Issued) : Issued :=
  match os.findSome? fun o => w.geoFault tile o with
  | some (r, d) => .halt 3 r d
  | none =>
    match os.findSome? fun o => (w.tile tile).geoWait o with
    | some cause => .wait cause 3
    | none =>
      if w.heldByArray tile (geoFoot os) then .wait Ctr.stallScoreboard 0
      else
        match f w with
        | .done v => .done ((v.updTile tile fun k => k.geoDone os).pumpTile tile)
        | r => r

/-- The form of a geometry output: FP32 or BF16 after R297, or the halt (R261). -/
def Work.geoForm (w : Work) (c : Nat) (bf : Bool) (tag : TensorTag) : Except (Nat × Nat) OutForm :=
  match w.outForm c (if bf then .bf16 else .fp32) tag with
  | none => .error (0x82, tag.layer.getD 0)
  | some f => if f.fmt = .fp32 ∨ f.fmt = .bf16 then .ok f else .error (0x10, 0)

/-- A row of FP32 values stored under a form at a key, counted. -/
def Work.putRow (w : Work) (key : Nat) (form : OutForm) (y : Tally) (vs : List Val) : Work × Tally :=
  (vs.mapIdx fun i v => (i, v)).foldl
    (fun (a : Work × Tally) e =>
      let (s, y) := a.2.store form .rne e.2
      (a.1.putElem key (fmtBits form.fmt) e.1 s.code, y)) (w, y)

/-- The census of a geometry output (R260, R290). -/
def Work.geoCensus (w : Work) (c : Nat) (form : OutForm) (tag : TensorTag) (y : Tally) : Issued :=
  match w.censusAdd c form.fmt tag form.ref y with
  | .error d => .halt 3 0x84 d
  | .ok w => .done w

/-- An instruction that writes one row per row it reads (R270, R272, R277). -/
def Work.rowMap1 (w : Work) (c tile : Nat) (form : OutForm) (tag : TensorTag) (ins : List GeoRows) (out : GeoRows) (busy : Nat)
    (f : Work → Nat → List Val) : Issued :=
  w.rowInstr tile (ins ++ [out]) fun w =>
    let (w1, y) := (List.range out.rows).foldl
      (fun (a : Work × Tally) r => a.1.putRow (w.geoKey tile out r) form a.2 (f w r)) (w, Tally.empty)
    (w1.count Ctr.geomBusyCycles busy).geoCensus c form tag y

/-- An FP32 operand of `n` elements a row. -/
def rows32 (s : TileSrc) (n rows : Nat) : GeoRows := { src := s, len := 4 * n, rows := rows, out := false }

/-- FP32 patterns of a row. -/
def Work.pats (w : Work) (tile : Nat) (o : GeoRows) (r n : Nat) : List W32 :=
  (List.range n).map fun i => BitVec.ofNat 32 (w.le (w.geoKey tile o r + 4 * i) 4)

/-- A row of FP32 or BF16 gradients as FP32 patterns, widened exactly. -/
def Work.gradPats (w : Work) (tile : Nat) (o : GeoRows) (r n : Nat) (bf : Bool) : List W32 :=
  (List.range n).map fun i =>
    if bf then BitVec.ofNat 32 (w.elemAt (w.geoKey tile o r) 16 i * 65536) else BitVec.ofNat 32 (w.elemAt (w.geoKey tile o r) 32 i)

/-! ### Harmonics -/

/-- Components of degrees 0 to L (R270). -/
def harmonics (l : Nat) : Nat := (l + 1) * (l + 1)

/-- Whether a displacement is zero. -/
def zeroVec (d : List W32) : Bool := d.all fun x => (ofF32 x).isZero

/-- One component of GSH (R270, R271). -/
def gshValue (ortho : Bool) (d : List W32) (k : Nat) : Val :=
  if d.any fun x => !(ofF32 x).isFinite then .nan
  else if zeroVec d && decide (0 < k) then Val.zero
  else if k = 0 ∧ !ortho then Val.ofInt 1 0
  else ofF32 (Config.sphHarm ortho (isqrt k) k (at3 0 d 0) (at3 0 d 1) (at3 0 d 2))

/-- Cycles of GSH (R278). -/
def gshCycles (l count : Nat) : Nat := ceilDiv count (if l ≤ 3 then 16 else 8)

/-- The bytes of an output element. -/
def formBytes (f : OutForm) : Nat := fmtBits f.fmt / 8

/-- GSH (R270). -/
def Work.gsh (w : Work) (c : Nat) (t : TileRef) (p : GshParams) : Issued :=
  match w.geoForm c p.bf16 p.tag with
  | .error (r, d) => .halt 3 r d
  | .ok form =>
    if 6 < p.degree then .halt 3 0x10 0
    else
      let disp := rows32 p.disp 3 p.count
      let zeros := (List.range p.count).countP fun r => zeroVec (w.pats t.tile disp r 3)
      match w.rowMap1 c t.tile form p.tag [disp] { src := p.out, len := formBytes form * harmonics p.degree, rows := p.count, out := true }
          (gshCycles p.degree p.count) fun w r => (List.range (harmonics p.degree)).map fun k => gshValue p.orthonormal (w.pats t.tile disp r 3) k with
      | .done w => .done (w.count Ctr.geomZeroVectors zeros)
      | r => r

/-- The gradient forms of GSH (R277): three FP32 per edge. `second` is GSH_BWD2, which also reads a vector per edge. -/
def Work.gshGrad (w : Work) (c : Nat) (t : TileRef) (p : GshParams) (second : Bool) : Issued :=
  match w.geoForm c false p.tag with
  | .error (r, d) => .halt 3 r d
  | .ok form =>
    if 6 < p.degree then .halt 3 0x10 0
    else
      let n := harmonics p.degree
      let disp := rows32 p.disp 3 p.count
      let grad : GeoRows := { src := p.gradIn, len := (if p.bf16 then 2 else 4) * n, rows := p.count, out := false }
      let vec := rows32 p.vec 3 p.count
      w.rowMap1 c t.tile form p.tag ([disp, grad] ++ if second then [vec] else [])
        { src := p.out, len := 3 * formBytes form, rows := p.count, out := true }
        (gshCycles p.degree p.count * if second then 4 else 2) fun w r =>
          let ins := w.pats t.tile disp r 3 ++ w.gradPats t.tile grad r n p.bf16 ++ if second then w.pats t.tile vec r 3 else []
          (List.range 3).map fun x => ofF32 (Config.sphHarmGrad (if second then 1 else 0) p.orthonormal p.degree x ins)

/-! ### Radial bases -/

/-- A family's number. -/
def radialCode : Radial → Nat
  | .bessel => 0 | .gaussian => 1 | .chebyshev => 2

/-- An envelope's number: 0 NONE, 1 COSINE, 2 to 12 POLY with that p (R273). -/
def envelopeCode : Envelope → Nat
  | .none => 0 | .cosine => 1 | .poly p => p

/-- Whether radial parameters are outside R272 and R273. -/
def radialBad (p : GradialParams) : Bool :=
  p.n == 0 || decide (64 < p.n) || (match p.env with | .poly q => decide (q < 2) || decide (12 < q) | _ => false)
    || !(ofF32 p.rc).isFinite || !Val.zero.lt (ofF32 p.rc)
    || (decide (p.family = .gaussian) && (!(ofF32 p.gamma).isFinite || !Val.zero.lt (ofF32 p.gamma)))

/-- One basis value with its envelope (R272, R273): 0 from the cutoff on under POLY and COSINE. -/
def radialValue (p : GradialParams) (r : W32) (n : Nat) : Val :=
  if p.env ≠ .none ∧ !(ofF32 r).isNan ∧ !(ofF32 r).lt (ofF32 p.rc) then Val.zero
  else ofF32 (Config.radial (radialCode p.family) (envelopeCode p.env) p.n n [r, p.rc, p.gamma])

/-- GRADIAL (R272). -/
def Work.gradial (w : Work) (c : Nat) (t : TileRef) (p : GradialParams) : Issued :=
  match w.geoForm c p.bf16 p.tag with
  | .error (r, d) => .halt 3 r d
  | .ok form =>
    if radialBad p then .halt 3 0x14 0
    else
      let disp := rows32 p.disp 4 p.count
      w.rowMap1 c t.tile form p.tag [disp] { src := p.out, len := formBytes form * p.n, rows := p.count, out := true }
        (ceilDiv (p.count * p.n) 512) fun w r =>
          (List.range p.n).map fun n => radialValue p (at3 0 (w.pats t.tile disp r 4) 3) (n + 1)

/-- GRADIAL_BWD: the gradient added to each edge's displacement gradient (R277). -/
def Work.gradialGrad (w : Work) (c : Nat) (t : TileRef) (p : GradialParams) : Issued :=
  match w.geoForm c false p.tag with
  | .error (r, d) => .halt 3 r d
  | .ok form =>
    if radialBad p then .halt 3 0x14 0
    else
      let disp := rows32 p.disp 4 p.count
      let grad : GeoRows := { src := p.gradIn, len := (if p.bf16 then 2 else 4) * p.n, rows := p.count, out := false }
      let out : GeoRows := { src := p.out, len := 3 * formBytes form, rows := p.count, out := true }
      w.rowMap1 c t.tile form p.tag [disp, grad] out (2 * ceilDiv (p.count * p.n) 512) fun w r =>
        let ins := w.pats t.tile disp r 4 ++ [p.rc, p.gamma] ++ w.gradPats t.tile grad r p.n p.bf16
        (List.range 3).map fun x =>
          let old := toF32 (fmtDecode form.fmt (w.elemAt (w.geoKey t.tile out r) (fmtBits form.fmt) x))
          ofF32 (Config.radialGrad (radialCode p.family) (envelopeCode p.env) p.n x (old :: ins))

/-! ### Coupling -/

/-- An entry of a path table with its coefficients (R274, R275). -/
structure Path where
  l1 : Nat
  l2 : Nat
  l3 : Nat
  edge : Bool
  ox : Nat
  oy : Nat
  oo : Nat
  ow : Nat
  chans : Nat
  nz : Nat
  coefs : List (Int × Int × Int × Val)
  deriving DecidableEq, Repr

/-- Path `i` of a table, or none where it breaks R274. -/
def Work.path (w : Work) (key : Nat) (p : GcoupleParams) (i : Nat) : Option Path :=
  let k := key + 16 * i
  let l1 := w.le k 1
  let l2 := w.le (k + 1) 1
  let l3 := w.le (k + 2) 1
  let ch := w.le (k + 12) 2
  let ox := w.le (k + 4) 2
  let oy := w.le (k + 6) 2
  let oo := w.le (k + 8) 2
  let ow := w.le (k + 10) 2
  if 6 < l1 ∨ 6 < l2 ∨ 6 < l3 ∨ l1 + l2 < l3 ∨ l3 + l2 < l1 ∨ l3 + l1 < l2 ∨ 1 < w.le (k + 3) 1 ∨ ch = 0 ∨ 256 < ch
      ∨ p.xLen < ox + ch * (2 * l1 + 1) ∨ p.yLen < oy + 2 * l2 + 1 ∨ p.outLen < oo + ch * (2 * l3 + 1) ∨ p.wLen < ow + ch then none
  else
    let cs := coupleTable l1 l2 l3
    some
      { l1 := l1, l2 := l2, l3 := l3, edge := w.le (k + 3) 1 == 1, ox := ox, oy := oy, oo := oo, ow := ow, chans := ch
        nz := cs.countP fun e => !e.2.2.2.isZero, coefs := cs.filter fun e => !e.2.2.2.isZero }

/-- The paths of a table, or the halt of the first bad one. -/
def Work.pathTable (w : Work) (tile : Nat) (p : GcoupleParams) : Except (Nat × Nat) (List Path) :=
  if p.pathCount = 0 ∨ 256 < p.pathCount ∨ 4096 < p.xLen ∨ 4096 < p.yLen ∨ 4096 < p.wLen ∨ 4096 < p.outLen then .error (0x13, 0)
  else
    match w.storeRanges tile [(p.paths, 16 * p.pathCount, true)] with
    | some e => .error e
    | none =>
      (List.range p.pathCount).foldr
        (fun i acc =>
          match w.path (tileStoreAddr tile p.paths) p i, acc with
          | none, _ => .error (0x13, i)
          | _, .error e => .error e
          | some x, .ok xs => .ok (x :: xs)) (.ok [])

/-- The input element format of a coupling. -/
def coupleIn (p : GcoupleParams) : Fmt := if p.bf16In then .bf16 else .fp32

/-- An input operand of a coupling. -/
def coupleRows (p : GcoupleParams) (s : TileSrc) (n : Nat) (f : Fmt) : GeoRows :=
  { src := s, len := n * fmtBits f / 8, rows := p.edges, out := false }

/-- The weight operand: a row for each edge where a path has EDGE weights, else the one row at its base (R274). -/
def weightRows (p : GcoupleParams) (ps : List Path) : GeoRows :=
  { coupleRows p p.w p.wLen (coupleIn p) with rows := if ps.any fun q => q.edge then p.edges else 1 }

/-- Elements of a row as values. -/
def Work.rowVals (w : Work) (tile : Nat) (o : GeoRows) (f : Fmt) (r n : Nat) : List Val :=
  (List.range n).map fun i => fmtDecode f (w.elemAt (w.geoKey tile o r) (fmtBits f) i)

/-- Where the element of channel `c`, order `m`, of a block stands in its row (R274). -/
def blockElem (o c l : Nat) (m : Int) : Nat := o + c * (2 * l + 1) + (m + l).toNat

/-- One path added to an edge's output row (R275). -/
def couplePath (q : Path) (x y wt : List Val) (out : List Val) : List Val :=
  (List.range q.chans).foldl
    (fun out c =>
      (orders q.l3).foldl
        (fun out m3 =>
          let t := (sumVals ((q.coefs.filter fun e => e.2.2.1 == m3).map fun e =>
            (e.2.2.2.mul (at3 .nan x (blockElem q.ox c q.l1 e.1))).mul (at3 .nan y (blockElem q.oy 0 q.l2 e.2.1)))).round32
          updAt out (blockElem q.oo c q.l3 m3) fun o => (o.add ((at3 .nan wt (q.ow + c)).mul t).round32).round32) out) out

/-- The counted multiply-adds of an edge (R276). -/
def coupleMacs (ps : List Path) : Nat := (ps.map fun q => (q.nz + 2 * q.l3 + 1) * q.chans).sum

/-- The counted multiply-adds of an edge backward (R277). -/
def coupleMacsBwd (ps : List Path) : Nat := (ps.map fun q => (3 * q.nz + 2 * (2 * q.l3 + 1)) * q.chans).sum

/-- GCOUPLE (R275). -/
def Work.gcouple (w : Work) (c : Nat) (t : TileRef) (p : GcoupleParams) : Issued :=
  match w.geoForm c p.bf16Out p.tag, w.pathTable t.tile p with
  | .error (r, d), _ => .halt 3 r d
  | _, .error (r, d) => .halt 3 r d
  | .ok form, .ok ps =>
    let f := coupleIn p
    let x := coupleRows p p.x p.xLen f
    let y := coupleRows p p.y p.yLen f
    let wt := weightRows p ps
    let macs := coupleMacs ps * p.edges
    match w.rowMap1 c t.tile form p.tag [x, y, wt] { src := p.out, len := formBytes form * p.outLen, rows := p.edges, out := true }
        (ceilDiv macs (if p.bf16In then 512 else 256)) fun w r =>
          let shared := w.rowVals t.tile wt f 0 p.wLen
          let own := w.rowVals t.tile wt f r p.wLen
          ps.foldl (fun out q => couplePath q (w.rowVals t.tile x f r p.xLen) (w.rowVals t.tile y f r p.yLen) (if q.edge then own else shared) out)
            (List.replicate p.outLen Val.zero) with
    | .done w => .done (w.count Ctr.geomCoupleMacs macs)
    | r => r

/-- An addition whose rounding no rule gives (R277). -/
def looseAdd (old v : Val) : Val :=
  let (k, m, e) : Nat × Nat × Int :=
    match v with
    | .fin n m e _ => (if n then 1 else 0, m, e)
    | .inf n => (if n then 3 else 2, 0, 0)
    | .nan => (4, 0, 0)
  ofF32 (Config.gradAdd (toF32 old) k m e)

/-- The gradients of one edge's path added, in table order: of x, of y and of the weights (R277). -/
def couplePathBwd (q : Path) (x y wt go : List Val) (g : List Val × List Val × List Val) : List Val × List Val × List Val :=
  (List.range q.chans).foldl
    (fun g c =>
      q.coefs.foldl
        (fun g e =>
          let ix := blockElem q.ox c q.l1 e.1
          let iy := blockElem q.oy 0 q.l2 e.2.1
          let o := at3 .nan go (blockElem q.oo c q.l3 e.2.2.1)
          let wv := at3 .nan wt (q.ow + c)
          let cf := e.2.2.2.mul o
          (updAt g.1 ix fun a => looseAdd a ((cf.mul (at3 .nan y iy)).mul wv),
            updAt g.2.1 iy fun a => looseAdd a ((cf.mul (at3 .nan x ix)).mul wv),
            updAt g.2.2 (q.ow + c) fun a => looseAdd a ((cf.mul (at3 .nan x ix)).mul (at3 .nan y iy)))) g) g

/-- The gradients of every edge, with the shared weight gradient carried along in edge order (R277): rows of g_x, g_y and
per-edge g_w, and the shared row at the end. -/
def coupleBwdGo (ps : List Path) (wLen xLen yLen : Nat) (edge : Nat → List Val × List Val × List Val × List Val × List Val) :
    Nat → List (List Val × List Val × List Val) × List Val
  | 0 => ([], List.replicate wLen Val.zero)
  | n + 1 =>
    let (rows, shared) := coupleBwdGo ps wLen xLen yLen edge n
    let (x, y, wsh, wown, go) := edge n
    let z := fun (k : Nat) => List.replicate k Val.zero
    let r := ps.foldl
      (fun (a : (List Val × List Val × List Val) × List Val) q =>
        if q.edge then (couplePathBwd q x y wown go a.1, a.2)
        else
          let g := couplePathBwd q x y wsh go (a.1.1, a.1.2.1, a.2)
          ((g.1, g.2.1, a.1.2.2), g.2.2)) ((z xLen, z yLen, z wLen), shared)
    (rows ++ [r.1], r.2)

/-- Row `r` of the weight gradient: the first row also holds the weights that every edge shares (R274, R277). -/
def coupleWeightRow (ps : List Path) (wLen : Nat) (shared : List Val) (rows : List (List Val × List Val × List Val)) (r : Nat) : List Val :=
  let own := match rows[r]? with | some e => e.2.2 | none => List.replicate wLen Val.zero
  if r = 0 then (List.range wLen).map fun i =>
    if ps.any fun q => !q.edge && decide (q.ow ≤ i) && decide (i < q.ow + q.chans) then at3 .nan shared i else at3 .nan own i
  else own

/-- The operands of one edge of a coupling's gradients: x, y, the shared and the own weights, and the gradient (R277). -/
def Work.coupleEdge (w : Work) (tile : Nat) (p : GcoupleParams) (ps : List Path) (r : Nat) : List Val × List Val × List Val × List Val × List Val :=
  let f := coupleIn p
  let fo : Fmt := if p.bf16Out then .bf16 else .fp32
  (w.rowVals tile (coupleRows p p.x p.xLen f) f r p.xLen, w.rowVals tile (coupleRows p p.y p.yLen f) f r p.yLen,
    w.rowVals tile (weightRows p ps) f 0 p.wLen, w.rowVals tile (weightRows p ps) f r p.wLen,
    w.rowVals tile (coupleRows p p.out p.outLen fo) fo r p.outLen)

/-- The gradient outputs of a coupling: of x, of y and of the weights (R277). -/
def coupleOuts (p : GcoupleParams) (ps : List Path) (fx fy fw : OutForm) : GeoRows × GeoRows × GeoRows :=
  ({ src := p.gX, len := formBytes fx * p.xLen, rows := p.edges, out := true },
    { src := p.gY, len := formBytes fy * p.yLen, rows := p.edges, out := true },
    { src := p.gW, len := formBytes fw * p.wLen, rows := (weightRows p ps).rows, out := true })

/-- The operands that a coupling's gradients are made from (R277). -/
def coupleIns (p : GcoupleParams) (ps : List Path) : List GeoRows :=
  [coupleRows p p.x p.xLen (coupleIn p), coupleRows p p.y p.yLen (coupleIn p), weightRows p ps,
    coupleRows p p.out p.outLen (if p.bf16Out then .bf16 else .fp32)]

/-- GCOUPLE_BWD (R277). -/
def Work.gcoupleGrad (w : Work) (c : Nat) (t : TileRef) (p : GcoupleParams) : Issued :=
  match w.geoForm c p.bf16Out p.tag, w.geoForm c p.bf16Out p.tagY, w.geoForm c p.bf16Out p.tagW, w.pathTable t.tile p with
  | .error (r, d), _, _, _ => .halt 3 r d
  | _, .error (r, d), _, _ => .halt 3 r d
  | _, _, .error (r, d), _ => .halt 3 r d
  | _, _, _, .error (r, d) => .halt 3 r d
  | .ok fx, .ok fy, .ok fw, .ok ps =>
    let (gx, gy, gw) := coupleOuts p ps fx fy fw
    let macs := coupleMacsBwd ps * p.edges
    w.rowInstr t.tile (coupleIns p ps ++ [gx, gy, gw]) fun w =>
      let (rows, shared) := coupleBwdGo ps p.wLen p.xLen p.yLen (w.coupleEdge t.tile p ps) p.edges
      let put := fun (w1 : Work) (o : GeoRows) (form : OutForm) (vs : List (List Val)) =>
        (vs.mapIdx fun r v => (r, v)).foldl (fun (a : Work × Tally) e => a.1.putRow (w.geoKey t.tile o e.1) form a.2 e.2) (w1, Tally.empty)
      let wrows := (List.range gw.rows).map (coupleWeightRow ps p.wLen shared rows)
      let (w1, yx) := put w gx fx (rows.map fun e => e.1)
      let (w1, yy) := put w1 gy fy (rows.map fun e => e.2.1)
      let (w1, yw) := put w1 gw fw wrows
      let w1 := (w1.count Ctr.geomCoupleMacs macs).count Ctr.geomBusyCycles (ceilDiv macs (if p.bf16In then 512 else 256))
      match w1.geoCensus c fx p.tag yx with
      | .done w1 =>
        (match w1.geoCensus c fy p.tagY yy with
          | .done w1 => w1.geoCensus c fw p.tagW yw
          | r => r)
      | r => r

/-! ### The commands -/

/-- GBIN. -/
def execGbin (t : TileRef) (p : GbinParams) (s : State) : Host.Outcome State Fault Refusal :=
  .next (s.exec fun w => w.issue t fun _ w => w.gbin t p)

/-- GSTAGE. -/
def execGstage (t : TileRef) (p : GstageParams) (s : State) : Host.Outcome State Fault Refusal :=
  .next (s.exec fun w => w.issue t fun _ w => w.gstage t p)

/-- GEMIT. -/
def execGemit (t : TileRef) (p : GemitParams) (s : State) : Host.Outcome State Fault Refusal :=
  .next (s.exec fun w => w.issue t fun c w => w.gemit c t p)

/-- GSH. -/
def execGsh (t : TileRef) (p : GshParams) (s : State) : Host.Outcome State Fault Refusal :=
  .next (s.exec fun w => w.issue t fun c w => w.gsh c t p)

/-- GRADIAL. -/
def execGradial (t : TileRef) (p : GradialParams) (s : State) : Host.Outcome State Fault Refusal :=
  .next (s.exec fun w => w.issue t fun c w => w.gradial c t p)

/-- GCOUPLE. -/
def execGcouple (t : TileRef) (p : GcoupleParams) (s : State) : Host.Outcome State Fault Refusal :=
  .next (s.exec fun w => w.issue t fun c w => w.gcouple c t p)

/-- GCOUPLE_BWD. -/
def execGcoupleBwd (t : TileRef) (p : GcoupleParams) (s : State) : Host.Outcome State Fault Refusal :=
  .next (s.exec fun w => w.issue t fun c w => w.gcoupleGrad c t p)

/-- GSH_BWD. -/
def execGshBwd (t : TileRef) (p : GshParams) (s : State) : Host.Outcome State Fault Refusal :=
  .next (s.exec fun w => w.issue t fun c w => w.gshGrad c t p false)

/-- GRADIAL_BWD. -/
def execGradialBwd (t : TileRef) (p : GradialParams) (s : State) : Host.Outcome State Fault Refusal :=
  .next (s.exec fun w => w.issue t fun c w => w.gradialGrad c t p)

/-- GSH_BWD2. -/
def execGshBwd2 (t : TileRef) (p : GshParams) (s : State) : Host.Outcome State Fault Refusal :=
  .next (s.exec fun w => w.issue t fun c w => w.gshGrad c t p true)

end Sys2Proof.Machine
end

