-- ==== Sys2Proof/Machine/Sets.lean ====
section
/-!
DEFINITION. The configuration sets (R64 to R73, R566 to R568): the checks of an arm (R66, R296, R318, R469, R580), the
cancel window, the swap of step 4 of a tick (R65, R68, R69), and writes of shadowed fields.
-/

namespace Sys2Proof.Machine

/-! ### The checks of an arm -/

/-- Whether every quota lies in the range that its field states (R372). -/
def Quota.inRange (q : Quota) : Bool :=
  decide (q.tiles ≤ 64) && decide (q.shared ≤ 32768) && decide (q.hbm ≤ 393216) && decide (q.capacity ≤ 8388608)
    && decide (q.hotSlots ≤ 2097152) && decide (q.gatherLocal ≤ 2048) && decide (q.gatherPeer ≤ 4096) && decide (q.haul ≤ 8192)
    && decide (q.traverse ≤ 4096) && decide (q.stitch ≤ 16384) && decide (q.capTags ≤ 1024)

/-- Whether every quota is within a device's resources (R580). -/
def Quota.within (q r : Quota) : Bool :=
  decide (q.tiles ≤ r.tiles) && decide (q.shared ≤ r.shared) && decide (q.hbm ≤ r.hbm) && decide (q.capacity ≤ r.capacity)
    && decide (q.hotSlots ≤ r.hotSlots) && decide (q.gatherLocal ≤ r.gatherLocal) && decide (q.gatherPeer ≤ r.gatherPeer)
    && decide (q.haul ≤ r.haul) && decide (q.traverse ≤ r.traverse) && decide (q.stitch ≤ r.stitch)
    && decide (q.capTags ≤ r.capTags)

/-- Check 1 of R66: a field outside its range (R71, R72, R372, R557). -/
def CfgSet.fieldBad (s : CfgSet) : Bool :=
  decide (s.pitchLen < 8000) || decide (1000000000 < s.pitchLen) || decide (10 < s.subdiv) || decide (250 < s.grace)
    || decide (s.powerCap < 600) || decide (1800 < s.powerCap) || s.quotas.any fun q => !q.inRange

/-- The table bases of a set (R566). -/
def CfgSet.bases (s : CfgSet) : List Nat := [s.rowMap, s.shardMap, s.format, s.topology]

/-- Whether a table base is misplaced (R66, R567): 0 names no table. -/
def Fuses.baseBad (f : Fuses) (b : Nat) : Bool :=
  b != 0 && (b % 4096 != 0 || !(decide (f.space b = .hbm) || decide (f.space b = .shared)))

/-- Whether two sets agree on every setting of machine scope (R568). -/
def CfgSet.machineEq (s t : CfgSet) : Bool :=
  s.pitchLen == t.pitchLen && s.subdiv == t.subdiv && s.grace == t.grace && s.shardMap == t.shardMap && s.format == t.format
    && s.topology == t.topology

/-- Whether the target of an arm does not lie ahead (R66). -/
def targetBad (machine : Bool) (target tick : Nat) : Bool :=
  if machine then decide (target < tick + 2) else target != 0 && decide (target ≤ tick)

/-- The first failed check of R66, 1 to 8; 0 where none fails. -/
def Work.armCause (w : Work) (machine : Bool) (target : Nat) : Nat :=
  let s := w.d.shadow
  if s.fieldBad then 1
  else if s.pitchLen % 2 ^ s.subdiv ≠ 0 then 2
  else if s.pitchLen < 1000 * 2 ^ s.subdiv then 3
  else if s.pitchLen ≤ 2 * w.d.pitch.reportMargin then 4
  else if s.bases.any w.fz.baseBad then 5
  else if s.quotas.any fun q => !q.within w.fz.resources then 6
  else if !machine && !s.machineEq w.d.active then 7
  else if targetBad machine target w.tick then 8
  else 0

/-- A context range of a format table: first entry and count (R294). -/
def Work.formatRange (w : Work) (base c : Nat) : Nat × Nat :=
  let r := w.le (base + 64 + 4 * c) 4
  (r % 65536, r / 65536)

/-- The check of an armed format table (R294 to R296). -/
def Work.formatBad (w : Work) (base : Nat) : Bool :=
  let n := w.le (base + 6) 2
  let ranges := contexts.map (w.formatRange base)
  !w.formatHeaderOk base || n == 0 || decide (4096 < n) || w.le (base + 16) 1 == 0 || decide (7 < w.le (base + 16) 1)
    || w.le (base + 18) 2 == 0 || decide (1000000 < w.le (base + 20) 4) || w.le (base + 24) 4 == 0
    || decide (1000000 < w.le (base + 24) 4) || w.le (base + 28) 2 == 0 || decide (255 < w.le (base + 30) 2)
    || ((List.range n).any fun i => !(w.readEntry (base + 128 + 32 * i)).ok)
    || (ranges.any fun r => decide (n < r.1 + r.2))
    || contexts.any fun c => contexts.any fun k =>
        let a := w.formatRange base c
        let b := w.formatRange base k
        c != k && a.2 != 0 && b.2 != 0 && decide (a.1 < b.1 + b.2) && decide (b.1 < a.1 + a.2)

/-- A tensor entry of a shard map (R316). -/
structure ShardEntry where
  elems : Nat
  first : Nat
  ownersAt : Nat
  ownerCount : Nat
  explicit : Nat
  g : Nat
  tensor : Nat
  deriving DecidableEq, Repr

/-- Tensor entry `i` of a shard map (R315, R316). -/
def Work.shardEntry (w : Work) (base i : Nat) : ShardEntry :=
  let a := base + 64 + 32 * i
  { elems := w.le a 8 % 2 ^ 43, first := w.le (a + 8) 8 % 2 ^ 43, ownersAt := base + w.le (a + 16) 4, ownerCount := w.le (a + 20) 2,
    explicit := w.le (a + 22) 1, g := w.le (a + 23) 1, tensor := w.le (a + 24) 2 }

/-- The owner list of an entry: device and first granule (R316). -/
def Work.owners (w : Work) (e : ShardEntry) : List (Nat × Nat) :=
  (List.range e.ownerCount).map fun i =>
    let x := w.le (e.ownersAt + 8 * i) 8
    (x % 2 ^ 14, x / 2 ^ 16)

/-- The granules of a tensor (R317). -/
def ShardEntry.granules (e : ShardEntry) : Nat := ceilDiv e.elems (2 ^ e.g)

/-- Whether numbers never decrease. -/
def rising : List Nat → Bool
  | a :: b :: r => decide (a ≤ b) && rising (b :: r)
  | _ => true

/-- The failing of one entry of a shard map, for a machine of `n` devices in a region that ends at `e` (R316, R318). -/
def Work.shardEntryBad (w : Work) (n fin : Nat) (e : ShardEntry) : Bool :=
  e.elems == 0 || decide (2 ^ 43 < e.first + e.elems) || (e.ownersAt % 8 != 0) || e.ownerCount == 0 || decide (16384 < e.ownerCount)
    || decide (1 < e.explicit) || decide (e.g < 12) || decide (20 < e.g) || decide (fin < e.ownersAt + 8 * e.ownerCount)
    || (let os := w.owners e
        (os.any fun o => decide (n ≤ o.1)) || decide ((os.map (fun o => o.1)).eraseDups.length < os.length)
          || ((List.range e.ownerCount).any fun i => bitsOf (w.le (e.ownersAt + 8 * i) 8) 15 14 != 0)
          || (if e.explicit = 0 then os.any fun o => o.2 != 0
              else ((os.map fun o => o.2).headD 1 != 0) || !rising (os.map fun o => o.2) || os.any fun o => decide (e.granules < o.2)))

/-- The check of an armed shard map (R315 to R318). Its region is taken to end where the HBM or the shared store that holds
it ends (log 21). -/
def Work.shardBad (w : Work) (base : Nat) : Bool :=
  let n := w.le (base + 8) 4
  let devs := w.le (base + 12) 2
  let fin := match w.mapEnd base with | .ok e => e | .error _ => 0
  w.le base 4 != 0x50414D53 || w.le (base + 4) 2 != 1 || n == 0 || decide (65536 < n) || devs == 0 || decide (16384 < devs)
    || (List.range n).any fun i => w.shardEntryBad devs fin (w.shardEntry base i)

/-- A table that an arm replaces, with the cause of its check: the uncorrectable block in it, if any, else whether it
fails. -/
def Work.tableCheck (w : Work) (base active cause len : Nat) (bad : Bool) : Option (Nat × Option Nat) :=
  if base = 0 ∨ base = active then none
  else
    match w.poisonIn base len with
    | some p => some (cause, some p)
    | none => if bad then some (cause, none) else none

/-- The first failing table of an arm: its cause, and the uncorrectable block met (R66, R296, R318, R469). -/
def Work.armTables (w : Work) : Option (Nat × Option Nat) :=
  let s := w.d.shadow
  let a := w.d.active
  ((w.tableCheck s.format a.format 9 (128 + 32 * min 4096 (w.le (s.format + 6) 2)) (w.formatBad s.format)).or
    (w.tableCheck s.shardMap a.shardMap 10 (64 + 32 * min 65536 (w.le (s.shardMap + 8) 4)) (w.shardBad s.shardMap))).or
    (w.tableCheck s.topology a.topology 11 (64 + 64 * min 16384 (w.le (s.topology + 8) 2)) (w.topoCause s.topology).isSome)

/-! ### Arming, cancelling, swapping -/

/-- A change of the CFG block's control fields. -/
def Work.updCfg (w : Work) (f : CfgCtl → CfgCtl) : Work := w.upd fun d => { d with cfg := f d.cfg }

/-- An arm that fails (R66, R73). -/
def Work.armInvalid (w : Work) (cause : Nat) : Work := w.updCfg fun c => { c with result := .invalid, invalidCause := cause }

/-- LINK_ROUTE_CAUSE and its link after the check of an armed topology table (R469, R483): 0 where it passes. -/
def Work.noteRoute (w : Work) : Work :=
  let b := w.d.shadow.topology
  if b = 0 ∨ b = w.d.active.topology then w
  else
    let r := (w.topoCause b).getD (0, 0)
    w.upd fun d => { d with routeCause := r.1, routeLink := r.2 }

/-- An arm of the shadow set (R66): its checks in order, and the armed scope and target. -/
def Work.arm (w : Work) (machine : Bool) (target : Nat) : Work :=
  let cause := w.armCause machine target
  if cause ≠ 0 then w.armInvalid cause
  else
    match w.armTables with
    | some (cause, some p) => (w.armInvalid cause).haltAll (machineRec 0x41 p)
    | some (cause, none) => (if cause = 11 then w.noteRoute else w).armInvalid cause
    | none => w.noteRoute.updCfg fun c => { c with armed := some (if machine then .machine else .device), target := target, invalidCause := 0 }

/-- A write of CFG_ARM_GO (R66, R67). -/
def Work.armGo (w : Work) (machine : Bool) : Work :=
  if w.d.cfg.armed.isSome then w.updCfg fun c => { c with armWhileArmed := true } else w.arm machine w.d.cfg.armTick.toNat

/-- Whether the cancel window of a machine-scope arm has closed (R67): the report, or at a tick generator the
announcement, for the pitch that ends at the target has gone out. -/
def Work.cancelClosed (w : Work) : Bool :=
  decide (w.d.cfg.armed = some .machine) && w.d.cfg.target == w.tick + 1
    && (if w.d.pitch.role.generates then w.d.pitch.announced.isSome else w.d.pitch.reported)

/-- A write of CFG_DISARM (R67). -/
def Work.disarm (w : Work) : Work :=
  if w.d.cfg.armed.isNone then w
  else if w.cancelClosed then w.updCfg fun c => { c with disarmLate := true }
  else w.updCfg fun c => { c with armed := none, result := .disarmed }

/-- The shadow set made active and copied back (R65). -/
def Dev.swapSets (d : Dev) : Dev := { d with active := d.shadow }

/-- The code of a result (R73). -/
def CfgResult.code : CfgResult → Nat
  | .swapped => 0 | .aborted => 1 | .rowmapBusy => 2 | .invalid => 3 | .disarmed => 4

/-- An arm that ends without a swap, with its event (R69). -/
def Work.abortSwap (w : Work) (r : CfgResult) (target : Nat) : Work :=
  (w.updCfg fun c => { c with armed := none, result := r }).deviceEvent 0x0021 (leBytes 8 target ++ leBytes 1 r.code)

/-- The tiers of QUOTA_BELOW_USE in which a context now holds more than its quota (R371, R449). -/
def Work.belowUse (w : Work) (c : Nat) : List Nat :=
  let q := (w.d.active.quotas[c]?).getD Quota.zero
  (if w.quotaOf c 2 < w.chargeOf c 2 then [1] else []) ++ (if w.quotaOf c 1 < w.chargeOf c 1 then [2] else [])
    ++ (if w.quotaOf c 0 < w.chargeOf c 0 then [3] else []) ++ (if q.tiles < (w.ctx c).tiles.length then [4] else [])

/-- QUOTA_BELOW_USE after a swap that lowered a quota (R371). -/
def Work.warnQuotas (w : Work) (old : List Quota) : Work :=
  contexts.foldl
    (fun w c =>
      if old[c]? = w.d.active.quotas[c]? then w
      else (w.belowUse c).foldl (fun w t => w.deviceEvent 0x0032 (leBytes 1 c ++ leBytes 1 t)) w) w

/-- The layer overrides that a format table swap clears (R306): those not above their layer's new rung. -/
def Work.clearOverrides (w : Work) : Work :=
  contexts.foldl
    (fun w c =>
      w.updCtx c fun x =>
        { x with
          layers := x.layers.map fun l =>
            match l.override, w.layerEntry c l.layer with
            | some o, some e => if o ≤ e.rung then { l with override := none, scaleOverride := none } else l
            | _, _ => l }) w

/-- The rungs that a format table swap raised or lowered (R314), over the layers of both tables. -/
def Work.rungChanges (w : Work) (old : Nat) : Nat × Nat :=
  let new := w.d.active.format
  if old = 0 ∨ new = 0 then (0, 0)
  else
    let n := min (w.le (old + 6) 2) (w.le (new + 6) 2)
    let at_ := fun (b i : Nat) => w.le (b + 128 + 32 * i) 1
    (((List.range n).filter fun i => decide (at_ old i < at_ new i)).length,
      ((List.range n).filter fun i => decide (at_ new i < at_ old i)).length)

/-- What follows a swap (R65, R69, R306, R314, R371). -/
def Work.swap (w : Work) : Work :=
  let old := w.d.active
  let w := (w.upd Dev.swapSets).updCfg fun c => { c with armed := none, result := .swapped }
  let w := w.deviceEvent 0x0020 (leBytes 8 w.tick)
  let w :=
    if old.format = w.d.active.format then w
    else
      let (up, down) := w.rungChanges old.format
      ((w.count Ctr.governorRungUp up).count Ctr.governorRungDown down).clearOverrides
  w.warnQuotas old.quotas

/-- Step 4 of a tick (R57, R68, R69): `flag` is the announcement's swap flag, `busy` the state of R59 before step 2. -/
def Work.stepSwap (w : Work) (flag busy : Bool) : Work :=
  let c := w.d.cfg
  match c.armed with
  | none => w
  | some .device =>
    if c.target ≠ 0 ∧ w.tick < c.target then w
    else if busy then w.abortSwap .rowmapBusy (if c.target = 0 then w.tick else c.target)
    else w.swap
  | some .machine =>
    if w.tick < c.target then w
    else if flag && c.target == w.tick && w.d.pitch.reportedSwap then w.swap
    else w.abortSwap (if busy then .rowmapBusy else .aborted) c.target

/-! ### Shadowed fields -/

/-- A quota word of a context setup page written (R372): the register at an offset from 0x200. -/
def Quota.put (q : Quota) (off v : Nat) : Quota :=
  match off with
  | 0x00 => { q with tiles := v % 128 }
  | 0x04 => { q with shared := v % 65536 }
  | 0x08 => { q with hbm := v }
  | 0x0C => { q with capacity := v }
  | 0x10 => { q with hotSlots := v % 2 ^ 22 }
  | 0x14 => { q with gatherLocal := bitsOf v 11 0, gatherPeer := bitsOf v 28 16 }
  | 0x18 => { q with haul := bitsOf v 13 0, traverse := bitsOf v 28 16 }
  | 0x1C => { q with stitch := bitsOf v 14 0, capTags := bitsOf v 26 16 }
  | _ => q

/-- A quota word as it reads (R372). -/
def Quota.word (q : Quota) (off : Nat) : Nat :=
  match off with
  | 0x00 => q.tiles
  | 0x04 => q.shared
  | 0x08 => q.hbm
  | 0x0C => q.capacity
  | 0x10 => q.hotSlots
  | 0x14 => q.gatherLocal + q.gatherPeer * 65536
  | 0x18 => q.haul + q.traverse * 65536
  | 0x1C => q.stitch + q.capTags * 65536
  | _ => 0

/-- A 32-bit word of the shadow set written, at its BAR0 offset (R568); other fields of the register are not shadowed. -/
def CfgSet.put32 (s : CfgSet) (off v : Nat) : CfgSet :=
  if off = 0x020000 then { s with pitchLen := bitsOf v 29 0 }
  else if off = 0x020004 then { s with subdiv := bitsOf v 7 4, grace := bitsOf v 15 8 }
  else if off = 0x040014 then { s with powerCap := bitsOf v 10 0 }
  else if 0x100000 ≤ off ∧ off < 0x110000 ∧ 0x200 ≤ off % 0x1000 ∧ off % 0x1000 < 0x220 then
    { s with quotas := updAt s.quotas ((off - 0x100000) / 0x1000) fun q => q.put (off % 0x1000 - 0x200) v }
  else s

/-- A table base as a 64-bit field (R566): its value by BAR0 offset. -/
def CfgSet.base (s : CfgSet) (off : Nat) : Option Nat :=
  match off with
  | 0x030020 => some s.rowMap
  | 0x030028 => some s.shardMap
  | 0x030030 => some s.format
  | 0x030038 => some s.topology
  | _ => none

/-- A table base written (R566): bits [63:50] are reserved. -/
def CfgSet.putBase (s : CfgSet) (off v : Nat) : CfgSet :=
  let b := v % 2 ^ 50
  match off with
  | 0x030020 => { s with rowMap := b }
  | 0x030028 => { s with shardMap := b }
  | 0x030030 => { s with format := b }
  | 0x030038 => { s with topology := b }
  | _ => s

/-- The lower half kept for a 64-bit field, or the field's own (R559). -/
def Work.halfOf (w : Work) (off cur : Nat) : Nat :=
  ((w.d.regIo.halves.find? fun h => h.1 == off).map fun h => h.2.toNat).getD (cur % 2 ^ 32)

/-- A lower half kept until its upper half is written (R559). -/
def Work.keepHalf (w : Work) (off v : Nat) : Work :=
  w.upd fun d =>
    { d with regIo := { d.regIo with halves := (d.regIo.halves.filter fun h => h.1 != off) ++ [(off, BitVec.ofNat 32 v)] } }

/-- The kept half of a field dropped. -/
def Work.dropHalf (w : Work) (off : Nat) : Work :=
  w.upd fun d => { d with regIo := { d.regIo with halves := d.regIo.halves.filter fun h => h.1 != off } }

/-- An access of a size that R559 takes: naturally aligned, 4 or 8 bytes. -/
def accessOk (offset size : Nat) : Bool := (size == 4 || size == 8) && offset % size == 0

/-- A write to shadowed fields at a BAR0 offset (R65, R559, R566). -/
def Work.writeShadow (w : Work) (off size v : Nat) : Work :=
  let set := fun (w : Work) (f : CfgSet → CfgSet) => w.upd fun d => { d with shadow := f d.shadow }
  match w.d.shadow.base (off / 8 * 8) with
  | some cur =>
    let b := off / 8 * 8
    if size = 8 then (set w fun s => s.putBase b v).dropHalf b
    else if off = b then w.keepHalf b v
    else (set w fun s => s.putBase b (w.halfOf b cur + v % 2 ^ 32 * 2 ^ 32)).dropHalf b
  | none =>
    if size = 8 then set w fun s => (s.put32 off (v % 2 ^ 32)).put32 (off + 4) (v / 2 ^ 32 % 2 ^ 32)
    else set w fun s => s.put32 off (v % 2 ^ 32)

/-- Whether a register at an offset holds shadowed fields (R568). -/
def shadowed (off : Nat) : Bool :=
  off == 0x020000 || off == 0x020004 || off == 0x040014 || (decide (0x030020 ≤ off) && decide (off < 0x030040))
    || (decide (0x100000 ≤ off) && decide (off < 0x110000) && decide (0x200 ≤ off % 0x1000) && decide (off % 0x1000 < 0x220))

/-- Whether the blocks of BAR0 other than ID, SEC and EVT respond: not in recovery, and not before SEC_READY (R516, R560). -/
def Dev.responds (d : Dev) : Bool := d.sec.ready && !d.sec.recovery

/-! ### The commands -/

/-- CFG_ARM_GO. -/
def execCfgArmGo (machine : Bool) (s : State) : Host.Outcome State Fault Refusal :=
  .next (s.exec fun w => if w.d.responds then w.armGo machine else w)

/-- CFG_DISARM. -/
def execCfgDisarm (s : State) : Host.Outcome State Fault Refusal :=
  .next (s.exec fun w => if w.d.responds then w.disarm else w)

/-- SH_FIELD_WRITE: only through the physical function, and ignored while a swap is armed (R64, R65, R67). -/
def execShFieldWrite (fn offset size value : Nat) (s : State) : Host.Outcome State Fault Refusal :=
  .next (s.exec fun w =>
    if fn ≠ 0 ∨ !w.d.responds ∨ !accessOk offset size then w
    else if !shadowed offset && !(size == 8 && shadowed (offset + 4)) then w
    else if w.d.cfg.armed.isSome then w.updCfg fun c => { c with writeWhileArmed := true }
    else w.writeShadow offset size value)

end Sys2Proof.Machine
end

