-- ==== Sys2Proof/Machine/Stitch.lean ====
section
/-!
DEFINITION. The stitch engine (R315 to R344): shards, the checks of a collective, exact reduction with its scale, pre-round and
trailer, compression with error feedback, RING_FP32, ALL_GATHER, ALL_TO_ALL, ALLREDUCE_SMALL, PERMUTE, arrivals and timeouts.
-/

namespace Sys2Proof.Machine

/-! ### Shards and parameters -/

/-- The first granule of owner `i` (R317). -/
def firstGranule (e : ShardEntry) (os : List (Nat × Nat)) (i : Nat) : Nat :=
  let q := e.granules
  if e.explicit = 1 then ((os[i]?).map fun o => o.2).getD q
  else i * (q / e.ownerCount) + min i (q % e.ownerCount)

/-- The shards of a tensor, in list order (R317). -/
def Work.shards (w : Work) (e : ShardEntry) : List Shard :=
  let os := w.owners e
  let edge := fun i => min (firstGranule e os i * 2 ^ e.g) e.elems
  os.mapIdx fun i o => { device := o.1, lo := edge i, hi := edge (i + 1) }

/-- The shard of a device, empty where it has none. -/
def shardOf (ss : List Shard) (dev : Nat) : Shard := (ss.find? fun s => s.device == dev).getD { device := dev, lo := 0, hi := 0 }

/-- What every collective names (R319, R320). -/
def collCommon : CollKind → CollCommon
  | .reduce p => p.common
  | .allGather p => p.common
  | .allToAll p => p.common
  | .small p => p.common
  | .permute p => p.common

/-- The bytes of an element of a reduction's source (R319). -/
def sourceBytes (p : ReduceParams) : Nat := if p.sourceBf16 then 2 else 4

/-- The bytes of an element of a reduction's output (R319). -/
def outBytes (p : ReduceParams) : Nat := if p.int64Out then 8 else 4

/-- A compression as a number. -/
def compressionCode : Compression → Nat
  | .none => 0
  | .topk j => 256 + j
  | .sign => 1

/-- The parameters that every participant must agree on, as one number (R320). -/
def agreedParams (k : CollKind) : Nat :=
  let c := collCommon k
  let own : List Nat :=
    match k with
    | .reduce p => [0, if p.exact then 0 else 1, match p.layer with | some l => l + 1 | none => 0, p.contributors, compressionCode p.compression]
    | .allGather p => [1, p.elemBytes]
    | .allToAll p => [2, p.elemBytes]
    | .small _ => [3]
    | .permute p => [4, p.elemBytes]
  (own ++ [c.entry, c.sequence, c.span]).foldl (fun h x => h * 2 ^ 64 + x) 0

/-- Element widths of R319. -/
def elemOk (b : Nat) : Bool := b == 1 || b == 2 || b == 4 || b == 8

/-- Whether a compression is in its range and its reduction may use it (R319, R343). -/
def compressionOk (p : ReduceParams) : Bool :=
  match p.compression with
  | .none => true
  | .topk j => p.exact && p.sources.length == 1 && decide (4 ≤ j) && decide (j ≤ 10) && p.feedback % 64 == 0
  | .sign => p.exact && p.sources.length == 1 && p.feedback % 64 == 0

/-- Whether every parameter lies in its range (R319, R335, R343). RING_FP32 sums in FP32 and has no INT64 output. -/
def paramsOk (k : CollKind) : Bool :=
  let c := collCommon k
  decide (c.sequence < 2 ^ 32) && decide (c.span ≤ 255) && decide (10000 ≤ c.timeoutNs) && decide (c.timeoutNs ≤ 1000000000)
    && (match k with
        | .reduce p =>
          decide (1 ≤ p.sources.length) && decide (p.sources.length ≤ 64) && decide (1 ≤ p.contributors)
            && decide (p.contributors < 2 ^ 32) && compressionOk p && (p.exact || !p.int64Out)
        | .allGather p => elemOk p.elemBytes
        | .allToAll p => elemOk p.elemBytes
        | .small p => decide (p.words ≤ 131072)
        | .permute p => elemOk p.elemBytes)

/-- Whether a collective is one that a machine with v1 links does not run (R340). -/
def needsV2 : CollKind → Bool
  | .reduce p => p.exact
  | .permute _ => true
  | _ => false

/-- The bank of an error-feedback tensor that step `s` writes (R329). -/
def feedbackAt (p : ReduceParams) (elems s : Nat) : Nat := p.feedback + s % 2 * (4 * elems)

/-- The counts that a participant sends in an ALL_TO_ALL (R334). -/
def Work.sendCounts (w : Work) (c m : Nat) (p : AllToAllParams) : List Nat := tab m fun j => w.le (localKey c (p.counts + 8 * j)) 8

/-- The ranges that a collective reads and writes on this device (R319, R329, R333 to R336). -/
def Work.collRanges (w : Work) (o : Coll) : List (Nat × Nat) × List (Nat × Nat) :=
  let own := shardOf o.shards w.d.deviceNumber
  match o.kind with
  | .reduce p =>
    let banks := decide (p.compression ≠ .none)
    (p.sources.map (fun a => (a, o.elems * sourceBytes p))
        ++ (if banks then [(feedbackAt p o.elems (o.step + 1), 4 * o.elems)] else []),
      [(p.output, (own.hi - own.lo) * outBytes p)] ++ (if banks then [(feedbackAt p o.elems o.step, 4 * o.elems)] else []))
  | .allGather p => ([(p.source, (own.hi - own.lo) * p.elemBytes)], [(p.dest, o.elems * p.elemBytes)])
  | .allToAll p =>
    let m := o.shards.length
    ([(p.counts, 8 * m), (p.send, (w.sendCounts o.ref.ctx m p).sum * p.elemBytes)], [(p.recv, p.recvCapacity), (p.recvCounts, 8 * m)])
  | .small p => ([(p.source, 8 * p.words), (p.maxMap, ceilDiv p.words 8)], [(p.dest, 8 * p.words)])
  | .permute p =>
    let new := shardOf o.newShards w.d.deviceNumber
    ([(p.source, (own.hi - own.lo) * p.elemBytes)], [(p.dest, (new.hi - new.lo) * p.elemBytes)])

/-- Whether a declared output region is too small (R343). -/
def Work.regionSmall (w : Work) (o : Coll) : Bool :=
  let own := shardOf o.shards w.d.deviceNumber
  match o.kind with
  | .reduce p => decide (p.outputSize < (own.hi - own.lo) * outBytes p)
  | .allGather p => decide (p.destSize < o.elems * p.elemBytes)
  | _ => false

/-- The fault of a list of ranges, if any (R361); an empty range has none. -/
def Work.rangesFault (w : Work) (c : Nat) (rs : List (Nat × Nat)) (write : Bool) : Option (Nat × Nat) :=
  firstFault (rs.map fun r => if r.2 = 0 then none else w.accessFault c r.1 r.2 write)

/-- The entry of the shadow shard map with a tensor identifier (R336). -/
def Work.shadowEntry (w : Work) (tensor : Nat) : Option ShardEntry :=
  let b := w.d.shadow.shardMap
  if b = 0 then none
  else ((List.range (min 65536 (w.le (b + 8) 4))).map (w.shardEntry b)).find? fun e => e.tensor == tensor

/-- The other participants: the owners, and the new owners of a PERMUTE. -/
def Work.others (w : Work) (o : Coll) : List Nat :=
  (((o.shards ++ o.newShards).map fun s => s.device).filter fun d => d != w.d.deviceNumber).eraseDups

/-- The arm of a PERMUTE (R336): the state after it, and the halt's reason where no machine-scope arm stands for its tick. An
arm that fails leaves its result as any arm does (R66). -/
def Work.permuteArm (w : Work) (c : Nat) (p : PermuteParams) : Work × Option Nat :=
  match w.d.cfg.armed with
  | some .machine => (w, if w.d.cfg.target = p.commitTick then none else some 0x63)
  | some .device => (w, some 0x63)
  | none =>
    if (w.ctx c).replay.isSome then (w, some 0x83)
    else
      let w := w.arm true p.commitTick
      (w, if w.d.cfg.armed.isSome then none else some 0x63)

/-! ### Quantising and compressing a contribution -/

/-- The FP32 patterns of one source, widened from BF16 exactly. -/
def Work.sourceWords (w : Work) (c elems : Nat) (bf : Bool) (a : Nat) : List Nat :=
  tab elems fun i => if bf then w.le (localKey c (a + 2 * i)) 2 * 2 ^ 16 else w.le (localKey c (a + 4 * i)) 4

/-- What a device contributes: the integers added over its sources, the clamped and the underflowed elements, which elements
are sent under TOPK, the FP32 patterns of the new error-feedback bank, and the magnitudes of SIGN by sub-block. -/
structure Contribution where
  sums : List Int
  sat : Nat
  under : Nat
  kept : List Bool
  feedback : List Nat
  mags : List Int
  deriving DecidableEq, Repr

/-- An FP32 pattern quantised at a scale exponent (R323). -/
def quantiseAt (e : Int) (x : Nat) : Int × Bool × Bool := quantise ((f32.decode x).scale (-e))

/-- The number of elements with a property. -/
def countIf {α : Type} (l : List α) (f : α → Bool) : Nat := (l.filter f).length

/-- The contribution of sources without compression (R323, R325). -/
def plainContribution (elems : Nat) (e : Int) (srcs : List (List Nat)) : Contribution :=
  let qs := srcs.map fun s => s.map (quantiseAt e)
  { sums := qs.foldl (fun acc q => acc.zipWith (· + ·) (q.map fun x => x.1)) (List.replicate elems 0)
    sat := (qs.map fun q => countIf q fun x => x.2.1).sum
    under := (qs.map fun q => countIf q fun x => x.2.2).sum
    kept := [], feedback := [], mags := [] }

/-- The rank of an FP32 magnitude: a NaN above every number (R330). -/
def magRank (x : Nat) : Nat := if isNan32 x then 2 ^ 31 else x % 2 ^ 31

/-- Which elements of a block TOPK keeps: the largest magnitudes, the lower index among equals (R330). -/
def keepOf (j : Nat) (block : List Nat) : List Bool :=
  let rs := block.mapIdx fun i x => (i, magRank x)
  rs.map fun a => decide (countIf rs (fun b => decide (a.2 < b.2) || (b.2 == a.2 && decide (b.1 < a.1))) < ceilDiv block.length (2 ^ j))

/-- The error that a device keeps: y − v × 2^E, rounded once to FP32 (R329). -/
def residual (e : Int) (y : Nat) (v : Int) : Nat := (f32.encode .rne ((f32.decode y).sub (Val.ofInt v e))).code

/-- The contribution of y under TOPK (R329, R330). -/
def topkContribution (j : Nat) (e : Int) (ys : List Nat) : Contribution :=
  let kept := ((chunks 4096 ys.length ys).map (keepOf j)).flatten
  let qs := ys.zipWith (fun y k => if k then quantiseAt e y else (0, false, false)) kept
  { sums := qs.map fun q => q.1, sat := countIf qs fun q => q.2.1, under := countIf qs fun q => q.2.2, kept := kept
    feedback := ys.zipWith (fun y q => residual e y q.1) qs, mags := [] }

/-- The magnitude of a sub-block under SIGN (R331): the rounded mean, clamped as R323 clamps; 2^31 − 1 with a NaN. -/
def signMag (e : Int) (block : List Nat) : Int × Bool × Bool :=
  let vs := block.map fun y => (f32.decode y).abs
  if vs.any Val.isNan then (2 ^ 31 - 1, true, false)
  else quantise (((vs.foldl Val.add Val.zero).div (Val.ofInt block.length 0)).scale (-e))

/-- Whether SIGN sends +a for an element: y is +0 or above (R331). -/
def signPlus (y : Nat) : Bool := !isNan32 y && !y.testBit 31

/-- The contribution of y under SIGN (R329, R331). -/
def signContribution (e : Int) (ys : List Nat) : Contribution :=
  let blocks := (chunks 256 ys.length ys).map fun b => (b, signMag e b)
  let sums := (blocks.map fun b => b.1.map fun y => if signPlus y then b.2.1 else -b.2.1).flatten
  { sums := sums, sat := countIf blocks fun b => b.2.2.1, under := countIf blocks fun b => b.2.2.2, kept := []
    feedback := ys.zipWith (residual e) sums, mags := blocks.map fun b => b.2.1 }

/-- The contribution of this device at a scale exponent (R323, R329 to R331). -/
def Work.contribution (w : Work) (o : Coll) (p : ReduceParams) (e : Int) : Contribution :=
  let c := o.ref.ctx
  let srcs := p.sources.map (w.sourceWords c o.elems p.sourceBf16)
  let ys := fun (_ : Unit) =>
    (srcs.headD []).zipWith (fun x k => (f32.encode .rne ((f32.decode x).add (f32.decode k))).code)
      (w.sourceWords c o.elems false (feedbackAt p o.elems (o.step + 1)))
  match p.compression with
  | .none => plainContribution o.elems e srcs
  | .topk j => topkContribution j e (ys ())
  | .sign => signContribution e (ys ())

/-- The largest exponent over the finite non-zero elements of every source; −32,768 if none (R322, R327). -/
def Work.sourceMax (w : Work) (o : Coll) (p : ReduceParams) : Int :=
  (maxExpOf ((p.sources.map fun a => (w.sourceWords o.ref.ctx o.elems p.sourceBf16 a).map f32.decode).flatten)).getD (-32768)

/-- The bits of the width w of R324: 8 × ceil((32 + ceil(log2 n)) / 8), at most 64. -/
def partialWidth (n : Nat) : Nat := min 64 (8 * ceilDiv (32 + (if n ≤ 1 then 0 else Nat.log2 (n - 1) + 1)) 8)

/-- Elements `lo` to `hi` of a list. -/
def slice {α : Type} (l : List α) (lo hi : Nat) : List α := (l.drop lo).take (hi - lo)

/-- The entries of kept elements of one block (R330): q in [31:0], the index in [43:32]. -/
def topkEntries (sums : List Int) (kept : List Bool) : List Byte :=
  (((sums.zip kept).mapIdx fun i p => (i, p)).filter fun e => e.2.2).flatMap fun e => leBytes 8 (ofSigned 32 e.2.1 + e.1 * 2 ^ 32)

/-- The bytes of one sub-block under SIGN (R331): a, and a sign bit per element. -/
def signBytes (a : Int) (sums : List Int) : List Byte :=
  leBytes 4 (ofSigned 32 a)
    ++ leBytes (ceilDiv sums.length 8) ((sums.mapIdx fun i v => if v = a then 2 ^ i else 0).sum)

/-- The payloads for one shard: first element, integers with their width, bytes (R325, R330, R331). A sub-block whose a is 0
sends + for every element: both signs stand for 0. -/
def payloadsFor (p : ReduceParams) (k : Contribution) (s : Shard) : List (Nat × Nat × List Int × List Byte) :=
  match p.compression with
  | .none =>
    [(s.lo, if p.sources.length = 1 then 4 else partialWidth p.contributors / 8, slice k.sums s.lo s.hi, [])]
  | .topk _ =>
    tab (ceilDiv (s.hi - s.lo) 4096) fun b =>
      let lo := s.lo + 4096 * b
      (lo, 0, [], topkEntries (slice k.sums lo (min s.hi (lo + 4096))) (slice k.kept lo (min s.hi (lo + 4096))))
  | .sign =>
    [(s.lo, 0, [], (tab (ceilDiv (s.hi - s.lo) 256) fun b =>
      let lo := s.lo + 256 * b
      signBytes ((k.mags[lo / 256]?).getD 0) (slice k.sums lo (min s.hi (lo + 256)))).flatten)]

/-! ### Messages -/

/-- A message of a collective to a participant (R320), with its payload bytes counted (R344). -/
def Work.sendPiece (w : Work) (o : Coll) (dest first width : Nat) (ints : List Int) (bytes : List Byte) (last : Bool) : Work :=
  let a : Arrival :=
    { sender := w.d.deviceNumber, also := [], jobTag := o.jobTag.toNat, tensor := o.tensor, sequence := o.sequence, step := o.step,
      attempt := o.attempt, paramsHash := o.params, first := first, width := width, ints := ints, bytes := bytes, last := last }
  (w.sendRouted o.ref.ctx 3 dest o.jobTag false (.collective a)).count Ctr.stitchBytesSent (width * ints.length + bytes.length)

/-- The payloads of a contribution sent to the owner of a shard. -/
def Work.sendPayloads (w : Work) (o : Coll) (dest : Nat) (ps : List (Nat × Nat × List Int × List Byte)) : Work :=
  (ps.mapIdx fun i p => (i, p)).foldl
    (fun w e => w.sendPiece o dest e.2.1 e.2.2.1 e.2.2.2.1 e.2.2.2.2 (e.1 + 1 == ps.length)) w

/-- A trailer on its way (R327): along the tree when the participants are the whole machine, else to the first owner. -/
def Work.sendTrailer (w : Work) (o : Coll) (t : Trailer) : Work :=
  let m : LinkMsg := .trailer o.tensor o.sequence t
  let first := (o.shards.headD { device := 0, lo := 0, hi := 0 }).device
  if o.shards.length = w.deviceCount then
    (if w.d.pitch.role = .follower then w.send w.d.pitch.parentLink (w.link w.d.pitch.parentLink).peerId o.jobTag m else w)
  else if first = w.d.deviceNumber then w
  else w.sendRouted o.ref.ctx 3 first o.jobTag false m

/-- A change of a collective. -/
def Work.updColl (w : Work) (id : Nat) (f : Coll → Coll) : Work :=
  w.upd fun d => { d with colls := d.colls.map fun o => if o.id = id then f o else o }

/-- A collective by number. -/
def Work.coll (w : Work) (id : Nat) : Option Coll := w.d.colls.find? fun o => o.id == id

/-- Clamped values of a reduction counted, and SCALE in an open section (R326). -/
def Work.stitchSaturate (w : Work) (c n : Nat) : Work :=
  if n = 0 then w
  else (w.count Ctr.stitchSaturated n).updCtx c fun x => { x with replay := x.replay.map fun r => { r with scale := true } }

/-! ### Completion -/

/-- The participants whose data this device still expects (R326, R333 to R337, R342). -/
def Work.awaited (w : Work) (o : Coll) : List Nat :=
  let own := w.d.deviceNumber
  let mine := shardOf o.shards own
  let want : List Nat :=
    match o.kind with
    | .reduce _ => if mine.lo < mine.hi then o.shards.map fun s => s.device else []
    | .allGather _ => (o.shards.filter fun s => decide (s.lo < s.hi)).map fun s => s.device
    | .permute _ =>
      let new := shardOf o.newShards own
      (o.shards.filter fun s => decide (max s.lo new.lo < min s.hi new.hi)).map fun s => s.device
    | _ => o.shards.map fun s => s.device
  want.filter fun d => d != own && !o.doneFrom.contains d

/-- One FP32 addition of RING_FP32: the sum's pattern, the exact value last rounded, and whether a value was lost to ±∞. -/
def ringAdd (a : Nat × Val × Bool) (x : Nat) : Nat × Val × Bool :=
  let v := (f32.decode a.1).add (f32.decode x)
  let s := f32.encode .rne v
  (s.code, v, a.2.2 || s.sat)

/-- FP32 patterns added in order from the first (R340). -/
def ringSum : List Nat → Nat × Val × Bool
  | [] => (0, Val.zero, false)
  | x :: xs => xs.foldl ringAdd (x, f32.decode x, false)

/-- The values of the other participants in the order of R340: cyclically from the one after the owner. -/
def Work.ringOrder (w : Work) (o : Coll) : List (List Int) :=
  let ds := o.shards.map fun s => s.device
  let i := ds.findIdx fun d => d == w.d.deviceNumber
  ((ds.drop (i + 1)) ++ ds.take i).map fun d => ((o.pieces.find? fun a => a.sender == d).map fun a => a.ints).getD []

/-- The sums of an owner in RING_FP32, ending with its own values (R340). -/
def Work.ringSums (w : Work) (o : Coll) : List (Nat × Val × Bool) :=
  let rows := w.ringOrder o ++ [o.acc]
  tab o.acc.length fun j => ringSum (rows.map fun r => ((r[j]?).getD 0).toNat)

/-- What an owner stores for its shard as FP32: patterns, results beyond the range, census (R326, R340, R290). -/
def Work.shardOut (w : Work) (o : Coll) (p : ReduceParams) (ref : Int) : List Nat × Nat × Tally :=
  if p.exact then
    let rs := o.acc.map fun s => let v := Val.ofInt s o.exponent; (v, f32.encode .rne v)
    (rs.map fun r => r.2.code, countIf rs fun r => r.2.sat,
      rs.foldl (fun t r => t.add ref r.1 r.2 (f32.decode r.2.code)) Tally.empty)
  else
    let rs := w.ringSums o
    (rs.map fun r => r.1, 0, rs.foldl (fun t r => t.add ref r.2.1 { code := r.1, sat := r.2.2 } (f32.decode r.1)) Tally.empty)

/-- A collective that has completed: it leaves the engine, but for a PERMUTE, which waits for its tick (R337, R344). -/
def Work.endColl (w : Work) (o : Coll) : Work :=
  let w := w.count Ctr.stitchCollectives 1
  let w :=
    match o.kind with
    | .permute _ => w.updColl o.id fun k => { k with finished := true }
    | _ => w.upd fun d => { d with colls := d.colls.filter fun k => k.id != o.id }
  w.tryReport

/-- An owner's shard written and counted (R326, R340); a census identifier beyond the table halts (R290). -/
def Work.writeShard (w : Work) (o : Coll) (p : ReduceParams) : Work :=
  let c := o.ref.ctx
  if o.acc = [] then w.endColl o
  else if p.int64Out then (w.stN c p.output ((o.acc.map fun s => leBytes 8 (ofSigned 64 s)).flatten)).endColl o
  else
    let ref : Int := match p.layer.bind (w.layerEntry c) with | some e => e.ref | none => 0
    let (codes, sat, t) := w.shardOut o p ref
    let w := (w.stN c p.output ((codes.map (leBytes 4)).flatten)).stitchSaturate c sat
    match w.censusAdd c .fp32 { p.tag with layer := p.layer, grad := true } ref t with
    | .error d => w.haltStream o.ref 4 0x84 d
    | .ok w => w.endColl o

/-- The blocks of an ALL_TO_ALL in participant order, its own first element aside (R334). -/
def Work.blocksOf (w : Work) (o : Coll) (p : AllToAllParams) : List (List Byte) :=
  let counts := w.sendCounts o.ref.ctx o.shards.length p
  o.shards.mapIdx fun i s =>
    if s.device = w.d.deviceNumber then
      w.ldN o.ref.ctx (p.send + (counts.take i).sum * p.elemBytes) ((counts[i]?).getD 0 * p.elemBytes)
    else ((o.pieces.filter fun a => a.sender == s.device).map fun a => a.bytes).flatten

/-- The end of an ALL_TO_ALL: the blocks and the counts written, or nothing (R334). -/
def Work.finishAllToAll (w : Work) (o : Coll) (p : AllToAllParams) : Work :=
  let bs := w.blocksOf o p
  if p.recvCapacity < bs.flatten.length then w.haltStream o.ref 4 0x66 (bs.flatten.length % 2 ^ 32)
  else
    let w := w.stN o.ref.ctx p.recv bs.flatten
    (w.stN o.ref.ctx p.recvCounts ((bs.map fun b => leBytes 8 (b.length / p.elemBytes)).flatten)).endColl o

/-- What completes a collective once everything has arrived (R326, R328, R333 to R337). -/
def Work.tryFinish (w : Work) (id : Nat) : Work :=
  match w.coll id with
  | none => w
  | some o =>
    if o.finished || o.preRound || !(w.awaited o).isEmpty then w
    else
      match o.kind with
      | .reduce p => if p.exact && o.trailer.isNone then w else w.writeShard o p
      | .allGather _ => w.endColl o
      | .allToAll p => w.finishAllToAll o p
      | .small p => (w.stN o.ref.ctx p.dest ((o.acc.map fun x => leBytes 8 (ofSigned 64 x)).flatten)).endColl o
      | .permute _ => w.endColl o

/-- The combined trailer on a device (R328): a count other than n halts; its bits and exponent go into the section flag. -/
def Work.takeTrailer (w : Work) (o : Coll) (p : ReduceParams) (t : Trailer) : Work :=
  if t.contributions ≠ p.contributors then w.haltStream o.ref 4 0x64 (t.contributions % 2 ^ 32)
  else
    let w := w.updColl o.id fun k => { k with trailer := some t }
    let w :=
      if t.scale || t.compute then
        w.updCtx o.ref.ctx fun x =>
          { x with replay := x.replay.map fun r =>
              { r with scale := r.scale || t.scale, compute := r.compute || t.compute, maxExp := max r.maxExp t.maxExp } }
      else w
    w.tryFinish o.id

/-! ### Reductions -/

/-- The raise of E by the SCALE replays of a layer in this step (R303, R322). -/
def Work.raiseOf (w : Work) (c : Nat) (layer : Option Nat) : Int :=
  match layer with
  | none => 0
  | some l => 8 * (((w.ctx c).layerState l).raises : Nat)

/-- E clamped (R322). -/
def clampE (e : Int) : Int := min 127 (max (-128) e)

/-- E from a combined maximum exponent (R322). -/
def Work.preRoundE (w : Work) (c : Nat) (layer : Option Nat) (k : Int) : Int :=
  clampE ((if k = -32768 then -128 else k - 29) + w.raiseOf c layer)

/-- E from history, or none where a pre-round is due (R312, R322). A reduction that names no layer has no history. -/
def Work.historyE (w : Work) (c : Nat) (layer : Option Nat) : Option Int :=
  match layer with
  | none => none
  | some l =>
    match w.layerEntry c l with
    | none => none
    | some e => if bitOf e.flags 2 && ((w.ctx c).layerState l).used == 0 then some (clampE (e.maxExp - 28 + w.raiseOf c layer)) else none

/-- This device's part of an EXACT reduction at E (R323 to R331): its sends, its own shard, its trailer. -/
def Work.contribute (w : Work) (o : Coll) (p : ReduceParams) (e : Int) : Work :=
  let c := o.ref.ctx
  let own := w.d.deviceNumber
  let k := w.contribution o p e
  let trailer : Trailer :=
    { contributions := p.sources.length, maxExp := w.sourceMax o p, scale := decide (0 < k.sat)
      compute := match (w.ctx c).replay with | some r => r.compute | none => false }
  let w := ((w.count Ctr.stitchSaturated k.sat).count Ctr.stitchUnderflow k.under).count Ctr.stitchTopkKept (countIf k.kept id)
  let w := if k.feedback = [] then w else w.stN c (feedbackAt p o.elems o.step) ((k.feedback.map (leBytes 4)).flatten)
  let w := (o.shards.filter fun s => s.device != own && decide (s.lo < s.hi)).foldl
    (fun w s => w.sendPayloads o s.device (payloadsFor p k s)) w
  let mine := shardOf o.shards own
  let o := { o with exponent := e, preRound := false, acc := slice k.sums mine.lo mine.hi }
  let w := w.updColl o.id fun _ => o
  if o.shards.length = 1 then w.takeTrailer o p trailer else (w.sendTrailer o trailer).tryFinish o.id

/-- A reduction begun: E from history, or the pre-round (R322); RING_FP32 sends its FP32 sums (R340). -/
def Work.beginReduce (w : Work) (o : Coll) (p : ReduceParams) : Work :=
  let c := o.ref.ctx
  let own := w.d.deviceNumber
  if !p.exact then
    let srcs := p.sources.map (w.sourceWords c o.elems p.sourceBf16)
    let sums : List Int := tab o.elems fun j => ((ringSum (srcs.map fun s => (s[j]?).getD 0)).1 : Nat)
    let w := (o.shards.filter fun s => s.device != own && decide (s.lo < s.hi)).foldl
      (fun w s => w.sendPiece o s.device s.lo 4 (slice sums s.lo s.hi) [] true) w
    let mine := shardOf o.shards own
    (w.updColl o.id fun k => { k with acc := slice sums mine.lo mine.hi }).tryFinish o.id
  else
    match w.historyE c p.layer with
    | some e => w.contribute o p e
    | none =>
      let k := w.sourceMax o p
      let w := w.count Ctr.stitchPrerounds 1
      if o.shards.length = 1 then w.contribute o p (w.preRoundE c p.layer k)
      else
        (w.updColl o.id fun x => { x with preRound := true }).sendTrailer o
          { contributions := 0, maxExp := k, scale := false, compute := false }

/-! ### The other kinds -/

/-- A participant's shard published (R333). -/
def Work.beginGather (w : Work) (o : Coll) (p : AllGatherParams) : Work :=
  let mine := shardOf o.shards w.d.deviceNumber
  let bs := w.ldN o.ref.ctx p.source ((mine.hi - mine.lo) * p.elemBytes)
  let w := if bs = [] then w else (w.others o).foldl (fun w d => w.sendPiece o d mine.lo 0 [] bs true) w
  (w.stN o.ref.ctx (p.dest + mine.lo * p.elemBytes) bs).tryFinish o.id

/-- The blocks of an ALL_TO_ALL sent (R334). -/
def Work.beginAllToAll (w : Work) (o : Coll) (p : AllToAllParams) : Work :=
  let counts := w.sendCounts o.ref.ctx o.shards.length p
  let w := (o.shards.mapIdx fun i s => (i, s.device)).foldl
    (fun w e =>
      if e.2 = w.d.deviceNumber then w
      else
        w.sendPiece o e.2 0 0 [] (w.ldN o.ref.ctx (p.send + (counts.take e.1).sum * p.elemBytes) ((counts[e.1]?).getD 0 * p.elemBytes)) true) w
  w.tryFinish o.id

/-- The words of an ALLREDUCE_SMALL sent, and held to be combined (R335). -/
def Work.beginSmall (w : Work) (o : Coll) (p : SmallParams) : Work :=
  let ws : List Int := tab p.words fun i => w.les (localKey o.ref.ctx (p.source + 8 * i)) 8
  let w := (w.others o).foldl (fun w d => w.sendPiece o d 0 8 ws [] true) w
  (w.updColl o.id fun k => { k with acc := ws }).tryFinish o.id

/-- Two words combined (R335): wrapping addition, or the signed maximum. -/
def combineWord (mx : Bool) (a b : Int) : Int := if mx then max a b else toSigned 64 (ofSigned 64 (a + b))

/-- The copies of a PERMUTE (R337): to each new owner what it takes of this device's old shard, kept elements locally. -/
def Work.beginPermute (w : Work) (o : Coll) (p : PermuteParams) : Work :=
  let own := w.d.deviceNumber
  let mine := shardOf o.shards own
  let w := o.newShards.foldl
    (fun w s =>
      let lo := max s.lo mine.lo
      let hi := min s.hi mine.hi
      if hi ≤ lo then w
      else
        let bs := w.ldN o.ref.ctx (p.source + (lo - mine.lo) * p.elemBytes) ((hi - lo) * p.elemBytes)
        if s.device = own then w.stN o.ref.ctx (p.dest + (lo - s.lo) * p.elemBytes) bs
        else w.sendPiece o s.device lo 0 [] bs true) w
  w.tryFinish o.id

/-! ### Arrivals -/

/-- The contributions that an arrival carries: element and integer (R325, R330, R331). -/
def arrivalParts (p : ReduceParams) (hi : Nat) (a : Arrival) : List (Nat × Int) :=
  let dense := a.ints.mapIdx fun i v => (a.first + i, v)
  match p.compression with
  | .none => dense
  | .topk _ =>
    dense ++ tab (a.bytes.length / 8) fun k =>
      let x := leNat (slice a.bytes (8 * k) (8 * k + 8))
      (a.first + bitsOf x 43 32, toSigned 32 x)
  | .sign =>
    if a.bytes = [] then dense
    else
      dense ++ tab (hi - a.first) fun i =>
        let at_ := i / 256 * 36
        let m := toSigned 32 (leNat (slice a.bytes at_ (at_ + 4)))
        let plus := ((((a.bytes[at_ + 4 + i % 256 / 8]?).getD 0).toNat)).testBit (i % 8)
        (a.first + i, if plus then m else -m)

/-- Contributions added into an owner's accumulators of width w (R325). -/
def addParts (bits lo : Nat) (acc : List Int) (parts : List (Nat × Int)) : List Int :=
  acc.mapIdx fun i s =>
    let add := (parts.filter fun q => q.1 == lo + i).map fun q => q.2
    if add = [] then s else toSigned bits (ofSigned bits (s + add.foldl (· + ·) 0))

/-- The payload bytes of an arrival. -/
def arrivalBytes (a : Arrival) : Nat := a.width * a.ints.length + a.bytes.length

/-- The data of an arrival taken into its collective (R325, R326, R333 to R337, R340). -/
def Work.absorb (w : Work) (o : Coll) (a : Arrival) : Work :=
  let own := w.d.deviceNumber
  let mine := shardOf o.shards own
  match o.kind with
  | .reduce p =>
    if p.exact then
      w.updColl o.id fun k =>
        { k with acc := if k.preRound then k.acc else addParts (partialWidth p.contributors) mine.lo k.acc (arrivalParts p mine.hi a)
                 pieces := if k.preRound then k.pieces ++ [a] else k.pieces }
    else w.updColl o.id fun k => { k with pieces := k.pieces ++ [a] }
  | .allGather p =>
    w.stN o.ref.ctx (p.dest + a.first * p.elemBytes) (a.bytes.take ((o.elems - a.first) * p.elemBytes))
  | .allToAll _ => w.updColl o.id fun k => { k with pieces := k.pieces ++ [a] }
  | .small p =>
    let mx := fun (i : Nat) => (w.le (localKey o.ref.ctx (p.maxMap + i / 8)) 1).testBit (i % 8)
    w.updColl o.id fun k => { k with acc := k.acc.mapIdx fun i x => match a.ints[i]? with | some y => combineWord (mx i) x y | none => x }
  | .permute p =>
    let new := shardOf o.newShards own
    if a.first < new.lo then w
    else w.stN o.ref.ctx (p.dest + (a.first - new.lo) * p.elemBytes) (a.bytes.take ((new.hi - a.first) * p.elemBytes))

/-- The owner of the shard that a partial on its way belongs to, where that is another device (R325). -/
def Work.onward (w : Work) (o : Coll) (a : Arrival) : Option Nat :=
  match o.kind with
  | .reduce _ =>
    ((o.shards.find? fun s => decide (s.lo ≤ a.first) && decide (a.first < s.hi)).map fun s => s.device).filter fun d => d != w.d.deviceNumber
  | _ => none

/-- An arrival of a running collective (R320): the sender's parameters compared at its first data; a partial for another owner
goes on along its route (R325; this device's own partial has gone before it, and integer sums do not depend on the grouping);
else its data is taken. -/
def Work.acceptArrival (w : Work) (o : Coll) (a : Arrival) : Work :=
  let fresh := !o.heard.contains a.sender
  let w := w.count Ctr.stitchBytesReceived (arrivalBytes a)
  if fresh && a.paramsHash != o.params then w.haltStream o.ref 4 0x64 a.sender
  else
    match w.onward o a with
    | some d =>
      (w.sendRouted o.ref.ctx 3 d o.jobTag false (.collective a)).count Ctr.stitchBytesSent (arrivalBytes a)
    | none =>
      let w := w.absorb o a
      let w := w.updColl o.id fun k =>
        { k with
          heard := if fresh then k.heard ++ [a.sender] else k.heard
          doneFrom := if a.last then k.doneFrom ++ (a.sender :: a.also) else k.doneFrom }
      w.tryFinish o.id

/-- Whether an arrival belongs to a collective (R320). -/
def collMatches (o : Coll) (a : Arrival) : Bool :=
  !o.finished && o.jobTag.toNat == a.jobTag && o.tensor == a.tensor && o.sequence == a.sequence && o.step == a.step && o.attempt == a.attempt

/-- Whether an arrival is of an attempt that a later one has superseded (R328). -/
def Work.staleArrival (w : Work) (a : Arrival) : Bool :=
  match w.tagged a.jobTag with
  | none => false
  | some c => a.step == (w.ctx c).step && decide (a.attempt < (w.ctx c).attempt)

/-- The bytes held by the stitch section of a link's die (R18, R320). -/
def Work.heldArrivals (w : Work) (link : Nat) : Nat :=
  ((w.d.arrivals.filter fun e => e.1 / 18 == link / 18).map fun e => arrivalBytes e.2).sum

/-- Data from a peer (R320, R328): taken into its collective, discarded when superseded, else held while the section's 4 MiB
have room; a full buffer takes nothing. -/
def Work.takeArrival (w : Work) (link : Nat) (a : Arrival) : Work :=
  match w.d.colls.find? fun o => collMatches o a with
  | some o => w.acceptArrival o a
  | none =>
    if w.staleArrival a then w.count Ctr.stitchStaleDiscards 1
    else if 4194304 < w.heldArrivals link + arrivalBytes a then w
    else w.upd fun d => { d with arrivals := d.arrivals ++ [(link, a)] }

/-- The held data of a collective that has started, taken in the order in which it came (R320). -/
def Work.takeHeld (w : Work) (id : Nat) : Work :=
  match w.coll id with
  | none => w
  | some o =>
    let mine := w.d.arrivals.filter fun e => collMatches o e.2
    let w := w.upd fun d => { d with arrivals := d.arrivals.filter fun e => !collMatches o e.2 }
    mine.foldl (fun w e => match w.coll id with | some o => w.acceptArrival o e.2 | none => w) w

/-! ### Starting -/

/-- A collective as its command names it; `e` is its entry and `new` the shadow map's. -/
def Work.makeColl (w : Work) (r : StreamRef) (k : CollKind) (e : ShardEntry) (new : Option ShardEntry) : Coll :=
  let x := w.ctx r.ctx
  let c := collCommon k
  { id := w.d.nextId, ref := r, kind := k, jobTag := x.jobTag, tensor := e.tensor, sequence := c.sequence, step := x.step,
    attempt := x.attempt, elems := e.elems, shards := w.shards e, newShards := match new with | some n => w.shards n | none => [],
    params := agreedParams k, exponent := 0, preRound := false, acc := [], pieces := [], heard := [], doneFrom := [], trailer := none,
    dueTick := match k with | .permute p => p.commitTick | _ => w.tick + 1 + c.span, finished := false }

/-- The halt of a collective from its context and parameters, before its entry is read (R319, R321, R340, R343, R371). -/
def Work.collHalt (w : Work) (c : Nat) (k : CollKind) : Option (Nat × Nat) :=
  let n := w.le (w.d.active.shardMap + 8) 4
  if (w.ctx c).urgent then some (0x22, 0)
  else if ((w.d.active.quotas[c]?).getD Quota.zero).stitch = 0 then some (0x43, 4)
  else if !paramsOk k then some (0x22, 0)
  else if w.d.active.shardMap = 0 ∨ n ≤ (collCommon k).entry then some (0x63, (collCommon k).entry)
  else if w.mixed && needsV2 k then some (0x65, (collCommon k).entry)
  else none

/-- The halt of a collective from its entries, layer, routes and regions (R297, R320, R336, R343, R361, R470, R487, R493). -/
def Work.collFault (w : Work) (o : Coll) (e : ShardEntry) (new : Option ShardEntry) : Option (Nat × Nat) :=
  let c := o.ref.ctx
  let own := w.d.deviceNumber
  let entry := (collCommon o.kind).entry
  let entries :=
    match o.kind with
    | .permute _ => (match new with | some n => n.elems == e.elems && n.first == e.first | none => false)
    | _ => true
  let layer := match o.kind with | .reduce p => p.layer | _ => none
  let (reads, writes) := w.collRanges o
  if !entries || !((o.shards ++ o.newShards).any fun s => s.device == own) then some (0x63, entry)
  else if layer.isSome && (layer.bind (w.layerEntry c)).isNone then some (0x82, layer.getD 0)
  else
    match (w.others o).find? fun d => (w.routeLink 3 d).isNone with
    | some d => some (0x68, d)
    | none => if w.regionSmall o then some (0x22, 0) else firstFault [w.rangesFault c reads false, w.rangesFault c writes true]

/-- The kind's own start. -/
def Work.beginColl (w : Work) (o : Coll) : Work :=
  match o.kind with
  | .reduce p => w.beginReduce o p
  | .allGather p => w.beginGather o p
  | .allToAll p => w.beginAllToAll o p
  | .small p => w.beginSmall o p
  | .permute p => w.beginPermute o p

/-- The blocks of the read ranges verified (R493): the number, or the address of the first that fails. -/
def Work.verifyAll (w : Work) : List (Nat × Nat) → Except Nat Nat
  | [] => .ok 0
  | r :: rs =>
    match w.verifyRange r.1 r.2 with
    | .error b => .error b
    | .ok n => (w.verifyAll rs).map fun m => n + m

/-- A collective whose checks have passed: put into the engine and begun, held data following (R320, R321). -/
def Work.launch (w : Work) (o : Coll) : Work :=
  let w := w.upd fun d => { d with nextId := d.nextId + 1, colls := d.colls ++ [o] }
  (w.beginColl o).takeHeld o.id

/-- The shadow entry that a PERMUTE names beside the active one (R336). -/
def Work.newEntry (w : Work) (k : CollKind) (e : ShardEntry) : Option ShardEntry :=
  match k with
  | .permute _ => w.shadowEntry e.tensor
  | _ => none

/-- The active entry that a collective names (R317). -/
def Work.namedEntry (w : Work) (k : CollKind) : ShardEntry := w.shardEntry w.d.active.shardMap (collCommon k).entry

/-- The collective that a command names (R319, R320). -/
def Work.named (w : Work) (r : StreamRef) (k : CollKind) : Coll := w.makeColl r k (w.namedEntry k) (w.newEntry k (w.namedEntry k))

/-- A collective whose checks have passed, its arm where it is a PERMUTE, its start (R321, R336). -/
def Work.admitColl (w : Work) (r : StreamRef) (k : CollKind) (o : Coll) : Work :=
  match k with
  | .permute p =>
    (match w.permuteArm r.ctx p with
      | (w, some reason) => w.haltStream r 4 reason (collCommon k).entry
      | (w, none) => w.launch o)
  | _ => w.launch o

/-- A collective command (R319 to R321): its checks in order, the arm of a PERMUTE, its start; 64 are in flight at once. -/
def Work.startColl (w : Work) (r : StreamRef) (k : CollKind) : Work :=
  match w.collHalt r.ctx k with
  | some (reason, d) => w.haltStream r 4 reason d
  | none =>
    match w.collFault (w.named r k) (w.namedEntry k) (w.newEntry k (w.namedEntry k)) with
    | some (reason, d) => w.haltStream r 4 reason d
    | none =>
      let reads := (w.collRanges (w.named r k)).1
      match reads.findSome? fun q => if q.2 = 0 then none else w.poisonIn q.1 q.2 with
      | some p => w.poisonHalt r.ctx (streamRec r 4 0x41 p) p
      | none =>
        match w.verifyAll reads with
        | .error b => w.haltStream r 4 0x42 b
        | .ok n =>
          if 64 ≤ (w.d.colls.filter fun o => !o.finished).length then w.stall r.ctx Ctr.stallQueueFull 9
          else (w.count Ctr.tensorBlocksVerified n).admitColl r k (w.named r k)

/-- A collective command of a context that runs. -/
def Work.runColl (w : Work) (r : StreamRef) (k : CollKind) : Work := if (w.ctx r.ctx).active then w.startColl r k else w

/-- The pre-round's result, or the combined trailer (R322, R328). -/
def Work.returnTrailer (w : Work) (o : Coll) (t : Trailer) : Work :=
  match o.kind with
  | .reduce p =>
    if !p.exact || o.trailer.isSome then w
    else if o.preRound then
      let early := o.pieces
      let w := w.contribute { o with pieces := [] } p (w.preRoundE o.ref.ctx p.layer t.maxExp)
      let w := early.foldl (fun w a => match w.coll o.id with | some k => w.absorb k a | none => w) w
      w.tryFinish o.id
    else w.takeTrailer o p t
  | _ => w

/-! ### The commands -/

/-- REDUCE_SCATTER. -/
def execReduceScatter (r : StreamRef) (p : ReduceParams) (s : State) : Host.Outcome State Fault Refusal :=
  .next (s.exec fun w => w.runColl r (.reduce p))

/-- ALL_GATHER. -/
def execAllGather (r : StreamRef) (p : AllGatherParams) (s : State) : Host.Outcome State Fault Refusal :=
  .next (s.exec fun w => w.runColl r (.allGather p))

/-- ALL_TO_ALL. -/
def execAllToAll (r : StreamRef) (p : AllToAllParams) (s : State) : Host.Outcome State Fault Refusal :=
  .next (s.exec fun w => w.runColl r (.allToAll p))

/-- ALLREDUCE_SMALL. -/
def execAllreduceSmall (r : StreamRef) (p : SmallParams) (s : State) : Host.Outcome State Fault Refusal :=
  .next (s.exec fun w => w.runColl r (.small p))

/-- PERMUTE. -/
def execPermute (r : StreamRef) (p : PermuteParams) (s : State) : Host.Outcome State Fault Refusal :=
  .next (s.exec fun w => w.runColl r (.permute p))

/-- COLLECTIVE_DATA_ARRIVAL: over a link that is UP (R463). -/
def execCollectiveDataArrival (link : Nat) (a : Arrival) (s : State) : Host.Outcome State Fault Refusal :=
  .next (s.exec fun w => if (w.link link).state = .up then w.takeArrival link a else w)

/-- TRAILER_RETURN: of a running reduction. -/
def execTrailerReturn (op : Nat) (tr : Trailer) (s : State) : Host.Outcome State Fault Refusal :=
  .next (s.exec fun w => match w.coll op with | some o => w.returnTrailer o tr | none => w)

/-- COLLECTIVE_TIMEOUT: while some expected sender's data has not all arrived, its lowest device in the detail (R342). -/
def execCollectiveTimeout (op : Nat) (s : State) : Host.Outcome State Fault Refusal :=
  .next (s.exec fun w =>
    match w.coll op with
    | none => w
    | some o =>
      match w.awaited o with
      | [] => w
      | d :: ds => if o.finished then w else w.haltStream o.ref 4 0x62 (ds.foldl min d))

end Sys2Proof.Machine
end

