-- ==== Sys2Proof/Machine/Training.lean ====
section
/-!
DEFINITION. The format governor (R298 to R300, R310, R311), and replay sections (R301 to R306).
-/

namespace Sys2Proof.Machine

/-! ### The governor -/

/-- No element summarised. -/
def Summary.none (layer replays : Nat) : Summary :=
  { layer := layer, elements := 0, zeros := 0, maxExp := -32768, hist := List.replicate 16 0, replays := replays }

/-- One record of a layer's gradient tensors added into its summary (R298). -/
def Work.addRecord (w : Work) (s : Summary) (a : Nat) : Summary :=
  { s with
    elements := s.elements + w.le (a + 16) 8
    zeros := s.zeros + w.le (a + 24) 8
    maxExp := max s.maxExp (w.les (a + 12) 2)
    hist := s.hist.mapIdx fun i h => h + w.le (a + 64 + 8 * i) 8 }

/-- The summary of a layer from the bank of a step: every gradient record that the step wrote for it (R298, R291). -/
def Work.summary (w : Work) (c layer step : Nat) : Summary :=
  let x := w.ctx c
  let (base, n) := x.censusTable
  (List.range n).foldl
    (fun s t =>
      let a := localKey c (base + 192 * (2 * t + step % 2))
      if w.le (a + 4) 4 = step % 2 ^ 32 ∧ bitOf (w.le (a + 9) 1) 0 ∧ w.le (a + 10) 2 = layer then w.addRecord s a else s)
    (Summary.none layer (x.layerState layer).usedLast)

/-- The finite non-zero elements that a summary's histogram holds. -/
def finiteCount (s : Summary) : Nat := s.hist.sum

/-- The elements that a rung cannot hold (R300). -/
def tailCount (s : Summary) : Nat → Nat
  | 0 => (s.hist.drop 15).sum
  | 1 => (s.hist.drop 8).sum
  | _ => 0

/-- tail(r) ≤ threshold, as parts per million of the finite non-zero elements (R300). -/
def tailFits (s : Summary) (threshold r : Nat) : Bool := decide (tailCount s r * 1000000 ≤ threshold * finiteCount s)

/-- What a governor decision does beside the new entry: the rung chosen at the end of warm-up, and a silence event with
whether it raised the rung. -/
structure Decision where
  entry : LayerEntry
  warmDone : Option Nat
  silent : Option Bool
  deriving DecidableEq, Repr

/-- The warm-up and hysteresis part of R299. -/
def governRung (e : LayerEntry) (s : Summary) (hysteresis threshold : Nat) : LayerEntry × Option Nat :=
  if 0 < e.warm then
    if e.warm = 1 then
      let r := ((List.range 4).find? fun r => decide (e.minRung ≤ r) && tailFits s threshold r).getD 3
      ({ e with warm := 0, rung := r }, some r)
    else ({ e with warm := e.warm - 1, rung := 3 }, none)
  else if 0 < s.replays then ({ e with stepsAt := 0 }, none)
  else
    let n := min 65535 (e.stepsAt + 1)
    if hysteresis ≤ n ∧ e.minRung < e.rung ∧ tailFits s threshold (e.rung - 1) then ({ e with rung := e.rung - 1, stepsAt := 0 }, none)
    else ({ e with stepsAt := n }, none)

/-- The silence watch of R310. -/
def watchSilence (e : LayerEntry) (s : Summary) (warming : Bool) (threshold steps : Nat) : LayerEntry × Option Bool :=
  let n :=
    if s.elements = 0 then e.silent
    else if threshold * s.elements ≤ s.zeros * 1000000 then e.silent + 1
    else 0
  if steps ≤ n then
    let up := !warming && decide (e.rung < e.maxRung)
    ({ e with silent := 0, rung := if up then e.rung + 1 else e.rung, stepsAt := if up then 0 else e.stepsAt }, some up)
  else ({ e with silent := n }, none)

/-- A number clamped to a signed byte. -/
def clampByte (i : Int) : Int := min 127 (max (-128) i)

/-- The scales of R299 from a summary with a finite non-zero element. -/
def governScales (e : LayerEntry) (s : Summary) : LayerEntry :=
  if s.maxExp = -32768 then e
  else
    { e with
      maxExp := s.maxExp, ref := s.maxExp, scatterE := clampByte (s.maxExp - 28)
      scale := if e.rung ≤ 1 then clampByte (s.maxExp + 2 - fmtTop (rungFmt e.rung)) else e.scale }

/-- The default policy of R299 for one layer; `head` is the address of the table header. -/
def Work.governDecision (w : Work) (head : Nat) (e : LayerEntry) (s : Summary) (override step : Nat) : Decision :=
  let warming := decide (0 < e.warm)
  let (e, warmDone) := governRung e s (w.le (head + 18) 2) (w.le (head + 20) 4)
  let watched := bitOf (w.le (head + 17) 1) 1 && !bitOf e.flags 1
  let (e, silent) := if watched then watchSilence e s warming (w.le (head + 24) 4) (w.le (head + 28) 2) else (e, none)
  let e := { e with rung := min (max (max e.rung override) e.minRung) e.maxRung }
  let e := governScales e s
  { entry := { e with flags := e.flags ||| 4, decision := step % 2 ^ 32 }, warmDone := warmDone, silent := silent }

/-- An entry's fields written at an address (R295). -/
def Work.writeLayer (w : Work) (a : Nat) (e : LayerEntry) : Work :=
  w.wr a
    (leBytes 1 e.rung ++ leBytes 1 e.minRung ++ leBytes 1 e.maxRung ++ leBytes 1 e.flags ++ leBytes 1 e.warm
      ++ leBytes 1 (ofSigned 8 e.scale) ++ leBytes 1 (ofSigned 8 e.scatterE) ++ leBytes 1 0 ++ leBytes 2 (ofSigned 16 e.maxExp)
      ++ leBytes 2 (ofSigned 16 e.ref) ++ leBytes 2 e.stepsAt ++ leBytes 2 e.silent ++ leBytes 4 e.decision)

/-- One layer governed: its summary, its new entry in the table at `base`, its events (R298, R299, R310). -/
def Work.governLayer (w : Work) (c step base : Nat) (machine : List Summary) (layer : Nat) : Work :=
  let head := w.d.active.format
  match w.layerEntry c layer with
  | none => w
  | some e =>
    if !bitOf e.flags 0 then w
    else
      let own := w.summary c layer step
      let s := if bitOf (w.le (head + 17) 1) 2 then (machine.find? fun m => m.layer == layer).getD own else own
      let d := w.governDecision head e s (((w.ctx c).layerState layer).override.getD 0) step
      let w := w.writeLayer (base + (e.addr - head)) d.entry
      let w := match d.warmDone with
        | some r => w.postEvent c 0x0012 (leBytes 2 layer ++ leBytes 4 step ++ leBytes 1 r)
        | none => w
      match d.silent with
      | some up =>
        (w.count Ctr.silenceWidenings (if up then 1 else 0)).postEvent c 0x0011
          (leBytes 2 layer ++ leBytes 4 step ++ leBytes 1 (if up then 1 else 0))
      | none => w

/-- The new table's base in the shadow set and the machine-scope arm (R67, R70, R298). A standing arm of the governor for the
same table and tick carries it. -/
def Work.governArm (w : Work) (c base target : Nat) : Work :=
  let standing := w.d.cfg.armed.isSome
  let w :=
    if w.d.shadow.format = base then w
    else if standing then w.updCfg fun k => { k with writeWhileArmed := true }
    else w.upd fun d => { d with shadow := { d.shadow with format := base } }
  if standing then
    (if decide (w.d.cfg.armed = some .machine) && w.d.cfg.target == target && w.d.shadow.format == base then w
      else w.updCfg fun k => { k with armWhileArmed := true })
  else
    let w := w.arm true target
    if w.d.cfg.armed.isSome then w.upd fun d => { d with fw := { d.fw with governorArm := some (c, base, target) } } else w

/-- A governor update (R298): with the governor enabled, the entries of a context's managed layers decided and written into the
table at `base`, which starts as a copy of the active table. -/
def Work.govern (w : Work) (c step base target : Nat) (machine : List Summary) : Work :=
  let act := w.d.active.format
  if act = 0 ∨ base = act ∨ !bitOf (w.le (act + 17) 1) 0 then w
  else
    let w := if w.d.shadow.format = base then w else w.wr base (w.rdN act (128 + 32 * w.le (act + 6) 2))
    let w := (List.range (w.formatRange act c).2).foldl (fun w l => w.governLayer c step base machine l) w
    w.governArm c base target

/-! ### Replay sections -/

/-- A layer's state outside its sections replaced. -/
def Ctx.setLayer (x : Ctx) (l : LayerState) : Ctx := { x with layers := (x.layers.filter fun k => k.layer != l.layer) ++ [l] }

/-- A stream's next command and key as a restart point. -/
def EStream.mark (s : EStream) : Nat × Nat × Nat := (s.number, s.next, s.lastQ)

/-- A section opened with its restart point (R301, R303, R304). -/
def Work.openSection (w : Work) (r : StreamRef) (layer : Nat) : Work :=
  let x := w.ctx r.ctx
  if x.replay.isSome then w.haltStream r 6 0x83 0
  else if (w.layerEntry r.ctx layer).isNone then w.haltStream r 6 0x82 layer
  else
    let tiles := (x.tiles.filter fun t => decide ((w.tile t).run = .running)).map fun t => (t, (w.tile t).pc, (w.tile t).curQ)
    let streams := match x.job with | some j => j.streams.map EStream.mark | none => []
    w.updCtx r.ctx fun x =>
      { x with
        replay := some
          { layer := layer, ref := r, checkRef := r, nexts := streams, tilePcs := tiles, attempt := 0, scale := false, compute := false,
            maxExp := -32768, windows := [], checking := false } }

/-- Whether a reference's key lies in a section: at or after its REPLAY_OPEN and before a key. -/
def keyWithin (o : StreamRef) (step q s1 q1 : Nat) : Bool := !keyLt s1 q1 o.keyStep o.keyQ && keyLt s1 q1 step q

/-- Whether an engine operation of a context stands with a key that satisfies a test. -/
def Work.opsWith (w : Work) (c : Nat) (f : StreamRef → Bool) : Bool :=
  let g := fun (r : StreamRef) => r.ctx == c && f r
  (w.d.trav.any fun o => g o.ref) || (w.d.gathers.any fun o => g o.ref) || (w.d.scatters.any fun o => g o.ref)
    || (w.d.merges.any fun o => g o.ref) || (w.d.colls.any fun o => g o.ref && !o.finished)

/-- Whether an operation of the open section has not completed (R302). -/
def Work.sectionBusy (w : Work) (c : Nat) (r : Replay) (k : StreamRef) : Bool :=
  let x := w.ctx c
  (x.cmds.any fun m => m.started && keyWithin r.ref k.keyStep k.keyQ m.step m.desc.q)
    || w.opsWith c (fun o => keyWithin r.ref k.keyStep k.keyQ o.keyStep o.keyQ)
    || x.tiles.any fun t => !(w.tile t).drained

/-- REPLAY_CHECK (R302, R304): it waits for the section's operations; in a machine of more than one device it then sends the
cause bits and the maximum exponent along the trailer path. -/
def Work.checkSection (w : Work) (k : StreamRef) : Work :=
  let x := w.ctx k.ctx
  match x.replay with
  | none => w.haltStream k 6 0x83 0
  | some r =>
    if w.sectionBusy k.ctx r k then w.stall k.ctx Ctr.stallScoreboard 11
    else
      let w := w.updCtx k.ctx fun x => { x with replay := some { r with checking := true, checkRef := k } }
      let machine := match x.job with | some j => j.machine | none => false
      if machine && decide (1 < w.deviceCount) && decide (w.d.pitch.role = .follower) then
        let p := w.d.pitch.parentLink
        w.send p (w.link p).peerId x.jobTag
          (.words 0 0 [BitVec.ofNat 64 ((if r.scale then 1 else 0) + (if r.compute then 2 else 0)), BitVec.ofInt 64 r.maxExp])
      else w

/-- Whether a set flag ends the job instead of replaying (R305). -/
def Work.exhausted (w : Work) (l : LayerState) (e : LayerEntry) (rung : Nat) (scale compute : Bool) : Bool :=
  decide (w.le (w.d.active.format + 16) 1 ≤ l.used) || (compute && (decide (3 ≤ rung) || decide (e.maxRung ≤ rung)))
    || (scale && decide (3 ≤ l.raises))

/-- A layer's state for the next attempt (R303). -/
def nextAttempt (l : LayerState) (rung : Nat) (s : Int) (scale compute : Bool) (k : Int) : LayerState :=
  let l := { l with used := l.used + 1, raises := if scale then l.raises + 1 else l.raises }
  if compute then
    { l with
      override := some (rung + 1)
      scaleOverride := if rung + 1 ≤ 1 ∧ k ≠ -32768 then some (k + 1 - fmtTop (rungFmt (rung + 1))) else some s }
  else l

/-- The engine operations of a context from a key onward discarded: the restart issues them again (R303). -/
def Work.dropFrom (w : Work) (c step q : Nat) : Work :=
  w.upd fun d =>
    let gone := fun (r : StreamRef) => r.ctx == c && !keyLt r.keyStep r.keyQ step q
    let ids := fun (o : Nat) => (d.gathers.any fun g => g.id == o && gone g.ref) || (d.scatters.any fun g => g.id == o && gone g.ref)
    { d with
      trav := d.trav.filter fun o => !gone o.ref
      gathers := d.gathers.filter fun o => !gone o.ref
      units := d.units.map fun u => u.without ids
      lines := d.lines.filter fun l => !ids l.op
      scatters := d.scatters.filter fun o => !gone o.ref
      merges := d.merges.filter fun o => !gone o.ref
      colls := d.colls.filter fun o => !gone o.ref }

/-- Streams put back to a restart point. -/
def restartStreams (nexts : List (Nat × Nat × Nat)) (ss : List EStream) : List EStream :=
  ss.map fun s =>
    match nexts.find? fun n => n.1 == s.number with
    | some n => { s with next := n.2.1, lastQ := n.2.2 }
    | none => s

/-- A tile put back to a restart point, its loop stack empty (R303). -/
def Tile.restartAt (t : Tile) (pc q : Nat) : Tile :=
  { t with run := .running, pc := pc, curQ := q, loops := [], mat := [], vecQueue := 0, dma := [] }

/-- The restart of every tile and engine stream of a context at the point of REPLAY_OPEN (R303). -/
def Work.restart (w : Work) (c : Nat) (r : Replay) : Work :=
  let w := r.tilePcs.foldl (fun w t => w.updTile t.1 fun k => k.restartAt t.2.1 t.2.2) w
  let w := w.dropFrom c r.ref.keyStep r.ref.keyQ
  let w := w.updJob c fun j => { j with streams := restartStreams r.nexts j.streams }
  w.updCtx c fun x =>
    { x with
      cmds := x.cmds.filter fun k => keyLt k.step k.desc.q r.ref.keyStep r.ref.keyQ
      waited := []
      fences := x.fences.filter fun f => keyLt f.step f.q r.ref.keyStep r.ref.keyQ
      replay := some
        { r with
          attempt := r.attempt + 1, scale := false, compute := false, maxExp := -32768, windows := [], checking := false } }

/-- A replay (R303, R306): the layer's state, the section's update areas closed, the restart, the event and its counter. -/
def Work.replaySection (w : Work) (c : Nat) (r : Replay) (l : LayerState) (rung : Nat) (s : Int) (scale compute : Bool) (k : Int) : Work :=
  let l := nextAttempt l rung s scale compute k
  let w := w.updCtx c fun x => x.setLayer l
  let w := (w.d.windows.filter fun a => r.windows.contains a.area).foldl Work.closeArea w
  let w := w.restart c r
  let bits := (if scale then 1 else 0) + (if compute then 2 else 0)
  let w := w.postEvent c 0x0010
    (leBytes 2 r.layer ++ leBytes 4 (w.ctx c).step ++ leBytes 1 r.attempt ++ leBytes 1 bits ++ leBytes 1 (if compute then rung + 1 else rung))
  w.count Ctr.numericsReplays 1

/-- The decision of a section (R303, R305): in a machine the bits and exponent as the machine combined them. -/
def Work.decideSection (w : Work) (c : Nat) (scale compute : Bool) (maxExp : Int) : Work :=
  let x := w.ctx c
  match x.replay with
  | none => w
  | some r =>
    if !r.checking then w
    else
      let machine := match x.job with | some j => j.machine && decide (1 < w.deviceCount) | none => false
      let sc := r.scale || (machine && scale)
      let cp := r.compute || (machine && compute)
      let k := if machine then max r.maxExp maxExp else r.maxExp
      if !sc && !cp then (w.updCtx c fun x => { x with replay := none }).tryReport
      else
        match w.layerEntry c r.layer with
        | none => w.haltStream r.checkRef 6 0x82 r.layer
        | some e =>
          let l := x.layerState r.layer
          let (rung, s) := w.rungOf c r.layer e
          if w.exhausted l e rung sc cp then w.haltStream r.checkRef 6 0x81 r.layer
          else w.replaySection c r l rung s sc cp k

/-! ### The commands -/

/-- GOVERNOR_UPDATE. -/
def execGovernorUpdate (ctx step base target : Nat) (machine : List Summary) (s : State) : Host.Outcome State Fault Refusal :=
  .next (s.exec fun w => if (w.ctx ctx).active then w.govern ctx step base target machine else w)

/-- REPLAY_OPEN. -/
def execReplayOpen (r : StreamRef) (layer : Nat) (s : State) : Host.Outcome State Fault Refusal :=
  .next (s.exec fun w => if (w.ctx r.ctx).active then w.openSection r layer else w)

/-- REPLAY_CHECK. -/
def execReplayCheck (r : StreamRef) (s : State) : Host.Outcome State Fault Refusal :=
  .next (s.exec fun w => if (w.ctx r.ctx).active then w.checkSection r else w)

/-- REPLAY_DECISION: of a section whose check is in progress. -/
def execReplayDecision (ctx : Nat) (scale compute : Bool) (maxExp : Int) (s : State) : Host.Outcome State Fault Refusal :=
  .next (s.exec fun w => if (w.ctx ctx).active then w.decideSection ctx scale compute maxExp else w)

end Sys2Proof.Machine
end

