-- ==== Sys2Proof/Machine/Scoreboard.lean ====
section
/-!
DEFINITION. The scoreboard of a context (R393 to R404): keys and frontiers, the start and completion of a command, fences,
SETREGION and SEQ. A turned-away command counts one stall and is sent again.
-/

namespace Sys2Proof.Machine

/-! ### Keys, frontiers, slots -/

/-- The first key of a job's pitch (R392); an urgent image has no pitch plan, and its keys no range. -/
def Job.low (j : Job) : Nat := if j.urgent then 0 else (j.keyBases[j.pitchInStep]?).getD 0

/-- The end, exclusive, of the keys of a job's pitch: the next pitch's base (R392). -/
def Job.high (j : Job) : Nat := if j.urgent then 2 ^ 32 else (j.keyBases[j.pitchInStep + 1]?).getD 0

/-- Whether two commands come from one stream or one tile. -/
def sameOrigin : CmdFrom → CmdFrom → Bool
  | .stream a, .stream b => a.ctx == b.ctx && a.stream == b.stream
  | .tile a, .tile b => a.tile == b.tile
  | _, _ => false

/-- The tile of an issuer, if it is one. -/
def tileOf : CmdFrom → Option Nat
  | .tile t => some t.tile
  | .stream _ => none

/-- Whether an issuer is stream `n`. -/
def isStream (f : CmdFrom) (n : Nat) : Bool := match f with | .stream r => r.stream == n | .tile _ => false

/-- A job's stream by number. -/
def Job.stream (j : Job) (n : Nat) : Option EStream := j.streams.find? fun s => s.number == n

/-- A stream of a job changed. -/
def Job.updStream (j : Job) (n : Nat) (f : EStream → EStream) : Job :=
  { j with streams := j.streams.map fun s => if s.number = n then f s else s }

/-- A stream's frontier (R398): the key of its next command, or the next pitch's base. -/
def EStream.frontier (s : EStream) (j : Job) (heads : List (Nat × Nat)) : Nat :=
  if s.issued then j.high else max s.lastQ (((heads.find? fun h => h.1 == s.number).map fun h => h.2).getD 0)

/-- A tile's frontier (R398); a stopped tile issues nothing more and holds no key back. -/
def Tile.frontier (k : Tile) (j : Job) : Nat :=
  match k.run with
  | .running => max k.curQ j.low
  | .pitchDone => j.high
  | .stopped => 2 ^ 32

/-- Condition 1 of R398: every other stream and tile of the context has a frontier at or above a key. -/
def Work.frontierReached (w : Work) (j : Job) (from_ : CmdFrom) (q : Nat) (heads : List (Nat × Nat)) : Bool :=
  (j.streams.all fun s => isStream from_ s.number || decide (q ≤ s.frontier j heads))
    && (List.range 64).all fun t => !j.tileMask.getLsbD t || tileOf from_ == some t || decide (q ≤ (w.tile t).frontier j)

/-- The region slots of an issuer (R395). -/
def Work.slotsOf (w : Work) (j : Job) (from_ : CmdFrom) : List Region :=
  match from_ with
  | .tile t => (w.tile t.tile).regions
  | .stream r => match j.stream r.stream with | some s => s.regions | none => []

/-- The running job whose plan dispatches an issuer's commands, with the context. -/
def Work.runningJob (w : Work) (c : Nat) : Option Job :=
  match (w.ctx c).job with
  | some j => if (w.ctx c).active ∧ j.started then some j else none
  | none => none

/-- Whether a stream may issue its next command (R394): its job runs and the plan dispatches one more in this pitch. -/
def Work.dispatchable (w : Work) (r : StreamRef) : Option (Job × EStream) :=
  match w.runningJob r.ctx with
  | none => none
  | some j =>
    match j.stream r.stream with
    | none => none
    | some s => if s.issued then none else some (j, s)

/-- A stream's next command issued, with its key if it has one. -/
def Work.advanceStream (w : Work) (r : StreamRef) (q : Option Nat) : Work :=
  let cyc := w.d.pitch.cycle.toNat
  w.updJob r.ctx fun j =>
    j.updStream r.stream fun s => { s with next := s.next + 1, lastQ := q.getD s.lastQ, doneCycle := cyc }

/-! ### What an attempt comes to -/

/-- What an attempt to issue a command comes to: issued; turned away under a stall cause; or a halt. -/
inductive Gate where
  | go (w : Work)
  | stall (cause : Nat)
  | halt (reason detail : Nat)

/-- An attempt by a stream: its result as a state. -/
def Work.byStream (w : Work) (r : StreamRef) (engine : Nat) (q : Option Nat) (g : Gate) : Work :=
  match g with
  | .go v => (v.advanceStream r q).tryReport
  | .stall cause => w.stall r.ctx cause 11
  | .halt reason detail => w.haltStream r engine reason detail

/-- An attempt by a tile core. -/
def Gate.issued (g : Gate) : Issued :=
  match g with
  | .go v => .done v
  | .stall cause => .wait cause 0
  | .halt reason detail => .halt 0 reason detail

/-- The halt that a key or a machine fence before it calls for (R393, R404). -/
def Work.keyHalt (w : Work) (c : Nat) (j : Job) (from_ : CmdFrom) (q : Nat) : Option Nat :=
  let broken := (w.ctx c).fences.any fun f => decide (f.scope = .machine) && sameOrigin f.from_ from_ && f.tick == w.tick
  let last := match from_ with | .stream r => (match j.stream r.stream with | some s => s.lastQ | none => 0) | .tile _ => 0
  if broken then some 0x29
  else if q < last ∨ q < j.low ∨ j.high ≤ q then some 0x28
  else none

/-- The fences, frontiers and section check that hold a key back (R302, R398, R402): the stall cause. -/
def Work.holding (w : Work) (c : Nat) (j : Job) (from_ : CmdFrom) (q : Nat) (heads : List (Nat × Nat)) (rs : List Resolved) : Option Nat :=
  let x := w.ctx c
  let fenced := x.fences.any fun f =>
    keyLt f.step f.q j.step q
      && (match f.scope with | .region _ => rs.any fun r => f.regions.any r.shares | _ => true)
  let checking := match x.replay with
    | some k => k.checking && keyLt k.checkRef.keyStep k.checkRef.keyQ j.step q
    | none => false
  if fenced then some Ctr.stallFence
  else if checking || !w.frontierReached j from_ q heads then some Ctr.stallScoreboard
  else none

/-! ### COMMAND_START -/

/-- The first absent resource that a command names (R4, R406). -/
def Work.absent (w : Work) (k : CmdDesc) : Option Nat :=
  ((k.namesTile.find? fun n => !w.fz.tiles.getLsbD n).or (k.namesLinks.find? fun n => !w.fz.links.getLsbD n)).or
    ((k.namesPorts.find? fun n => !w.fz.capPorts.getLsbD n).or (k.namesGather.find? fun n => !w.fz.gather.getLsbD n))

/-- Whether two commands form the ACCUMULATE chain of R225: both on one tile. -/
def chained (a b : CmdDesc) : Bool :=
  a.chain && b.chain && (match a.from_, b.from_ with | .tile s, .tile t => s.tile == t.tile | _, _ => false)

/-- The issued commands that conflict with a command (R398). -/
def Work.conflicting (w : Work) (c : Nat) (k : CmdDesc) (rs : List Resolved) : List Cmd :=
  (w.ctx c).cmds.filter fun m => !chained m.desc k && m.regions.any fun a => rs.any fun b => a.conflicts b

/-- Whether a source region of a PERMUTE that has not committed is written (R337). -/
def Work.permuteHeld (w : Work) (c : Nat) (rs : List Resolved) : Bool :=
  w.d.colls.any fun o =>
    match o.kind with
    | .permute _ =>
      o.ref.ctx == c && o.finished
        && (w.collRanges o).1.any fun a => rs.any fun b =>
            ({ lo := a.1, len := a.2, write := false, handle := none, ring := none } : Resolved).conflicts b
    | _ => false

/-- A command taken into the scoreboard (R398, R401). -/
def Work.takeCmd (w : Work) (c : Nat) (j : Job) (k : CmdDesc) (rs : List Resolved) : Work :=
  let (n, w) := w.fresh
  let w := w.updCtx c fun x =>
    { x with
      cmds := x.cmds ++ [{ id := n, desc := k, step := j.step, regions := rs, started := true, dueTick := w.tick + 1 + k.later }]
      waited := x.waited.filter fun f => f != k.from_ }
  if k.engine < 6 then w.count Ctr.cpCommandsDispatched 1 else w

/-- A wait on a conflicting command, counted once for each command (R398, R415). -/
def Work.noteConflict (w : Work) (c : Nat) (from_ : CmdFrom) : Work :=
  if (w.ctx c).waited.contains from_ then w
  else (w.count Ctr.scoreboardConflictWaits 1).updCtx c fun x => { x with waited := x.waited ++ [from_] }

/-- An attempt to start a command of a running job (R393, R397 to R401): what comes of it, and the state in which a wait on a
conflict is counted. -/
def Work.tryStart (w : Work) (c : Nat) (j : Job) (k : CmdDesc) : Gate × Work :=
  match w.absent k with
  | some n => (.halt 0x21 n, w)
  | none =>
    match w.keyHalt c j k.from_ k.q with
    | some r => (.halt r 0, w)
    | none =>
      let full := (tileOf k.from_).isNone && decide (256 ≤ ((w.ctx c).cmds.filter fun m => (tileOf m.desc.from_).isNone).length)
      let rs := w.resolveAll c (tileOf k.from_) (w.slotsOf j k.from_) k.uses
      if full then (.stall Ctr.stallQueueFull, w)
      else
        match w.holding c j k.from_ k.q k.heads (match rs with | .ok l => l | .error _ => []) with
        | some cause => (.stall cause, w)
        | none =>
          match rs with
          | .error (r, d) => (.halt r d, w)
          | .ok l =>
            let xs := w.conflicting c k l
            if (xs.any fun m => sameOrigin m.desc.from_ k.from_ || keyLt m.step m.desc.q j.step k.q) || w.permuteHeld c l then
              (.stall Ctr.stallScoreboard, w.noteConflict c k.from_)
            else if xs.any fun m => m.step == j.step && m.desc.q == k.q then (.halt 0x28 0, w)
            else (.go (w.takeCmd c j k l), w)

/-- COMMAND_START of a stream's next command, or of an instruction that a running tile core issues at its current q. -/
def Work.startCmd (w : Work) (k : CmdDesc) : Work :=
  match k.from_ with
  | .stream r =>
    (match w.dispatchable r with
      | none => w
      | some (j, s) =>
        let (g, v) := w.tryStart r.ctx j { k with engine := s.engine }
        v.byStream r s.engine (some k.q) g)
  | .tile t =>
    match w.executing t with
    | none => w
    | some c =>
      match w.runningJob c with
      | none => w
      | some j =>
        match w.tryStart c j { k with engine := 7, q := (w.tile t.tile).curQ } with
        | (.go v, _) => v
        | (.stall cause, v) => v.stall c cause 0
        | (.halt r d, v) => v.haltTile t 0 r d

/-! ### COMMAND_COMPLETE -/

/-- Whether work that a command's issuer began is still under way (R399): operations, collectives and copies of a stream's
command, or array and DMA work of a tile's. -/
def Work.underWay (w : Work) (from_ : CmdFrom) : Bool :=
  match from_ with
  | .stream r => (w.opsWith r.ctx fun o => o == r) || w.d.copies.any fun k => k.ref == some r
  | .tile t =>
    ((w.tile t.tile).mat.any fun m => match m with | .load l => l.ref == t | .stream o => o.ref == t)
      || (w.tile t.tile).dma.any fun o => o.ref == t

/-- COMMAND_COMPLETE of an issued command (R399): it leaves the scoreboard, and the device may be done. -/
def Work.completeCmd (w : Work) (c id : Nat) : Work :=
  match (w.ctx c).cmds.find? fun k => k.id == id with
  | none => w
  | some k =>
    if w.underWay k.desc.from_ then w
    else (w.updCtx c fun x => { x with cmds := x.cmds.filter fun m => m.id != id }).tryReport

/-! ### Fences -/

/-- The regions that a region fence names, each by the access that its descriptor permits (R402). -/
def Work.fenceRegions (w : Work) (c : Nat) (from_ : CmdFrom) (regions : List Region) : List Nat → Except (Nat × Nat) (List Resolved)
  | [] => .ok []
  | n :: ns =>
    let r := (regions[n]?).getD Region.none
    match w.resolve c (tileOf from_) r (!regionReads r), w.fenceRegions c from_ regions ns with
    | .error (e, d), _ => .error (e, if e = 0x26 then n else d)
    | _, .error e => .error e
    | .ok x, .ok xs => .ok (x :: xs)

/-- An attempt to issue a fence (R402, R404). -/
def Work.tryFence (w : Work) (c : Nat) (j : Job) (from_ : CmdFrom) (q : Nat) (heads : List (Nat × Nat)) (scope : FenceScope) : Gate :=
  if decide (scope = .machine) && (j.urgent || (w.ctx c).replay.isSome) then .halt 0x29 0
  else
    match w.keyHalt c j from_ q with
    | some r => .halt r 0
    | none =>
      let rs := match scope with | .region slots => w.fenceRegions c from_ (w.slotsOf j from_) slots | _ => .ok []
      match w.holding c j from_ q heads (match rs with | .ok l => l | .error _ => []), rs with
      | some cause, _ => .stall cause
      | none, .error (r, d) => .halt r d
      | none, .ok l =>
        let (n, w) := w.fresh
        .go (w.updCtx c fun x =>
          { x with fences := x.fences ++ [{ id := n, from_ := from_, tick := w.tick, step := j.step, q := q, scope := scope, regions := l }] })

/-- Whether a fence awaits a command (R402): one of lower key that its scope names. -/
def Fence.awaits (f : Fence) (k : Cmd) : Bool :=
  keyLt k.step k.desc.q f.step f.q
    && (match f.scope with
      | .region _ => k.regions.any fun r => f.regions.any r.shares
      | .engine n => k.desc.engine == n
      | .tile t => tileOf k.desc.from_ == some t
      | .device => true
      | .machine => true)

/-- FENCE_RELEASE of a fence of region, engine or device scope (R402): when every awaited command has completed. A machine
fence is released at step 6 of a tick. -/
def Work.releaseFence (w : Work) (c id : Nat) : Work :=
  match (w.ctx c).fences.find? fun f => f.id == id with
  | none => w
  | some f =>
    if decide (f.scope = .machine) || (w.ctx c).cmds.any f.awaits then w
    else (w.updCtx c fun x => { x with fences := x.fences.filter fun g => g.id != id }).count Ctr.fencesReleased 1

/-! ### SETREGION and SEQ -/

/-- An attempt to rewrite a slot (R395, R396): it waits for the issued commands of its tile or stream that name the slot. -/
def Work.trySetRegion (w : Work) (c : Nat) (from_ : CmdFrom) (slot : Nat) (region : Region) : Gate :=
  if regionBad region (tileOf from_).isSome then .halt 0x26 slot
  else if (w.ctx c).cmds.any fun k => sameOrigin k.desc.from_ from_ && k.desc.uses.any fun u => u.slot == slot then
    .stall Ctr.stallScoreboard
  else
    match from_ with
    | .tile t => .go (w.updTile t.tile fun k => { k with regions := updAt k.regions slot fun _ => region })
    | .stream r => .go (w.updJob c fun j => j.updStream r.stream fun s => { s with regions := updAt s.regions slot fun _ => region })

/-- An attempt to set a key (R393): it neither lowers q nor leaves the pitch's range. -/
def Work.trySeq (w : Work) (j : Job) (from_ : CmdFrom) (q : Nat) : Gate :=
  let cur := match from_ with
    | .tile t => (w.tile t.tile).curQ
    | .stream r => match j.stream r.stream with | some s => s.lastQ | none => 0
  if q < cur ∨ q < j.low ∨ j.high ≤ q then .halt 0x28 0
  else
    match from_ with
    | .tile t => .go (w.updTile t.tile fun k => { k with curQ := q })
    | .stream _ => .go w

/-- A control command of a stream or a tile core, issued by `f` in its context and job. -/
def Work.control (w : Work) (from_ : CmdFrom) (q : Option Nat) (f : Nat → Job → Work → Gate) : Work :=
  match from_ with
  | .stream r =>
    (match w.dispatchable r with
      | none => w
      | some (j, s) => w.byStream r s.engine q (f r.ctx j w))
  | .tile t =>
    w.issue t fun c w =>
      match w.runningJob c with
      | none => .halt 0 0x01 0
      | some j => (f c j w).issued

/-! ### The commands -/

/-- SEQ. -/
def execSeq (from_ : CmdFrom) (q : Nat) (s : State) : Host.Outcome State Fault Refusal :=
  .next (s.exec fun w => w.control from_ (some q) fun _ j w => w.trySeq j from_ q)

/-- SETREGION. -/
def execSetregion (from_ : CmdFrom) (slot : Nat) (region : Region) (s : State) : Host.Outcome State Fault Refusal :=
  .next (s.exec fun w => w.control from_ none fun c _ w => w.trySetRegion c from_ slot region)

/-- COMMAND_START. -/
def execCommandStart (cmd : CmdDesc) (s : State) : Host.Outcome State Fault Refusal := .next (s.exec fun w => w.startCmd cmd)

/-- COMMAND_COMPLETE. -/
def execCommandComplete (ctx id : Nat) (s : State) : Host.Outcome State Fault Refusal := .next (s.exec fun w => w.completeCmd ctx id)

/-- FENCE: a stream's at its key, a tile core's at its current q. -/
def execFence (from_ : CmdFrom) (q : Nat) (heads : List (Nat × Nat)) (scope : FenceScope) (s : State) : Host.Outcome State Fault Refusal :=
  .next (s.exec fun w =>
    let q := match from_ with | .tile t => (w.tile t.tile).curQ | .stream _ => q
    w.control from_ (some q) fun c j w => w.tryFence c j from_ q heads scope)

/-- FENCE_RELEASE. -/
def execFenceRelease (ctx id : Nat) (s : State) : Host.Outcome State Fault Refusal := .next (s.exec fun w => w.releaseFence ctx id)

end Sys2Proof.Machine
end

