-- ==== Sys2Proof/Machine/Job.lean ====
section
/-!
DEFINITION. Job images (R383 to R391): the container's checks, loading, starting, stopping and unloading a job, and what a
tick does with a job (R389, R391, R394, R444).
-/

namespace Sys2Proof.Machine

/-! ### The container -/

/-- A section of an image (R384). -/
structure Section where
  index : Nat
  kind : Nat
  target : Nat
  off : Nat
  len : Nat
  crcs : Nat
  deriving DecidableEq, Repr

/-- Section `i` of the image at `h` (R384). -/
def Work.section (w : Work) (h i : Nat) : Section :=
  let a := h + w.le (h + 24) 8 + 32 * i
  { index := i, kind := w.le a 1, target := w.le (a + 2) 2, off := w.le (a + 8) 8, len := w.le (a + 16) 8, crcs := w.le (a + 24) 8 }

/-- The sections of the image at `h`. -/
def Work.sections (w : Work) (h : Nat) : List Section := (List.range (w.le (h + 14) 2)).map (w.section h)

/-- The section of a kind for a target. -/
def sectionOf (ss : List Section) (kind target : Nat) : Option Section := ss.find? fun s => s.kind == kind && s.target == target

/-- The largest target of a kind (R384): a tile, a stream, or 0. -/
def targetMax (kind : Nat) : Nat := if kind ≤ 5 then 63 else 0

/-- Whether a section's length cannot hold what its kind lays out (R385 to R387). Kinds 0x01 and 0x02 are bounded by R249. -/
def Work.lengthBad (w : Work) (h : Nat) (s : Section) : Bool :=
  let a := h + s.off
  match s.kind with
  | 0x03 => decide (s.len < 2048)
  | 0x04 => decide (s.len < 64) || decide (6 < w.le a 1) || decide (63 < w.le (a + 1) 1) || w.le (a + 4) 4 == 0 || decide (2 ^ 24 < w.le (a + 4) 4)
  | 0x05 => decide (s.len < 2048)
  | 0x07 => decide (s.len < 64)
  | 0x08 => decide (s.len < 16) || w.le (a + 8) 4 == 0 || decide (65536 < w.le (a + 8) 4)
  | 0x09 =>
    decide (s.len < 520)
      || (List.range 64).any fun q =>
          let l := bitsOf (w.le (a + 8 + 8 * q) 8) 25 16
          bitOf (w.le a 8) q && (l == 0 || decide (512 < l))
  | 0x0A => decide (s.len < 4) || w.le a 4 == 0 || decide (256 < w.le a 4) || decide (s.len < 4 + 4 * w.le a 4)
  | _ => false

/-- Whether an entry of the section table breaks R383 to R387, in an image of `n` bytes. -/
def Work.sectionBad (w : Work) (h n : Nat) (s : Section) : Bool :=
  s.kind == 0 || decide (10 < s.kind) || decide (targetMax s.kind < s.target) || s.off % 64 != 0 || s.len == 0 || decide (n < s.off + s.len)
    || s.crcs % 4 != 0 || decide (n < s.crcs + 4 * ceilDiv s.len 4096) || w.lengthBad h s

/-- Whether the sections of tiles are not those of the tiles in the mask (R389). -/
def tilesBad (mask : Nat) (ss : List Section) : Bool :=
  ((List.range 64).any fun t => bitOf mask t && (sectionOf ss 0x01 t).isNone)
    || ss.any fun s => decide (s.kind ≤ 3) && !bitOf mask s.target

/-- Whether an image of an object of `objLen` bytes fails the container's checks (R383 to R387, R389). -/
def Work.imageBad (w : Work) (h objLen : Nat) : Bool :=
  let n := w.le (h + 16) 8
  let count := w.le (h + 14) 2
  let table := w.le (h + 24) 8
  decide (objLen < 64) || w.le h 4 != 0x4D494C47 || crc32c (w.rdN h 60) != w.le (h + 60) 4 || decide (n < 64) || decide (2 ^ 36 < n)
    || decide (objLen < n) || count == 0 || decide (1024 < count) || table % 64 != 0 || decide (n < table + 32 * count)
    || (let ss := w.sections h
        (ss.any (w.sectionBad h n)) || decide ((ss.map fun s => (s.kind, s.target)).eraseDups.length < ss.length)
          || tilesBad (w.le (h + 32) 8) ss)

/-- The failing check of R388, 1 to 3; 0 where none fails. -/
def Work.versionBad (w : Work) (h : Nat) : Nat :=
  let c := w.le (h + 4) 2
  let nci := w.le (h + 6) 2
  if c ≠ 1 ∧ c ≠ 2 then 1
  else if c = 2 ∧ !(decide (0x0300 ≤ nci) && decide (nci ≤ 0x0302)) then 2
  else if c = 1 ∧ !(decide (0x0200 ≤ nci) && decide (nci ≤ 0x0206)) then 2
  else if w.d.sec.fwVersion.toNat < w.le (h + 8) 4 then 3
  else 0

/-- The first resource of an image that the fuse map lacks (R3, R389): a tile, a link, a port, or the gather unit count. -/
def Work.imageAbsent (w : Work) (h : Nat) : Option Nat :=
  let units := w.le (h + 49) 1
  (((List.range 64).find? fun t => bitOf (w.le (h + 32) 8) t && !w.fz.tiles.getLsbD t).or
    ((List.range 36).find? fun l => bitOf (w.le (h + 40) 8) l && !w.fz.links.getLsbD l)).or
    (((List.range 2).find? fun p => bitOf (w.le (h + 48) 1) p && !w.fz.capPorts.getLsbD p).or
      (if ((List.range 16).filter fun u => w.fz.gather.getLsbD u).length < units then some units else none))

/-- The first 4 KiB piece of a section whose CRC-32C does not match its array (R384). -/
def Work.sectionSum (w : Work) (h : Nat) (s : Section) : Option Nat :=
  ((List.range (ceilDiv s.len 4096)).find? fun i =>
    crc32c (w.rdN (h + s.off + 4096 * i) (min 4096 (s.len - 4096 * i))) != w.le (h + s.crcs + 4 * i) 4).map fun i => h + s.off + 4096 * i

/-- A region descriptor of a table (R395). -/
def Work.region (w : Work) (a : Nat) : Region :=
  { base := w.le a 8, length := w.le (a + 8) 8, space := w.le (a + 16) 1, access := w.le (a + 17) 1 }

/-- The 64 slots of a region table; every slot at space NONE without one (R395). -/
def Work.regionTable (w : Work) (h : Nat) (s : Option Section) : List Region :=
  match s with
  | none => List.replicate 64 Region.none
  | some s => (List.range 64).map fun i => w.region (h + s.off + 32 * i)

/-- The first slot of an image's region tables that breaks R395. -/
def Work.tableBad (w : Work) (h : Nat) (ss : List Section) : Option Nat :=
  ss.findSome? fun s =>
    if s.kind = 3 ∨ s.kind = 5 then
      (List.range 64).find? fun i => regionBad (w.region (h + s.off + 32 * i)) (decide (s.kind = 3))
    else none

/-! ### The pitch plan -/

/-- Whether numbers strictly rise. -/
def climbing : List Nat → Bool
  | a :: b :: r => decide (a < b) && climbing (b :: r)
  | _ => true

/-- The key bases of a plan at `a` (R392). -/
def Work.planBases (w : Work) (a : Nat) : List Nat := (List.range (w.le (a + 6) 2 + 1)).map fun i => w.le (a + 16 + 4 * i) 4

/-- The stream records of a plan at `a`. -/
def Work.planStreams (w : Work) (a : Nat) : List Nat :=
  let p := w.le (a + 6) 2
  (List.range (w.le (a + 8) 4)).map fun i => w.le (a + 16 + 4 * (p + 1) + 4 * i) 2

/-- The dispatch bounds of stream record `i`. -/
def Work.planBounds (w : Work) (a i : Nat) : List Nat :=
  let p := w.le (a + 6) 2
  let n := w.le (a + 8) 4
  (List.range p).map fun j => w.le (a + 16 + 4 * (p + 1) + 4 * n + 4 * (i * p + j)) 4

/-- Whether a plan breaks R392. -/
def Work.planBad (w : Work) (h : Nat) (ss : List Section) (s : Section) : Bool :=
  let a := h + s.off
  let p := w.le (a + 6) 2
  let n := w.le (a + 8) 4
  decide (s.len < 16) || w.le a 4 != 0x4E4C5050 || w.le (a + 4) 2 != 1 || p == 0 || decide (4096 < p) || n == 0 || decide (128 < n)
    || decide (s.len < 16 + 4 * (p + 1) + 4 * n + 4 * n * p) || !climbing (w.planBases a)
    || (let is := w.planStreams a
        decide (is.eraseDups.length < is.length)
          || (is.any fun i => !(ss.any fun t => t.index == i && (t.kind == 1 || t.kind == 4)))
          || (ss.any fun t => (t.kind == 1 || t.kind == 4) && !is.contains t.index)
          || (is.mapIdx fun k i => (k, i)).any fun e =>
              let bs := w.planBounds a e.1
              match ss.find? fun t => t.index == e.2 with
              | some t => if t.kind = 4 then !rising bs || bs.getLastD 0 != w.le (h + t.off + 4) 4 else bs.any fun b => b != 0
              | none => true)

/-- Whether an image's plan is invalid: an urgent image has none, and every other has one (R392). -/
def Work.plansBad (w : Work) (h : Nat) (ss : List Section) : Bool :=
  match sectionOf ss 0x06 0, bitOf (w.le (h + 12) 2) 0 with
  | none, urgent => !urgent
  | some _, true => true
  | some s, false => w.planBad h ss s

/-! ### LOAD_JOB -/

/-- The haul queues that an image uses (R387). -/
def Work.imageQueues (w : Work) (h : Nat) (ss : List Section) : Nat :=
  match sectionOf ss 0x09 0 with | some s => w.le (h + s.off) 8 | none => 0

/-- The first tile that cannot be loaded (R249): a section longer than its memory, or a running core. -/
def Work.tileUnloadable (w : Work) (ss : List Section) : Option Nat :=
  (ss.find? fun s =>
    (s.kind == 1 && (decide (65536 < s.len) || decide ((w.tile s.target).run = .running))) || (s.kind == 2 && decide (131072 < s.len))).map
    fun s => s.target

/-- The checks of R389 on the image of an object, in order: the halt's reason and detail. -/
def Work.loadFault (w : Work) (c h objLen : Nat) : Option (Nat × Nat) :=
  let ss := w.sections h
  let n := w.le (h + 16) 8
  if w.imageBad h objLen then some (0x25, 0)
  else if w.versionBad h ≠ 0 then some (0x23, w.versionBad h)
  else
    match w.imageAbsent h with
    | some r => some (0x21, r)
    | none =>
      match (List.range 64).find? fun t => bitOf (w.le (h + 32) 8) t && !(w.ctx c).tileMask.getLsbD t with
      | some t => some (0x2A, t)
      | none =>
        match ss.findSome? (w.sectionSum h), w.verifyRange h n with
        | some a, _ => some (0x42, a)
        | none, .error a => some (0x42, a)
        | none, .ok _ =>
          let v := if w.le (h + 4) 2 = 1 then Config.verifyV1 (w.rdN h n) else 0
          if v ≠ 0 then some (v, 0)
          else
            match w.tableBad h ss with
            | some slot => some (0x26, slot)
            | none =>
              if w.plansBad h ss then some (0x27, 0)
              else if w.d.queues.any fun q => q.ctx != c && bitOf (w.imageQueues h ss) q.number then some (0x2B, 3)
              else
                match w.tileUnloadable ss with
                | some t => some (0x22, t)
                | none => none

/-- One tile loaded (R249): its instruction image, its data image if there is one, its region slots. A GLV8200 image runs
as its translation (R408, R409). -/
def Work.loadTile (w : Work) (h : Nat) (ss : List Section) (t : Nat) : Work :=
  let image :=
    if w.le (h + 4) 2 = 1 then (Config.translateV1 (w.rdN h (w.le (h + 16) 8)) t).take 65536
    else match sectionOf ss 0x01 t with | some s => w.rdN (h + s.off) s.len | none => []
  let regions := w.regionTable h (sectionOf ss 0x03 t)
  let w := match sectionOf ss 0x02 t with | some s => w.wr (dmemKey t 0) (w.rdN (h + s.off) s.len) | none => w
  (w.wr (imemKey t 0) image).updTile t fun k => { k with loaded := true, imageLen := image.length, regions := regions }

/-- The engine stream of a section, set to its first command (R386, R389, R392). -/
def Work.loadStream (w : Work) (h : Nat) (ss : List Section) (s : Section) : EStream :=
  let a := h + s.off
  let bounds :=
    match sectionOf ss 0x06 0 with
    | some p => (match (w.planStreams (h + p.off)).idxOf? s.index with | some i => w.planBounds (h + p.off) i | none => [])
    | none => []
  { number := s.target, section_ := s.index, engine := w.le a 1, queue := w.le (a + 1) 1, count := w.le (a + 4) 4, bounds := bounds,
    issuable := 0, next := 0, lastQ := 0, doneCycle := 0, regions := w.regionTable h (sectionOf ss 0x05 s.target) }

/-- The haul queues of an image with their priority and limit (R387, R389). -/
def Work.loadQueues (w : Work) (c h : Nat) (ss : List Section) : List HaulQueue :=
  match sectionOf ss 0x09 0 with
  | none => []
  | some s =>
    ((List.range 64).filter fun q => bitOf (w.le (h + s.off) 8) q).map fun q =>
      let v := w.le (h + s.off + 8 + 8 * q) 8
      { number := q, ctx := c, priority := bitsOf v 1 0, limit := bitsOf v 25 16, params := none, source := .loc 0, chunks := 0,
        next := 0, window := 0, filling := false, pending := none }

/-- The job that an image describes (R383 to R387, R392). -/
def Work.imageJob (w : Work) (h handle : Nat) (ss : List Section) : Job :=
  let at_ := fun (kind off n : Nat) => match sectionOf ss kind 0 with | some s => w.le (h + s.off + off) n | none => 0
  let flags := w.le (h + 12) 2
  { handle := handle, tag := Config.jobTag handle, urgent := bitOf flags 0, machine := bitOf flags 1
    tileMask := BitVec.ofNat 64 (w.le (h + 32) 8), firstStep := w.le (h + 52) 4, stepCount := w.le (h + 56) 4, step := w.le (h + 52) 4
    stepsDone := 0, pitchInStep := 0, pitchesPerStep := at_ 0x06 6 2
    keyBases := match sectionOf ss 0x06 0 with | some s => w.planBases (h + s.off) | none => []
    required := (sectionOf ss 0x07 0).isSome, reqLen := at_ 0x07 0 4, reqGrace := at_ 0x07 4 1, reqSubdiv := at_ 0x07 5 1
    reqTiles := at_ 0x07 6 2, reqShared := at_ 0x07 8 4, reqHbm := at_ 0x07 12 4, reqCapacity := at_ 0x07 16 4, reqHot := at_ 0x07 20 4
    censusBase := at_ 0x08 0 8, censusCount := at_ 0x08 8 4, queues := BitVec.ofNat 64 (w.imageQueues h ss)
    entries :=
      match sectionOf ss 0x0A 0 with
      | some s => (List.range (w.le (h + s.off) 4)).map fun i => w.le (h + s.off + 4 + 4 * i) 2
      | none => []
    streams := (ss.filter fun s => s.kind == 4).map (w.loadStream h ss), started := false, stopStep := none, startDesc := none }

/-- A checked image loaded (R389): tiles, streams, queues, the job, and its digest (R528). -/
def Work.loadImage (w : Work) (c h handle : Nat) : Work :=
  let ss := w.sections h
  let n := w.le (h + 16) 8
  let job := w.imageJob h handle ss
  let queues := w.loadQueues c h ss
  let digest := Config.sha384 (w.rdN h n)
  let blocks := match w.verifyRange h n with | .ok k => k | .error _ => 0
  let w := ((List.range 64).filter fun t => job.tileMask.getLsbD t).foldl (fun w t => w.loadTile h ss t) w
  let w := w.count Ctr.tensorBlocksVerified blocks
  let w := w.upd fun d =>
    { d with
      queues := (d.queues.filter fun q => q.ctx != c) ++ queues
      sec := { d.sec with jobDigests := updAt d.sec.jobDigests c fun _ => digest } }
  w.updCtx c fun x => { x with job := some job, state := .loaded }

/-- LOAD_JOB of a descriptor that has started (R389, R390). -/
def Work.loadJob (w : Work) (c : Nat) (d : Desc) : Work :=
  let handle := d.field 0 2
  if (w.ctx c).job.isSome then w.halt c (machineRec 0x22 0)
  else
    match w.d.residency.find? fun e => e.handle == handle && decide (e.state = .resident) && e.owner == c && decide (w.fz.space e.home = .hbm) with
    | none => w.halt c (machineRec 0x48 handle)
    | some e =>
      match w.poisonIn e.home e.length with
      | some p => w.poisonHalt c (machineRec 0x41 p) p
      | none =>
        match w.loadFault c e.home e.length with
        | some (r, k) => w.halt c (machineRec r k)
        | none => (w.loadImage c e.home handle).complete c d.seq .ok 0

/-! ### START_JOB, STOP_JOB, UNLOAD_JOB -/

/-- The failing check of R389 at a start command on the requirement and the urgent flag: the detail of 0x2B, or 0. -/
def Work.startCause (w : Work) (c : Nat) (j : Job) : Nat :=
  let a := w.d.active
  let q := (a.quotas[c]?).getD Quota.zero
  if j.required && (j.reqLen != a.pitchLen || j.reqGrace != a.grace || j.reqSubdiv != a.subdiv) then 1
  else if j.required && (decide (q.tiles < j.reqTiles) || decide (q.shared < j.reqShared) || decide (q.hbm < j.reqHbm)
      || decide (q.capacity < j.reqCapacity) || decide (q.hotSlots < j.reqHot)) then 2
  else if j.urgent ≠ (w.ctx c).urgent then 4
  else 0

/-- The first address of a census table outside the objects that R389 asks for. -/
def Work.censusOutside (w : Work) (c : Nat) (j : Job) : Option Nat :=
  let objs := w.d.residency.filter fun e =>
    e.owner == c && decide (e.state = .resident) && (decide (w.fz.space e.home = .hbm) || decide (w.fz.space e.home = .shared))
  if j.censusCount = 0 then none else outside (objs.map fun e => (e.home, e.length)) j.censusBase (384 * j.censusCount)

/-- START_JOB of a descriptor that has started (R389, R443): it completes at the first tick, which begins the job. -/
def Work.startJob (w : Work) (c : Nat) (d : Desc) : Work :=
  match (w.ctx c).job with
  | none => w.complete c d.seq .stateInvalid 0
  | some j =>
    if (w.ctx c).state ≠ .loaded ∨ j.startDesc.isSome then w.complete c d.seq .stateInvalid 0
    else if w.startCause c j ≠ 0 then w.halt c (machineRec 0x2B (w.startCause c j))
    else
      match w.censusOutside c j with
      | some a => w.halt c (machineRec 0x48 a)
      | none =>
        let w := w.updJob c fun j => { j with startDesc := some d }
        let w := w.upd fun k => { k with machineStopped := k.machineStopped && !j.machine, pitch := { k.pitch with overran := false } }
        w.tryReport

/-- Steps compared from the first step, modulo 2^32 (R444). -/
def stepsFrom (first step : Nat) : Nat := (step + 2 ^ 32 - first % 2 ^ 32) % 2 ^ 32

/-- STOP_JOB of a descriptor that has started (R443, R444). -/
def Work.stopJob (w : Work) (c : Nat) (d : Desc) : Work :=
  match (w.ctx c).job with
  | none => w.complete c d.seq .stateInvalid 0
  | some j =>
    let l := d.field 0 4
    if (w.ctx c).state ≠ .running then w.complete c d.seq .stateInvalid 0
    else if stepsFrom j.firstStep l < stepsFrom j.firstStep j.step then
      (w.updJob c fun j => { j with stopStep := some j.step }).complete c d.seq .stopLate (j.step % 2 ^ 32)
    else (w.updJob c fun j => { j with stopStep := some l }).complete c d.seq .ok 0

/-- A context's job unloaded (R434, R435, R443): its queues, its digest, its numerics state. -/
def Work.unload (w : Work) (c : Nat) : Work :=
  let w := w.upd fun d =>
    { d with
      queues := d.queues.filter fun q => q.ctx != c
      sec := { d.sec with jobDigests := updAt d.sec.jobDigests c fun _ => List.replicate 48 0 } }
  let w := (w.ctx c).tiles.foldl (fun w t => w.updTile t fun k => { k with loaded := false }) w
  w.updCtx c fun x =>
    { x with
      job := none, cmds := [], fences := [], waited := [], replay := none, layers := [], waiting := [], executing := [], lateDispatch := false
      state := if x.enable then .idle else .disabled }

/-- UNLOAD_JOB of a descriptor that has started: not while the job runs or is about to (R443). -/
def Work.unloadJob (w : Work) (c : Nat) (d : Desc) : Work :=
  let pending := match (w.ctx c).job with | some j => j.startDesc.isSome | none => false
  if decide ((w.ctx c).state = .running) || pending then w.complete c d.seq .stateInvalid 0
  else ((w.unload c).complete c d.seq .ok 0).tryReport

/-! ### What a tick does with a job -/

/-- A tile core started at address 0 (R249). -/
def Tile.begin (k : Tile) : Tile :=
  { k with run := .running, pc := 0, g := List.replicate 32 0, loops := [], curQ := 0, doneCycle := 0 }

/-- Streams opened for pitch `p` of a step (R394). -/
def EStream.open (s : EStream) (p : Nat) : EStream :=
  { s with issuable := (s.bounds[p]?).getD 0, doneCycle := 0 }

/-- A stream at the first pitch of a step: its first command again (R392). -/
def EStream.rewind (s : EStream) : EStream := { s with next := 0, lastQ := 0 }

/-- The tiles of a job. -/
def Job.tiles (j : Job) : List Nat := (List.range 64).filter fun t => j.tileMask.getLsbD t

/-- The job of a context begun at the first tick after its start command (R389, R249): an urgent job waits for requests. -/
def Work.beginJob (w : Work) (c : Nat) (j : Job) (d : Desc) : Work :=
  let w := if j.urgent then w else j.tiles.foldl (fun w t => w.updTile t Tile.begin) w
  let w := w.updCtx c fun x =>
    { x with
      state := .running, cmds := [], fences := [], waited := [], replay := none, layers := []
      job := some
        { j with
          step := j.firstStep, stepsDone := 0, pitchInStep := 0, started := true, stopStep := none, startDesc := none
          streams := j.streams.map fun s => s.rewind.open 0 } }
  w.complete c d.seq .ok 0

/-- The end of a job (R391, R445). -/
def Work.endJob (w : Work) (c : Nat) (j : Job) (byStop : Bool) : Work :=
  let w := w.updCtx c fun x =>
    { x with
      state := .loaded, cmds := [], fences := [], waited := [], replay := none
      job := x.job.map fun j => { j with started := false, stopStep := none } }
  w.postEvent c 0x0002 (leBytes 4 j.step ++ leBytes 1 (if byStop then 1 else 0))

/-- Waits for the tick counted under STALL_PITCH_WAIT (R251, R412): from a tile's PITCH_END, and from a stream's last command,
to the tick at intra-pitch cycle `cyc`. -/
def Work.countPitchWait (w : Work) (c : Nat) (j : Job) (cyc : Nat) : Work :=
  let add := fun (w : Work) (cls n : Nat) =>
    w.upd fun d => { d with counters := ctrAdd d.counters (ctrKey Ctr.stallPitchWait c cls) (BitVec.ofNat 64 n) }
  let w := j.tiles.foldl (fun w t => let k := w.tile t; if k.run = .pitchDone then add w 0 (cyc - k.doneCycle) else w) w
  j.streams.foldl (fun w s => if s.issued then add w 11 (cyc - s.doneCycle) else w) w

/-- Tiles that were done resume with the tick (R251); at a new step their keys start again (R393). -/
def Tile.resume (k : Tile) (newStep : Bool) : Tile :=
  { k with run := if k.run = .pitchDone then .running else k.run, curQ := if newStep then 0 else k.curQ, doneCycle := 0 }

/-- Whether a job ends with the step that closes, and whether by STOP_JOB (R391, R444). -/
def Job.ending (j : Job) : Option Bool :=
  let stop := match j.stopStep with | some l => decide (stepsFrom j.firstStep l ≤ stepsFrom j.firstStep j.step) | none => false
  if j.stepCount ≠ 0 ∧ j.stepCount ≤ j.stepsDone + 1 then some stop else if stop then some true else none

/-- The numerics state of a layer at a new step: its replays of the last step are kept (R298, R303). -/
def LayerState.newStep (l : LayerState) : LayerState := { l with usedLast := l.used, used := 0, raises := 0 }

/-- The next pitch of a running job (R392, R394): the next of its step, the first of the next step, or the job's end. -/
def Work.nextPitch (w : Work) (c : Nat) (j : Job) : Work :=
  if j.pitchInStep + 1 < j.pitchesPerStep then
    let w := j.tiles.foldl (fun w t => w.updTile t fun k => k.resume false) w
    w.updJob c fun j =>
      { j with pitchInStep := j.pitchInStep + 1, streams := j.streams.map fun s => s.open (j.pitchInStep + 1) }
  else
    match j.ending with
    | some byStop => w.endJob c j byStop
    | none =>
      let w := j.tiles.foldl (fun w t => w.updTile t fun k => k.resume true) w
      let w := w.updCtx c fun x => { x with layers := x.layers.map LayerState.newStep }
      w.updJob c fun j =>
        { j with
          step := (j.step + 1) % 2 ^ 32, stepsDone := j.stepsDone + 1, pitchInStep := 0
          streams := j.streams.map fun s => s.rewind.open 0 }

/-- The waits of a context's running job counted as a tick closes the pitch (R412). -/
def Work.closeWaits (w : Work) (c : Nat) : Work :=
  match (w.ctx c).job with
  | none => w
  | some j => if !(w.ctx c).active || !j.started || j.urgent then w else w.countPitchWait c j w.d.pitch.cycle.toNat

/-- What a tick does with a context's job (R389, R391, R394, R444). An urgent job has no pitches: after STOP_JOB it ends at a
tick with no execution running (log 40). -/
def Work.tickJob (w : Work) (c : Nat) : Work :=
  let x := w.ctx c
  match x.job with
  | none => w
  | some j =>
    if x.halt.valid then w
    else
      match j.startDesc with
      | some d => w.beginJob c j d
      | none =>
        if !x.active || !j.started then w
        else if j.urgent then (if j.stopStep.isSome ∧ x.executing = [] then w.endJob c j true else w)
        else w.nextPitch c j

/-! ### The commands -/

/-- A descriptor of a serial opcode that can start, started (R442). -/
def Work.serial (w : Work) (c ring opcode : Nat) (f : Work → Desc → Work) : Work :=
  match w.ready c ring opcode true with
  | none => w
  | some d => f (w.startDesc c d.seq) { d with started := true }

/-- LOAD_JOB. -/
def execLoadJob (ctx ring : Nat) (s : State) : Host.Outcome State Fault Refusal :=
  .next (s.exec fun w => w.serial ctx ring 0x10 fun w d => w.loadJob ctx d)

/-- START_JOB. -/
def execStartJob (ctx ring : Nat) (s : State) : Host.Outcome State Fault Refusal :=
  .next (s.exec fun w => w.serial ctx ring 0x11 fun w d => w.startJob ctx d)

/-- STOP_JOB. -/
def execStopJob (ctx ring : Nat) (s : State) : Host.Outcome State Fault Refusal :=
  .next (s.exec fun w => w.serial ctx ring 0x12 fun w d => w.stopJob ctx d)

/-- UNLOAD_JOB. -/
def execUnloadJob (ctx ring : Nat) (s : State) : Host.Outcome State Fault Refusal :=
  .next (s.exec fun w => w.serial ctx ring 0x13 fun w d => w.unloadJob ctx d)

end Sys2Proof.Machine
end

