-- ==== Sys2Proof/Machine/Regs.lean ====
section
/-!
DEFINITION. The setup register map (R559 to R578): what each register of BAR0 reads as, the fields that a write sets
under its access code (R12, R13), the holding register of R559, and the counter selectors.
-/

namespace Sys2Proof.Machine

/-! ### Reading registers -/

/-- The lower or upper 32 bits of a 64-bit field. -/
def halfWord (v : Nat) (hi : Bool) : Nat := if hi then v / 2 ^ 32 % 2 ^ 32 else v % 2 ^ 32

/-- A bit as a number. -/
def bit (b : Bool) : Nat := if b then 1 else 0

/-- The set that SH fields read (R65). -/
def Dev.viewed (d : Dev) : CfgSet := if d.cfg.view then d.shadow else d.active

/-- ID_DEVICE (R430, R516). -/
def Dev.pciId (d : Dev) (f : Fuses) : Nat :=
  if d.sec.recovery then (if f.grade9300 then 0x93FE else 0x94FE) else (if f.grade9300 then 0x9300 else 0x9400)

/-- The ID block (R562). -/
def Work.idWord (w : Work) (o : Nat) : Nat :=
  match o with
  | 0x00 => 0x1E4B + w.d.pciId w.fz * 65536
  | 0x04 => 0xB0 + bit w.fz.grade9300 * 256
  | 0x08 => halfWord w.fz.tiles.toNat false
  | 0x0C => halfWord w.fz.tiles.toNat true
  | 0x10 => w.fz.hbmStacks.toNat + w.fz.capPorts.toNat * 4096 + w.fz.gather.toNat * 65536
  | 0x18 => halfWord w.fz.links.toNat false
  | 0x1C => halfWord w.fz.links.toNat true
  | 0x20 => leNat (w.fz.serial.take 4)
  | 0x24 => leNat ((w.fz.serial.drop 4).take 4)
  | 0x28 => leNat ((w.fz.serial.drop 8).take 4)
  | 0x2C => leNat ((w.fz.serial.drop 12).take 4)
  | 0x30 => 0x01000201
  | 0x34 => 0x03000302
  | 0x38 => 0x02000206
  | 0x3C => 0x01020102
  | 0x40 => w.d.sec.fwVersion.toNat
  | 0x44 => w.d.deviceNumber
  | _ => 0

/-- A bit map over the contexts. -/
def Work.ctxMap (w : Work) (f : Ctx → Bool) : Nat := (contexts.map fun c => bit (f (w.ctx c)) * 2 ^ c).sum

/-- The HIF block (R564). -/
def Work.hifWord (w : Work) (o : Nat) : Nat :=
  let h := w.d.hif
  match o with
  | 0x00 => h.speed + h.width * 8 + bit h.flitMode * 256 + bit h.srisActive * 512
  | 0x04 => h.numVfs + bit h.vfEnable * 16
  | 0x08 => w.ctxMap (fun x => x.enable) + w.ctxMap (fun x => x.enable && decide (0x0200 ≤ x.ringVersion)) * 65536
  | 0x0C => h.correctable.toNat
  | 0x10 => h.tagsInUse
  | _ => 0

/-- The role code (R72). -/
def Role.code : Role → Nat
  | .standalone => 0 | .anchor => 1 | .follower => 2 | .reserved => 3

/-- The role of a code (R72). -/
def roleOf (n : Nat) : Role :=
  match n with
  | 0 => .standalone
  | 1 => .anchor
  | 2 => .follower
  | _ => .reserved

/-- The PITCH block (R71, R72, R565, R581). Margin and sub-pitch read as computed from the settings in force (log 22). -/
def Work.pitchWord (w : Work) (o : Nat) : Nat :=
  let p := w.d.pitch
  let s := w.d.viewed
  match o with
  | 0x00 => s.pitchLen
  | 0x04 => p.role.code + s.subdiv * 16 + s.grace * 256 + p.treeDepth * 2 ^ 16 + p.parentLink * 2 ^ 24 + bit p.run * 2 ^ 31
  | 0x08 => bit p.lateSelf + bit p.lateChild * 2 + bit p.ticking * 4
  | 0x0C => p.reportMargin
  | 0x10 => halfWord p.tickCount.toNat false
  | 0x14 => halfWord p.tickCount.toNat true
  | 0x18 => p.cycle.toNat
  | 0x1C => w.subPitchNs
  | 0x20 => halfWord p.childLinks.toNat false
  | 0x24 => halfWord p.childLinks.toNat true
  | _ => 0

/-- The CFG block (R73, R566). -/
def Work.cfgWord (w : Work) (o : Nat) : Nat :=
  let c := w.d.cfg
  let s := w.d.viewed
  match o with
  | 0x04 => bit c.view
  | 0x08 => halfWord c.armTick.toNat false
  | 0x0C => halfWord c.armTick.toNat true
  | 0x10 =>
    (match c.armed with | none => 0 | some .device => 1 | some .machine => 2) + c.result.code * 16 + c.invalidCause * 256
      + bit c.writeWhileArmed * 2 ^ 16 + bit c.armWhileArmed * 2 ^ 17 + bit c.disarmLate * 2 ^ 18
  | 0x20 => halfWord s.rowMap false
  | 0x24 => halfWord s.rowMap true
  | 0x28 => halfWord s.shardMap false
  | 0x2C => halfWord s.shardMap true
  | 0x30 => halfWord s.format false
  | 0x34 => halfWord s.format true
  | 0x38 => halfWord s.topology false
  | 0x3C => halfWord s.topology true
  | _ => 0

/-- Whether the hardware clamp holds (R545). -/
def Pwr.clamped (p : Pwr) : Bool := !p.clampTriggers.isEmpty || p.clampHold

/-- The PWR block (R557). -/
def Work.pwrWord (w : Work) (o : Nat) : Nat :=
  let p := w.d.pwr
  match o with
  | 0x00 => p.tilePairEn.toNat
  | 0x04 => p.linkGroupEn.toNat + p.capPortEn.toNat * 256 + bit p.hbmSleep * 1024 + bit p.idleGate * 2048 + bit p.policyEnable * 4096
  | 0x08 => halfWord p.domains.toNat false
  | 0x0C => halfWord p.domains.toNat true
  | 0x10 => p.cause
  | 0x14 => w.d.viewed.powerCap
  | 0x18 => p.inputW % 65536 + p.inputMv % 65536 * 65536
  | 0x1C => p.coreMhz + bit p.clamped * 4096 + bit p.brake * 8192 + bit p.tripLatched * 16384
  | 0x20 => p.tjMax % 256 + p.hbmMax % 256 * 256 + p.coolantIn % 256 * 2 ^ 16 + p.coolantOut % 256 * 2 ^ 24
  | _ => 0

/-- The CLK block (R557). -/
def Work.clkWord (w : Work) (o : Nat) : Nat :=
  let p := w.d.pwr
  match o with
  | 0x00 => p.coreSpread + bit p.hostSris * 16 + p.capSris.toNat * 32 + bit p.hostLowSwing * 128 + p.capLowSwing.toNat * 256
  | 0x04 => p.refPresent.toNat
  | _ => 0

/-- The MEM block (R505, R569). -/
def Work.memWord (w : Work) (o : Nat) : Nat :=
  let m := w.d.memRegs
  match o with
  | 0x00 => halfWord m.cap0Size.toNat false
  | 0x04 => halfWord m.cap0Size.toNat true
  | 0x08 => halfWord m.cap1Size.toNat false
  | 0x0C => halfWord m.cap1Size.toNat true
  | 0x10 => m.cap0Rate + m.cap0Width * 8 + m.cap1Rate * 256 + m.cap1Width * 2048
  | 0x18 => m.trained.toNat + m.sleeping.toNat * 65536
  | 0x100 => m.scrubHours + m.scrubMs * 65536
  | 0x104 => m.ceThreshold.toNat
  | 0x108 => w.fz.hbmUsable / 2 ^ 20
  | 0x10C => m.repairPending.toNat
  | _ => 0

/-- LINK_STATE (R483). -/
def LinkState.code : LinkState → Nat
  | .down => 0 | .training => 1 | .up => 2 | .failed => 3

/-- The LINK block (R483, R560): an absent link reads zero but for its state. -/
def Work.linkWord (w : Work) (o : Nat) : Nat :=
  if o = 0xC00 then w.d.routeCause + w.d.routeLink * 256
  else if 36 * 0x40 ≤ o then 0
  else
    let n := o / 0x40
    let k := w.link n
    if !w.fz.links.getLsbD n then (if o % 0x40 = 4 then 4 else 0)
    else
      match o % 0x40 with
      | 0x00 => bit k.disable * 2 + k.txSwing * 4 + k.txEdge * 64 + bit k.autotrain * 1024
      | 0x04 => k.state.code + bit k.v1 * 8 + k.lanes.toNat * 16 + bit k.spareIn * 512 + k.failCause * 1024
      | 0x08 => k.latencyNs10
      | 0x0C => k.peerId + k.peerLink * 2 ^ 16 + bit k.peer9300 * 2 ^ 22
      | _ => 0

/-- FLASH state code (R534). -/
def FlashState.code : FlashState → Nat
  | .idle => 0 | .busy => 1 | .done => 2 | .refused => 3

/-- The SEC block (R534). -/
def Work.secWord (w : Work) (o : Nat) : Nat :=
  let s := w.d.sec
  match o with
  | 0x00 =>
    bit s.fwVerified + bit s.recovery * 2 + bit s.ready * 4 + s.bootCause * 16 + w.fz.svn * 256 + s.svnImage * 2 ^ 14
      + w.fz.revoked.toNat * 2 ^ 20
  | 0x04 => bit s.settingsInvalid + s.settingsIgnored * 65536
  | 0x08 => s.settingsSeq.toNat
  | 0x10 => halfWord s.flashSrc.toNat false
  | 0x14 => halfWord s.flashSrc.toNat true
  | 0x18 => s.flashLen.toNat
  | 0x1C => s.flashTarget
  | 0x20 => s.flashState.code + s.flashCause * 16 + s.flashProgress * 256
  | 0x60 => halfWord s.unlockSrc.toNat false
  | 0x64 => halfWord s.unlockSrc.toNat true
  | 0x6C => bit s.unlocked + s.level.toNat * 2 + bit w.fz.debugDisabled * 16 + s.unlockCause * 256
  | o => if 0x40 ≤ o ∧ o < 0x60 then leNat ((s.nonce.drop (o - 0x40)).take 4) else 0

/-- A word of a halt record (R570). -/
def HaltRec.word (r : HaltRec) (o : Nat) : Nat :=
  if !r.valid then 0
  else
    match o with
    | 0x00 =>
      r.reason % 256 + bit r.fromStream * 256 + r.index % 64 * 512 + r.unit_ % 16 * 2 ^ 16 + r.loopDepth % 8 * 2 ^ 20
        + r.context % 16 * 2 ^ 24 + 2 ^ 31
    | 0x08 => halfWord r.tick false
    | 0x0C => halfWord r.tick true
    | 0x10 => r.cycle
    | 0x14 => r.detail % 2 ^ 32
    | 0x18 => halfWord r.address false
    | 0x1C => halfWord r.address true
    | 0x20 => r.keyStep % 2 ^ 32
    | 0x24 => r.keyQ % 2 ^ 32
    | 0x28 => r.section_ % 65536
    | 0x2C => r.offset % 2 ^ 32
    | _ => 0

/-- The EVT block (R498, R570, R571). -/
def Work.evtWord (w : Work) (o : Nat) : Nat :=
  let f := w.d.fault
  if 0x1000 ≤ o ∧ o < 0x2000 then (w.tile ((o - 0x1000) / 0x40)).halt.word (o % 0x40)
  else if 0x2000 ≤ o ∧ o < 0x2400 then (w.ctx ((o - 0x2000) / 0x40)).streamHalt.word (o % 0x40)
  else
    match o with
    | 0x00 => bit f.valid + f.reason * 256 + f.source * 65536 + f.index * 2 ^ 24
    | 0x08 => halfWord f.tick.toNat false
    | 0x0C => halfWord f.tick.toNat true
    | 0x10 => f.cycle.toNat
    | 0x18 => halfWord f.addr.toNat false
    | 0x1C => halfWord f.addr.toNat true
    | _ => 0

/-! ### Counter selection -/

/-- The instances that a counter has (R573, R575): classes 0 to 12, links, or stacks for the first two integrity
counters. -/
def Fuses.instances (f : Fuses) (id : Nat) : List Nat :=
  match id / 256 with
  | 0x01 => List.range 13
  | 0x10 => (List.range 36).filter fun n => f.links.getLsbD n
  | 0x11 => if id % 256 < 2 then (List.range 12).filter fun n => f.hbmStacks.getLsbD n else []
  | _ => []

/-- Whether a group is kept per context (R575). -/
def perContext (id : Nat) : Bool := id / 256 == 0x01 || id / 256 == 0x0F

/-- Whether a selection names a counter (R575). -/
def Fuses.selects (f : Fuses) (id ctx inst : Nat) : Bool :=
  decide (id % 256 < Ctr.groupSize (id / 256)) && (ctx == 31 || (perContext id && decide (ctx < 16)))
    && (inst == 0xFF || (f.instances id).contains inst)

/-- The sum of the entries of a counter bank that a selection covers (R575), modulo 2^64. -/
def counterSum (bank : List (Nat × W64)) (id ctx inst : Nat) : Nat :=
  let id := Ctr.canon id
  ((bank.filter fun e =>
    e.1 / 2 ^ 16 == id && (ctx == 31 || e.1 / 2 ^ 8 % 256 == ctx) && (inst == 0xFF || e.1 % 256 == inst)).map fun e => e.2.toNat).sum % 2 ^ 64

/-- The CNT block (R576). -/
def Work.cntWord (w : Work) (o : Nat) : Nat :=
  let s := w.d.cntSelect.toNat
  let id := s % 65536
  let ctx := bitsOf s 20 16
  let inst := bitsOf s 31 24
  let ok := w.fz.selects id ctx inst
  let snap := if ok then counterSum w.d.snapshot id ctx inst else 0
  let live := if ok then counterSum w.d.counters id ctx inst else 0
  match o with
  | 0x00 => s
  | 0x04 => bit (!ok)
  | 0x08 => halfWord snap false
  | 0x0C => halfWord snap true
  | 0x10 => if ok then halfWord w.d.snapTick.toNat false else 0
  | 0x14 => if ok then halfWord w.d.snapTick.toNat true else 0
  | 0x18 => halfWord live false
  | 0x1C => halfWord live true
  | _ => 0

/-! ### The context setup page -/

/-- CTX_STATE (R435, R458). -/
def CtxState.code : CtxState → Nat
  | .disabled => 0 | .idle => 1 | .loaded => 2 | .running => 3

/-- An arena field by index: bases and lengths of HBM, shared store, port 0, port 1 (R373). -/
def Arena.field (a : Arena) (i : Nat) : W64 :=
  match i with
  | 0 => a.hbmBase | 1 => a.hbmLen | 2 => a.sharedBase | 3 => a.sharedLen
  | 4 => a.cap0Base | 5 => a.cap0Len | 6 => a.cap1Base | 7 => a.cap1Len
  | _ => 0

/-- An arena field set by index (R373). -/
def Arena.put (a : Arena) (i : Nat) (v : W64) : Arena :=
  match i with
  | 0 => { a with hbmBase := v } | 1 => { a with hbmLen := v } | 2 => { a with sharedBase := v }
  | 3 => { a with sharedLen := v } | 4 => { a with cap0Base := v } | 5 => { a with cap0Len := v }
  | 6 => { a with cap1Base := v } | 7 => { a with cap1Len := v }
  | _ => a

/-- Offsets 0x000 to 0x0BF of a context page (R458). -/
def Work.ctxLow (w : Work) (c o : Nat) : Nat :=
  let x := w.ctx c
  let ring := fun (n : Nat) => (x.cmd[n]?).getD CmdRing.reset
  if 0x10 ≤ o ∧ o < 0x50 then
    match o % 0x10 with
    | 0 => halfWord (ring (o / 0x10 - 1)).base.toNat false
    | 4 => halfWord (ring (o / 0x10 - 1)).base.toNat true
    | 8 => (ring (o / 0x10 - 1)).size
    | _ => 0
  else if 0x90 ≤ o ∧ o < 0xA0 then (ring ((o - 0x90) / 4)).head
  else
    match o with
    | 0x00 => bit x.enable + bit x.urgent * 2 + bit x.roEnable * 8 + x.urgentBatch * 256
    | 0x04 =>
      x.state.code + bit x.halt.valid * 4 + bit (x.urgent && x.enable) * 8 + x.enableCause * 16 + x.tileCause * 256
        + bit x.urgentRefused * 4096
    | 0x08 => x.ringVersion
    | 0x50 => halfWord x.cpl.base.toNat false
    | 0x54 => halfWord x.cpl.base.toNat true
    | 0x58 => x.cpl.size
    | 0x60 => halfWord x.evt.base.toNat false
    | 0x64 => halfWord x.evt.base.toNat true
    | 0x68 => x.evt.size
    | 0x70 => x.coalesceCount + x.coalesceTime * 65536
    | 0x74 => bit x.evtIrq
    | 0x80 => halfWord x.tileMask.toNat false
    | 0x84 => halfWord x.tileMask.toNat true
    | 0xA0 => x.cpl.tail + bit x.cpl.phase * 65536
    | 0xA4 => x.evt.tail + bit x.evt.phase * 65536
    | 0xB0 => x.latMax % 2 ^ 32
    | 0xB4 => w.urgentBound % 2 ^ 32
    | _ => 0

/-- The counter window of a context (R578). -/
def Work.windowWord (w : Work) (c o : Nat) : Nat :=
  let x := w.ctx c
  let ok := perContext x.cntId && w.fz.selects x.cntId c x.cntInstance
  let snap := if ok then counterSum w.d.snapshot x.cntId c x.cntInstance else 0
  match o with
  | 0x400 => x.cntId + x.cntInstance * 2 ^ 24
  | 0x404 => bit (!ok)
  | 0x408 => halfWord snap false
  | 0x40C => halfWord snap true
  | 0x410 => if ok then halfWord w.d.snapTick.toNat false else 0
  | 0x414 => if ok then halfWord w.d.snapTick.toNat true else 0
  | _ => 0

/-- A word of a context's setup page (R577). -/
def Work.ctxWord (w : Work) (c o : Nat) : Nat :=
  let x := w.ctx c
  if o < 0xC0 then w.ctxLow c o
  else if 0x200 ≤ o ∧ o < 0x220 then ((w.d.viewed.quotas[c]?).getD Quota.zero).word (o - 0x200)
  else if 0x240 ≤ o ∧ o < 0x280 then halfWord (x.arena.field ((o - 0x240) / 8)).toNat (o % 8 == 4)
  else if o = 0x280 then bit x.arenaValid + bit x.arenaOverlap * 2
  else if 0x300 ≤ o ∧ o < 0x330 then x.halt.word (o - 0x300)
  else w.windowWord c o

/-- The 32-bit word at an aligned BAR0 offset (R560, R561): a word that no table lists reads zero. -/
def Work.regWord (w : Work) (off : Nat) : Nat :=
  let o := off % 0x10000
  let blk := off / 0x10000
  if w.d.sec.recovery ∧ blk ≠ 0 ∧ blk ≠ 8 ∧ blk ≠ 9 then 0
  else
    match blk with
    | 0x00 => w.idWord o
    | 0x01 => w.hifWord o
    | 0x02 => w.pitchWord o
    | 0x03 => w.cfgWord o
    | 0x04 => w.pwrWord o
    | 0x05 => w.clkWord o
    | 0x06 => w.memWord o
    | 0x07 => w.linkWord o
    | 0x08 => w.secWord o
    | 0x09 => w.evtWord o
    | 0x0A => w.cntWord o
    | 0x10 => w.ctxWord (o / 0x1000) (o % 0x1000)
    | _ => 0

/-! ### Captures -/

/-- The 64-bit read-only field whose lower half stands at an offset, with the words that its read captures: the upper
half, and companions that a table names (R559, R565, R576, R578). -/
def captured (off : Nat) : List Nat :=
  let o := off % 0x1000
  if off = 0x020010 then [0x020014, 0x020018]
  else if off = 0x0A0008 then [0x0A000C, 0x0A0010, 0x0A0014]
  else if off ∈ [0x000008, 0x000018, 0x040008, 0x060000, 0x060008, 0x090008, 0x090018, 0x0A0010, 0x0A0018] then [off + 4]
  else if 0x091000 ≤ off ∧ off < 0x092400 ∧ (off % 0x40 = 0x08 ∨ off % 0x40 = 0x18) then [off + 4]
  else if 0x100000 ≤ off ∧ off < 0x110000 then
    if o = 0x308 ∨ o = 0x318 ∨ o = 0x410 then [off + 4]
    else if o = 0x408 then [off + 4, off + 8, off + 12]
    else []
  else []

/-- The capture of a field: its upper half and companions held until the next capture of them (R559). A field whose lower
half is itself held as a companion keeps what is held (log 23). -/
def Work.capture (w : Work) (off : Nat) : Work :=
  let ws := if w.d.regIo.words.any fun h => h.1 == off then [] else captured off
  w.upd fun d =>
    { d with
      regIo := { d.regIo with words := (d.regIo.words.filter fun h => !ws.contains h.1) ++ ws.map fun o => (o, BitVec.ofNat 32 (w.regWord o)) } }

/-- A word as a read returns it: held, or as it stands. -/
def Work.readWord (w : Work) (off : Nat) : Nat :=
  match w.d.regIo.words.find? fun h => h.1 == off with
  | some h => h.2.toNat
  | none => w.regWord off

/-- Whether a function is enabled (R439): the physical one always, a virtual one under VF Enable and NumVFs. -/
def Hif.covers (h : Hif) (fn : Nat) : Bool := fn == 0 || (h.vfEnable && decide (fn ≤ h.numVfs))

/-- The BAR0 offset that a function's access reaches (R431, R560): a virtual function maps its own context page. -/
def Work.barOffset (w : Work) (fn off : Nat) : Option Nat :=
  if !(w.d.sec.ready || w.d.sec.recovery) then none
  else if fn = 0 then (if off < 0x1000000 then some off else none)
  else if off < 0x1000 ∧ w.d.hif.covers fn ∧ !w.d.sec.recovery then some (0x100000 + 0x1000 * fn + off)
  else none

/-- A read of BAR0 (R559): an aligned one of 4 or 8 bytes whose lower word is that of a 64-bit read-only field captures
it; any other size returns the addressed bytes. -/
def Work.readBar (w : Work) (off size : Nat) : Work :=
  let w := if accessOk off size then w.capture off else w
  let at_ := fun (o : Nat) => w.readWord (o / 4 * 4) / 2 ^ (8 * (o % 4)) % 256
  let v := if size = 8 ∧ off % 8 = 0 then w.readWord off + w.readWord (off + 4) * 2 ^ 32
    else if size = 4 ∧ off % 4 = 0 then w.readWord off
    else leNat ((List.range size).map fun i => BitVec.ofNat 8 (at_ (off + i)))
  w.upd fun d => { d with regIo := { d.regIo with readData := BitVec.ofNat 64 v } }

/-! ### Writing registers -/

/-- A write of a PITCH field (R43, R72, R565): W1C for the late bits; the rest only while PITCH_RUN is 0. -/
def Pitch.put (p : Pitch) (o v : Nat) : Pitch :=
  match o with
  | 0x04 =>
    if p.run then p
    else { p with role := roleOf (v % 4), treeDepth := bitsOf v 20 16, parentLink := bitsOf v 29 24 }
  | 0x08 => { p with lateSelf := p.lateSelf && !bitOf v 0, lateChild := p.lateChild && !bitOf v 1 }
  | _ => p

/-- A write of a CFG field (R73). -/
def CfgCtl.put (c : CfgCtl) (o v : Nat) : CfgCtl :=
  match o with
  | 0x04 => { c with view := bitOf v 0 }
  | 0x10 =>
    { c with
      writeWhileArmed := c.writeWhileArmed && !bitOf v 16, armWhileArmed := c.armWhileArmed && !bitOf v 17,
      disarmLate := c.disarmLate && !bitOf v 18 }
  | _ => c

/-- A write of a PWR or CLK field that has no command of its own (R557); an absent port's bits stay 0 (R560). -/
def Pwr.put (p : Pwr) (f : Fuses) (off v : Nat) : Pwr :=
  match off with
  | 0x040004 =>
    { p with
      capPortEn := BitVec.ofNat 2 (bitsOf v 9 8) &&& f.capPorts, idleGate := bitOf v 11, policyEnable := bitOf v 12 }
  | 0x050000 =>
    { p with
      coreSpread := if v % 16 ≤ 10 then v % 16 else p.coreSpread
      hostSris := bitOf v 4, capSris := BitVec.ofNat 2 (bitsOf v 6 5) &&& f.capPorts, hostLowSwing := bitOf v 7,
      capLowSwing := BitVec.ofNat 2 (bitsOf v 9 8) &&& f.capPorts }
  | _ => p

/-- A write of a MEM field (R505): values out of range are ignored. -/
def MemRegs.put (m : MemRegs) (o v : Nat) : MemRegs :=
  match o with
  | 0x100 =>
    let h := v % 256
    let ms := bitsOf v 25 16
    { m with
      scrubHours := if 1 ≤ h ∧ h ≤ 168 then h else m.scrubHours
      scrubMs := if 10 ≤ ms ∧ ms ≤ 1000 then ms else m.scrubMs }
  | 0x104 => { m with ceThreshold := BitVec.ofNat 32 v }
  | _ => m

/-- A write of a SEC field (R534). -/
def Sec.put (s : Sec) (o v : Nat) : Sec :=
  match o with
  | 0x18 => { s with flashLen := BitVec.ofNat 32 v }
  | 0x1C => { s with flashTarget := v % 4 }
  | _ => s

/-- A write of a context page's word (R439, R458): `pf` is whether it came through the physical function. -/
def Ctx.put (x : Ctx) (pf : Bool) (o v : Nat) : Ctx :=
  let down := decide (x.state = .disabled)
  if 0x10 ≤ o ∧ o < 0x50 ∧ o % 0x10 = 8 then
    (if down then { x with cmd := updAt x.cmd (o / 0x10 - 1) fun r => { r with size := v % 32 } } else x)
  else
    match o with
    | 0x00 =>
      let b := bitsOf v 14 8
      { x with roEnable := bitOf v 3, urgentBatch := if pf ∧ 1 ≤ b ∧ b ≤ 64 then b else x.urgentBatch }
    | 0x04 => { x with urgentRefused := x.urgentRefused && !bitOf v 12 }
    | 0x08 => if down then { x with ringVersion := v % 65536 } else x
    | 0x58 => if down then { x with cpl := { x.cpl with size := v % 32 } } else x
    | 0x68 => if down then { x with evt := { x.evt with size := v % 32 } } else x
    | 0x70 => { x with coalesceCount := v % 256, coalesceTime := bitsOf v 31 16 }
    | 0x74 => { x with evtIrq := bitOf v 0 }
    | 0x280 => { x with arenaOverlap := x.arenaOverlap && !(pf && bitOf v 1) }
    | _ => x

/-- A writable 64-bit field without a command of its own: its value, by the offset of its lower half. -/
def Work.field64 (w : Work) (off : Nat) : Option Nat :=
  let o := off % 0x1000
  let x := w.ctx ((off - 0x100000) / 0x1000)
  if off = 0x020020 then some w.d.pitch.childLinks.toNat
  else if off = 0x030008 then some w.d.cfg.armTick.toNat
  else if off = 0x080010 then some w.d.sec.flashSrc.toNat
  else if off = 0x080060 then some w.d.sec.unlockSrc.toNat
  else if 0x100000 ≤ off ∧ off < 0x110000 then
    if 0x10 ≤ o ∧ o < 0x50 ∧ o % 0x10 = 0 then some ((x.cmd[o / 0x10 - 1]?).getD CmdRing.reset).base.toNat
    else if o = 0x50 then some x.cpl.base.toNat
    else if o = 0x60 then some x.evt.base.toNat
    else if 0x240 ≤ o ∧ o < 0x280 then some (x.arena.field ((o - 0x240) / 8)).toNat
    else none
  else none

/-- A 64-bit field set (R373, R439, R534, R581). -/
def Work.put64 (w : Work) (pf : Bool) (off v : Nat) : Work :=
  let o := off % 0x1000
  let c := (off - 0x100000) / 0x1000
  let b := BitVec.ofNat 64 v
  if off = 0x020020 then
    (if w.d.pitch.run then w else w.upd fun d => { d with pitch := { d.pitch with childLinks := BitVec.ofNat 36 v &&& w.fz.links } })
  else if off = 0x030008 then w.updCfg fun c => { c with armTick := b }
  else if off = 0x080010 then w.upd fun d => { d with sec := { d.sec with flashSrc := b } }
  else if off = 0x080060 then w.upd fun d => { d with sec := { d.sec with unlockSrc := b } }
  else
    let x := w.ctx c
    let down := decide (x.state = .disabled)
    if 0x10 ≤ o ∧ o < 0x50 then
      (if down then w.updCtx c fun x => { x with cmd := updAt x.cmd (o / 0x10 - 1) fun r => { r with base := b } } else w)
    else if o = 0x50 then (if down then w.updCtx c fun x => { x with cpl := { x.cpl with base := b } } else w)
    else if o = 0x60 then (if down then w.updCtx c fun x => { x with evt := { x.evt with base := b } } else w)
    else if !pf || !(down || decide (x.state = .idle)) || (decide (0x270 ≤ o) && !w.fz.capPorts.getLsbD 1) then w
    else w.updCtx c fun x => { x with arena := x.arena.put ((o - 0x240) / 8) b }

/-- A 32-bit word written to fields of at most 32 bits. -/
def Work.put32 (w : Work) (pf : Bool) (off v : Nat) : Work :=
  let o := off % 0x10000
  match off / 0x10000 with
  | 0x02 => w.upd fun d => { d with pitch := d.pitch.put o v }
  | 0x03 => w.updCfg fun c => c.put o v
  | 0x04 => w.upd fun d => { d with pwr := d.pwr.put w.fz off v }
  | 0x05 => w.upd fun d => { d with pwr := d.pwr.put w.fz off v }
  | 0x06 => w.upd fun d => { d with memRegs := d.memRegs.put o v }
  | 0x07 =>
    if o % 0x40 = 0 ∧ w.fz.links.getLsbD (o / 0x40) then
      w.updLink (o / 0x40) fun k => { k with txSwing := bitsOf v 5 2, txEdge := bitsOf v 9 6, autotrain := bitOf v 10 }
    else w
  | 0x08 => w.upd fun d => { d with sec := d.sec.put o v }
  | 0x10 => w.updCtx (o / 0x1000) fun x => x.put pf (o % 0x1000) v
  | _ => w

/-- A write of one 32-bit word: a half of a 64-bit field is kept, or completes it (R559). -/
def Work.writeHalf (w : Work) (pf : Bool) (off v : Nat) : Work :=
  let b := off / 8 * 8
  match w.field64 b with
  | some cur => if off = b then w.keepHalf b v else (w.put64 pf b (w.halfOf b cur + v * 2 ^ 32)).dropHalf b
  | none => w.put32 pf off v

/-- A write to the fields at a BAR0 offset that have no command of their own (R12, R559). -/
def Work.writeBar (w : Work) (pf : Bool) (off size v : Nat) : Work :=
  if size = 8 then
    match w.field64 off with
    | some _ => (w.put64 pf off (v % 2 ^ 64)).dropHalf off
    | none => (w.put32 pf off (v % 2 ^ 32)).put32 pf (off + 4) (v / 2 ^ 32 % 2 ^ 32)
  else w.writeHalf pf off (v % 2 ^ 32)

/-- Whether the block of an offset takes writes now: in recovery only SEC and its marked fields (R516, R534). -/
def Work.takesWrite (w : Work) (off : Nat) : Bool :=
  !w.d.sec.recovery || (decide (0x080010 ≤ off) && decide (off < 0x080020))

/-! ### The commands -/

/-- REGISTER_WRITE. -/
def execRegisterWrite (fn offset size value : Nat) (s : State) : Host.Outcome State Fault Refusal :=
  .next (s.exec fun w =>
    if !accessOk offset size then w
    else
      match w.barOffset fn offset with
      | none => w
      | some off => if w.takesWrite off then w.writeBar (fn == 0) off size value else w)

/-- REGISTER_READ_CAPTURE. -/
def execRegisterReadCapture (fn offset size : Nat) (s : State) : Host.Outcome State Fault Refusal :=
  .next (s.exec fun w =>
    match w.barOffset fn offset with
    | none => w
    | some off => w.readBar off size)

/-- ID_DEVICE_NUMBER_WRITE (R563): ignored while a link is TRAINING or UP, or while PITCH_RUN is 1. -/
def execIdDeviceNumberWrite (fn value : Nat) (s : State) : Host.Outcome State Fault Refusal :=
  .next (s.exec fun w =>
    if fn ≠ 0 ∨ w.d.pitch.run ∨ !(w.d.sec.ready || w.d.sec.recovery) then w
    else if w.d.links.any fun l => decide (l.state = .training) || decide (l.state = .up) then w
    else w.upd fun d => { d with deviceNumber := value % 2 ^ 14 })

/-- CNT_SELECT (R576): the three fields together; bits [23:21] are reserved. -/
def execCntSelect (value : W32) (s : State) : Host.Outcome State Fault Refusal :=
  .next (s.exec fun w => if w.d.responds then w.upd fun d => { d with cntSelect := value &&& 0xFF1FFFFF } else w)

/-- CTX_CNT_SELECT (R578). -/
def execCtxCntSelect (ctx id inst : Nat) (s : State) : Host.Outcome State Fault Refusal :=
  .next (s.exec fun w =>
    if w.d.responds then w.updCtx ctx fun x => { x with cntId := id % 65536, cntInstance := inst % 256 } else w)

end Sys2Proof.Machine
end

