-- ==== Sys2Proof/Machine/Host.lean ====
section
/-!
DEFINITION. The host interface (R430 to R459): doorbells, descriptor fetch, NOP, SYNC and URGENT_REQUEST, context setup,
context resets, and the host port's own events. Opcodes of jobs stand in Job.lean, those of HAUL in Haul.lean.
-/

namespace Sys2Proof.Machine

/-! ### Rings -/

/-- A command ring of a context. -/
def Ctx.ring (x : Ctx) (n : Nat) : CmdRing := (x.cmd[n]?).getD CmdRing.reset

/-- A command ring of a context changed. -/
def Ctx.updRing (x : Ctx) (n : Nat) (f : CmdRing → CmdRing) : Ctx := { x with cmd := updAt x.cmd n f }

/-- A doorbell write that is ignored, counted and reported (R440): the doorbell's offset and the value written. -/
def Work.doorbellInvalid (w : Work) (c off value : Nat) : Work :=
  (w.countCtx c Ctr.doorbellInvalid 1).postEvent c 0x0003 (leBytes 1 (off / 8) ++ leBytes 1 0 ++ leBytes 2 value)

/-- A command ring's new tail (R440): how many descriptors it announces, and when (R457). -/
def CmdRing.ringBell (r : CmdRing) (value now : Nat) : CmdRing :=
  let n := (value + 2 ^ r.size - r.tail) % 2 ^ r.size
  { r with tail := value, bells := if n = 0 then r.bells else r.bells ++ [(n, now)] }

/-- DB_CMDn_TAIL (R440): an invalid doorbell, or the ring's new tail. The doorbell of a disabled context finds no enabled ring
and is ignored (log 43). -/
def Work.bellCmd (w : Work) (c ring value : Nat) : Work :=
  let x := w.ctx c
  let r := x.ring ring
  if !x.enable then w
  else if r.size == 0 || decide (2 ^ r.size ≤ value) then w.doorbellInvalid c (8 * ring) value
  else w.updCtx c fun x => x.updRing ring fun r => r.ringBell value w.d.nowNs

/-- DB_CPL_HEAD and DB_EVT_HEAD (R440): the host's new head, or an invalid doorbell; ignored while the
context is disabled (log 43). -/
def Work.bellHead (w : Work) (c value : Nat) (event : Bool) : Work :=
  let x := w.ctx c
  let r := if event then x.evt else x.cpl
  if !x.enable then w
  else if decide (2 ^ r.size ≤ value) then w.doorbellInvalid c (if event then 0x28 else 0x20) value
  else
    w.updCtx c fun x =>
      if event then { x with evt := { x.evt with head := value } } else { x with cpl := { x.cpl with head := value } }

/-! ### Fetching -/

/-- Whether an opcode is one of R442, allowed at a ring protocol version (R437, R438). -/
def opcodeKnown (op version : Nat) : Bool :=
  let v1 := [0x00, 0x10, 0x11, 0x12, 0x13, 0x20]
  v1.contains op || (decide (0x0200 ≤ version) && op == 0x30) || (decide (0x0201 ≤ version) && op == 0x01)

/-- Whether a descriptor completes with OPCODE_INVALID (R443). -/
def Ctx.opcodeBad (x : Ctx) (c : Nat) (d : Desc) : Bool :=
  !opcodeKnown d.opcode x.ringVersion || (d.opcode == 0x30 && !x.urgent)
    || (d.opcode == 0x20
      && (decide (8 ≤ d.field 0 1) || (decide (d.field 0 1 ≤ 1) && !ownsHandle c (d.field 4 2))))

/-- How many descriptors one read of a ring fetches (R446): up to 8 in 512 bytes, what the ring holds before it wraps, and
what the completion ring has room for. -/
def Ctx.fetchCount (x : Ctx) (r : CmdRing) : Nat :=
  let used := (x.cpl.tail + 2 ^ x.cpl.size - x.cpl.head) % 2 ^ x.cpl.size
  let room := 2 ^ x.cpl.size - 1 - used - x.fetched.length
  min (min 8 ((r.tail + 2 ^ r.size - r.head) % 2 ^ r.size)) (min room (2 ^ r.size - r.head))

/-- When the doorbell of the next descriptor arrived, and what the doorbells announce after it. -/
def takeBell : List (Nat × Nat) → Nat × List (Nat × Nat)
  | [] => (0, [])
  | (n, t) :: l => (t, if n ≤ 1 then l else (n - 1, t) :: l)

/-- The next descriptor of a ring fetched (R441, R446). -/
def Work.fetchOne (w : Work) (c ring : Nat) : Work :=
  let x := w.ctx c
  let r := x.ring ring
  let a := r.base.toNat + 64 * r.head
  let k := hostKey c a
  let head := (r.head + 1) % 2 ^ r.size
  let (at_, bells) := takeBell r.bells
  let flags := w.le (k + 1) 1
  let d : Desc :=
    { ring := ring, head := head, opcode := w.le k 1, interrupt := bitOf flags 0, fence := bitOf flags 1, tag := w.le (k + 8) 8,
      operands := w.rdN (k + 16) 48, seq := x.fetchSeq, started := false, fetchedAt := at_ }
  let w := (w.cacheIova c a).countCtx c Ctr.hostDescriptorsFetched 1
  let w := w.updCtx c fun x =>
    { x with fetched := x.fetched ++ [d], fetchSeq := x.fetchSeq + 1, cmd := updAt x.cmd ring fun r => { r with head := head, bells := bells } }
  if x.halt.valid then w.complete c d.seq .discarded 0
  else if x.opcodeBad c d then w.complete c d.seq .opcodeInvalid 0
  else w

/-- Descriptors fetched one after another. -/
def Work.fetchGo (w : Work) (c ring : Nat) : Nat → Work
  | 0 => w
  | n + 1 => Work.fetchGo (w.fetchOne c ring) c ring n

/-- A read of a command ring (R438, R446): at protocol 1.x of ring 0 alone. -/
def Work.fetch (w : Work) (c ring : Nat) : Work :=
  let x := w.ctx c
  let r := x.ring ring
  if !x.enable || r.size == 0 || (ring != 0 && decide (x.ringVersion < 0x0200)) || w.d.hif.speed == 0 then w
  else w.fetchGo c ring (x.fetchCount r)

/-! ### NOP, SYNC, URGENT_REQUEST -/

/-- The request that an URGENT_REQUEST descriptor makes (R442, R454). -/
def Desc.request (d : Desc) : UrgentReq :=
  { desc := d, entry := d.field 0 2, argument := d.field 4 4, inAddr := d.field 8 8, inLen := d.field 16 4, resLen := d.field 20 4,
    resSrc := d.field 24 8, resDst := d.field 32 8 }

/-- An URGENT_REQUEST taken up: it waits for a dispatch (R454), or completes with STATE_INVALID (R443). -/
def Work.takeRequest (w : Work) (c ring : Nat) : Work :=
  match w.ready c ring 0x30 false with
  | none => w
  | some d =>
    let w := w.startDesc c d.seq
    if decide ((w.ctx c).state ≠ .running) then w.complete c d.seq .stateInvalid 0
    else w.updCtx c fun x => { x with waiting := x.waiting ++ [{ d with started := true : Desc }.request] }

/-! ### Context setup -/

/-- The rings in use: base, size, and the largest size (R439). -/
def Ctx.usedRings (x : Ctx) : List (Nat × Nat × Nat) :=
  ([((x.ring 0).base.toNat, (x.ring 0).size, 16), (x.cpl.base.toNat, x.cpl.size, 16), (x.evt.base.toNat, x.evt.size, 12)])
    ++ (([1, 2, 3].map x.ring).filter fun r => r.size != 0).map fun r => (r.base.toNat, r.size, 16)

/-- The first failed check of R439, 1 to 5; 0 where none fails. -/
def Work.enableCause (w : Work) (c : Nat) : Nat :=
  let x := w.ctx c
  if !w.d.hif.covers c || !w.d.hif.busMaster.getLsbD c then 1
  else if x.usedRings.any fun r => r.1 % 64 != 0 then 2
  else if x.usedRings.any fun r => decide (r.2.1 < 4) || decide (r.2.2 < r.2.1) then 3
  else if !x.arenaValid then 4
  else if !([0x0100, 0x0101, 0x0102, 0x0103, 0x0104, 0x0200, 0x0201].contains x.ringVersion) then 5
  else 0

/-- A ring at index 0 and phase 1 (R439). -/
def OutRing.restart (r : OutRing) : OutRing := { r with head := 0, tail := 0, phase := true, dropped := false }

/-- The rings of a context enabled (R439); events that waited for context 0's rings are posted (R520). -/
def Work.enableCtx (w : Work) (c : Nat) : Work :=
  let w := w.updCtx c fun x =>
    { x with
      enable := true, state := .idle, enableCause := 0, cmd := x.cmd.map fun r => { r with head := 0, tail := 0, bells := [] }
      cpl := x.cpl.restart, evt := x.evt.restart, unsignalled := 0, unsignalledAt := 0, fetched := [] }
  if c = 0 then
    let es := w.d.heldEvents
    es.foldl (fun w e => w.writeEvent 0 true e) (w.upd fun d => { d with heldEvents := [] })
  else w

/-- The domains of the graph engine and of the exchange (R536, R557). -/
def engineDomains : List Nat := [52, 53]

/-- A switch of a domain on that is neither on nor about to be (R537, R539). -/
def Pwr.wantOn (p : Pwr) (dom : Nat) : Pwr :=
  match ((p.switching ++ p.queued).filter fun s => s.domain == dom).getLast? with
  | some s => if s.on then p else p.request dom true
  | none => if p.domains.getLsbD dom then p else p.request dom true

/-- Whether the engine domains are on and stay on. -/
def Pwr.enginesOn (p : Pwr) : Bool :=
  engineDomains.all fun d => p.domains.getLsbD d && !(p.switching ++ p.queued).any fun s => s.domain == d && !s.on

/-- CTX_ENABLE set (R439): with the engine domains off it completes once they are on (R539); ignored while the stacks sleep
(R540) or after an input fault (R543). -/
def Work.setEnable (w : Work) (c : Nat) : Work :=
  if (w.ctx c).enable || w.d.pwr.hbmSleep || w.d.pwr.faultHeld then w
  else if w.enableCause c ≠ 0 then w.updCtx c fun x => { x with enableCause := w.enableCause c }
  else
    let w := w.upd fun d => { d with pwr := { d.pwr with idleTimer := false } }
    if w.d.pwr.enginesOn then w.enableCtx c
    else
      w.upd fun d =>
        let p := engineDomains.foldl Pwr.wantOn d.pwr
        { d with pwr := { p with enableWait := if p.enableWait.contains c then p.enableWait else p.enableWait ++ [c] } }

/-- The idle timer of the engine domains started when no context is enabled (R539). -/
def Work.noteIdle (w : Work) : Work :=
  if (contexts.any fun c => (w.ctx c).enable) || !w.d.pwr.enableWait.isEmpty then w
  else w.upd fun d => { d with pwr := { d.pwr with idleTimer := true } }

/-- CTX_ENABLE cleared (R439): ignored while the context is LOADED or RUNNING. Descriptors that have not completed complete
with DISCARDED first (R446, log 41). -/
def Work.clearEnable (w : Work) (c : Nat) : Work :=
  let x := w.ctx c
  let w := w.upd fun d => { d with pwr := { d.pwr with enableWait := d.pwr.enableWait.filter fun k => k != c } }
  if !x.enable || decide (x.state = .loaded) || decide (x.state = .running) then w
  else
    let w := x.fetched.foldl (fun w d => w.complete c d.seq .discarded 0) w
    (w.updCtx c fun x => { x with enable := false, state := .disabled }).noteIdle

/-- CTX_CLEAR of a halted context (R435, R571): its records cleared, its job unloaded, IDLE again. -/
def Work.clearHalt (w : Work) (c : Nat) : Work :=
  if !(w.ctx c).halt.valid || w.d.pwr.faultHeld then w
  else
    let w := w.unload c
    let w := (w.ctx c).tiles.foldl (fun w t => w.updTile t fun k => { k with halt := HaltRec.empty }) w
    (w.updCtx c fun x => { x with halt := HaltRec.empty, streamHalt := HaltRec.empty }).tryReport

/-- CTX_URGENT written through the physical function (R453): a change needs the context DISABLED or IDLE; setting it, protocol
2.x, and no other urgent context. -/
def Work.writeUrgent (w : Work) (c : Nat) (v : Bool) : Work :=
  let x := w.ctx c
  let still := decide (x.state = .disabled) || decide (x.state = .idle)
  let others := contexts.any fun k => k != c && (w.ctx k).urgent
  if v = x.urgent then w
  else if still && (!v || (decide (0x0200 ≤ x.ringVersion) && !others)) then w.updCtx c fun x => { x with urgent := v }
  else w.updCtx c fun x => { x with urgentRefused := true }

/-- A tile's storage zeroed (R232, R249): registers, masks, memories and store; its checksum slots lose their valid bits. -/
def Work.zeroTile (w : Work) (t : Nat) : Work :=
  let w := (((w.wipe (vregKey t 0) (32 * 16384)).wipe (dmemKey t 0) 131072).wipe (imemKey t 0) 65536).wipe (tileStoreAddr t 0) tileStoreSize
  let out := fun (a : Nat) => decide (a < tileStoreAddr t 0) || decide (tileStoreAddr (t + 1) 0 ≤ a)
  let w := w.upd fun d =>
    { d with
      memRegs :=
        { d.memRegs with crcs := d.memRegs.crcs.filter fun e => out e.1, poisoned := d.memRegs.poisoned.filter out } }
  w.updTile t fun _ => Tile.zeroed

/-- The first cause for which a tile mask is refused (R436); 0 where none applies. -/
def Work.tileCause (w : Work) (c : Nat) (m : BitVec 64) : Nat :=
  let x := w.ctx c
  let has := (List.range 64).filter fun t => m.getLsbD t
  if x.state = .loaded ∨ x.state = .running then 1
  else if has.any fun t => !w.fz.tiles.getLsbD t then 2
  else if has.any fun t => !w.d.pwr.domains.getLsbD (t / 2) then 3
  else if has.any fun t => contexts.any fun k => k != c && (w.ctx k).tileMask.getLsbD t then 4
  else if ((w.d.active.quotas[c]?).getD Quota.zero).tiles < has.length then 5
  else 0

/-- CTX_TILE_MASK written through the physical function (R436): taken whole, with the new tiles zeroed, or refused whole. -/
def Work.writeTileMask (w : Work) (c : Nat) (m : BitVec 64) : Work :=
  let cause := w.tileCause c m
  if cause ≠ 0 then w.updCtx c fun x => { x with tileCause := cause }
  else
    let fresh := (List.range 64).filter fun t => m.getLsbD t && !(w.ctx c).tileMask.getLsbD t
    (fresh.foldl Work.zeroTile w).updCtx c fun x => { x with tileMask := m, tileCause := 0 }

/-- The arena ranges of a context that are not empty (R373). -/
def Arena.ranges (a : Arena) : List (Nat × Nat) :=
  ([(a.hbmBase, a.hbmLen), (a.sharedBase, a.sharedLen), (a.cap0Base, a.cap0Len), (a.cap1Base, a.cap1Len)].map fun r =>
    (r.1.toNat, r.2.toNat)).filter fun r => r.2 != 0

/-- Whether a context's arenas overlap a valid arena of another context, or reach into reserved HBM (R373, R491). -/
def Work.arenaBad (w : Work) (c : Nat) : Bool :=
  (w.ctx c).arena.ranges.any fun r =>
    overlaps r.1 r.2 w.fz.hbmUsable (w.fz.hbmRange - w.fz.hbmUsable)
      || contexts.any fun k => k != c && (w.ctx k).arenaValid && (w.ctx k).arena.ranges.any fun s => overlaps r.1 r.2 s.1 s.2

/-- CTX_ARENA_VALID written through the physical function (R373): only while the context is DISABLED or IDLE. -/
def Work.writeArenaValid (w : Work) (c : Nat) (v : Bool) : Work :=
  let x := w.ctx c
  if x.state = .loaded ∨ x.state = .running ∨ w.d.pwr.hbmSleep then w
  else if v && w.arenaBad c then w.updCtx c fun x => { x with arenaValid := false, arenaOverlap := true }
  else w.updCtx c fun x => { x with arenaValid := v }

/-! ### Resets -/

/-- A transition that a reset context requested on an object of another context, ended uncommitted (R434): the object stays at
its home, and an action that waited behind the transition starts at once from there. -/
def Work.endTransition (w : Work) (c : Nat) (e : ResEntry) : Work :=
  let w := w.upd fun d => { d with copies := d.copies.filter fun k => k.handle != some e.handle }
  let w := w.updObj e.handle fun e => { e with state := .resident, newHome := 0, newCharged := e.charged, commitTick := 0, descs := [], deferred := none }
  match e.deferred with
  | none => w
  | some d =>
    if d.ctx = c then w
    else
      w.begin e.handle
        { action := d.action, ctx := d.ctx, newHome := d.newHome, source := d.source, k := d.k, host := d.host, descs := d.descs, ref := d.ref }

/-- The objects of a reset context freed, and its transitions and waiting actions on other contexts' objects ended (R434). -/
def Work.freeObjects (w : Work) (c : Nat) : Work :=
  let gone := (w.d.residency.filter fun e => e.owner == c).map fun e => e.handle
  let w := w.upd fun d =>
    { d with
      residency :=
        (d.residency.filter fun e => e.owner != c).map fun e =>
          match e.deferred with | some k => if k.ctx = c then { e with deferred := none } else e | none => e
      copies := d.copies.filter fun k => k.ctx != c && !(match k.handle with | some h => gone.contains h | none => false) }
  (w.d.residency.filter fun e =>
    e.newCharged == c && decide (e.state ≠ .resident) && decide (e.state ≠ .free) && decide (e.state ≠ .releasing)).foldl
    (fun w e => w.endTransition c e) w

/-- A context reset (R434): no record, no completions; rings, interrupts, job, objects and tiles as at reset. -/
def Work.resetCtx (w : Work) (c : Nat) : Work :=
  let machine := match (w.ctx c).job with | some j => j.machine && decide ((w.ctx c).state = .running) | none => false
  let w := w.updCtx c fun x => { x with fetched := [] }
  let w := (w.stopWork c).unload c
  let w := w.freeObjects c
  let w := (w.ctx c).tiles.foldl Work.zeroTile w
  let w := w.updCtx c fun x =>
    { x with
      enable := false, state := .disabled, ringVersion := 0x0100, cmd := List.replicate 4 CmdRing.reset, cpl := OutRing.reset
      evt := OutRing.reset, coalesceCount := 1, coalesceTime := 0, evtIrq := true, unsignalled := 0, unsignalledAt := 0
      halt := HaltRec.empty, streamHalt := HaltRec.empty }
  let w := w.upd fun d =>
    { d with
      machineStopped := d.machineStopped || machine
      pwr := { d.pwr with enableWait := d.pwr.enableWait.filter fun k => k != c }
      hif := { d.hif with masked := (d.hif.masked.filter fun m => m.1 != c) ++ [(c, 0), (c, 1)], pendingBits := d.hif.pendingBits.filter fun m => m.1 != c } }
  w.noteIdle.tryReport

/-- FLR of the physical function (R433). -/
def Work.resetPf (w : Work) : Work :=
  let w := contexts.foldl Work.resetCtx w
  let w := w.clearRun
  (w.upd fun d =>
    { d with
      hif := { d.hif with vfEnable := false, numVfs := 0, busMaster := 0 }
      active := d.bootSet, shadow := d.bootSet }).updCfg fun c => { c with armed := none }

/-! ### The commands -/

/-- NOP. -/
def execNop (ctx ring : Nat) (s : State) : Host.Outcome State Fault Refusal :=
  .next (s.exec fun w =>
    match w.ready ctx ring 0x00 false with
    | some d => (w.startDesc ctx d.seq).complete ctx d.seq .ok 0
    | none => w)

/-- SYNC: once every earlier descriptor of the context has completed (R442). -/
def execSync (ctx ring : Nat) (s : State) : Host.Outcome State Fault Refusal :=
  .next (s.exec fun w =>
    match w.ready ctx ring 0x01 true with
    | some d => if (w.ctx ctx).oldest d then (w.startDesc ctx d.seq).complete ctx d.seq .ok 0 else w
    | none => w)

/-- URGENT_REQUEST. -/
def execUrgentRequest (ctx ring : Nat) (s : State) : Host.Outcome State Fault Refusal := .next (s.exec fun w => w.takeRequest ctx ring)

/-- DB_CMD_TAIL. -/
def execDbCmdTail (ctx ring value : Nat) (s : State) : Host.Outcome State Fault Refusal :=
  .next (s.exec fun w => if w.d.responds then w.bellCmd ctx ring (value % 65536) else w)

/-- DB_CPL_HEAD. -/
def execDbCplHead (ctx value : Nat) (s : State) : Host.Outcome State Fault Refusal :=
  .next (s.exec fun w => if w.d.responds then w.bellHead ctx (value % 65536) false else w)

/-- DB_EVT_HEAD. -/
def execDbEvtHead (ctx value : Nat) (s : State) : Host.Outcome State Fault Refusal :=
  .next (s.exec fun w => if w.d.responds then w.bellHead ctx (value % 4096) true else w)

/-- DESCRIPTOR_FETCH. -/
def execDescriptorFetch (ctx ring : Nat) (s : State) : Host.Outcome State Fault Refusal := .next (s.exec fun w => w.fetch ctx ring)

/-- COALESCE_TIMER: the oldest unsignalled completion has waited for CTX_CPL_COALESCE_TIME (R452). -/
def execCoalesceTimer (ctx : Nat) (s : State) : Host.Outcome State Fault Refusal :=
  .next (s.exec fun w =>
    let x := w.ctx ctx
    if x.unsignalled = 0 ∨ x.coalesceTime = 0 ∨ w.d.nowNs < x.unsignalledAt + 100 * x.coalesceTime then w
    else (w.updCtx ctx fun x => { x with unsignalled := 0 }).msix ctx 0)

/-- CTX_ENABLE_SET. -/
def execCtxEnableSet (ctx : Nat) (s : State) : Host.Outcome State Fault Refusal :=
  .next (s.exec fun w => if w.d.responds then w.setEnable ctx else w)

/-- CTX_ENABLE_CLEAR. -/
def execCtxEnableClear (ctx : Nat) (s : State) : Host.Outcome State Fault Refusal :=
  .next (s.exec fun w => if w.d.responds then w.clearEnable ctx else w)

/-- CTX_CLEAR. -/
def execCtxClear (ctx : Nat) (s : State) : Host.Outcome State Fault Refusal :=
  .next (s.exec fun w => if w.d.responds then w.clearHalt ctx else w)

/-- CTX_URGENT: a virtual function's write is ignored (R431). -/
def execCtxUrgent (fn ctx : Nat) (value : Bool) (s : State) : Host.Outcome State Fault Refusal :=
  .next (s.exec fun w => if fn = 0 ∧ w.d.responds then w.writeUrgent ctx value else w)

/-- CTX_TILE_MASK: a virtual function's write is ignored (R431). -/
def execCtxTileMask (fn ctx mask : Nat) (s : State) : Host.Outcome State Fault Refusal :=
  .next (s.exec fun w => if fn = 0 ∧ w.d.responds then w.writeTileMask ctx (BitVec.ofNat 64 mask) else w)

/-- CTX_ARENA_VALID: a virtual function's write is ignored (R373). -/
def execCtxArenaValid (fn ctx : Nat) (value : Bool) (s : State) : Host.Outcome State Fault Refusal :=
  .next (s.exec fun w => if fn = 0 ∧ w.d.responds then w.writeArenaValid ctx value else w)

/-- CTX_URGENT_LAT_CLEAR. -/
def execCtxUrgentLatClear (ctx : Nat) (s : State) : Host.Outcome State Fault Refusal :=
  .next (s.exec fun w => if w.d.responds then w.updCtx ctx fun x => { x with latMax := 0 } else w)

/-- VF_FLR: a context reset; the function's Bus Master Enable is cleared with it. -/
def execVfFlr (vf : Nat) (s : State) : Host.Outcome State Fault Refusal :=
  .next (s.exec fun w =>
    (w.resetCtx vf).upd fun d => { d with hif := { d.hif with busMaster := d.hif.busMaster &&& ~~~(1#16 <<< vf) } })

/-- PF_FLR. -/
def execPfFlr (s : State) : Host.Outcome State Fault Refusal := .next (s.exec Work.resetPf)

/-- HOST_LINK_LOSS: every context halts during a run (R433), and the port is down. -/
def execHostLinkLoss (s : State) : Host.Outcome State Fault Refusal :=
  .next (s.exec fun w =>
    let w := if w.d.pitch.run || w.jobActive then w.haltAll (machineRec 0x61 0xFFFFFFFF) else w
    w.upd fun d => { d with hif := { d.hif with speed := 0, width := 0, flitMode := false, srisActive := false } })

/-- ATS_INVALIDATION: cached translations of the range are dropped before it completes (R432). -/
def execAtsInvalidation (fn iova size : Nat) (s : State) : Host.Outcome State Fault Refusal :=
  .next (s.exec fun w =>
    w.upd fun d => { d with hif := { d.hif with atc := d.hif.atc.filter fun e => !(e.1 == fn && overlaps e.2.1 e.2.2 iova size) } })

/-- The rate of a link speed code in GT/s (R564). -/
def gtps (speed : Nat) : Nat := match speed with | 1 => 2 | 2 => 5 | 3 => 8 | 4 => 16 | 5 => 32 | 6 => 64 | _ => 0

/-- HOST_LINK_UP: the port's rate and width, with HOST_LINK_DEGRADED below 64 GT/s ×16 (R430, R564); what the host writes to
configuration space comes with it (log 39). -/
def execHostLinkUp (speed width numVfs busMaster : Nat) (s : State) : Host.Outcome State Fault Refusal :=
  .next (s.exec fun w =>
    let w := w.upd fun d =>
      { d with
        hif :=
          { d.hif with
            speed := speed % 8, width := width % 32, flitMode := decide (speed % 8 = 6), srisActive := d.pwr.hostSris
            numVfs := numVfs % 16, vfEnable := decide (numVfs % 16 ≠ 0), busMaster := BitVec.ofNat 16 busMaster } }
    if speed % 8 = 6 ∧ width % 32 = 16 then w else w.deviceEvent 0x0004 (leBytes 1 (gtps (speed % 8)) ++ leBytes 1 (width % 32)))

/-- HOST_CORRECTABLE_ERROR: counted, up to 0xFFFF_FFFF (R430, R564). -/
def execHostCorrectableError (s : State) : Host.Outcome State Fault Refusal :=
  .next (s.exec fun w =>
    w.upd fun d =>
      { d with hif := { d.hif with correctable := if d.hif.correctable = 0xFFFFFFFF then d.hif.correctable else d.hif.correctable + 1 } })

/-- MSIX_VECTOR_UNMASK: a pending message is sent (R452). -/
def execMsixVectorUnmask (fn vector : Nat) (s : State) : Host.Outcome State Fault Refusal :=
  .next (s.exec fun w =>
    let held := w.d.hif.pendingBits.contains (fn, vector)
    let w := w.upd fun d =>
      { d with
        hif :=
          { d.hif with
            masked := d.hif.masked.filter fun m => m != (fn, vector), pendingBits := d.hif.pendingBits.filter fun m => m != (fn, vector) } }
    if held then w.msix fn vector else w)

end Sys2Proof.Machine
end

