-- ==== Sys2Proof/Machine/Integrity.lean ====
section
/-!
DEFINITION. Patrol scrubbing and uncorrectable errors (R485 to R490), repair (R495), device faults (R496, R498), and the loss of
a capacity link (R355).
-/

namespace Sys2Proof.Machine

/-- Whether a context's arena, where it is in force, or its objects contain an address (R487). -/
def Work.holdsAddress (w : Work) (c a : Nat) : Bool :=
  let x := w.ctx c
  (x.arenaValid && x.arena.ranges.any fun r => inRange a r.1 r.2)
    || w.d.residency.any fun e => e.owner == c && decide (e.state ≠ .free) && (inRange a e.home e.length || (e.newHome != 0 && inRange a e.newHome e.length))

/-- The halts of an uncorrectable block that scrubbing found (R487): every context where it is shared structure, else those
whose arena or objects contain it. -/
def Work.scrubHalt (w : Work) (a : Nat) : Work :=
  if w.structural a then w.haltAll (machineRec 0x41 a)
  else contexts.foldl (fun w c => if w.holdsAddress c a then w.halt c (machineRec 0x41 a) else w) w

/-- A day in nanoseconds (R490). -/
def dayNs : Nat := 86400000000000

/-- A block put on its stack's repair list for the next training (R490, R495). -/
def Work.wantRepair (w : Work) (blocks : List (Nat × Nat)) : Work :=
  w.upd fun d =>
    { d with
      memRegs :=
        { d.memRegs with
          repairList := d.memRegs.repairList ++ (blocks.eraseDups.filter fun b => !d.memRegs.repairList.contains b)
          repairPending := blocks.foldl (fun m b => m ||| BitVec.ofNat 12 (2 ^ b.1)) d.memRegs.repairPending } }

/-- A corrected HBM block counted (R485, R488); a stack that corrects above the threshold within 24 hours raises MEM_CE_RATE and
has its rows recorded, and its count starts again (R490). -/
def Work.corrected (w : Work) (stack a : Nat) : Work :=
  let w := w.countInst Ctr.memHbmCorrected stack 1
  let now := w.d.nowNs
  let recent := (w.d.memRegs.ceTimes.filter fun e => decide (now < e.2.1 + dayNs)) ++ [(stack, now, a)]
  let own := recent.filter fun e => e.1 == stack
  if w.d.memRegs.ceThreshold.toNat < own.length then
    let w := w.upd fun d => { d with memRegs := { d.memRegs with ceTimes := recent.filter fun e => e.1 != stack } }
    let w := w.wantRepair (own.map fun e => (stack, e.2.2))
    w.deviceEvent 0x0052 (leBytes 1 stack ++ leBytes 3 0 ++ leBytes 8 own.length)
  else w.upd fun d => { d with memRegs := { d.memRegs with ceTimes := recent } }

/-- An uncorrectable HBM block found by scrubbing (R488, R495). -/
def Work.poison (w : Work) (stack a : Nat) : Work :=
  let w := w.countInst Ctr.memHbmUncorrected stack 1
  let w := w.upd fun d =>
    { d with memRegs := { d.memRegs with poisoned := if d.memRegs.poisoned.contains a then d.memRegs.poisoned else d.memRegs.poisoned ++ [a] } }
  let w := w.wantRepair [(stack, a)]
  (w.deviceEvent 0x0051 (leBytes 1 stack ++ leBytes 7 0 ++ leBytes 8 a)).scrubHalt a

/-- A context halted for a tile of its own (R487). -/
def Work.haltOwner (w : Work) (t a : Nat) : Work :=
  match w.owner t with
  | some c => w.halt c (machineRec 0x41 a)
  | none => w

/-- What the SRAM scrubber's uncorrectable word does (R487, R489). -/
def Work.sramFault (w : Work) (k : SramKind) : Work :=
  match k with
  | .tile t off => w.haltOwner t (tileStoreAddr t off)
  | .shared a =>
    let b := a / 64 * 64
    (w.upd fun d =>
      { d with memRegs := { d.memRegs with poisoned := if d.memRegs.poisoned.contains b then d.memRegs.poisoned else d.memRegs.poisoned ++ [b] } }).scrubHalt a
  | .configTable a => w.haltAll (machineRec 0x41 a)
  | .control i => w.deviceFault 0x49 .control i 0

/-- The loss of a capacity port's link (R355, R501): the contexts with homes on the port halt. -/
def Work.capDown (w : Work) (p : Nat) : Work :=
  let on := fun (a : Nat) => decide (w.fz.space a = .cap p)
  contexts.foldl
    (fun w c =>
      if w.d.residency.any fun e => e.owner == c && decide (e.state ≠ .free) && (on e.home || (e.newHome != 0 && on e.newHome)) then
        w.halt c (machineRec 0x45 p)
      else w) w

/-! ### The commands -/

/-- HBM_SCRUB: of a present stack that is not asleep (R488, R540). -/
def execHbmScrub (stack address : Nat) (last : Bool) (result : EccResult) (s : State) : Host.Outcome State Fault Refusal :=
  .next (s.exec fun w =>
    if !w.d.memRegs.trained.getLsbD stack || w.d.pwr.hbmSleep then w
    else
      let a := address / 64 * 64
      let w := match result with
        | .clean => w
        | .corrected => w.corrected stack a
        | .uncorrectable => w.poison stack a
      if last then w.count Ctr.memScrubPasses 1 else w)

/-- SRAM_SCRUB. -/
def execSramScrub (kind : SramKind) (last : Bool) (result : EccResult) (s : State) : Host.Outcome State Fault Refusal :=
  .next (s.exec fun w =>
    let w := match result with
      | .clean => w
      | .corrected => w.count Ctr.memSramCorrected 1
      | .uncorrectable => w.sramFault kind
    if last then w.count Ctr.memScrubPasses 1 else w)

/-- EVT_FAULT_CLEAR: the EVT block responds in recovery too (R516). -/
def execEvtFaultClear (s : State) : Host.Outcome State Fault Refusal :=
  .next (s.exec fun w => if w.d.sec.ready || w.d.sec.recovery then w.upd fun d => { d with fault := FaultRec.empty } else w)

/-- HBM_INTERFACE_FAULT: a device fault of a present stack (R495, R496). -/
def execHbmInterfaceFault (stack : Nat) (s : State) : Host.Outcome State Fault Refusal :=
  .next (s.exec fun w => if w.fz.hbmStacks.getLsbD stack then w.deviceFault 0x4A .stack stack 0 else w)

/-- CAPACITY_LINK_DOWN. -/
def execCapacityLinkDown (port : Nat) (s : State) : Host.Outcome State Fault Refusal :=
  .next (s.exec fun w => if w.fz.capPorts.getLsbD port then w.capDown port else w)

end Sys2Proof.Machine
end

