-- ==== Sys2Proof/Machine/Merge.lean ====
section
/-!
DEFINITION. The merge engine (R187 to R205): block-sparse operands, kept entries, the pre-pass with its runs and pieces, the
merged output, and the commands of the family.
-/

namespace Sys2Proof.Machine

/-- A block-sparse descriptor (R189). -/
structure Sparse where
  formOk : Bool
  fmt : Nat
  grouped : Bool
  rows : Nat
  cols : Nat
  offsets : Nat
  indices : Nat
  values : Nat
  group : Nat
  most : Nat
  headers : Nat
  deriving DecidableEq, Repr

/-- The descriptor at an address (R189). -/
def Work.sparse (w : Work) (a : Nat) : Sparse :=
  { formOk := w.le a 4 == 0x52534253 && w.le (a + 4) 2 == 1, fmt := w.le (a + 6) 1, grouped := bitOf (w.le (a + 7) 1) 0,
    rows := w.le (a + 8) 4, cols := w.le (a + 12) 4, offsets := w.le (a + 16) 8, indices := w.le (a + 24) 8,
    values := w.le (a + 32) 8, group := w.le (a + 40) 2, most := w.le (a + 42) 2, headers := w.le (a + 48) 8 }

/-- Whether an address lies in the shared store or a tile store (R189, R193). -/
def Fuses.onDie (f : Fuses) (a : Nat) : Bool := match f.space a with | .shared => true | .tileStore _ => true | _ => false

/-- Groups of a row. -/
def Sparse.groups (s : Sparse) : Nat := ceilDiv s.cols (max 1 s.group)

/-- Whether a descriptor is well formed, with its arrays where R189 places them (R194). -/
def Sparse.ok (s : Sparse) (f : Fuses) : Bool :=
  s.formOk && decide (s.fmt ≤ 0x0A) && decide (1 ≤ s.rows) && decide (s.rows ≤ 2 ^ 28) && decide (1 ≤ s.cols) && decide (s.cols ≤ 2 ^ 28)
    && f.onDie s.offsets && f.onDie s.indices && s.values % 64 == 0
    && (!s.grouped
      || (decide (2 ≤ s.group) && decide (s.group ≤ 128) && decide (2 ^ Nat.log2 s.group = s.group) && decide (1 ≤ s.most)
        && decide (s.most ≤ s.group) && f.onDie s.headers))

/-- The stored positions of a block row: first and end (R189). -/
def Work.sparseRow (w : Work) (s : Sparse) (r : Nat) : Nat × Nat := (w.le (s.offsets + 8 * r) 8, w.le (s.offsets + 8 * r + 8) 8)

/-- The column index of a stored position (R189). -/
def Work.sparseCol (w : Work) (s : Sparse) (p : Nat) : Nat := w.le (s.indices + 4 * p) 4

/-- The counts of a row's groups (R191). -/
def Work.groupCounts (w : Work) (s : Sparse) (r : Nat) : List Nat := tab s.groups fun g => w.le (s.headers + s.groups * r + g) 1

/-- What becomes of a stored entry (R191, R192). -/
inductive Entry where
  | kept | outOfRange | overGroup
  deriving DecidableEq, Repr

/-- The entries of one group in stored order, from a position: at most `most` are kept (R191). -/
def Work.groupEntries (w : Work) (s : Sparse) (g : Nat) : Nat → Nat → Nat → List (Nat × Nat × Entry)
  | 0, _, _ => []
  | n + 1, pos, kept =>
    let c := w.sparseCol s pos
    if c / s.group ≠ g ∨ s.cols ≤ c then (pos, c, .outOfRange) :: w.groupEntries s g n (pos + 1) kept
    else if s.most ≤ kept then (pos, c, .overGroup) :: w.groupEntries s g n (pos + 1) kept
    else (pos, c, .kept) :: w.groupEntries s g n (pos + 1) (kept + 1)

/-- The entries of a row: position, column, and whether it is kept (R191, R192). -/
def Work.rowEntries (w : Work) (s : Sparse) (r : Nat) : List (Nat × Nat × Entry) :=
  let (lo, hi) := w.sparseRow s r
  if s.grouped then
    ((w.groupCounts s r).foldl (fun (a : List (Nat × Nat × Entry) × Nat × Nat) n =>
      (a.1 ++ w.groupEntries s a.2.2 n a.2.1 0, a.2.1 + n, a.2.2 + 1)) ([], lo, 0)).1
  else tab (hi - lo) fun i => let c := w.sparseCol s (lo + i); (lo + i, c, if s.cols ≤ c then .outOfRange else .kept)

/-- The kept keys of a row's entries, with their positions. -/
def keptOf (es : List (Nat × Nat × Entry)) : List (Nat × Nat) := (es.filter fun e => e.2.2 == .kept).map fun e => (e.2.1, e.1)

/-- Whether kept keys fail to rise strictly (R192). -/
def unordered : List (Nat × Nat) → Bool
  | [] => false
  | [_] => false
  | a :: b :: l => decide (b.1 ≤ a.1) || unordered (b :: l)

/-- Whether a row breaks R192: offsets that decrease, group counts that do not sum, or kept keys that do not rise. -/
def Work.rowBroken (w : Work) (s : Sparse) (r : Nat) : Bool :=
  let (lo, hi) := w.sparseRow s r
  decide (hi < lo) || (s.grouped && (w.groupCounts s r).sum != hi - lo) || unordered (keptOf (w.rowEntries s r))

/-- The pairs of an operation (R193). -/
def Work.mergePairs (w : Work) (p : MergeParams) (x : Sparse) : List (Nat × Nat) :=
  match p.pairs with
  | none => tab x.rows fun r => (r, r)
  | some (a, n) => tab n fun i => (w.le (a + 8 * i) 4, w.le (a + 8 * i + 4) 4)

/-- The first position of a slice whose column is at or above a key, by binary search (R201). -/
def Work.lowerBound (w : Work) (s : Sparse) (key : Nat) : Nat → Nat → Nat → Nat
  | 0, lo, _ => lo
  | n + 1, lo, hi =>
    if hi ≤ lo then lo
    else
      let mid := (lo + hi) / 2
      if w.sparseCol s mid < key then w.lowerBound s key n (mid + 1) hi else w.lowerBound s key n lo mid

/-- A cut of a grouped row moved forward to the next group boundary (R201). -/
def Work.moveCut (w : Work) (s : Sparse) (r lo cut : Nat) : Nat :=
  if !s.grouped then cut
  else
    ((w.groupCounts s r).foldl (fun (a : Nat × Option Nat) n => (a.1 + n, if a.2.isNone ∧ cut ≤ a.1 + n then some (a.1 + n) else a.2))
      (lo, if cut ≤ lo then some lo else none)).2.getD cut

/-- The first positions of the pieces after the first (R201). -/
def Work.cuts (w : Work) (s : Sparse) (r t : Nat) : List Nat :=
  let (lo, hi) := w.sparseRow s r
  tab (ceilDiv (hi - lo) t - 1) fun k => w.moveCut s r lo (lo + (k + 1) * t)

/-- The boundary key of a piece (R201). -/
def Work.boundary (w : Work) (s : Sparse) (hi cut : Nat) : Nat := if hi ≤ cut then s.cols else min (w.sparseCol s cut) s.cols

/-- The bound of a run (R197). -/
def runBound (union : Bool) (nx ny : Nat) : Nat := if union then nx + ny else min nx ny

/-- The slices of a split pair: in the larger row by its cuts, in the smaller by search (R201). -/
def Work.pieces (w : Work) (p : MergeParams) (pair xr yr : Nat) (x y : Sparse) : List MergeItem :=
  let (xl, xh) := w.sparseRow x xr
  let (yl, yh) := w.sparseRow y yr
  let byX := decide (yh - yl ≤ xh - xl)
  let cs := if byX then w.cuts x xr p.threshold else w.cuts y yr p.threshold
  let keys := cs.map fun c => if byX then w.boundary x xh c else w.boundary y yh c
  let other := keys.map fun k => if byX then w.lowerBound y k 64 yl yh else w.lowerBound x k 64 xl xh
  let bigLo := (if byX then xl else yl) :: cs
  let bigHi := cs ++ [if byX then xh else yh]
  let smallLo := (if byX then yl else xl) :: other
  let smallHi := other ++ [if byX then yh else xh]
  tab (cs.length + 1) fun s =>
    let a := ((bigLo[s]?).getD 0, (bigHi[s]?).getD 0)
    let b := ((smallLo[s]?).getD 0, (smallHi[s]?).getD 0)
    let (xs, ys) := if byX then (a, b) else (b, a)
    { pair := pair, first := 0, bound := runBound p.union (xs.2 - xs.1) (ys.2 - ys.1), xRow := xr, yRow := yr, xLo := xs.1, xHi := xs.2,
      yLo := ys.1, yHi := ys.2, keyLo := if s = 0 then 0 else (keys[s - 1]?).getD 0, keyHi := keys[s]?, piece := true, valid := true,
      unit_ := 0 }

/-- The work items of a pair (R195, R201). -/
def Work.pairItems (w : Work) (p : MergeParams) (x y : Sparse) (pair : Nat) (r : Nat × Nat) : List MergeItem :=
  let empty : MergeItem :=
    { pair := pair, first := 0, bound := 0, xRow := r.1, yRow := r.2, xLo := 0, xHi := 0, yLo := 0, yHi := 0, keyLo := 0, keyHi := none,
      piece := false, valid := false, unit_ := 0 }
  if x.rows ≤ r.1 ∨ y.rows ≤ r.2 then [empty]
  else
    let (xl, xh) := w.sparseRow x r.1
    let (yl, yh) := w.sparseRow y r.2
    if p.threshold < max (xh - xl) (yh - yl) then w.pieces p pair r.1 r.2 x y
    else [{ empty with bound := runBound p.union (xh - xl) (yh - yl), xLo := xl, xHi := xh, yLo := yl, yHi := yh, valid := true }]

/-- The run's first entries: the sum of the bounds before (R197). -/
def placeRuns : Nat → List MergeItem → List MergeItem
  | _, [] => []
  | n, i :: is => { i with first := n } :: placeRuns (n + i.bound) is

/-- The stored entries of an item. -/
def MergeItem.entries (i : MergeItem) : Nat := (i.xHi - i.xLo) + (i.yHi - i.yLo)

/-- The unit with the least entries still assigned, the lower number on a tie (R203). -/
def leastUnit (load : List Nat) : Nat := load.idxOf (load.foldl min ((load.head?).getD 0))

/-- Work items dealt to the four units in run order (R203). -/
def deal : List Nat → List MergeItem → List MergeItem
  | _, [] => []
  | load, i :: is => let u := leastUnit load; { i with unit_ := u } :: deal (updAt load u fun n => n + i.entries) is

/-- The entries that the operations in progress still hold on each unit. -/
def Work.mergeLoad (w : Work) : List Nat :=
  tab 4 fun u => (((w.d.merges.flatMap fun o => o.items).filter fun i => i.unit_ == u).map MergeItem.entries).sum

/-- Whether a split pair's boundary keys fail to rise (R202): a piece after its pair's first that ends where it begins or
before. -/
def keysBroken : List MergeItem → Bool
  | i :: j :: is =>
    (j.piece && i.pair == j.pair && (match j.keyHi with | some k => decide (k ≤ j.keyLo) | none => false)) || keysBroken (j :: is)
  | _ => false

/-- The offset of the entry array (R196). -/
def entryOffset (runs : Nat) : Nat := roundUp (64 + 16 * runs) 64

/-- The halt of a MERGE from its parameters and descriptors, if any (R193, R194, R361). -/
def Work.mergeFault (w : Work) (c : Nat) (p : MergeParams) : Option (Nat × Nat) :=
  let bad : Option (Nat × Nat) := some (0x22, p.x % 2 ^ 32)
  let placed := fun (a : Nat) => a % 64 == 0 && w.fz.onDie a
  let listOk := match p.pairs with | none => true | some (a, n) => placed a && decide (1 ≤ n) && decide (n ≤ 2 ^ 28)
  if !placed p.x || !placed p.y || !placed p.output || !listOk || decide (p.threshold < 256) || decide (65536 < p.threshold)
      || decide (2 ^ 32 < p.capacity) then bad
  else
    match firstFault [w.accessFault c p.x 64 false, w.accessFault c p.y 64 false] with
    | some f => some f
    | none =>
      let x := w.sparse p.x
      let y := w.sparse p.y
      if !x.ok w.fz || !y.ok w.fz || x.cols != y.cols || (p.pairs.isNone && x.rows != y.rows) then bad
      else
        let arrays := fun (s : Sparse) =>
          firstFault
            [w.accessFault c s.offsets (8 * (s.rows + 1)) false, w.accessFault c s.indices (4 * w.le (s.offsets + 8 * s.rows) 8) false,
              if s.grouped then w.accessFault c s.headers (s.rows * s.groups) false else none]
        firstFault
          [arrays x, arrays y, match p.pairs with | some (a, n) => w.accessFault c a (8 * n) false | none => none,
            if p.capacity = 0 then none else w.accessFault c p.output p.capacity true]

/-- Whether the offsets fall at a row that the pairs of a merge name (R187, R194). -/
def Work.mergeFalls (w : Work) (p : MergeParams) : Bool :=
  let x := w.sparse p.x
  let y := w.sparse p.y
  (w.mergePairs p x).any fun k =>
    decide (k.1 < x.rows) && decide (k.2 < y.rows)
      && (decide ((w.sparseRow x k.1).2 < (w.sparseRow x k.1).1) || decide ((w.sparseRow y k.2).2 < (w.sparseRow y k.2).1))

/-- The work items of a merge's pre-pass, one after another in the entry array (R198, R201). -/
def Work.mergeItems (w : Work) (p : MergeParams) : List MergeItem :=
  placeRuns 0 ((w.mergePairs p (w.sparse p.x)).mapIdx fun i k => w.pairItems p (w.sparse p.x) (w.sparse p.y) i k).flatten

/-- MERGE taken up (R198, R201, R203): the pre-pass, its halts, and the items dealt. Four operations run at once. -/
def Work.startMerge (w : Work) (r : StreamRef) (p : MergeParams) : Work :=
  match w.mergeFault r.ctx p with
  | some (reason, d) => w.haltStream r 3 reason d
  | none =>
    if 4 ≤ w.d.merges.length then w.stall r.ctx Ctr.stallQueueFull 8
    else
      if w.mergeFalls p then w.haltStream r 3 0x3A (p.x % 2 ^ 32)
      else
        let items := w.mergeItems p
        let cap := (items.map fun i => i.bound).sum
        if keysBroken items then w.haltStream r 3 0x3A (p.x % 2 ^ 32)
        else if p.capacity < entryOffset items.length + 16 * cap then w.haltStream r 3 0x3B (p.output % 2 ^ 32)
        else
          let (id, w) := w.fresh
          let o : MergeOp := { id := id, ref := r, params := p, items := deal w.mergeLoad items }
          let split := ((items.filter fun i => i.piece).map fun i => i.pair).eraseDups.length
          (w.upd fun d => { d with merges := d.merges ++ [o] }).count Ctr.mergePairsSplit split

/-- Two ascending lists of (key, position) merged (R195). -/
def mergeKeys (union : Bool) : Nat → List (Nat × Nat) → List (Nat × Nat) → List (Nat × Nat × Nat)
  | 0, _, _ => []
  | _ + 1, [], ys => if union then ys.map fun y => (y.1, 0xFFFFFFFF, y.2) else []
  | _ + 1, xs, [] => if union then xs.map fun x => (x.1, x.2, 0xFFFFFFFF) else []
  | n + 1, x :: xs, y :: ys =>
    if x.1 = y.1 then (x.1, x.2, y.2) :: mergeKeys union n xs ys
    else if x.1 < y.1 then (if union then (x.1, x.2, 0xFFFFFFFF) :: mergeKeys union n xs (y :: ys) else mergeKeys union n xs (y :: ys))
    else (if union then (y.1, 0xFFFFFFFF, y.2) :: mergeKeys union n (x :: xs) ys else mergeKeys union n (x :: xs) ys)

/-- What merging an item gives (R195, R202): its entries, its drops by kind, or a violation of order. -/
structure Merged where
  broken : Bool
  entries : List (Nat × Nat × Nat)
  range : Nat
  group : Nat
  deriving DecidableEq, Repr

/-- The entries of a slice. -/
def sliceOf (es : List (Nat × Nat × Entry)) (lo hi : Nat) : List (Nat × Nat × Entry) :=
  es.filter fun e => decide (lo ≤ e.1) && decide (e.1 < hi)

/-- An item merged (R191, R192, R195, R202). -/
def Work.mergeItem (w : Work) (p : MergeParams) (x y : Sparse) (i : MergeItem) : Merged :=
  if !i.valid then { broken := false, entries := [], range := 1, group := 0 }
  else
    let xs := sliceOf (w.rowEntries x i.xRow) i.xLo i.xHi
    let ys := sliceOf (w.rowEntries y i.yRow) i.yLo i.yHi
    let out := fun (k : Nat × Nat) => decide (k.1 < i.keyLo) || (match i.keyHi with | some h => decide (h ≤ k.1) | none => false)
    let kx := keptOf xs
    let ky := keptOf ys
    let cnt := fun (e : Entry) => ((xs ++ ys).filter fun k => k.2.2 == e).length
    { broken := w.rowBroken x i.xRow || w.rowBroken y i.yRow || (i.piece && (kx.any out || ky.any out))
      entries := mergeKeys p.union (kx.length + ky.length + 1) kx ky, range := cnt .outOfRange, group := cnt .overGroup }

/-- The bytes of an entry (R197). -/
def entryBytes (pair : Nat) (e : Nat × Nat × Nat) : List Byte := leBytes 4 e.1 ++ leBytes 4 e.2.1 ++ leBytes 4 e.2.2 ++ leBytes 4 pair

/-- The header of the output (R196). -/
def mergeHeader (p : MergeParams) (dropped : Bool) (pairs runs kept cap : Nat) : List Byte :=
  leBytes 4 0x47524D53 ++ leBytes 2 1 ++ leBytes 1 (if p.union then 1 else 0) ++ leBytes 1 (if dropped then 1 else 0) ++ leBytes 4 pairs
    ++ leBytes 4 runs ++ leBytes 8 kept ++ leBytes 8 (entryOffset runs) ++ leBytes 8 cap ++ leBytes 24 0

/-- A merge finished (R196 to R199, R205): every run merged and written, or the halt. -/
def Work.finishMerge (w : Work) (o : MergeOp) : Work :=
  let p := o.params
  let x := w.sparse p.x
  let y := w.sparse p.y
  let runs := o.items.map fun i => (i, w.mergeItem p x y i)
  let w := w.upd fun d => { d with merges := d.merges.filter fun k => k.id != o.id }
  if runs.any fun r => r.2.broken then w.haltStream o.ref 3 0x3A (p.x % 2 ^ 32)
  else
    let n := o.items.length
    let kept := (runs.map fun r => r.2.entries.length).sum
    let range := (runs.map fun r => r.2.range).sum
    let group := (runs.map fun r => r.2.group).sum
    let pairs := match p.pairs with | none => x.rows | some (_, k) => k
    let cap := (o.items.map fun i => i.bound).sum
    let w := w.wr p.output (mergeHeader p (range + group != 0) pairs n kept cap)
    let w := w.wr (p.output + 64) ((runs.map fun r => leBytes 8 r.1.first ++ leBytes 4 r.2.entries.length ++ leBytes 4 r.1.pair).flatten)
    let w := runs.foldl (fun w r => w.wr (p.output + entryOffset n + 16 * r.1.first) ((r.2.entries.map (entryBytes r.1.pair)).flatten)) w
    let w := (w.count Ctr.mergeEntriesIn (o.items.map MergeItem.entries).sum).count Ctr.mergeEntriesOut kept
    let w := (w.count Ctr.mergePieces (o.items.filter fun i => i.piece).length).count Ctr.dropIndexRange range
    (w.count Ctr.dropGroupOverflow group).tryReport

/-! ### The commands -/

/-- MERGE. -/
def execMerge (r : StreamRef) (p : MergeParams) (s : State) : Host.Outcome State Fault Refusal :=
  .next (s.exec fun w => if (w.ctx r.ctx).active then w.startMerge r p else w)

/-- MERGE_COMPLETE. -/
def execMergeComplete (op : Nat) (s : State) : Host.Outcome State Fault Refusal :=
  .next (s.exec fun w =>
    match w.d.merges.find? fun o => o.id == op with
    | none => w
    | some o => w.finishMerge o)

end Sys2Proof.Machine
end

