-- ==== Sys2Proof/Machine/Power.lean ====
section
/-!
DEFINITION. Power domains (R536 to R541), the input (R542, R543), capping, clamps and thermal limits (R544 to R547), the
reference clocks (R548), and the management sideband (R552, R553, R556).
-/

namespace Sys2Proof.Machine

/-! ### Domains -/

/-- A change of the power block. -/
def Work.updPwr (w : Work) (f : Pwr → Pwr) : Work := w.upd fun d => { d with pwr := f d.pwr }

/-- A refusal of R538. -/
def Work.pwrRefuse (w : Work) (cause : Nat) : Work := w.updPwr fun p => { p with cause := cause }

/-- Requests for the bits of a map that change, in order, to domains from `first`. -/
def Pwr.requestAll (p : Pwr) (first n old new : Nat) : Pwr :=
  (List.range n).foldl (fun p i => if bitOf old i = bitOf new i then p else p.request (first + i) (bitOf new i)) p

/-- PWR_TILE_PAIR_EN written (R538): bits of absent pairs are ignored. -/
def Work.writeTilePairs (w : Work) (v : W32) : Work :=
  let new := v &&& w.fz.pairs
  let old := w.d.pwr.tilePairEn
  let off := old &&& ~~~new
  if (List.range 64).any fun t => off.getLsbD (t / 2) && (w.owner t).isSome then w.pwrRefuse 1
  else if w.d.pwr.tripLatched then w.pwrRefuse 4
  else w.updPwr fun p => { p.requestAll 0 32 old.toNat new.toNat with tilePairEn := new, cause := 0 }

/-- The link groups that the fuse map has (R2, R536). -/
def Fuses.groups (f : Fuses) : Nat :=
  (List.range 6).foldl (fun n g => if (List.range 6).any fun i => f.links.getLsbD (6 * g + i) then n + 2 ^ g else n) 0

/-- PWR_LINK_GROUP_EN written (R538): bits of absent groups are ignored. -/
def Work.writeLinkGroups (w : Work) (v : Nat) : Work :=
  let new := BitVec.ofNat 6 v &&& BitVec.ofNat 6 w.fz.groups
  let old := w.d.pwr.linkGroupEn
  let off := old &&& ~~~new
  let busy := fun (l : Nat) => decide ((w.link l).state = .training) || decide ((w.link l).state = .up)
  if (List.range 36).any fun l => off.getLsbD (l / 6) && busy l then w.pwrRefuse 2
  else if w.d.pwr.tripLatched then w.pwrRefuse 4
  else w.updPwr fun p => { p.requestAll 44 6 old.toNat new.toNat with linkGroupEn := new, cause := 0 }

/-- The stacks of the fuse map. -/
def Fuses.stackList (f : Fuses) : List Nat := (List.range 12).filter fun n => f.hbmStacks.getLsbD n

/-- PWR_HBM_SLEEP set (R538, R540). -/
def Work.sleepHbm (w : Work) : Work :=
  if w.d.pwr.hbmSleep then w
  else if (contexts.any fun c => (w.ctx c).enable) || !w.d.pwr.enableWait.isEmpty || w.d.pitch.run then w.pwrRefuse 3
  else if w.d.pwr.tripLatched then w.pwrRefuse 4
  else
    (w.updPwr fun p => { w.fz.stackList.foldl (fun p n => p.request (32 + n) false) p with hbmSleep := true, cause := 0 }).upd fun d =>
      { d with memRegs := { d.memRegs with sleeping := w.fz.hbmStacks } }

/-- PWR_HBM_SLEEP cleared (R540). -/
def Work.wakeHbm (w : Work) : Work :=
  if !w.d.pwr.hbmSleep then w
  else w.updPwr fun p => { w.fz.stackList.foldl (fun p n => p.request (32 + n) true) p with hbmSleep := false }

/-- Whether the fuse map lacks a domain's resource: it never switches on (R536). -/
def Fuses.lacks (f : Fuses) (dom : Nat) : Bool :=
  if dom < 32 then !f.tiles.getLsbD (2 * dom)
  else if dom < 44 then !f.hbmStacks.getLsbD (dom - 32)
  else if dom < 50 then !bitOf f.groups (dom - 44)
  else if dom < 52 then !f.capPorts.getLsbD (dom - 50)
  else false

/-- The effect of a domain that has switched (R537, R540): a tile pair that comes on is zeroed, a stack that comes on is awake. -/
def Work.domainSwitched (w : Work) (s : Switch) : Work :=
  let w := w.updPwr fun p =>
    { p with
      domains :=
        if s.on && !w.fz.lacks s.domain then p.domains ||| BitVec.ofNat 54 (2 ^ s.domain) else p.domains &&& ~~~(BitVec.ofNat 54 (2 ^ s.domain)) }
  if !s.on then w
  else if s.domain < 32 then (w.zeroTile (2 * s.domain)).zeroTile (2 * s.domain + 1)
  else if s.domain < 44 then
    w.upd fun d => { d with memRegs := { d.memRegs with sleeping := d.memRegs.sleeping &&& ~~~(BitVec.ofNat 12 (2 ^ (s.domain - 32))) } }
  else w

/-- Context enables that waited for the engine domains completed (R539). -/
def Work.finishEnables (w : Work) : Work :=
  if !w.d.pwr.enginesOn then w
  else
    let cs := w.d.pwr.enableWait
    cs.foldl (fun w c => w.enableCtx c) (w.updPwr fun p => { p with enableWait := [] })

/-- A switch that has completed: the next queued one starts (R537). -/
def Work.switchDone (w : Work) (dom : Nat) : Work :=
  match w.d.pwr.switching.find? fun s => s.domain == dom with
  | none => w
  | some s =>
    let w := w.updPwr fun p =>
      let left := p.switching.erase s
      { p with switching := left ++ p.queued.take (4 - left.length), queued := p.queued.drop (4 - left.length) }
    (w.domainSwitched s).finishEnables

/-- The end of the idle millisecond of the engine domains (R539). -/
def Work.gateIdle (w : Work) : Work :=
  if !w.d.pwr.idleTimer then w
  else
    let w := w.updPwr fun p => { p with idleTimer := false }
    if !w.d.pwr.idleGate || contexts.any fun c => (w.ctx c).enable then w
    else
      w.updPwr fun p =>
        engineDomains.foldl (fun p d => if p.domains.getLsbD d then p.request d false else p) p

/-! ### Reset and power-down -/

/-- A flash write cut off while it programs (R523): the firmware region's header no longer passes check 2; the settings region
no longer passes its checksum. -/
def Sec.cutFlash (s : Sec) : Sec :=
  if decide (s.flashState = .busy) then
    { s with
      flashState := .idle, flashData := []
      fwHeader := if s.flashActive = 1 then { s.fwHeader with formOk := false } else s.fwHeader
      settingsTorn := s.settingsTorn || decide (s.flashActive ≠ 1) }
  else s

/-- The module in reset (R433, R513, R515): all work stops with no record, and only flash, fuses and the repair list are kept,
with the sideband and the TAP, which reset does not reach, and the messages already sent. -/
def Work.enterReset (w : Work) : Work :=
  let f := w.fz
  let w := w.upd fun d => { d with sec := d.sec.cutFlash }
  w.upd fun d =>
    { Dev.atRelease f with
      memRegs := { MemRegs.reset 0 0 0 d.memRegs.repairList with repairPending := d.memRegs.repairPending }
      sec :=
        { Sec.reset d.sec.fwHeader d.sec.leafReserved d.sec.nonceDraws (List.replicate 32 0) with settingsTorn := d.sec.settingsTorn }
      pwr := { Pwr.reset with powered := d.pwr.powered, good := d.pwr.good, inReset := true, refPresent := d.pwr.refPresent }
      hif := { Hif.reset with msixOut := d.hif.msixOut }
      side := d.side, linkOut := d.linkOut, nextId := d.nextId, freeCtr := d.freeCtr, nowNs := d.nowNs }

/-- The module powered down (R543): reset, every domain off, PWR_GOOD deasserted, and the I3C target with it (R556). -/
def Work.powerDown (w : Work) : Work :=
  (w.enterReset.updPwr fun p => { p with powered := false, good := false, domains := 0 }).upd fun d =>
    { d with side := { d.side with i3cDynamic := none } }

/-! ### Capping, clamps, temperature -/

/-- The largest of some readings. -/
def hottest (l : List Nat) : Nat := l.foldl max 0

/-- A thermal warning (R547, R558), raised as a condition begins. -/
def Work.warnHot (w : Work) (before now : Bool) (source : Nat) (l : List Nat) : Work :=
  if now && !before then
    w.deviceEvent 0x0072 (leBytes 1 source ++ leBytes 1 ((l.idxOf? (hottest l)).getD 0) ++ leBytes 1 (hottest l))
  else w

/-- The firmware's new clock target at the end of a window (R544, R547): 25 MHz down while throttling or above the cap, 25 MHz
up below 97 % of the cap. -/
def Pwr.nextTarget (p : Pwr) (cap inputW : Nat) (throttle : Bool) : Nat :=
  if throttle || (p.policyEnable && decide (cap < inputW)) then max 1250 (p.targetMhz - 25)
  else if p.policyEnable && decide (100 * inputW < 97 * cap) then min 2500 (p.targetMhz + 25)
  else p.targetMhz

/-- A 10 ms window of the power controller ends (R544, R547, R557). -/
def Work.window (w : Work) (r : PowerReadings) : Work :=
  let w := w.updPwr fun p =>
    { p with
      inputW := r.inputW, inputMv := r.inputMv, tjMax := hottest r.dies, hbmMax := hottest r.hbmStacks, coolantIn := r.coolantIn
      coolantOut := r.coolantOut }
  if !w.d.sec.fwVerified then w
  else
    let p := w.d.pwr
    let cap := w.d.active.powerCap
    let die := decide (95 ≤ hottest r.dies)
    let hbm := decide (90 ≤ hottest r.hbmStacks)
    let warm := decide (60 ≤ r.coolantOut)
    let w := w.warnHot p.throttleDie die 0 r.dies
    let w := w.warnHot p.throttleHbm hbm 1 r.hbmStacks
    let w := w.warnHot p.coolantWarm warm 2 [r.coolantOut]
    let target := p.nextTarget cap r.inputW (die || hbm)
    let floor := if p.policyEnable ∧ target = 1250 ∧ cap < r.inputW then p.floorWindows + 1 else 0
    let w := w.updPwr fun p =>
      { p with targetMhz := target, throttleDie := die, throttleHbm := hbm, coolantWarm := warm, floorWindows := floor }
    if floor = 10 then w.deviceEvent 0x0071 (leBytes 2 cap ++ leBytes 2 r.inputW) else w

/-- The code of a trigger (R558). -/
def trigCode : ClampTrigger → Nat
  | .power => 1 | .current => 2 | .brake => 3 | .junction => 4 | .hbm => 5

/-- A trigger of the hardware clamp (R545): a clamp that begins is counted and reported. -/
def Work.trigger (w : Work) (t : ClampTrigger) : Work :=
  let fresh := !w.d.pwr.clamped
  let w := w.updPwr fun p =>
    { p with
      clampTriggers := if p.clampTriggers.contains t then p.clampTriggers else p.clampTriggers ++ [t]
      clampHold := false, brake := p.brake || decide (t = .brake) }
  if fresh then (w.count Ctr.pwrClampEvents 1).deviceEvent 0x0070 (leBytes 1 (trigCode t)) else w

/-- A trigger that clears (R545): after the last, the clamp holds for 100 µs. -/
def Work.untrigger (w : Work) (t : ClampTrigger) : Work :=
  if !w.d.pwr.clampTriggers.contains t then w
  else
    w.updPwr fun p =>
      let left := p.clampTriggers.filter fun k => k != t
      { p with clampTriggers := left, clampHold := left.isEmpty, brake := p.brake && decide (t ≠ .brake) }

/-- A thermal trip (R547): the device fault, and every domain but the core off. -/
def Work.trip (w : Work) (sensor : Nat) : Work :=
  let w := w.deviceFault 0x4B .power sensor 0
  let w := (List.range 36).foldl
    (fun w l => if (w.link l).state = .up ∨ (w.link l).state = .training then w.linkDown l .down else w) w
  w.updPwr fun p => { p with tripLatched := true, domains := 0, switching := [], queued := [], enableWait := [], thermAlert := true, faultPin := true }

/-- The host link lost (R433). -/
def Work.hostLost (w : Work) : Work :=
  let w := if w.d.pitch.run || w.jobActive then w.haltAll (machineRec 0x61 0xFFFFFFFF) else w
  w.upd fun d => { d with hif := { d.hif with speed := 0, width := 0, flitMode := false, srisActive := false } }

/-- The links of a list that are training or up go down (R463). -/
def Work.dropLinks (w : Work) (ls : List Nat) : Work :=
  ls.foldl (fun w l => if (w.link l).state = .up ∨ (w.link l).state = .training then w.linkDown l .down else w) w

/-- A reference clock lost (R548). -/
def Work.refLost (w : Work) (c : RefClk) : Work :=
  let gone := fun (w : Work) (i : Nat) => w.updPwr fun p => { p with refPresent := p.refPresent &&& ~~~(BitVec.ofNat 7 (2 ^ i)) }
  match c with
  | .core => (gone w 0).deviceFault 0x4C .power 2 0
  | .host => (gone w 1).hostLost
  | .link n => if n < 3 then (gone w (2 + n)).dropLinks ((List.range 12).map fun i => 12 * n + i) else w
  | .cap p => if p < 2 ∧ w.fz.capPorts.getLsbD p then (gone w (5 + p)).capDown p else w

/-! ### The sideband -/

/-- The PLDM numeric sensors in the model's order (R556, log 42): input millivolts, milliamperes, watts; each die; each stack;
coolant in and out; the core clock. -/
def Side.sensor (s : Side) (id : Nat) : Option Nat :=
  let r := s.pldmSensors
  if id = 0 then some r.inputMv
  else if id = 1 then some r.inputMa
  else if id = 2 then some r.inputW
  else if id < 5 then some ((r.dies[id - 3]?).getD 0)
  else if id < 17 then some ((r.hbmStacks[id - 5]?).getD 0)
  else if id = 17 then some r.coolantIn
  else if id = 18 then some r.coolantOut
  else if id = 19 then some s.pldmCoreMhz
  else none

/-- The limits of each sensor whose crossing is reported (R543, R545, R547). -/
def sensorLimits (id : Nat) : List Nat :=
  if id = 0 then [44000, 40000]
  else if id = 2 then [1850]
  else if 3 ≤ id ∧ id < 5 then [95, 105, 115]
  else if 5 ≤ id ∧ id < 17 then [90, 100, 105]
  else if id = 18 then [60]
  else []

/-- The sensors updated, and the thresholds crossed since the last update sent as in-band interrupts (R556). -/
def Side.update (s : Side) (r : PowerReadings) (mhz : Nat) : Side :=
  let n := { s with pldmSensors := r, pldmCoreMhz := mhz }
  let crossed := (List.range 20).filter fun id =>
    match s.sensor id, n.sensor id with
    | some a, some b => (sensorLimits id).any fun l => decide (l ≤ a) != decide (l ≤ b)
    | _, _ => false
  { n with pldmAlerts := s.pldmAlerts ++ crossed }

/-- The ordering code (R1) as ASCII. -/
def orderingCode (f : Fuses) : List Byte :=
  ((if f.grade9300 then "GLV9300-B0-L54" else "GLV9400-B0-L54").toList).map fun c => BitVec.ofNat 8 c.toNat

/-- The FRU data (R556): ordering code, grade, serial, and the firmware version word, 0 before SEC_FW_VERIFIED. -/
def Work.fruData (w : Work) : List Byte :=
  orderingCode w.fz ++ leBytes 1 (if w.fz.grade9300 then 1 else 0) ++ w.fz.serial
    ++ leBytes 4 (if w.d.sec.fwVerified then w.d.sec.fwVersion.toNat else 0)

/-- The answer to a PLDM request: a completion code (0 success, 1 error, 5 unsupported) and its data (R556, log 42). -/
def Work.pldmAnswer (w : Work) (q : PldmReq) : List Byte :=
  match q with
  | .sensor id => (match w.d.side.sensor id with | some v => leBytes 1 0 ++ leBytes 4 v | none => leBytes 1 1)
  | .fru => leBytes 1 0 ++ w.fruData
  | .effecter => leBytes 1 5
  | .firmwareUpdate => leBytes 1 5

/-! ### The commands -/

/-- PWR_EN_ASSERT: the rails ramp to PWR_GOOD with every switched domain off; the module stays in reset until MOD_RESET_N (R542). -/
def execPwrEnAssert (s : State) : Host.Outcome State Fault Refusal :=
  .next (s.exec fun w =>
    if w.d.pwr.powered then w
    else w.enterReset.updPwr fun p => { p with powered := true, good := true, domains := 0 })

/-- PWR_EN_DEASSERT. -/
def execPwrEnDeassert (s : State) : Host.Outcome State Fault Refusal :=
  .next (s.exec fun w => if w.d.pwr.powered then w.powerDown else w)

/-- INPUT_UNDERVOLTAGE: a fault below 44 V, after which the module stays halted, and a shutdown below 40 V; either cuts off a
flash write (R543). -/
def execInputUndervoltage (millivolts : Nat) (s : State) : Host.Outcome State Fault Refusal :=
  .next (s.exec fun w =>
    if !w.d.pwr.powered || decide (44000 ≤ millivolts) then w
    else if millivolts < 40000 then w.powerDown
    else
      let w := w.upd fun d => { d with sec := d.sec.cutFlash }
      (w.deviceFault 0x4C .power 0 0).updPwr fun p => { p with faultHeld := true })

/-- PWR_TILE_PAIR_EN. -/
def execPwrTilePairEn (value : W32) (s : State) : Host.Outcome State Fault Refusal :=
  .next (s.exec fun w => if w.d.responds then w.writeTilePairs value else w)

/-- PWR_LINK_GROUP_EN. -/
def execPwrLinkGroupEn (value : Nat) (s : State) : Host.Outcome State Fault Refusal :=
  .next (s.exec fun w => if w.d.responds then w.writeLinkGroups value else w)

/-- PWR_HBM_SLEEP set. -/
def execPwrHbmSleepSet (s : State) : Host.Outcome State Fault Refusal :=
  .next (s.exec fun w => if w.d.responds then w.sleepHbm else w)

/-- PWR_HBM_SLEEP cleared. -/
def execPwrHbmSleepClear (s : State) : Host.Outcome State Fault Refusal :=
  .next (s.exec fun w => if w.d.responds then w.wakeHbm else w)

/-- DOMAIN_POWER_DONE. -/
def execDomainPowerDone (domain : Nat) (s : State) : Host.Outcome State Fault Refusal := .next (s.exec fun w => w.switchDone domain)

/-- IDLE_GATE_TIMER. -/
def execIdleGateTimer (s : State) : Host.Outcome State Fault Refusal := .next (s.exec Work.gateIdle)

/-- POWER_WINDOW. -/
def execPowerWindow (readings : PowerReadings) (s : State) : Host.Outcome State Fault Refusal :=
  .next (s.exec fun w => if w.d.pwr.good then w.window readings else w)

/-- CLAMP_TRIGGER. -/
def execClampTrigger (trigger : ClampTrigger) (s : State) : Host.Outcome State Fault Refusal :=
  .next (s.exec fun w => if w.d.pwr.good then w.trigger trigger else w)

/-- CLAMP_HOLD_EXPIRY: 100 µs after the last trigger cleared. -/
def execClampHoldExpiry (s : State) : Host.Outcome State Fault Refusal :=
  .next (s.exec fun w => w.updPwr fun p => { p with clampHold := p.clampHold && !p.clampTriggers.isEmpty })

/-- CLAMP_PERSIST_FAULT: a power or current trigger still stands after 10 ms (R545). -/
def execClampPersistFault (s : State) : Host.Outcome State Fault Refusal :=
  .next (s.exec fun w =>
    if w.d.pwr.clampTriggers.contains .power || w.d.pwr.clampTriggers.contains .current then w.deviceFault 0x4C .power 1 0 else w)

/-- THERMAL_TRIP: `sensor` is 0 or 1 for a die and 2 + n for stack n (R547). -/
def execThermalTrip (sensor : Nat) (s : State) : Host.Outcome State Fault Refusal :=
  .next (s.exec fun w => if w.d.pwr.good then w.trip sensor else w)

/-- REFCLK_LOSS. -/
def execRefclkLoss (clock : RefClk) (s : State) : Host.Outcome State Fault Refusal := .next (s.exec fun w => w.refLost clock)

/-- LEAK_DET: THERMAL_WARNING with source 3 (R553). -/
def execLeakDet (s : State) : Host.Outcome State Fault Refusal :=
  .next (s.exec fun w =>
    (w.upd fun d => { d with side := { d.side with leak := true } }).deviceEvent 0x0072 (leBytes 1 3 ++ leBytes 1 0 ++ leBytes 1 0))

/-- MCTP_PLDM_REQUEST: answered from PWR_GOOD onward (R556). -/
def execMctpPldmRequest (request : PldmReq) (s : State) : Host.Outcome State Fault Refusal :=
  .next (s.exec fun w =>
    if w.d.pwr.good then w.upd fun d => { d with side := { d.side with pldmOut := d.side.pldmOut ++ [w.pldmAnswer request] } } else w)

/-- I3C_DYNAMIC_ADDRESS. -/
def execI3cDynamicAddress (address : Nat) (s : State) : Host.Outcome State Fault Refusal :=
  .next (s.exec fun w =>
    if w.d.pwr.good then w.upd fun d => { d with side := { d.side with i3cDynamic := some address } } else w)

/-- PLDM_SENSOR_UPDATE. -/
def execPldmSensorUpdate (readings : PowerReadings) (s : State) : Host.Outcome State Fault Refusal :=
  .next (s.exec fun w =>
    if w.d.pwr.good then w.upd fun d => { d with side := d.side.update readings d.pwr.coreMhz } else w)

/-- CLAMP_TRIGGER_CLEAR. -/
def execClampTriggerClear (trigger : ClampTrigger) (s : State) : Host.Outcome State Fault Refusal :=
  .next (s.exec fun w => w.untrigger trigger)

end Sys2Proof.Machine
end

