-- ==== Sys2Proof/Machine/Security.lean ====
section
/-!
DEFINITION. Boot (R513 to R520), flash updates (R521 to R523), SVN commit (R524), attestation (R525 to R528), and debug
access (R529 to R532).
-/

namespace Sys2Proof.Machine

/-! ### The flash -/

/-- The settings image region (R509): its first offset and length. -/
def settingsAt : Nat := 0x00100000
/-- Its length (R509). -/
def settingsLen : Nat := 0x00100000
/-- The firmware image region (R509). -/
def firmwareAt : Nat := 0x01000000
/-- Its length (R509). -/
def firmwareLen : Nat := 0x01000000

/-- A change of the SEC block. -/
def Work.updSec (w : Work) (f : Sec → Sec) : Work := w.upd fun d => { d with sec := f d.sec }

/-- The little-endian field of `n` bytes at an offset of a byte list. -/
def fieldAt (bs : List Byte) (off n : Nat) : Nat := leNat ((bs.drop off).take n)

/-- Whether `n` bytes at an offset are zero. -/
def zeroAt (bs : List Byte) (off n : Nat) : Bool := ((bs.drop off).take n).all fun b => b == 0

/-- The header of a firmware image (R510): its fields, and whether each lies in the range that R510 states. -/
def FwHeader.parse (bs : List Byte) : FwHeader :=
  { formOk :=
      fieldAt bs 0 4 == 0x57565253 && fieldAt bs 4 2 == 1 && decide (fieldAt bs 6 2 < 4) && decide (fieldAt bs 12 4 < 64)
        && decide (1 ≤ fieldAt bs 16 4) && decide (fieldAt bs 16 4 ≤ 16773120) && decide (fieldAt bs 20 1 ≤ 2)
        && decide (fieldAt bs 21 1 ≤ 2) && zeroAt bs 22 10 && zeroAt bs 80 48 && zeroAt bs 280 40 && zeroAt bs 3244 852
    grades := BitVec.ofNat 2 (fieldAt bs 6 2), version := BitVec.ofNat 32 (fieldAt bs 8 4), svn := fieldAt bs 12 4 % 64
    ecdsaSlot := fieldAt bs 20 1, lmsSlot := fieldAt bs 21 1 }

/-- The first failed check of R512, in its order; none where every check passes. -/
def FwHeader.cause (h : FwHeader) (f : Fuses) (v : Verdict) : Option Nat :=
  if !v.readable then some 1
  else if !h.formOk then some 2
  else if !h.grades.getLsbD (if f.grade9300 then 1 else 0) then some 9
  else if !v.keysMatch then some 4
  else if f.revoked.getLsbD h.ecdsaSlot || f.revoked.getLsbD (4 + h.lmsSlot) then some 5
  else if h.svn < f.svn then some 8
  else if !v.ecdsaOk then some 6
  else if !v.lmsOk then some 7
  else if !v.digestOk then some 3
  else none

/-- Whether an image of the factory defaults passes (R513, R518). -/
def verdictOk (v : Verdict) : Bool := v.readable && v.keysMatch && v.ecdsaOk && v.lmsOk && v.digestOk

/-- Whether a settings container passes R520: magic, version, length, and CRC-32C over bytes 0 to 7, 12 to 19 and every record. -/
def settingsOk (bs : List Byte) : Bool :=
  let n := fieldAt bs 6 2
  let len := 32 + 12 * n
  fieldAt bs 0 4 == 0x54475353 && fieldAt bs 4 2 == 1 && fieldAt bs 12 4 == len && decide (len ≤ bs.length)
    && crc32c (bs.take 8 ++ (bs.drop 12).take 8 ++ (bs.drop 32).take (12 * n)) == fieldAt bs 8 4

/-- The bytes of the settings container in flash, as far as its record count reaches. -/
def Work.settingsBytes (w : Work) : List Byte :=
  w.rdN (flashKey settingsAt) (32 + 12 * w.le (flashKey settingsAt + 6) 2)

/-! ### Settings records -/

/-- The fields that a settings record may set in the register at an offset (R519): each as its bits and the range of its value. -/
def bootFields (off : Nat) : List (Nat × Nat × Nat × Nat) :=
  let all : List (Nat × Nat × Nat × Nat) := [(31, 0, 0, 2 ^ 32 - 1)]
  if off = 0x000044 then [(13, 0, 0, 16383)]
  else if off = 0x020000 then [(29, 0, 8000, 1000000000)]
  else if off = 0x020004 then [(7, 4, 0, 10), (15, 8, 0, 250)]
  else if 0x030020 ≤ off ∧ off < 0x030040 then (if off % 8 = 0 then all else [(17, 0, 0, 2 ^ 18 - 1)])
  else if off = 0x040000 then all
  else if off = 0x040004 then [(9, 8, 0, 3), (11, 11, 0, 1), (12, 12, 0, 1)]
  else if off = 0x040014 then [(10, 0, 600, 1800)]
  else if off = 0x050000 then [(3, 0, 0, 10), (4, 4, 0, 1), (6, 5, 0, 3), (7, 7, 0, 1), (9, 8, 0, 3)]
  else if off = 0x060100 then [(7, 0, 1, 168), (25, 16, 10, 1000)]
  else if off = 0x060104 then all
  else if 0x070000 ≤ off ∧ off < 0x070000 + 36 * 0x40 ∧ off % 0x40 = 0 then [(5, 2, 0, 15), (9, 6, 0, 15), (10, 10, 0, 1)]
  else if 0x100000 ≤ off ∧ off < 0x110000 then
    match off % 0x1000 with
    | 0x200 => [(6, 0, 0, 64)]
    | 0x204 => [(15, 0, 0, 32768)]
    | 0x208 => [(31, 0, 0, 393216)]
    | 0x20C => [(31, 0, 0, 8388608)]
    | 0x210 => [(21, 0, 0, 2097152)]
    | 0x214 => [(11, 0, 0, 2048), (28, 16, 0, 4096)]
    | 0x218 => [(13, 0, 0, 8192), (28, 16, 0, 4096)]
    | 0x21C => [(14, 0, 0, 16384), (26, 16, 0, 1024)]
    | _ => []
  else []

/-- The bits of a register that settings records may set. -/
def bootMask (off : Nat) : Nat := ((bootFields off).map fun f => 2 ^ (f.1 + 1) - 2 ^ f.2.1).sum

/-- Whether a record is valid (R519), by its mask and the word that it would leave. -/
def recordOk (off mask new : Nat) : Bool :=
  off % 4 == 0 && !(bootFields off).isEmpty && mask &&& bootMask off == mask
    && (bootFields off).all fun f =>
      bitsOf mask f.1 f.2.1 == 0 || (decide (f.2.2.1 ≤ bitsOf new f.1 f.2.1) && decide (bitsOf new f.1 f.2.1 ≤ f.2.2.2))

/-- A word of a configuration set written at its BAR0 offset, with halves of the table bases (R566). -/
def CfgSet.bootPut (s : CfgSet) (off v : Nat) : CfgSet :=
  match s.base (off / 8 * 8) with
  | some cur => s.putBase (off / 8 * 8) (if off % 8 = 0 then v + cur / 2 ^ 32 * 2 ^ 32 else cur % 2 ^ 32 + v * 2 ^ 32)
  | none => s.put32 off v

/-- A word that a valid record leaves (R519): a field of the sets goes to the active and the shadow set alike. -/
def Work.bootPut (w : Work) (off v : Nat) : Work :=
  if shadowed off then
    w.upd fun d => { d with active := d.active.bootPut off v, shadow := d.shadow.bootPut off v, bootSet := d.bootSet.bootPut off v }
  else if off = 0x000044 then w.upd fun d => { d with deviceNumber := v % 2 ^ 14 }
  else if off = 0x040000 then w.updPwr fun p => { p with tilePairEn := BitVec.ofNat 32 v &&& w.fz.pairs }
  else w.put32 true off v

/-- One record: offset, mask, value (R519). -/
def Work.applyRecord (w : Work) (off mask value : Nat) : Work :=
  let new := (w.regWord off &&& (2 ^ 32 - 1 - mask)) ||| (value &&& mask)
  if recordOk off mask new then w.bootPut off new
  else w.updSec fun s => { s with settingsIgnored := min 65535 (s.settingsIgnored + 1) }

/-- The settings image overlaid (R518 to R520). Four bytes of a torn region's sequence are free. -/
def Work.overlay (w : Work) : Work :=
  let bs := w.settingsBytes
  if w.d.sec.settingsTorn || (fieldAt bs 0 4 != 0xFFFFFFFF && !settingsOk bs) then
    let (k, w) := w.draw
    let seq := if w.d.sec.settingsTorn then (List.range 4).map (Config.freeByte k) else (bs.drop 16).take 4
    (w.updSec fun s => { s with settingsInvalid := true }).deviceEvent 0x0060 seq
  else if fieldAt bs 0 4 = 0xFFFFFFFF then w
  else
    let w := (List.range (fieldAt bs 6 2)).foldl
      (fun w i => w.applyRecord (fieldAt bs (32 + 12 * i) 4) (fieldAt bs (36 + 12 * i) 4) (fieldAt bs (40 + 12 * i) 4)) w
    w.updSec fun s => { s with settingsSeq := BitVec.ofNat 32 (fieldAt bs 16 4), settingsDigest := Config.sha384 bs }

/-! ### The boot sequence -/

/-- The nonce of a debug challenge drawn anew (R531). -/
def Sec.newNonce (s : Sec) : Sec := { s with nonceDraws := s.nonceDraws + 1, nonce := padTo 32 (Config.nonce s.nonceDraws) }

/-- HBM, the shared store and the tile stores zeroed, with every valid bit cleared (R513, R531). -/
def Work.zeroStores (w : Work) : Work :=
  let w := ((w.wipe 0 w.fz.hbmRange).wipe sharedBase sharedSize).wipe tileStoreBase (64 * tileStoreSize)
  w.upd fun d => { d with memRegs := { d.memRegs with crcs := [], poisoned := [] } }

/-- The memories of every tile core zeroed (R232, R249). -/
def Work.zeroCores (w : Work) : Work := ((w.wipe (2 ^ 56) (2 ^ 56)).wipe (2 * 2 ^ 56) (2 ^ 56)).wipe (3 * 2 ^ 56) (2 ^ 56)

/-- Recovery (R514, R516): the cause, the fault record, and every switched domain off. -/
def Work.enterRecovery (w : Work) (cause : Nat) : Work :=
  let svn := if w.d.sec.fwHeader.formOk then w.d.sec.fwHeader.svn else 0
  ((w.updSec fun s => { s with recovery := true, bootCause := cause, svnImage := svn }).recordFault 0xA1 .control 0 0).updPwr fun p =>
    { p with domains := 0 }

/-- The factory defaults in every field that they set (R513, R518, and the Reset columns of R483, R505, R557, R580). -/
def Work.factoryDefaults (w : Work) : Work :=
  let f := w.fz
  w.upd fun d =>
    { d with
      active := CfgSet.factory f, shadow := CfgSet.factory f, bootSet := CfgSet.factory f
      links := List.replicate 36 (Link.reset 8 0 false)
      memRegs := { d.memRegs with scrubHours := 24, scrubMs := 100, ceThreshold := 1000, repairPending := 0 }
      pwr := { d.pwr with tilePairEn := f.pairs, capPortEn := f.capPorts, idleGate := true, policyEnable := true, coreSpread := 5 } }

/-- The populated size that an expander gives (R354): rounded down to 4 KiB, at most 4 TiB. -/
def capPopulated (bytes : Nat) : Nat := min (2 ^ 42) (bytes / 4096 * 4096)

/-- One capacity port trained (R354, R541). -/
def Work.bootPort (w : Work) (p size rate width : Nat) : Work :=
  if !w.d.pwr.capPortTaken.getLsbD p || capPopulated size == 0 then w
  else
    let b := BitVec.ofNat 64 (capPopulated size)
    let w := w.upd fun d =>
      { d with
        memRegs :=
          if p = 0 then { d.memRegs with cap0Size := b, cap0Rate := rate % 8, cap0Width := width % 32 }
          else { d.memRegs with cap1Size := b, cap1Rate := rate % 8, cap1Width := width % 32 } }
    if rate % 8 = 6 ∧ width % 32 = 16 then w
    else w.deviceEvent 0x0033 (leBytes 1 p ++ leBytes 1 (gtps (rate % 8)) ++ leBytes 1 (width % 32))

/-- The links that the boot trains (R477): present, with LINK_AUTOTRAIN. -/
def Work.autoLinks (w : Work) : List Nat := (List.range 36).filter fun l => w.fz.links.getLsbD l && (w.link l).autotrain

/-- One link trained at boot (R477): with no result, no peer answered. -/
def Work.bootLink (w : Work) (rs : List (Nat × TrainResult)) (l : Nat) : Work :=
  match rs.find? fun r => r.1 == l with
  | some r => w.finishTraining l r.2
  | none => w.trainFailed l 2

/-- The domains on after a boot (R536, R541, R477). -/
def Work.bootDomains (w : Work) : Work :=
  let gs := (List.range 6).filter fun g => w.autoLinks.any fun l => l / 6 == g
  let m := (gs.map fun g => 2 ^ g).sum
  w.updPwr fun p =>
    { p with
      linkGroupEn := BitVec.ofNat 6 m
      domains := BitVec.ofNat 54 (p.tilePairEn.toNat + w.fz.hbmStacks.toNat * 2 ^ 32 + m * 2 ^ 44 + p.capPortTaken.toNat * 2 ^ 50) }

/-- The present stacks that a boot has not trained: device faults, recorded once SEC_READY is set (R514, R495). -/
def Work.faultStacks (w : Work) : Work :=
  (w.fz.stackList.filter fun n => !w.d.memRegs.trained.getLsbD n).foldl (fun w n => w.deviceFault 0x4A .stack n 0) w

/-- A boot whose checks have passed, from 44 ms to SEC_READY (R513). -/
def Work.bootFirmware (w : Work) (env : BootEnv) : Work :=
  let w := w.updSec fun s =>
    { s with fwVerified := true, fwVersion := s.fwHeader.version, svnImage := s.fwHeader.svn, svnRunning := s.fwHeader.svn }
  let w := if env.hostSpeed % 8 = 6 ∧ env.hostWidth % 32 = 16 then w
    else w.deviceEvent 0x0004 (leBytes 1 (gtps (env.hostSpeed % 8)) ++ leBytes 1 (env.hostWidth % 32))
  let w := w.factoryDefaults.overlay
  let w := w.updPwr fun p => { p with capPortTaken := p.capPortEn, spreadInForce := p.coreSpread }
  let w := w.zeroStores.zeroCores.upd fun d =>
    { d with memRegs := { d.memRegs with trained := w.fz.hbmStacks &&& BitVec.ofNat 12 env.hbmTrained } }
  let w := (w.bootPort 0 env.capSize0 env.capRate0 env.capWidth0).bootPort 1 env.capSize1 env.capRate1 env.capWidth1
  let w := w.upd fun d => { d with ctxs := tab 16 (Ctx.reset w.fz d.memRegs.cap0Size d.memRegs.cap1Size) }
  let w := w.bootDomains
  let w := w.autoLinks.foldl (fun w l => w.bootLink env.linkResults l) w
  (w.updSec fun s => { s with ready := true }).faultStacks

/-- The cause for which a boot ends in recovery, if any (R513, R514). -/
def Work.bootCause (w : Work) (env : BootEnv) : Option Nat :=
  if !verdictOk env.factory then some 10 else w.d.sec.fwHeader.cause w.fz env.firmware

/-- A module reset from its release (R513 to R515): the ROM holds the module while a sensor reads 85 °C or more (R547). -/
def Work.moduleReset (w : Work) (env : BootEnv) : Work :=
  let w := w.enterReset.updPwr fun p => { p with inReset := decide (85 ≤ env.maxTemp), refPresent := BitVec.ofNat 7 env.refPresent }
  if 85 ≤ env.maxTemp then w
  else
    let w := (w.updSec Sec.newNonce).upd fun d =>
      { d with
        hif := { d.hif with speed := env.hostSpeed % 8, width := env.hostWidth % 32, flitMode := decide (env.hostSpeed % 8 = 6) } }
    match w.bootCause env with
    | some c => w.enterRecovery c
    | none => w.bootFirmware env

/-! ### Flash updates -/

/-- Whether a context is LOADED or RUNNING. -/
def Work.anyLoaded (w : Work) : Bool := contexts.any fun c => decide ((w.ctx c).state = .loaded) || decide ((w.ctx c).state = .running)

/-- The bytes that a flash request names in the physical function's host memory (R521). -/
def Work.flashInput (w : Work) : List Byte := w.rdN (hostKey 0 w.d.sec.flashSrc.toNat) w.d.sec.flashLen.toNat

/-- The length of a target's region (R509); 0 for no target, and for the settings image in recovery, which the boot ROM does not
write (R517). -/
def Sec.regionLen (s : Sec) : Nat :=
  match s.flashTarget with
  | 1 => firmwareLen
  | 2 => if s.recovery then 0 else settingsLen
  | 3 => settingsLen
  | _ => 0

/-- The cause for which a request is refused, if any (R521). -/
def Work.flashCause (w : Work) (hostReadFails : Bool) (v : Verdict) : Option Nat :=
  let s := w.d.sec
  let len := s.flashLen.toNat
  if decide (s.flashState = .busy) then some 11
  else if len = 0 ∨ s.regionLen < len then some 12
  else if hostReadFails && s.flashTarget != 3 then some 13
  else if w.anyLoaded then some 14
  else if s.flashTarget = 1 then (FwHeader.parse w.flashInput).cause w.fz v
  else if s.flashTarget = 2 && !settingsOk w.flashInput then some 2
  else none

/-- A flash request (R521): refused with its cause, or in progress. A request during a write leaves the write in progress. -/
def Work.flashGo (w : Work) (hostReadFails : Bool) (v : Verdict) : Work :=
  match w.flashCause hostReadFails v with
  | some c =>
    (w.updSec fun s => { s with flashState := if decide (s.flashState = .busy) then .busy else .refused, flashCause := c }).deviceEvent
      0x0061 (leBytes 1 w.d.sec.flashTarget ++ leBytes 1 c)
  | none =>
    w.updSec fun s =>
      { s with
        flashState := .busy, flashCause := 0, flashProgress := 0, flashActive := s.flashTarget
        flashData := if s.flashTarget = 3 then [] else w.flashInput }

/-- The sectors of a region that `n` bytes occupy, erased, and the bytes programmed (R522). -/
def Work.program (w : Work) (off : Nat) (bs : List Byte) : Work :=
  (w.wipe (flashKey off) (roundUp bs.length 65536)).wr (flashKey off) bs

/-- The end of a flash write (R522, R523). Bytes whose read-back does not match are free. -/
def Work.flashEnd (w : Work) (readBackOk : Bool) : Work :=
  let s := w.d.sec
  if s.flashState ≠ .busy then w
  else
    let (k, w) := w.draw
    let bs := if readBackOk then s.flashData else (List.range s.flashData.length).map (Config.freeByte k)
    let h := FwHeader.parse bs
    let w :=
      if s.flashActive = 1 then
        (w.program firmwareAt bs).updSec fun s => { s with fwHeader := h, svnImage := if h.formOk then h.svn else 0 }
      else if s.flashActive = 2 then (w.program settingsAt bs).updSec fun s => { s with settingsTorn := false }
      else (w.wipe (flashKey settingsAt) settingsLen).updSec fun s => { s with settingsTorn := !readBackOk }
    let w := w.updSec fun s =>
      { s with
        flashState := if readBackOk then .done else .refused, flashCause := if readBackOk then 0 else 15
        flashProgress := 100, flashData := [] }
    w.deviceEvent 0x0061 (leBytes 1 s.flashActive ++ leBytes 1 (if readBackOk then 0 else 15))

/-- Whether SEC_SVN_COMMIT burns (R524). -/
def State.commits (s : State) : Bool :=
  s.dev.sec.ready && !s.dev.sec.recovery && decide (s.fuses.svn < s.dev.sec.svnRunning) && decide (s.fuses.svn < 63)

/-! ### Debug access -/

/-- The bytes of an unlock token (R530). -/
def tokenLen : Nat := 2988

/-- Whether a token's format, serial and nonce pass (R530, R531). -/
def tokenOk (t : List Byte) (serial nonce : List Byte) : Bool :=
  fieldAt t 0 4 == 0x4B4E4C55 && fieldAt t 4 2 == 1 && decide (fieldAt t 6 2 < 8) && (t.drop 8).take 16 == serial
    && (t.drop 24).take 32 == nonce && fieldAt t 56 1 == 3 && fieldAt t 57 1 == 3 && zeroAt t 58 6

/-- The first cause for which an unlock is refused (R531); 0 where none applies. -/
def Work.unlockCauseOf (w : Work) (t : List Byte) (v : Verdict) : Nat :=
  if w.fz.debugDisabled then 1
  else if w.anyLoaded then 2
  else if !v.readable || !tokenOk t w.fz.serial w.d.sec.nonce then 3
  else if !v.keysMatch || w.fz.revoked.getLsbD 3 || w.fz.revoked.getLsbD 7 then 4
  else if !v.ecdsaOk || !v.lmsOk then 5
  else 0

/-- A token presented (R531). -/
def Work.unlock (w : Work) (v : Verdict) : Work :=
  let t := w.rdN (hostKey 0 w.d.sec.unlockSrc.toNat) tokenLen
  let cause := w.unlockCauseOf t v
  let w := w.updSec fun s => { s.newNonce with unlockCause := cause }
  if cause ≠ 0 then w
  else
    let level := fieldAt t 6 2
    (w.zeroStores.updSec fun s => { s with unlocked := true, level := BitVec.ofNat 3 level }).deviceEvent 0x0062 (leBytes 1 level)

/-- An unlock ended (R531, R532). -/
def Sec.relock (s : Sec) : Sec := { s with unlocked := false, level := 0 }

/-! ### Attestation -/

/-- An SPDM response placed in the mailbox, and the exchange taken into the transcript (R527). -/
def Work.respond (w : Work) (request response : List Byte) : Work :=
  w.updSec fun s => { s with doeOut := s.doeOut ++ [response], transcript := s.transcript ++ request ++ response }

/-- An SPDM ERROR response: code and data (R527); no part of a transcript. -/
def Work.spdmError (w : Work) (code data : Nat) : Work :=
  w.updSec fun s => { s with doeOut := s.doeOut ++ [[0x13, 0x7F, BitVec.ofNat 8 code, BitVec.ofNat 8 data]] }

/-- Leaves of the HSS tree (R525). -/
def leafTotal : Nat := 2 ^ 30

/-- A leaf for one signature, reserving a block of 4,096 where the last is used up (R526); none where the tree is exhausted. -/
def Sec.takeLeaf (s : Sec) : Option (Nat × Sec) :=
  if leafTotal ≤ s.leafNext then none
  else
    some (s.leafNext,
      { s with
        leafNext := s.leafNext + 1
        leafReserved := if s.leafNext = s.leafReserved then min leafTotal (s.leafReserved + 4096) else s.leafReserved })

/-- A signed response (R525 to R527): its signatures over the SHA-384 of the transcript that it ends, which then starts anew. -/
def Work.signed (w : Work) (request response : List Byte) : Work :=
  match w.d.sec.takeLeaf with
  | none => (w.spdmError 0x04 0).deviceEvent 0x0064 []
  | some (leaf, s) =>
    let sig := Config.sign w.fz.secret (Config.sha384 (s.transcript ++ request ++ response)) leaf
    w.updSec fun _ => { s with doeOut := s.doeOut ++ [response ++ sig], transcript := [] }

/-- Whether the mailbox answers: the physical function's, outside recovery (R516, R527). -/
def Work.doe (w : Work) (f : Work → Work) : Work := if w.d.responds then f w else w

/-- A request that needs the algorithms negotiated first (R527). -/
def Work.negotiated (w : Work) (f : Work → Work) : Work := w.doe fun w => if w.d.sec.spdmAlgs then f w else w.spdmError 0x04 0

/-- The certificate chain of slot 0 (R525, R527). -/
def Fuses.chain (f : Fuses) : List Byte := Config.certificate f.secret f.serial

/-- A random value that a response carries: 32 free bytes. -/
def Work.responderNonce (w : Work) : List Byte × Work :=
  let (k, w) := w.draw
  ((List.range 32).map (Config.freeByte k), w)

/-- The content of a measurement block, if the index has one (R528). -/
def Work.measurement (w : Work) (i : Nat) : Option (List Byte) :=
  let s := w.d.sec
  if 1 ≤ i ∧ i ≤ 4 then some (Config.measured i s.fwVersion.toNat)
  else if i = 5 then some s.settingsDigest
  else if i = 6 then
    some (leBytes 1 (bit w.fz.grade9300) ++ leBytes 1 w.fz.svn ++ leBytes 1 w.fz.revoked.toNat ++ leBytes 1 (bit w.fz.debugDisabled)
      ++ leBytes 1 (bit s.unlocked) ++ leBytes 1 s.level.toNat)
  else if 16 ≤ i ∧ i < 32 then s.jobDigests[i - 16]?
  else none

/-- The indices of the measurement blocks (R528). -/
def measurementIndices : List Nat := (List.range 6).map (· + 1) ++ (List.range 16).map (· + 16)

/-- A measurement block as a response carries it: index, length, content. -/
def Work.measurementBlock (w : Work) (i : Nat) : List Byte :=
  match w.measurement i with
  | some bs => leBytes 1 i ++ leBytes 2 bs.length ++ bs
  | none => []

/-- The blocks that a measurement request names: 0 asks for their number alone, 0xFF for all. -/
def Work.measurementBlocks (w : Work) (index : Nat) : Option (List Byte) :=
  if index = 0 then some []
  else if index = 0xFF then some (measurementIndices.map w.measurementBlock).flatten
  else (w.measurement index).map fun _ => w.measurementBlock index

/-! ### The TAP -/

/-- A TAP instruction that leaves the pins to the core (R529). -/
def Work.tapSelect (w : Work) (i : TapInstr) : Work := w.upd fun d => { d with side := { d.side with tap := i, pinsTaken := false } }

/-- A TAP instruction that takes the pins from the core (R529): the host port and every link are lost (R433, R463). -/
def Work.tapTake (w : Work) (i : TapInstr) : Work :=
  let w := w.upd fun d => { d with side := { d.side with tap := i, pinsTaken := true } }
  w.hostLost.dropLinks (List.range 36)

/-- The level bit that opens a private instruction (R529, R530). -/
def tapBit : TapPrivate → Nat
  | .coreDebug => 0 | .memoryAccess => 1 | .scan => 2

/-! ### The commands -/

/-- MODULE_RESET. -/
def execModuleReset (env : BootEnv) (s : State) : Host.Outcome State Fault Refusal :=
  .next (s.exec fun w => if w.d.pwr.good then w.moduleReset env else w)

/-- MOD_RESET_N_ASSERT: the four causes act alike (R433). -/
def execModResetNAssert (_cause : ResetCause) (s : State) : Host.Outcome State Fault Refusal := .next (s.exec Work.enterReset)

/-- SEC_FLASH_GO: also in recovery (R517). -/
def execSecFlashGo (hostReadFails : Bool) (v : Verdict) (s : State) : Host.Outcome State Fault Refusal :=
  .next (s.exec fun w => if w.d.sec.ready || w.d.sec.recovery then w.flashGo hostReadFails v else w)

/-- FLASH_WRITE_COMPLETE. -/
def execFlashWriteComplete (readBackOk : Bool) (s : State) : Host.Outcome State Fault Refusal := .next (s.exec fun w => w.flashEnd readBackOk)

/-- SEC_SVN_COMMIT. -/
def execSecSvnCommit (s : State) : Host.Outcome State Fault Refusal :=
  .next (if s.commits then
      { s.exec (fun w => w.deviceEvent 0x0063 (leBytes 1 w.d.sec.svnRunning)) with fuses := { s.fuses with svn := s.dev.sec.svnRunning } }
    else s)

/-- SEC_UNLOCK_GO. -/
def execSecUnlockGo (v : Verdict) (s : State) : Host.Outcome State Fault Refusal :=
  .next (s.exec fun w => if w.d.responds then w.unlock v else w)

/-- SEC_DEBUG_RELOCK. -/
def execSecDebugRelock (s : State) : Host.Outcome State Fault Refusal :=
  .next (s.exec fun w => if w.d.responds then w.updSec Sec.relock else w)

/-- SEC_DEBUG_DISABLE: with the key of R532. -/
def execSecDebugDisable (key : Nat) (s : State) : Host.Outcome State Fault Refusal :=
  .next (if s.dev.responds && key == 0xD15A then
      { s.exec (fun w => w.updSec Sec.relock) with fuses := { s.fuses with debugDisabled := true } }
    else s)

/-- GET_VERSION: SPDM 1.2 and 1.3; the exchange starts anew. -/
def execGetVersion (s : State) : Host.Outcome State Fault Refusal :=
  .next (s.exec fun w => w.doe fun w =>
    (w.updSec fun s => { s with spdmVersion := true, spdmCaps := false, spdmAlgs := false, transcript := [] }).respond [0x10, 0x84, 0, 0]
      [0x10, 0x04, 0, 0, 0, 2, 0x00, 0x12, 0x00, 0x13])

/-- GET_CAPABILITIES: CERT_CAP, CHAL_CAP, MEAS_CAP with signature, MEAS_FRESH_CAP. -/
def execGetCapabilities (s : State) : Host.Outcome State Fault Refusal :=
  .next (s.exec fun w => w.doe fun w =>
    if !w.d.sec.spdmVersion then w.spdmError 0x04 0
    else (w.updSec fun s => { s with spdmCaps := true }).respond [0x13, 0xE1, 0, 0] ([0x13, 0x61, 0, 0] ++ leBytes 4 0x36))

/-- NEGOTIATE_ALGORITHMS: ECDSA P-384 and SHA-384. -/
def execNegotiateAlgorithms (s : State) : Host.Outcome State Fault Refusal :=
  .next (s.exec fun w => w.doe fun w =>
    if !w.d.sec.spdmCaps then w.spdmError 0x04 0
    else
      (w.updSec fun s => { s with spdmAlgs := true }).respond [0x13, 0xE3, 0, 0]
        ([0x13, 0x63, 0, 0] ++ leBytes 4 0x04 ++ leBytes 4 0x80 ++ leBytes 4 0x02))

/-- GET_DIGESTS: slot 0. -/
def execGetDigests (s : State) : Host.Outcome State Fault Refusal :=
  .next (s.exec fun w => w.negotiated fun w => w.respond [0x13, 0x81, 0, 0] ([0x13, 0x01, 0, 1] ++ Config.sha384 w.fz.chain))

/-- GET_CERTIFICATE: a part of slot 0's chain. -/
def execGetCertificate (slot offset length : Nat) (s : State) : Host.Outcome State Fault Refusal :=
  .next (s.exec fun w => w.negotiated fun w =>
    let part := (w.fz.chain.drop offset).take length
    if slot ≠ 0 ∨ w.fz.chain.length ≤ offset then w.spdmError 0x01 0
    else
      w.respond ([0x13, 0x82, 0, 0] ++ leBytes 2 offset ++ leBytes 2 length)
        ([0x13, 0x02, 0, 0] ++ leBytes 2 part.length ++ leBytes 2 (w.fz.chain.length - offset - part.length) ++ part))

/-- CHALLENGE: slot 0, signed. -/
def execChallenge (slot : Nat) (nonce : List Byte) (s : State) : Host.Outcome State Fault Refusal :=
  .next (s.exec fun w => w.negotiated fun w =>
    if slot ≠ 0 then w.spdmError 0x01 0
    else
      let (r, w) := w.responderNonce
      w.signed ([0x13, 0x83, 0, 0] ++ padTo 32 nonce) ([0x13, 0x03, 0, 1] ++ Config.sha384 w.fz.chain ++ r))

/-- GET_MEASUREMENTS. -/
def execGetMeasurements (index : Nat) (sign : Bool) (nonce : List Byte) (s : State) : Host.Outcome State Fault Refusal :=
  .next (s.exec fun w => w.negotiated fun w =>
    match w.measurementBlocks index with
    | none => w.spdmError 0x01 0
    | some bs =>
      let request := [0x13, 0xE0, if sign then 1 else 0, BitVec.ofNat 8 index] ++ (if sign then padTo 32 nonce else [])
      let (r, w) := w.responderNonce
      let count := if index = 0 then measurementIndices.length else if index = 0xFF then measurementIndices.length else 1
      let response := [0x13, 0x60, BitVec.ofNat 8 (if index = 0 then count else 0), 0] ++ leBytes 1 (if index = 0 then 0 else count)
        ++ leBytes 3 bs.length ++ bs ++ r
      if sign then w.signed request response else w.respond request response)

/-- SPDM_UNSUPPORTED_REQUEST: an ERROR of UnsupportedRequest with the request's code (R527). -/
def execSpdmUnsupportedRequest (code : Nat) (s : State) : Host.Outcome State Fault Refusal :=
  .next (s.exec fun w => w.doe fun w => w.spdmError 0x07 code)

/-- BYPASS. -/
def execBypass (s : State) : Host.Outcome State Fault Refusal := .next (s.exec fun w => w.tapSelect .bypass)

/-- IDCODE. -/
def execIdcode (s : State) : Host.Outcome State Fault Refusal := .next (s.exec fun w => w.tapSelect .idcode)

/-- SAMPLE_PRELOAD. -/
def execSamplePreload (s : State) : Host.Outcome State Fault Refusal := .next (s.exec fun w => w.tapSelect .samplePreload)

/-- EXTEST. -/
def execExtest (s : State) : Host.Outcome State Fault Refusal := .next (s.exec fun w => w.tapTake .extest)

/-- EXTEST_PULSE. -/
def execExtestPulse (s : State) : Host.Outcome State Fault Refusal := .next (s.exec fun w => w.tapTake .extestPulse)

/-- EXTEST_TRAIN. -/
def execExtestTrain (s : State) : Host.Outcome State Fault Refusal := .next (s.exec fun w => w.tapTake .extestTrain)

/-- CLAMP. -/
def execClamp (s : State) : Host.Outcome State Fault Refusal := .next (s.exec fun w => w.tapTake .clamp)

/-- TAP_RESET: Test-Logic-Reset selects IDCODE and gives the pins back (log 7). -/
def execTapReset (s : State) : Host.Outcome State Fault Refusal := .next (s.exec fun w => w.tapSelect .idcode)

/-- TAP_PRIVATE_INSTRUCTION: locked, it does nothing; at a level that an unlock has opened, R529 gives it no effect (the
refusal `tapPrivateOpen`). -/
def execTapPrivateInstruction (kind : TapPrivate) (s : State) : Host.Outcome State Fault Refusal :=
  if s.dev.sec.unlocked && s.dev.sec.level.getLsbD (tapBit kind) then .refused .tapPrivateOpen else .next s

end Sys2Proof.Machine
end

