-- ==== Sys2Proof/Machine/Tick.lean ====
section
/-!
DEFINITION. The belay tick: its commit sequence (R57), the overrun tick (R51), and what a tick begins (R55, R61, R394).
-/

namespace Sys2Proof.Machine

/-- A change of the PITCH block. -/
def Work.updPitch (w : Work) (f : Pitch → Pitch) : Work := w.upd fun d => { d with pitch := f d.pitch }

/-- The stretch of a pitch counted on its tick (R50); an overrun tick counts none (R51). -/
def Work.countStretch (w : Work) (b : Belay) : Work :=
  if bitOf b.flags 1 || b.stretch == 0 then w else (w.count Ctr.pitchStretch 1).count Ctr.pitchStretchNs b.stretch

/-- Step 1 (R57, R183): the counters latched with the new tick count, and the log's write count. -/
def Work.stepLatch (w : Work) : Work :=
  (w.upd fun d => { d with snapshot := d.counters, snapTick := d.pitch.tickCount }).writeLogCount

/-- Step 2 (R57, R184, R374): row migrations and residency moves, with the firmware's own policies. -/
def Work.stepMoves (w : Work) : Work :=
  contexts.foldl Work.residencyPolicy w.stepRowMoves.commitResidency.submitPromotions

/-- The next step boundary of a context at least two ticks ahead, from an aborted target on (R298). -/
def nextBoundary (target pitches tick : Nat) : Nat :=
  if pitches = 0 then target + 1 else target + max 1 (ceilDiv (tick + 2 - target) pitches) * pitches

/-- The governor's arm after step 4 (R298): gone with its swap; after an abort armed again for the next step boundary. -/
def Work.retryGovernor (w : Work) (stood : Bool) : Work :=
  match w.d.fw.governorArm with
  | none => w
  | some (c, base, target) =>
    if w.d.cfg.armed.isSome then w
    else
      let w := w.upd fun d => { d with fw := { d.fw with governorArm := none } }
      if !stood || decide (w.d.cfg.result = .swapped) then w
      else
        let w := w.postEvent c 0x0013 (leBytes 8 target)
        let n := match (w.ctx c).job with | some j => j.pitchesPerStep | none => 0
        if (w.ctx c).active then w.governArm c base (nextBoundary target n w.tick) else w

/-- The permutes whose tick this is (R338): committed with a machine-scope swap, else aborted. -/
def Work.commitPermutes (w : Work) (swapped : Bool) : Work :=
  let due := w.d.colls.filter fun o => match o.kind with | .permute _ => decide (o.dueTick ≤ w.tick) | _ => false
  due.foldl
    (fun w o =>
      if swapped then
        let w := w.upd fun d => { d with colls := d.colls.filter fun k => k.id != o.id }
        (w.count Ctr.permuteCommits 1).postEvent o.ref.ctx 0x0023 (leBytes 8 w.tick ++ leBytes 2 o.tensor)
      else w.haltStream o.ref 4 0x67 0) w

/-- Step 4 (R57, R68, R69, R298, R338): the swap, the governor's retry, and the permutes. -/
def Work.stepSets (w : Work) (flag busy : Bool) : Work :=
  let scope := w.d.cfg.armed
  let w := w.stepSwap flag busy
  let swapped := decide (scope = some .machine) && w.d.cfg.armed.isNone && decide (w.d.cfg.result = .swapped)
  (w.retryGovernor scope.isSome).commitPermutes swapped

/-- Step 6 (R57, R403): with the fence flag, machine fences with nothing left before them are released. -/
def Work.stepFences (w : Work) (flag : Bool) : Work :=
  if !flag then w
  else
    contexts.foldl
      (fun w c =>
        let x := w.ctx c
        let go := fun (f : Fence) => decide (f.scope = .machine) && !x.cmds.any f.awaits
        (w.updCtx c fun x => { x with fences := x.fences.filter fun f => !go f }).count Ctr.fencesReleased (x.fences.filter go).length) w

/-- An open section with a ROW_UPDATE window open as a tick comes (R304). -/
def Work.checkSections (w : Work) : Work :=
  contexts.foldl
    (fun w c =>
      match (w.ctx c).replay with
      | none => w
      | some r => if r.windows.any fun a => w.d.windows.any fun k => k.area == a then w.haltStream r.ref 6 0x83 0 else w) w

/-- The tick's own counts (R41, R49): the announced count, and the intra-pitch cycle at 0. -/
def Pitch.tickTo (p : Pitch) (tick : Nat) : Pitch := { p with tickCount := BitVec.ofNat 64 tick, cycle := 0, cycleFrac := 0 }

/-- The pitch that a tick begins (R47, R50, R53). -/
def Pitch.fresh (p : Pitch) : Pitch :=
  { p with
    ticking := true, timerNs := 0, reports := [], reported := false, reportedSwap := false, announced := none, announceAt := 0
    held := false }

/-- A belay tick as its announcement says (R49, R57): the commit sequence, then the new pitch. -/
def Work.fireTick (w : Work) (b : Belay) : Work :=
  let busy := w.rowmapBusy
  let w := contexts.foldl Work.closeWaits (w.countStretch b)
  let w := (w.updPitch fun p => p.tickTo b.tick).checkSections
  let w := w.stepLatch.stepMoves.stepRowUpdates
  let w := (w.stepSets (bitOf b.flags 0) busy).releaseRearms.stepFences (bitOf b.flags 2)
  let w := contexts.foldl Work.tickJob (w.updPitch Pitch.fresh)
  w.subTickNow.tryReport

/-- The end of the grace (R51): the halts, PITCH_STATUS, and the overrun tick. -/
def Work.overrun (w : Work) (b : Belay) : Work :=
  let self := !w.deviceDone
  let child := !w.d.pitch.childrenDone
  let w := w.haltNonUrgent (machineRec 0xC1 0)
  (w.updPitch fun p => { p with lateSelf := p.lateSelf || self, lateChild := p.lateChild || child, overran := true }).fireTick b

/-! ### The commands -/

/-- TICK_FIRE: the announced tick (R48, R49). -/
def execTickFire (s : State) : Host.Outcome State Fault Refusal :=
  .next (s.exec fun w =>
    match w.d.pitch.announced with
    | none => w
    | some b => if !w.d.pitch.run || bitOf b.flags 1 then w else w.fireTick b)

/-- GRACE_END: the announced overrun (R51, R54). -/
def execGraceEnd (s : State) : Host.Outcome State Fault Refusal :=
  .next (s.exec fun w =>
    match w.d.pitch.announced with
    | none => w
    | some b => if !w.d.pitch.run || !bitOf b.flags 1 then w else w.overrun b)

end Sys2Proof.Machine
end

