-- ==== Sys2Proof/Machine/Dispatch.lean ====
section
/-!
DEFINITION. Which meaning each command has: one arm per constructor of Instr.
-/

namespace Sys2Proof.Machine

def exec (i : Instr) (s : State) : Host.Outcome State Fault Refusal :=
  match i with
  | .pitchRunSet => Sys2Proof.Machine.execPitchRunSet s
  | .pitchRunClear => Sys2Proof.Machine.execPitchRunClear s
  | .anchorDecisionPoint => Sys2Proof.Machine.execAnchorDecisionPoint s
  | .doneReport link p => Sys2Proof.Machine.execDoneReport link p s
  | .tickAnnouncement link p => Sys2Proof.Machine.execTickAnnouncement link p s
  | .tickFire => Sys2Proof.Machine.execTickFire s
  | .overrunAnnouncement => Sys2Proof.Machine.execOverrunAnnouncement s
  | .graceEnd => Sys2Proof.Machine.execGraceEnd s
  | .tickLostTimeout => Sys2Proof.Machine.execTickLostTimeout s
  | .subTick => Sys2Proof.Machine.execSubTick s
  | .urgentExecutionEnd => Sys2Proof.Machine.execUrgentExecutionEnd s
  | .subpitchOverrun => Sys2Proof.Machine.execSubpitchOverrun s
  | .cfgArmGo machine => Sys2Proof.Machine.execCfgArmGo machine s
  | .cfgDisarm => Sys2Proof.Machine.execCfgDisarm s
  | .shFieldWrite fn offset size value => Sys2Proof.Machine.execShFieldWrite fn offset size value s
  | .registerWrite fn offset size value => Sys2Proof.Machine.execRegisterWrite fn offset size value s
  | .registerReadCapture fn offset size => Sys2Proof.Machine.execRegisterReadCapture fn offset size s
  | .sample r p => Sys2Proof.Machine.execSample r p s
  | .sampleComplete op => Sys2Proof.Machine.execSampleComplete op s
  | .traverseReadReturn op kind address data => Sys2Proof.Machine.execTraverseReadReturn op kind address data s
  | .gather r p => Sys2Proof.Machine.execGather r p s
  | .gatherFetchReturn op unit key peer => Sys2Proof.Machine.execGatherFetchReturn op unit key peer s
  | .gatherComplete op => Sys2Proof.Machine.execGatherComplete op s
  | .servedLookup link jobTag table key reqTag => Sys2Proof.Machine.execServedLookup link jobTag table key reqTag s
  | .scatter r p => Sys2Proof.Machine.execScatter r p s
  | .scatterFinalise op => Sys2Proof.Machine.execScatterFinalise op s
  | .scatterComplete op => Sys2Proof.Machine.execScatterComplete op s
  | .servedContribution link jobTag table area alpha row exponent accs => Sys2Proof.Machine.execServedContribution link jobTag table area alpha row exponent accs s
  | .servedAck op unit => Sys2Proof.Machine.execServedAck op unit s
  | .rowMove r list => Sys2Proof.Machine.execRowMove r list s
  | .rowMoveCopyDone index => Sys2Proof.Machine.execRowMoveCopyDone index s
  | .hotsetRefresh => Sys2Proof.Machine.execHotsetRefresh s
  | .merge r p => Sys2Proof.Machine.execMerge r p s
  | .mergeComplete op => Sys2Proof.Machine.execMergeComplete op s
  | .load t p => Sys2Proof.Machine.execLoad t p s
  | .loadComplete tile => Sys2Proof.Machine.execLoadComplete tile s
  | .stream t p => Sys2Proof.Machine.execStream t p s
  | .streamComplete tile => Sys2Proof.Machine.execStreamComplete tile s
  | .vectorArithmetic t op f rnd span dst a b c m tag => Sys2Proof.Machine.execVectorArithmetic t op f rnd span dst a b c m tag s
  | .vectorTranscendental t op f span dst a m tag => Sys2Proof.Machine.execVectorTranscendental t op f span dst a m tag s
  | .vectorInteger t op f span dst a b m => Sys2Proof.Machine.execVectorInteger t op f span dst a b m s
  | .vectorCompare t op f dst a b m => Sys2Proof.Machine.execVectorCompare t op f dst a b m s
  | .vectorSelect t f span dst a b mask g => Sys2Proof.Machine.execVectorSelect t f span dst a b mask g s
  | .vectorConversion t p m tag => Sys2Proof.Machine.execVectorConversion t p m tag s
  | .vectorReduction t op f group dst src span m tag => Sys2Proof.Machine.execVectorReduction t op f group dst src span m tag s
  | .sumx t f exponent group dst src span m tag => Sys2Proof.Machine.execSumx t f exponent group dst src span m tag s
  | .updateRem t half w rem upd m tag => Sys2Proof.Machine.execUpdateRem t half w rem upd m tag s
  | .vloadVstore t p => Sys2Proof.Machine.execVloadVstore t p s
  | .vgatherVscatter t p => Sys2Proof.Machine.execVgatherVscatter t p s
  | .shuffle t op f span dst src m => Sys2Proof.Machine.execShuffle t op f span dst src m s
  | .vextractVinsert t insert width v elem g => Sys2Proof.Machine.execVextractVinsert t insert width v elem g s
  | .maskLogic t op dst => Sys2Proof.Machine.execMaskLogic t op dst s
  | .maskQuery t op mask g => Sys2Proof.Machine.execMaskQuery t op mask g s
  | .vectorInstructionComplete tile => Sys2Proof.Machine.execVectorInstructionComplete tile s
  | .scalarInstruction t op => Sys2Proof.Machine.execScalarInstruction t op s
  | .dataMemoryAccess t p => Sys2Proof.Machine.execDataMemoryAccess t p s
  | .loop t count last after => Sys2Proof.Machine.execLoop t count last after s
  | .loopIndex t g level => Sys2Proof.Machine.execLoopIndex t g level s
  | .pitchEnd t => Sys2Proof.Machine.execPitchEnd t s
  | .stop t => Sys2Proof.Machine.execStop t s
  | .trap t operand => Sys2Proof.Machine.execTrap t operand s
  | .seq from_ q => Sys2Proof.Machine.execSeq from_ q s
  | .setregion from_ slot region => Sys2Proof.Machine.execSetregion from_ slot region s
  | .tileDma t p => Sys2Proof.Machine.execTileDma t p s
  | .tileDmaComplete tile => Sys2Proof.Machine.execTileDmaComplete tile s
  | .gbin t p => Sys2Proof.Machine.execGbin t p s
  | .gstage t p => Sys2Proof.Machine.execGstage t p s
  | .gemit t p => Sys2Proof.Machine.execGemit t p s
  | .gsh t p => Sys2Proof.Machine.execGsh t p s
  | .gradial t p => Sys2Proof.Machine.execGradial t p s
  | .gcouple t p => Sys2Proof.Machine.execGcouple t p s
  | .gcoupleBwd t p => Sys2Proof.Machine.execGcoupleBwd t p s
  | .gshBwd t p => Sys2Proof.Machine.execGshBwd t p s
  | .gradialBwd t p => Sys2Proof.Machine.execGradialBwd t p s
  | .gshBwd2 t p => Sys2Proof.Machine.execGshBwd2 t p s
  | .governorUpdate ctx step base target machine => Sys2Proof.Machine.execGovernorUpdate ctx step base target machine s
  | .replayOpen r layer => Sys2Proof.Machine.execReplayOpen r layer s
  | .replayCheck r => Sys2Proof.Machine.execReplayCheck r s
  | .replayDecision ctx scale compute maxExp => Sys2Proof.Machine.execReplayDecision ctx scale compute maxExp s
  | .reduceScatter r p => Sys2Proof.Machine.execReduceScatter r p s
  | .allGather r p => Sys2Proof.Machine.execAllGather r p s
  | .allToAll r p => Sys2Proof.Machine.execAllToAll r p s
  | .allreduceSmall r p => Sys2Proof.Machine.execAllreduceSmall r p s
  | .permute r p => Sys2Proof.Machine.execPermute r p s
  | .collectiveDataArrival link a => Sys2Proof.Machine.execCollectiveDataArrival link a s
  | .trailerReturn op tr => Sys2Proof.Machine.execTrailerReturn op tr s
  | .collectiveTimeout op => Sys2Proof.Machine.execCollectiveTimeout op s
  | .register h handle home length readers evictable => Sys2Proof.Machine.execRegister h handle home length readers evictable s
  | .install h handle newHome source length readers k => Sys2Proof.Machine.execInstall h handle newHome source length readers k s
  | .move h handle newHome k => Sys2Proof.Machine.execMove h handle newHome k s
  | .replace h handle newHome source k => Sys2Proof.Machine.execReplace h handle newHome source k s
  | .release h handle k => Sys2Proof.Machine.execRelease h handle k s
  | .stage h source window length => Sys2Proof.Machine.execStage h source window length s
  | .copy h source dest length => Sys2Proof.Machine.execCopy h source dest length s
  | .residencyQuery h handle dest => Sys2Proof.Machine.execResidencyQuery h handle dest s
  | .haulCopyDone copy peer => Sys2Proof.Machine.execHaulCopyDone copy peer s
  | .oldHomeRelease handle => Sys2Proof.Machine.execOldHomeRelease handle s
  | .streamRearm r source count => Sys2Proof.Machine.execStreamRearm r source count s
  | .streamChunkFill queue arm => Sys2Proof.Machine.execStreamChunkFill queue arm s
  | .streamEnd queue => Sys2Proof.Machine.execStreamEnd queue s
  | .loadJob ctx ring => Sys2Proof.Machine.execLoadJob ctx ring s
  | .startJob ctx ring => Sys2Proof.Machine.execStartJob ctx ring s
  | .stopJob ctx ring => Sys2Proof.Machine.execStopJob ctx ring s
  | .unloadJob ctx ring => Sys2Proof.Machine.execUnloadJob ctx ring s
  | .nop ctx ring => Sys2Proof.Machine.execNop ctx ring s
  | .sync ctx ring => Sys2Proof.Machine.execSync ctx ring s
  | .urgentRequest ctx ring => Sys2Proof.Machine.execUrgentRequest ctx ring s
  | .commandStart cmd => Sys2Proof.Machine.execCommandStart cmd s
  | .commandComplete ctx id => Sys2Proof.Machine.execCommandComplete ctx id s
  | .fence from_ q heads scope => Sys2Proof.Machine.execFence from_ q heads scope s
  | .fenceRelease ctx id => Sys2Proof.Machine.execFenceRelease ctx id s
  | .dbCmdTail ctx ring value => Sys2Proof.Machine.execDbCmdTail ctx ring value s
  | .dbCplHead ctx value => Sys2Proof.Machine.execDbCplHead ctx value s
  | .dbEvtHead ctx value => Sys2Proof.Machine.execDbEvtHead ctx value s
  | .descriptorFetch ctx ring => Sys2Proof.Machine.execDescriptorFetch ctx ring s
  | .coalesceTimer ctx => Sys2Proof.Machine.execCoalesceTimer ctx s
  | .ctxEnableSet ctx => Sys2Proof.Machine.execCtxEnableSet ctx s
  | .ctxEnableClear ctx => Sys2Proof.Machine.execCtxEnableClear ctx s
  | .ctxClear ctx => Sys2Proof.Machine.execCtxClear ctx s
  | .ctxUrgent fn ctx value => Sys2Proof.Machine.execCtxUrgent fn ctx value s
  | .ctxTileMask fn ctx mask => Sys2Proof.Machine.execCtxTileMask fn ctx mask s
  | .ctxArenaValid fn ctx value => Sys2Proof.Machine.execCtxArenaValid fn ctx value s
  | .ctxUrgentLatClear ctx => Sys2Proof.Machine.execCtxUrgentLatClear ctx s
  | .vfFlr vf => Sys2Proof.Machine.execVfFlr vf s
  | .pfFlr => Sys2Proof.Machine.execPfFlr s
  | .hostLinkLoss => Sys2Proof.Machine.execHostLinkLoss s
  | .atsInvalidation fn iova size => Sys2Proof.Machine.execAtsInvalidation fn iova size s
  | .linkTrain link => Sys2Proof.Machine.execLinkTrain link s
  | .linkTrainingDone link result => Sys2Proof.Machine.execLinkTrainingDone link result s
  | .linkDisable link value => Sys2Proof.Machine.execLinkDisable link value s
  | .flitReceive link f corrected crcOk => Sys2Proof.Machine.execFlitReceive link f corrected crcOk s
  | .nakReceive link seq => Sys2Proof.Machine.execNakReceive link seq s
  | .laneLossOfLock link lane => Sys2Proof.Machine.execLaneLossOfLock link lane s
  | .ackTimeout link => Sys2Proof.Machine.execAckTimeout link s
  | .hbmScrub stack address last result => Sys2Proof.Machine.execHbmScrub stack address last result s
  | .sramScrub kind last result => Sys2Proof.Machine.execSramScrub kind last result s
  | .evtFaultClear => Sys2Proof.Machine.execEvtFaultClear s
  | .moduleReset env => Sys2Proof.Machine.execModuleReset env s
  | .secFlashGo hostReadFails v => Sys2Proof.Machine.execSecFlashGo hostReadFails v s
  | .flashWriteComplete readBackOk => Sys2Proof.Machine.execFlashWriteComplete readBackOk s
  | .secSvnCommit => Sys2Proof.Machine.execSecSvnCommit s
  | .secUnlockGo v => Sys2Proof.Machine.execSecUnlockGo v s
  | .secDebugRelock => Sys2Proof.Machine.execSecDebugRelock s
  | .secDebugDisable key => Sys2Proof.Machine.execSecDebugDisable key s
  | .getVersion => Sys2Proof.Machine.execGetVersion s
  | .getCapabilities => Sys2Proof.Machine.execGetCapabilities s
  | .negotiateAlgorithms => Sys2Proof.Machine.execNegotiateAlgorithms s
  | .getDigests => Sys2Proof.Machine.execGetDigests s
  | .getCertificate slot offset length => Sys2Proof.Machine.execGetCertificate slot offset length s
  | .challenge slot nonce => Sys2Proof.Machine.execChallenge slot nonce s
  | .getMeasurements index sign nonce => Sys2Proof.Machine.execGetMeasurements index sign nonce s
  | .bypass => Sys2Proof.Machine.execBypass s
  | .idcode => Sys2Proof.Machine.execIdcode s
  | .samplePreload => Sys2Proof.Machine.execSamplePreload s
  | .extest => Sys2Proof.Machine.execExtest s
  | .extestPulse => Sys2Proof.Machine.execExtestPulse s
  | .extestTrain => Sys2Proof.Machine.execExtestTrain s
  | .clamp => Sys2Proof.Machine.execClamp s
  | .pwrEnAssert => Sys2Proof.Machine.execPwrEnAssert s
  | .pwrEnDeassert => Sys2Proof.Machine.execPwrEnDeassert s
  | .inputUndervoltage millivolts => Sys2Proof.Machine.execInputUndervoltage millivolts s
  | .pwrTilePairEn value => Sys2Proof.Machine.execPwrTilePairEn value s
  | .pwrLinkGroupEn value => Sys2Proof.Machine.execPwrLinkGroupEn value s
  | .pwrHbmSleepSet => Sys2Proof.Machine.execPwrHbmSleepSet s
  | .pwrHbmSleepClear => Sys2Proof.Machine.execPwrHbmSleepClear s
  | .domainPowerDone domain => Sys2Proof.Machine.execDomainPowerDone domain s
  | .idleGateTimer => Sys2Proof.Machine.execIdleGateTimer s
  | .powerWindow readings => Sys2Proof.Machine.execPowerWindow readings s
  | .clampTrigger trigger => Sys2Proof.Machine.execClampTrigger trigger s
  | .clampHoldExpiry => Sys2Proof.Machine.execClampHoldExpiry s
  | .clampPersistFault => Sys2Proof.Machine.execClampPersistFault s
  | .thermalTrip sensor => Sys2Proof.Machine.execThermalTrip sensor s
  | .refclkLoss clock => Sys2Proof.Machine.execRefclkLoss clock s
  | .leakDet => Sys2Proof.Machine.execLeakDet s
  | .capacityLinkDown port => Sys2Proof.Machine.execCapacityLinkDown port s
  | .mctpPldmRequest request => Sys2Proof.Machine.execMctpPldmRequest request s
  | .i3cDynamicAddress address => Sys2Proof.Machine.execI3cDynamicAddress address s
  | .idDeviceNumberWrite fn value => Sys2Proof.Machine.execIdDeviceNumberWrite fn value s
  | .cntSelect value => Sys2Proof.Machine.execCntSelect value s
  | .ctxCntSelect ctx id inst => Sys2Proof.Machine.execCtxCntSelect ctx id inst s
  | .modResetNAssert cause => Sys2Proof.Machine.execModResetNAssert cause s
  | .hbmInterfaceFault stack => Sys2Proof.Machine.execHbmInterfaceFault stack s
  | .hostLinkUp speed width numVfs busMaster => Sys2Proof.Machine.execHostLinkUp speed width numVfs busMaster s
  | .hostCorrectableError => Sys2Proof.Machine.execHostCorrectableError s
  | .msixVectorUnmask fn vector => Sys2Proof.Machine.execMsixVectorUnmask fn vector s
  | .pldmSensorUpdate readings => Sys2Proof.Machine.execPldmSensorUpdate readings s
  | .clampTriggerClear trigger => Sys2Proof.Machine.execClampTriggerClear trigger s
  | .tapReset => Sys2Proof.Machine.execTapReset s
  | .tapPrivateInstruction kind => Sys2Proof.Machine.execTapPrivateInstruction kind s
  | .spdmUnsupportedRequest code => Sys2Proof.Machine.execSpdmUnsupportedRequest code s

end Sys2Proof.Machine
end

