-- ==== Sys2Proof/Safety.lean ====
section
/-!
DEFINITION. What statements about the block speak of: the working state that a command finds, what a safe state is, and when
two states agree.
-/

namespace Sys2Proof.Machine

/-- The working state on which a command's meaning starts: nothing cleared, nothing written yet. -/
def State.work (s : State) : Work := { fz := s.fuses, base := s.mem, wiped := [], log := [], d := s.dev }

/-- A state that a run may stand in: its memory in canonical form, and as many contexts, tiles and links as the part has
(R2, R20, R431, R460). -/
def State.safe (s : State) : Bool :=
  Memory.wf s.mem && s.dev.ctxs.length == 16 && s.dev.tiles.length == 64 && s.dev.links.length == 36

/-- A safe outcome of a step: it answers, with canonical memory. -/
def safeOutcome : Host.Outcome State Fault Refusal → Bool
  | .next t => Memory.wf t.mem
  | _ => false

/-- Every byte of every storage reads in one state as in the other, but within some ranges of keys. -/
def State.sameBytesBut (s t : State) (rs : List (Nat × Nat)) : Prop :=
  ∀ k, Memory.within rs k = false → Memory.read t.mem k = Memory.read s.mem k

/-- Every byte of every storage reads in one state as in the other. -/
def State.sameBytes (s t : State) : Prop := ∀ k, Memory.read t.mem k = Memory.read s.mem k

/-- One state's storage is the other's but for some bytes stored from a key upward: those keys read as the bytes, every other key as
before. -/
def State.stores (s t : State) (key : Nat) (bs : List Byte) : Prop :=
  ∀ k, Memory.read t.mem k = if key ≤ k then (bs[k - key]?).getD (Memory.read s.mem k) else Memory.read s.mem k

/-- A tile core of the device that takes up an instruction at its address, for a context (R247, R249). -/
def Work.takes (w : Work) (t : TileRef) (c : Nat) : Prop :=
  w.executing t = some c ∧ t.pc < (w.tile t.tile).imageLen ∧ t.tile < w.d.tiles.length

/-- A tile in one state whose core took up an instruction in the other, changed by `f` first; every other tile stands. -/
def State.tookUp (s u : State) (t : TileRef) (f : Tile → Tile) : Prop :=
  u.work.tile t.tile = (f (s.work.tile t.tile)).advance t.pc t.next ∧ ∀ k, k ≠ t.tile → u.work.tile k = s.work.tile k

/-- The state after a tile core took up an instruction whose whole effect is on its own tile: the instruction is counted, and every
other tile, register, context and byte of storage stands (R247). -/
def State.ran (s : State) (tile : Nat) (f : Tile → Tile) : State :=
  { s with dev := { s.dev with
      tiles := updAt s.dev.tiles tile f
      counters := ctrAdd s.dev.counters (ctrKey Ctr.tileCoreInstructions 31 0xFF) 1 } }

/-- Two states that differ at most in one context, which is the earlier one changed by `f`, beside counters, free values and what the
device sends: memory and tiles stand. -/
def State.onCtx (s u : State) (c : Nat) (f : Ctx → Ctx) : Prop :=
  u.work.ctx c = f (s.work.ctx c) ∧ (∀ k, k ≠ c → u.work.ctx k = s.work.ctx k) ∧ u.mem = s.mem ∧ u.dev.tiles = s.dev.tiles

/-- A context with a stream of its job changed. -/
def Ctx.withStream (x : Ctx) (n : Nat) (f : EStream → EStream) : Ctx := { x with job := x.job.map fun j => j.updStream n f }

/-- A stream whose next command was issued with a key, if it has one, at a cycle of the pitch (R393). -/
def EStream.passed (q : Option Nat) (cycle : Nat) (e : EStream) : EStream :=
  { e with next := e.next + 1, lastQ := q.getD e.lastQ, doneCycle := cycle }

/-- A halt of a context with a reason. -/
def State.haltedWith (u : State) (c reason : Nat) : Prop := (u.work.ctx c).halt.valid = true ∧ (u.work.ctx c).halt.reason = reason

/-- The state after a command was turned away: one stall counted, and nothing else (log 10). -/
def State.waited (s : State) (c cause cls : Nat) : State :=
  { s with dev := { s.dev with counters := ctrAdd s.dev.counters (ctrKey cause c cls) 1 } }

/-- Whether an operation on mask registers gives a value for its destination (R244, R246): a logic operation over mask registers,
all ones, all zeros, 512 bytes of the tile store that may be read, or the old mask with one 64-bit piece from a general register.
A piece taken to a general register and a store give none. -/
def Work.maskGives (w : Work) (tile : Nat) (op : MaskOp) (dst : Nat) (v : BitVec 4096) : Prop :=
  match op with
  | .and a b => v = (w.tile tile).mask a &&& (w.tile tile).mask b
  | .or a b => v = (w.tile tile).mask a ||| (w.tile tile).mask b
  | .xor a b => v = (w.tile tile).mask a ^^^ (w.tile tile).mask b
  | .andNot a b => v = (w.tile tile).mask a &&& ~~~ (w.tile tile).mask b
  | .not a => v = ~~~ (w.tile tile).mask a
  | .setAll => v = BitVec.allOnes 4096
  | .clearAll => v = 0
  | .load a => storeFault a 512 = none ∧ w.vecPoison tile a 512 = none ∧ v = BitVec.ofNat 4096 (w.le (tileStoreAddr tile a) 512)
  | .fromG piece g => piece < 64 ∧ v = ((w.tile tile).mask dst &&& ~~~ BitVec.ofNat 4096 ((2 ^ 64 - 1) * 2 ^ (64 * piece)))
      ||| BitVec.ofNat 4096 (((w.tile tile).greg g).toNat * 2 ^ (64 * piece))
  | .toG _ _ => False
  | .store _ => False

/-- A place taken in the queue of the vector engine (R233). -/
def Tile.queued (t : Tile) : Tile := { t with vecQueue := t.vecQueue + 1 }

/-- The elements of a span of registers after an instruction that read elements of `bits` bits (R231, R245): where its mask
selects, the low bits of `code`; elsewhere 0 under ZERO and as before under MERGE. -/
def State.elements (s u : State) (tile dst bits outBits span : Nat) (m : Masking) (code : Nat → Nat → Nat) : Prop :=
  ∀ p i, p < span → i < coverage bits m →
    u.work.elemAt (vregAt tile dst 0) outBits (p * regElems bits + i) =
      if (s.work.tile tile).selects bits m i then code p i % 2 ^ outBits
      else if m.zero then 0 else s.work.elemAt (vregAt tile dst 0) outBits (p * regElems bits + i)

/-- Whether a context takes a tensor's census at a place below the keys of the tiles' registers (R290). -/
def Work.censusBelow (w : Work) (c : Nat) (tag : TensorTag) : Prop :=
  tag.tensor < (w.ctx c).censusTable.2
    ∧ localKey c ((w.ctx c).censusTable.1 + 192 * (2 * tag.tensor + (w.ctx c).step % 2)) + 192 ≤ 2 ^ 56

/-- Where a context takes a tensor's census record of 192 bytes (R290). -/
def Work.censusPlace (w : Work) (c : Nat) (tag : TensorTag) : Nat :=
  localKey c ((w.ctx c).censusTable.1 + 192 * (2 * tag.tensor + (w.ctx c).step % 2))

/-- Operands of rows of the geometry unit that stand without a fault in registers or the tile store, on a tile whose matrix array is
idle (R216, R270, R279). -/
def Work.rowsFree (w : Work) (tile : Nat) (os : List GeoRows) : Prop :=
  (∀ o, o ∈ os → ∀ n, o.src ≠ .ring n) ∧ (os.findSome? fun o => w.geoFault tile o) = none ∧ (w.tile tile).mat = []

/-- A tensor in a context's census table, whose record stands apart from the rows of an operand. -/
def Work.censusApart (w : Work) (c tile : Nat) (tag : TensorTag) (o : GeoRows) : Prop :=
  tag.tensor < (w.ctx c).censusTable.2
    ∧ ∀ r, r < o.rows → w.geoKey tile o r + o.len ≤ w.censusPlace c tag ∨ w.censusPlace c tag + 192 ≤ w.geoKey tile o r

/-- No row of one operand meets a row of another. -/
def Work.rowsApart (w : Work) (tile : Nat) (a b : GeoRows) : Prop :=
  ∀ r q, r < a.rows → q < b.rows → w.geoKey tile a r + a.len ≤ w.geoKey tile b q ∨ w.geoKey tile b q + b.len ≤ w.geoKey tile a r

/-- Each element of rows is its value rounded to nearest even into the output's form (R261, R286). -/
def State.rowsHold (s u : State) (tile : Nat) (o : GeoRows) (form : OutForm) (n : Nat) (v : Nat → Nat → Val) : Prop :=
  ∀ r i, r < o.rows → i < n →
    u.work.elemAt (s.work.geoKey tile o r) (fmtBits form.fmt) i
      = (fmtEncode form.fmt .rne ((v r i).scale (-form.scale))).code % 2 ^ fmtBits form.fmt

/-- Rows of `n` elements written by the geometry unit, each its value; every byte outside the rows and the census record stands. -/
def State.rowsWritten (s u : State) (c tile : Nat) (o : GeoRows) (form : OutForm) (tag : TensorTag) (n : Nat) (v : Nat → Nat → Val) : Prop :=
  s.rowsHold u tile o form n v
  ∧ ∀ k, (∀ r, r < o.rows → k < s.work.geoKey tile o r ∨ s.work.geoKey tile o r + o.len ≤ k) →
      k < s.work.censusPlace c tag ∨ s.work.censusPlace c tag + 192 ≤ k → Memory.read u.mem k = Memory.read s.mem k

/-- A device with everything blanked that a halt, an event, a completion, a counter or a checksum may change: two devices that
agree on this agree on every other field. -/
def Dev.quiet (d : Dev) : Dev :=
  { d with
    ctxs := [], tiles := [], counters := [], hif := Hif.reset, heldEvents := [], trav := [], gathers := [], units := [], lines := [],
    scatters := [], merges := [], colls := [], copies := [], windows := [], machineStopped := false, fault := FaultRec.empty,
    memRegs := MemRegs.reset 0 0 0 [] }

/-- A device with everything blanked but its pitch block, security, power, sidebands, host selections and time base: what no
engine, tile, haul or job operation changes. -/
def Dev.calm (d : Dev) : Dev :=
  { d.quiet with
    active := CfgSet.zero, shadow := CfgSet.zero, cfg := CfgCtl.reset, links := [], residency := [], queues := [], held := [],
    arrivals := [], rowMoves := [], logCount := 0, logRead := 0, fw := Firmware.reset,
    routeCause := 0, routeLink := 0, linkOut := [], nextId := 0, freeCtr := 0 }

/-- A state with its power block changed, and nothing else. -/
def State.withPwr (s : State) (f : Pwr → Pwr) : State := { s with dev := { s.dev with pwr := f s.dev.pwr } }

/-- A state with its sideband changed, and nothing else. -/
def State.withSide (s : State) (f : Side → Side) : State := { s with dev := { s.dev with side := f s.dev.side } }

/-- A state with its security block changed, and nothing else. -/
def State.withSec (s : State) (f : Sec → Sec) : State := { s with dev := { s.dev with sec := f s.dev.sec } }

/-- A later state whose device is the earlier one changed by `f`, apart from what a halt, an event, a completion, a counter or a
checksum may change. -/
def State.quietly (s u : State) (f : Dev → Dev) : Prop := u.fuses = s.fuses ∧ u.dev.quiet = (f s.dev).quiet

/-- Every enabled context that is not halted halts with a reason and detail. -/
def State.haltsAll (s u : State) (reason detail : Nat) : Prop :=
  ∀ c, c < 16 → (s.work.ctx c).enable = true → (s.work.ctx c).halt.valid = false →
    (u.work.ctx c).halt.valid = true ∧ (u.work.ctx c).halt.reason = reason ∧ (u.work.ctx c).halt.detail = detail

/-- The row that starts a collective of a kind (R319). -/
def CollKind.row (r : StreamRef) : CollKind → Instr
  | .reduce p => .reduceScatter r p
  | .allGather p => .allGather r p
  | .allToAll p => .allToAll r p
  | .small p => .allreduceSmall r p
  | .permute p => .permute r p

/-- A collective whose checks find nothing to stop it (R319 to R321, R343), with room in the engine, its number new and no data held
for it. -/
def Work.mayBegin (w : Work) (r : StreamRef) (k : CollKind) : Prop :=
  (w.ctx r.ctx).active = true ∧ w.collHalt r.ctx k = none
    ∧ w.collFault (w.named r k) (w.namedEntry k) (w.newEntry k (w.namedEntry k)) = none
    ∧ ((w.collRanges (w.named r k)).1.findSome? fun q => if q.2 = 0 then none else w.poisonIn q.1 q.2) = none
    ∧ (∃ n, w.verifyAll (w.collRanges (w.named r k)).1 = .ok n) ∧ (w.d.colls.filter fun o => !o.finished).length < 64
    ∧ (∀ q, q ∈ w.d.colls → q.id ≠ w.d.nextId) ∧ ∀ a, a ∈ w.d.arrivals → collMatches (w.named r k) a.2 = false

/-- A later state in which a collective is in the engine under a fresh number: contexts and tiles stand. -/
def State.began (s u : State) (o : Coll) : Prop :=
  u.dev.colls = s.dev.colls ++ [o] ∧ u.dev.nextId = s.dev.nextId + 1 ∧ u.dev.ctxs = s.dev.ctxs ∧ u.dev.tiles = s.dev.tiles
    ∧ u.dev.arrivals = s.dev.arrivals

/-- A state with a residency table and one copy more in flight, under a fresh number, and nothing else changed. -/
def State.hauled (s : State) (rs : List ResEntry) (k : HaulCopy) : State :=
  { s with dev := { s.dev with
      residency := rs, copies := s.dev.copies ++ [{ k with id := s.dev.nextId }], nextId := s.dev.nextId + 1 } }

/-- A residency table with the entry of a handle in use changed. -/
def retable (rs : List ResEntry) (h : Nat) (f : ResEntry → ResEntry) : List ResEntry :=
  rs.map fun e => if e.handle = h ∧ e.state ≠ .free then f e else e

/-- A descriptor fetched and next to start: the commands of its opcode take it up, and its number is its own (R441, R442). -/
def Work.waits (w : Work) (c ring op : Nat) (serial : Bool) (d : Desc) : Prop :=
  w.ready c ring op serial = some d ∧ (w.ctx c).fetched.find? (fun e => e.seq == d.seq) = some d ∧ c < w.d.ctxs.length

/-- A later state in which a descriptor of a context has completed: its entry stands at the old tail of the completion ring, the tail
moved on, and it waits no more; every other context stands (R447). -/
def State.completed (s u : State) (c : Nat) (d : Desc) (st : Status) (result : Nat) : Prop :=
  s.stores u (hostKey c ((s.work.ctx c).cpl.base.toNat + 16 * (s.work.ctx c).cpl.tail))
      (completionEntry d st result (decide ((s.work.ctx c).ringVersion < 0x0200)) (s.work.ctx c).cpl.phase)
    ∧ (u.work.ctx c).cpl = (s.work.ctx c).cpl.advance
    ∧ (u.work.ctx c).fetched = (s.work.ctx c).fetched.filter (fun e => e.seq != d.seq)
    ∧ ∀ k, k ≠ c → u.work.ctx k = s.work.ctx k

/-- A later state in which an event of a context stands at the old tail of its event ring, which moved on (R448). -/
def State.posted (s u : State) (c : Nat) (dev : Bool) (e : HeldEvent) : Prop :=
  s.stores u (hostKey c ((s.work.ctx c).evt.base.toNat + 32 * (s.work.ctx c).evt.tail)) (eventEntry e dev (s.work.ctx c).evt)
    ∧ (u.work.ctx c).evt = (s.work.ctx c).evt.advance

/-- The descriptor at the head of a command ring, as memory holds it (R441). -/
def Work.nextDesc (w : Work) (c ring : Nat) : Desc :=
  let r := (w.ctx c).ring ring
  let k := hostKey c (r.base.toNat + 64 * r.head)
  { ring := ring, head := (r.head + 1) % 2 ^ r.size, opcode := w.le k 1, interrupt := bitOf (w.le (k + 1) 1) 0
    fence := bitOf (w.le (k + 1) 1) 1, tag := w.le (k + 8) 8, operands := w.rdN (k + 16) 48, seq := (w.ctx c).fetchSeq, started := false
    fetchedAt := (takeBell r.bells).1 }

/-- A context that may read a ring: enabled, the ring in use at its protocol, the host port up (R438, R446). -/
def Work.mayFetch (w : Work) (c ring : Nat) : Prop :=
  (w.ctx c).enable = true ∧ ((w.ctx c).ring ring).size ≠ 0 ∧ (ring = 0 ∨ 0x0200 ≤ (w.ctx c).ringVersion) ∧ w.d.hif.speed ≠ 0

/-- A context just enabled: IDLE, its rings at index 0 and phase 1 (R439). -/
def Ctx.opened (x : Ctx) : Ctx :=
  { x with
    enable := true, state := .idle, enableCause := 0, cmd := x.cmd.map fun r => { r with head := 0, tail := 0, bells := [] }
    cpl := x.cpl.restart, evt := x.evt.restart, unsignalled := 0, unsignalledAt := 0, fetched := [] }

/-- The keys of a tile's storage: vector registers, data and instruction memory, tile store (R230, R244, R247, R216). -/
def tileStorage (t : Nat) : List (Nat × Nat) :=
  [(vregKey t 0, 32 * 16384), (dmemKey t 0, 131072), (imemKey t 0, 65536), (tileStoreAddr t 0, tileStoreSize)]

/-- The cause for which a training fails (R477, R478, R473), if it does. -/
def trainCause (r : TrainResult) : Option Nat :=
  let passing := (List.range 5).filter fun n => r.passing.contains n
  if passing.length < 4 then some 1
  else if r.peerAnswers = false then some 2
  else if r.peerV2 = false ∧ r.peerV1 = false then some 3
  else if r.peerV2 = false ∧ (failedLane passing).isSome = true then some 1
  else if 3500 < r.latencyNs10 then some 4
  else none

/-- Whether a context halts when a link goes down (R463): it runs a machine job, or has a request over the link. -/
def Work.needsLink (w : Work) (l c : Nat) : Prop :=
  (∃ j, (w.ctx c).job = some j ∧ j.machine = true ∧ (w.ctx c).state = .running) ∨ c ∈ (w.link l).outstanding

/-- A link that was UP is lost: it stands as given, the contexts that need it halt with 0x61, and no other halts (R463). -/
def State.linkLost (s u : State) (l : Nat) (k : Link) : Prop :=
  u.work.link l = k ∧ (∀ j, j ≠ l → u.work.link j = s.work.link j)
    ∧ ∀ c, c < 16 → (s.work.ctx c).enable = true → (s.work.ctx c).halt.valid = false →
      (s.work.needsLink l c → (u.work.ctx c).halt.valid = true ∧ (u.work.ctx c).halt.reason = 0x61 ∧ (u.work.ctx c).halt.detail = l)
      ∧ (¬ s.work.needsLink l c → (u.work.ctx c).halt = (s.work.ctx c).halt)

/-- An SPDM ERROR response in the mailbox, and nothing else changed (R527). -/
def State.spdmErr (s : State) (code data : Nat) : State :=
  s.withSec fun x => { x with doeOut := x.doeOut ++ [[0x13, 0x7F, BitVec.ofNat 8 code, BitVec.ofNat 8 data]] }

/-- An SPDM response in the mailbox, the exchange taken into the transcript, and nothing else changed (R527). -/
def State.spdmReply (s : State) (request response : List Byte) : State :=
  s.withSec fun x => { x with doeOut := x.doeOut ++ [response], transcript := x.transcript ++ request ++ response }

/-- A signed SPDM response in the mailbox, under the next leaf, with one free value drawn: the transcript starts anew (R525 to R527). -/
def State.spdmSigned (s : State) (request response : List Byte) : State :=
  { s with dev := { s.dev with
      freeCtr := s.dev.freeCtr + 1
      sec :=
        let x := s.dev.sec
        { x with
          leafNext := x.leafNext + 1
          leafReserved := if x.leafNext = x.leafReserved then min leafTotal (x.leafReserved + 4096) else x.leafReserved
          doeOut := x.doeOut ++ [response
            ++ Config.sign s.fuses.secret (Config.sha384 (x.transcript ++ request ++ response)) x.leafNext]
          transcript := [] } } }

/-- A later state whose module is held in reset or just released from it: no context is enabled, no link is up, no pitch runs, and every
tile core is zeroed (R433, R515). -/
def State.cleared (u : State) : Prop :=
  (∀ c, (u.work.ctx c).enable = false) ∧ (∀ t, t < 64 → u.work.tile t = Tile.zeroed) ∧ u.dev.pitch.run = false
    ∧ u.dev.sec.unlocked = false ∧ u.dev.residency = []

/-- What no halt, event, completion or counter changes: the fuses, memory as the command found it, the cleared ranges, and the
quiet fields of the device. -/
def Work.still (w : Work) : Fuses × List Host.Cell × List (Nat × Nat) × Dev := (w.fz, w.base, w.wiped, w.d.quiet)

end Sys2Proof.Machine
end

