-- ==== Sys2Proof/Certificates/Slice0/Obligations.lean ====
section
/-!
DEFINITION. The statements about the block, for the provers. `s.work` is the working state that a command finds; `s.work.ctx c`,
`s.work.tile t` and `s.work.link l` are its context c, tile t and link l.
-/

open Sys2Proof Sys2Proof.Machine

/-! ### The queue, the stops, and what every step keeps -/

/-- A step takes the command at the front of the queue and answers what it comes to on the state with the queue's rest. -/
def Obligations.StepTakesFrontCommand : Prop :=
  ∀ (c : Instr) (rest : List Instr) (s : State), s.pending = c :: rest → step s = exec c { s with pending := rest }

/-- On an empty queue one nanosecond of the time base passes (the model's choice, log 8): the time base and, while PITCH_RUN is
set, the pitch timer advance by one, and memory, fuses, contexts and tiles stay. -/
def Obligations.EmptyQueuePassesOneNanosecond : Prop :=
  ∀ s : State, s.pending = [] →
    ∃ t, step s = .next t ∧ t.pending = [] ∧ t.fuses = s.fuses ∧ t.mem = s.mem ∧ t.dev.nowNs = s.dev.nowNs + 1
      ∧ t.dev.pitch.timerNs = (if s.dev.pitch.run then s.dev.pitch.timerNs + 1 else s.dev.pitch.timerNs)
      ∧ t.dev.pitch.tickCount = s.dev.pitch.tickCount ∧ t.dev.ctxs = s.dev.ctxs ∧ t.dev.tiles = s.dev.tiles

/-- No command changes the queue: what waits, waits in its order. -/
def Obligations.CommandsKeepQueue : Prop :=
  ∀ (c : Instr) (s t : State), exec c s = .next t → t.pending = s.pending

/-- A step stops only at a private TAP instruction at a level that an unlock token has opened (R529 names core debug, memory
access and scan, and no rule says what they then do); at every other command, and on an empty queue, it answers a next state. -/
def Obligations.OnlyOpenTapStops : Prop :=
  ∀ s : State,
    (∃ k rest, s.pending = .tapPrivateInstruction k :: rest ∧ s.dev.sec.unlocked = true ∧ s.dev.sec.level.getLsbD (tapBit k) = true
      ∧ step s = .refused .tapPrivateOpen)
    ∨ ∃ t, step s = .next t

/-- Every step keeps memory in canonical form: keys strictly rising, and no entry at what an unlisted key reads as. -/
def Obligations.StepsKeepMemoryCanonical : Prop :=
  ∀ s t : State, Memory.wf s.mem = true → step s = .next t → Memory.wf t.mem = true

/-- No step changes a fuse but two (R506, R524, R532): SEC_SVN_COMMIT may raise the firmware security version number, and
SEC_DEBUG_DISABLE may set debug disable; neither ever goes back. -/
def Obligations.StepsKeepFuses : Prop :=
  ∀ s t : State, step s = .next t →
    (t.fuses = s.fuses
      ∨ ((∃ rest, s.pending = .secSvnCommit :: rest) ∧ s.fuses.svn < s.dev.sec.svnRunning
        ∧ t.fuses = { s.fuses with svn := s.dev.sec.svnRunning })
      ∨ ((∃ key rest, s.pending = .secDebugDisable key :: rest) ∧ t.fuses = { s.fuses with debugDisabled := true }))

/-! ### Pitch and tick commands -/

/-- PITCH_RUN set, where the tree check finds nothing (R41, R44, R55): the timer runs from count 0. Where the check fails,
PITCH_RUN stays 0. PITCH_RUN cleared (R56): the timer stops and the count stays; with a job active, every enabled context that is
not halted halts with TICK_LOST (0xC3). -/
def Obligations.PitchRunCompletes : Prop :=
  (∀ s : State, s.dev.pitch.run = false → s.work.treeCause = none →
    ∃ t, exec .pitchRunSet s = .next t ∧ t.dev.pitch.run = true ∧ t.dev.pitch.tickCount = 0 ∧ t.dev.pitch.timerNs = 0
      ∧ t.dev.pitch.ticking = false ∧ t.dev.active = s.dev.active ∧ t.dev.shadow = s.dev.shadow ∧ t.dev.sec = s.dev.sec)
  ∧ (∀ s : State, s.dev.pitch.run = false → s.work.treeCause ≠ none →
    ∃ t, exec .pitchRunSet s = .next t ∧ t.dev.pitch = s.dev.pitch ∧ t.dev.tiles = s.dev.tiles ∧ t.dev.links = s.dev.links)
  ∧ (∀ s : State, s.dev.pitch.run = true →
    ∃ t, exec .pitchRunClear s = .next t ∧ t.dev.pitch.run = false ∧ t.dev.pitch.tickCount = s.dev.pitch.tickCount
      ∧ t.dev.active = s.dev.active ∧ t.dev.shadow = s.dev.shadow ∧ t.dev.links = s.dev.links ∧ t.dev.sec = s.dev.sec
      ∧ (s.work.jobActive = true → ∀ c, c < 16 → (s.work.ctx c).enable = true → (s.work.ctx c).halt.valid = false →
          (t.work.ctx c).halt.valid = true ∧ (t.work.ctx c).halt.reason = 0xC3))

/-- ANCHOR_DECISION_POINT on a device that generates its ticks and has announced none (R48, R50, R54): it announces the next
count for the end of the pitch, L after now, or, while the device or a child is not done, holds the tick.
OVERRUN_ANNOUNCEMENT while the tick is held (R51): it announces the overrun tick. -/
def Obligations.AnnouncementsComplete : Prop :=
  (∀ s : State, s.dev.pitch.run = true → s.dev.pitch.role.generates = true → s.dev.pitch.announced = none →
    ∃ t, exec .anchorDecisionPoint s = .next t ∧ t.dev.ctxs = s.dev.ctxs ∧ t.dev.tiles = s.dev.tiles ∧ t.mem = s.mem
      ∧ t.dev.pitch.tickCount = s.dev.pitch.tickCount
      ∧ (s.work.canAnnounce = true →
          ∃ b, t.dev.pitch.announced = some b ∧ b.tick = s.work.tick + 1 ∧ bitOf b.flags 1 = false ∧ b.stretch = 0
            ∧ b.length = s.dev.active.pitchLen ∧ t.dev.pitch.announceAt = s.dev.pitch.timerNs + s.dev.pitch.margin)
      ∧ (s.work.canAnnounce = false → t.dev.pitch = { s.dev.pitch with held := true }))
  ∧ (∀ s : State, s.dev.pitch.run = true → s.dev.pitch.role.generates = true → s.dev.pitch.held = true → s.dev.pitch.announced = none →
    ∃ t, exec .overrunAnnouncement s = .next t ∧ t.dev.ctxs = s.dev.ctxs ∧ t.dev.tiles = s.dev.tiles ∧ t.mem = s.mem
      ∧ t.dev.pitch.tickCount = s.dev.pitch.tickCount
      ∧ ∃ b, t.dev.pitch.announced = some b ∧ b.tick = s.work.tick + 1 ∧ bitOf b.flags 1 = true ∧ bitOf b.flags 0 = false
        ∧ b.stretch = s.work.graceNs)

/-- DONE_REPORT from a child, for the pitch that closes (R47, R475): its ready bits are kept under its link, in place of an
earlier report of that child. TICK_ANNOUNCEMENT on a follower's parent link (R48, R474): the tick it names falls due by the
accumulated latency before the end of L, and a follower whose pitch settings or count disagree halts its contexts that are not
urgent with PITCH_CONFIG_MISMATCH (0xC4, R49). -/
def Obligations.BelayMessagesComplete : Prop :=
  (∀ (link : Nat) (p : Belay) (s : State), s.dev.pitch.run = true → p.kind = 1 → s.dev.pitch.childLinks.getLsbD link = true →
      p.tick = s.work.tick + 1 →
    ∃ t, exec (.doneReport link p) s = .next t ∧ t.dev.ctxs = s.dev.ctxs ∧ t.dev.tiles = s.dev.tiles ∧ t.mem = s.mem
      ∧ t.dev.pitch.tickCount = s.dev.pitch.tickCount
      ∧ t.dev.pitch.reports = (s.dev.pitch.reports.filter fun e => e.link != link)
          ++ [{ link := link, swapReady := bitOf p.flags 0, fenceClear := bitOf p.flags 1 }])
  ∧ (∀ (link : Nat) (p : Belay) (s : State), s.dev.pitch.run = true → p.kind = 0 → s.dev.pitch.role = .follower →
      s.dev.pitch.parentLink = link →
    ∃ t, exec (.tickAnnouncement link p) s = .next t
      ∧ t.dev.pitch = { s.dev.pitch with
          announced := some p, announceAt := s.dev.pitch.timerNs + (s.dev.pitch.margin * 10 - p.accLatency) / 10 }
      ∧ t.dev.active = s.dev.active ∧ t.dev.shadow = s.dev.shadow
      ∧ (s.work.mismatch p = false → t.dev.ctxs = s.dev.ctxs ∧ t.dev.tiles = s.dev.tiles ∧ t.mem = s.mem)
      ∧ (s.work.mismatch p = true → ∀ c, c < 16 → (s.work.ctx c).enable = true → (s.work.ctx c).urgent = false →
          (s.work.ctx c).halt.valid = false → (t.work.ctx c).halt.valid = true ∧ (t.work.ctx c).halt.reason = 0xC4))

/-- TICK_LOST_TIMEOUT on a follower that has had a tick and hears none while its parent link is up (R53): every enabled context
that is not halted halts with TICK_LOST (0xC3). SUBPITCH_OVERRUN while a batch executes (R63): the urgent context halts with
SUBPITCH_OVERRUN (0xC2). No other context's halt record changes at the second. -/
def Obligations.PitchHaltsComplete : Prop :=
  (∀ s : State, s.dev.pitch.run = true → s.dev.pitch.role = .follower → s.dev.pitch.ticking = true → s.dev.pitch.announced = none →
      (s.work.link s.dev.pitch.parentLink).state = .up →
    ∃ t, exec .tickLostTimeout s = .next t ∧ t.dev.pitch = s.dev.pitch ∧ t.dev.links = s.dev.links
      ∧ ∀ c, c < 16 → (s.work.ctx c).enable = true → (s.work.ctx c).halt.valid = false →
          (t.work.ctx c).halt.valid = true ∧ (t.work.ctx c).halt.reason = 0xC3)
  ∧ (∀ (s : State) (c : Nat), s.work.urgentCtx = some c → (s.work.ctx c).executing ≠ [] → (s.work.ctx c).halt.valid = false →
    ∃ t, exec .subpitchOverrun s = .next t ∧ t.dev.pitch = s.dev.pitch ∧ t.dev.links = s.dev.links
      ∧ (t.work.ctx c).halt.valid = true ∧ (t.work.ctx c).halt.reason = 0xC2
      ∧ ∀ k, k ≠ c → (t.work.ctx k).halt = (s.work.ctx k).halt)

/-- SUB_TICK in a running pitch with the urgent context idle and a request waiting whose entry its job has (R62, R454): the batch
executes, every tile of the context runs from the entry's address with g1 holding the batch's size.
URGENT_EXECUTION_END once every tile has stopped and drained (R455): nothing executes any more. -/
def Obligations.UrgentDispatchCompletes : Prop :=
  (∀ (s : State) (c pc : Nat) (j : Job) (u : UrgentReq) (us : List UrgentReq), s.dev.pitch.run = true →
      (s.dev.pitch.role.generates = true ∨ s.dev.pitch.ticking = true) →
      s.work.urgentCtx = some c → (s.work.ctx c).active = true → (s.work.ctx c).executing = [] → urgentBatchOf (s.work.ctx c) = u :: us →
      (s.work.ctx c).job = some j → j.entries[u.entry]? = some pc →
    ∃ t, exec .subTick s = .next t ∧ t.dev.pitch = s.dev.pitch ∧ (t.work.ctx c).executing = u :: us
      ∧ (t.work.ctx c).dispatchedAt = s.dev.nowNs
      ∧ (∀ k, k ≠ c → t.work.ctx k = s.work.ctx k)
      ∧ (∀ n, n ∈ (s.work.ctx c).tiles → n < s.dev.tiles.length →
          (t.work.tile n).run = .running ∧ (t.work.tile n).pc = pc ∧ (t.work.tile n).loops = []
            ∧ (t.work.tile n).g = updAt (s.work.tile n).g 1 fun _ => BitVec.ofNat 64 (u :: us).length)
      ∧ (∀ n, n ∉ (s.work.ctx c).tiles → t.work.tile n = s.work.tile n))
  ∧ (∀ (s : State) (c : Nat), s.work.urgentCtx = some c → (s.work.ctx c).executing ≠ [] → s.work.tilesIdle c = true →
      (s.work.ctx c).active = true → (s.work.ctx c).lateDispatch = false →
    ∃ t, exec .urgentExecutionEnd s = .next t ∧ t.dev.pitch = s.dev.pitch ∧ (t.work.ctx c).executing = [])


/-- TICK_FIRE of an announced tick (R57): the tick count is the announced one, the counter snapshot belongs to it, a new pitch
begins with its timer and cycle at 0, nothing is announced and no child has reported. GRACE_END of an announced overrun (R51):
the same tick, with PITCH_STATUS saying whether this device or a child was late, sticky. Both leave the pitch's role and tree,
security, power and sidebands as they are. -/
def Obligations.TicksComplete : Prop :=
  (∀ (s : State) (b : Belay), s.dev.pitch.run = true → s.dev.pitch.announced = some b → bitOf b.flags 1 = false →
    ∃ t, exec .tickFire s = .next t ∧ t.dev.pitch.run = true ∧ t.dev.pitch.tickCount = BitVec.ofNat 64 b.tick
      ∧ t.dev.snapTick = BitVec.ofNat 64 b.tick ∧ t.dev.pitch.ticking = true ∧ t.dev.pitch.timerNs = 0 ∧ t.dev.pitch.cycle = 0
      ∧ t.dev.pitch.announced = none ∧ t.dev.pitch.held = false ∧ t.dev.pitch.reports = []
      ∧ t.dev.pitch.role = s.dev.pitch.role ∧ t.dev.pitch.parentLink = s.dev.pitch.parentLink
      ∧ t.dev.pitch.childLinks = s.dev.pitch.childLinks ∧ t.dev.pitch.overran = s.dev.pitch.overran
      ∧ t.dev.sec = s.dev.sec ∧ t.dev.pwr = s.dev.pwr ∧ t.dev.side = s.dev.side)
  ∧ (∀ (s : State) (b : Belay), s.dev.pitch.run = true → s.dev.pitch.announced = some b → bitOf b.flags 1 = true →
    ∃ t, exec .graceEnd s = .next t ∧ t.dev.pitch.run = true ∧ t.dev.pitch.tickCount = BitVec.ofNat 64 b.tick
      ∧ t.dev.snapTick = BitVec.ofNat 64 b.tick ∧ t.dev.pitch.ticking = true ∧ t.dev.pitch.timerNs = 0 ∧ t.dev.pitch.cycle = 0
      ∧ t.dev.pitch.announced = none ∧ t.dev.pitch.held = false ∧ t.dev.pitch.reports = []
      ∧ t.dev.pitch.overran = true
      ∧ t.dev.pitch.lateSelf = (s.dev.pitch.lateSelf || !s.work.deviceDone)
      ∧ t.dev.pitch.lateChild = (s.dev.pitch.lateChild || !s.dev.pitch.childrenDone)
      ∧ t.dev.sec = s.dev.sec ∧ t.dev.pwr = s.dev.pwr ∧ t.dev.side = s.dev.side)

/-! ### Configuration sets and registers -/

/-- CFG_ARM_GO with nothing armed (R66): an arm whose checks pass stands for CFG_ARM_TICK and no set changes; one whose control
checks fail leaves RESULT invalid with the cause. With a swap armed it only sets ARM_WHILE_ARMED (R67).
CFG_DISARM (R67): inside its window it cancels the arm; later it only sets DISARM_LATE. -/
def Obligations.ArmAndDisarmComplete : Prop :=
  (∀ (m : Bool) (s : State), s.dev.responds = true → s.dev.cfg.armed = none → s.work.armCause m s.dev.cfg.armTick.toNat = 0 →
      s.work.armTables = none →
    ∃ t, exec (.cfgArmGo m) s = .next t
      ∧ t.dev.cfg = { s.dev.cfg with
          armed := some (if m then .machine else .device), target := s.dev.cfg.armTick.toNat, invalidCause := 0 }
      ∧ t.dev.active = s.dev.active ∧ t.dev.shadow = s.dev.shadow ∧ t.mem = s.mem ∧ t.dev.ctxs = s.dev.ctxs
      ∧ t.dev.tiles = s.dev.tiles ∧ t.dev.pitch = s.dev.pitch)
  ∧ (∀ (m : Bool) (s : State), s.dev.responds = true → s.dev.cfg.armed = none → s.work.armCause m s.dev.cfg.armTick.toNat ≠ 0 →
    exec (.cfgArmGo m) s = .next { s with dev := { s.dev with cfg := { s.dev.cfg with
      result := .invalid, invalidCause := s.work.armCause m s.dev.cfg.armTick.toNat } } })
  ∧ (∀ (m : Bool) (s : State), s.dev.responds = true → s.dev.cfg.armed ≠ none →
    exec (.cfgArmGo m) s = .next { s with dev := { s.dev with cfg := { s.dev.cfg with armWhileArmed := true } } })
  ∧ (∀ s : State, s.dev.responds = true → s.dev.cfg.armed ≠ none → s.work.cancelClosed = false →
    exec .cfgDisarm s = .next { s with dev := { s.dev with cfg := { s.dev.cfg with armed := none, result := .disarmed } } })
  ∧ (∀ s : State, s.dev.responds = true → s.dev.cfg.armed ≠ none → s.work.cancelClosed = true →
    exec .cfgDisarm s = .next { s with dev := { s.dev with cfg := { s.dev.cfg with disarmLate := true } } })

/-- SH_FIELD_WRITE through the physical function with nothing armed (R65, R559): a 32-bit word of the shadow set takes its fields
(PITCH_LEN, the subdivision and grace, the power cap, a quota word); a table base takes bits 49 to 0 of an 8-byte write. Nothing
but the shadow set, and for a base the kept half, changes. With a swap armed the write is ignored and sets WRITE_WHILE_ARMED (R67). -/
def Obligations.ShadowWriteCompletes : Prop :=
  (∀ (off v : Nat) (s : State), s.dev.responds = true → s.dev.cfg.armed = none → off % 4 = 0 → shadowed off = true →
      s.dev.shadow.base (off / 8 * 8) = none →
    exec (.shFieldWrite 0 off 4 v) s = .next { s with dev := { s.dev with shadow := s.dev.shadow.put32 off (v % 2 ^ 32) } })
  ∧ (∀ (v : Nat) (s : State), s.dev.responds = true → s.dev.cfg.armed = none →
    (∃ t, exec (.shFieldWrite 0 0x020000 4 v) s = .next t ∧ t.dev.shadow = { s.dev.shadow with pitchLen := v % 2 ^ 30 })
    ∧ (∃ t, exec (.shFieldWrite 0 0x020004 4 v) s = .next t
      ∧ t.dev.shadow = { s.dev.shadow with subdiv := v / 16 % 16, grace := v / 256 % 256 })
    ∧ (∃ t, exec (.shFieldWrite 0 0x040014 4 v) s = .next t ∧ t.dev.shadow = { s.dev.shadow with powerCap := v % 2 ^ 11 })
    ∧ (∃ t, exec (.shFieldWrite 0 0x030020 8 v) s = .next t ∧ t.dev.shadow = { s.dev.shadow with rowMap := v % 2 ^ 50 })
    ∧ (∃ t, exec (.shFieldWrite 0 0x030028 8 v) s = .next t ∧ t.dev.shadow = { s.dev.shadow with shardMap := v % 2 ^ 50 })
    ∧ (∃ t, exec (.shFieldWrite 0 0x030030 8 v) s = .next t ∧ t.dev.shadow = { s.dev.shadow with format := v % 2 ^ 50 })
    ∧ (∃ t, exec (.shFieldWrite 0 0x030038 8 v) s = .next t ∧ t.dev.shadow = { s.dev.shadow with topology := v % 2 ^ 50 }
      ∧ t.dev = { s.dev with shadow := t.dev.shadow, regIo := t.dev.regIo } ∧ t.mem = s.mem))
  ∧ (∀ (lo hi : Nat) (s : State), s.dev.responds = true → s.dev.cfg.armed = none → lo < 2 ^ 32 → hi < 2 ^ 32 →
    ∃ t u, exec (.shFieldWrite 0 0x030020 4 lo) s = .next t ∧ t.dev.shadow = s.dev.shadow
      ∧ exec (.shFieldWrite 0 0x030024 4 hi) t = .next u ∧ u.dev.shadow = { s.dev.shadow with rowMap := (lo + hi * 2 ^ 32) % 2 ^ 50 })
  ∧ (∀ (off size v : Nat) (s : State), s.dev.responds = true → s.dev.cfg.armed ≠ none → accessOk off size = true → shadowed off = true →
    exec (.shFieldWrite 0 off size v) s = .next { s with dev := { s.dev with cfg := { s.dev.cfg with writeWhileArmed := true } } })

/-- REGISTER_WRITE and REGISTER_READ_CAPTURE through the physical function once boot has ended (R559, R560): a ring size of a
context whose rings are DISABLED is written, CFG_ARM_TICK takes its 64 bits, the status bits of CFG clear where ones are written;
a 4-byte read of a word returns it as it stands, and a read of TICK_COUNT's lower half holds the upper half that belongs to it.
No such access changes memory, tiles, configuration sets or counters. -/
def Obligations.RegisterAccessCompletes : Prop :=
  (∀ (fn off size v : Nat) (s : State), ∃ t, exec (.registerWrite fn off size v) s = .next t ∧ t.mem = s.mem
      ∧ t.dev.tiles = s.dev.tiles ∧ t.dev.active = s.dev.active ∧ t.dev.shadow = s.dev.shadow ∧ t.dev.counters = s.dev.counters
      ∧ t.dev.fault = s.dev.fault ∧ t.dev.residency = s.dev.residency)
  ∧ (∀ (c r v : Nat) (s : State), s.dev.responds = true → c < s.dev.ctxs.length → c < 16 → r < 4 → (s.work.ctx c).state = .disabled →
    ∃ t, exec (.registerWrite 0 (0x100000 + 0x1000 * c + 0x10 * r + 0x18) 4 v) s = .next t
      ∧ t.work.ctx c = { s.work.ctx c with cmd := updAt (s.work.ctx c).cmd r fun g => { g with size := v % 2 ^ 32 % 32 } }
      ∧ (∀ k, k ≠ c → t.work.ctx k = s.work.ctx k))
  ∧ (∀ (v : Nat) (s : State), s.dev.responds = true →
    ∃ t, exec (.registerWrite 0 0x030008 8 v) s = .next t ∧ t.dev.cfg = { s.dev.cfg with armTick := BitVec.ofNat 64 v })
  ∧ (∀ (v : Nat) (s : State), s.dev.responds = true →
    exec (.registerWrite 0 0x030010 4 v) s = .next { s with dev := { s.dev with cfg := { s.dev.cfg with
      writeWhileArmed := s.dev.cfg.writeWhileArmed && !v.testBit 16, armWhileArmed := s.dev.cfg.armWhileArmed && !v.testBit 17
      disarmLate := s.dev.cfg.disarmLate && !v.testBit 18 } } })
  ∧ (∀ (fn off size : Nat) (s : State),
    ∃ t, exec (.registerReadCapture fn off size) s = .next t ∧ t = { s with dev := { s.dev with regIo := t.dev.regIo } })
  ∧ (∀ (off : Nat) (s : State), s.dev.responds = true → off < 0x1000000 → off % 4 = 0 → s.dev.regIo.words = [] → captured off = [] →
    ∃ t, exec (.registerReadCapture 0 off 4) s = .next t ∧ t.dev.regIo.readData = BitVec.ofNat 64 (s.work.regWord off)
      ∧ t.dev.regIo.words = [])
  ∧ (∀ s : State, s.dev.responds = true → s.dev.regIo.words = [] →
    ∃ t, exec (.registerReadCapture 0 0x020010 4) s = .next t
      ∧ t.dev.regIo.readData = BitVec.ofNat 64 (s.dev.pitch.tickCount.toNat % 2 ^ 32)
      ∧ (t.dev.regIo.words.find? fun h => h.1 == 0x020014) = some (0x020014, BitVec.ofNat 32 (s.dev.pitch.tickCount.toNat / 2 ^ 32)))

/-- ID_DEVICE_NUMBER_WRITE through the physical function (R563): the 14-bit number, unless a link is TRAINING or UP or PITCH_RUN
is set, when nothing changes. CNT_SELECT (R576) and CTX_CNT_SELECT (R578): the selection, reserved bits reading 0. Nothing else
changes. -/
def Obligations.SelectionsComplete : Prop :=
  (∀ (v : Nat) (s : State), s.dev.responds = true → s.dev.pitch.run = false →
      (∀ l, l ∈ s.dev.links → l.state ≠ .training ∧ l.state ≠ .up) →
    exec (.idDeviceNumberWrite 0 v) s = .next { s with dev := { s.dev with deviceNumber := v % 2 ^ 14 } })
  ∧ (∀ (fn v : Nat) (s : State), (s.dev.pitch.run = true ∨ ∃ l, l ∈ s.dev.links ∧ (l.state = .training ∨ l.state = .up)) →
    exec (.idDeviceNumberWrite fn v) s = .next s)
  ∧ (∀ (v : W32) (s : State), s.dev.responds = true →
    exec (.cntSelect v) s = .next { s with dev := { s.dev with cntSelect := v &&& 0xFF1FFFFF } })
  ∧ (∀ (c id i : Nat) (s : State), s.dev.responds = true → c < s.dev.ctxs.length →
    ∃ t, exec (.ctxCntSelect c id i) s = .next t ∧ t = { s with dev := { s.dev with ctxs := t.dev.ctxs } }
      ∧ t.work.ctx c = { s.work.ctx c with cntId := id % 2 ^ 16, cntInstance := i % 2 ^ 8 }
      ∧ ∀ k, k ≠ c → t.work.ctx k = s.work.ctx k)

/-! ### Traverse -/

/-- SAMPLE of an active context whose checks pass (R81) is taken up under a fresh number; nothing else changes. With a traverse
quota of 0 the context halts with QUOTA_EXCEEDED (0x43, detail 4; R371). -/
def Obligations.SampleStarts : Prop :=
  (∀ (r : StreamRef) (p : SampleParams) (s : State), (s.work.ctx r.ctx).active = true → s.work.sampleFault r.ctx p = none →
    exec (.sample r p) s = .next { s with dev := { s.dev with
      nextId := s.dev.nextId + 1
      trav := s.dev.trav ++ [{ id := s.dev.nextId, ref := r, params := p, returned := [], returns := 0 }] } })
  ∧ (∀ (r : StreamRef) (p : SampleParams) (s : State), (s.work.ctx r.ctx).active = true →
      ((s.dev.active.quotas[r.ctx]?).getD Quota.zero).traverse = 0 →
    ∃ t, exec (.sample r p) s = .next t ∧ (t.work.ctx r.ctx).halt.valid = true ∧ (t.work.ctx r.ctx).halt.reason = 0x43
      ∧ (t.work.ctx r.ctx).halt.detail = 4 ∧ t.dev.active = s.dev.active ∧ t.dev.pitch = s.dev.pitch)

/-- SAMPLE_COMPLETE of an operation that meets no stop and whose block fits (R83, R97): exactly the block's bytes are stored at its
output address, the operation is gone, and the edges and nodes sampled are counted. A block that does not fit leaves memory as it is
but for the halt: the context halts with SAMPLE_BLOCK_OVERFLOW (0x30, R97). -/
def Obligations.SampleCompletes : Prop :=
  (∀ (op : Nat) (o : TravOp) (b : Block) (s : State), Memory.wf s.mem = true → (s.dev.trav.find? fun k => k.id == op) = some o →
      ({ w := s.work, c := o.ref.ctx, p := o.params, g := parseGraph (s.work.ldN o.ref.ctx o.params.graph 128), ret := o.returned } : Trav).run = .ok b →
      b.nodes.length ≤ o.params.maxUnique → (b.bytes o.params s.dev.deviceNumber).length ≤ o.params.capacity →
      s.work.accessFault o.ref.ctx o.params.output (b.bytes o.params s.dev.deviceNumber).length true = none →
    ∃ t, exec (.sampleComplete op) s = .next t
      ∧ s.stores t (localKey o.ref.ctx o.params.output) (b.bytes o.params s.dev.deviceNumber)
      ∧ t.dev.trav = (s.dev.trav.filter fun k => k.id != op) ∧ t.dev.ctxs = s.dev.ctxs ∧ t.dev.tiles = s.dev.tiles
      ∧ t.dev.residency = s.dev.residency ∧ t.dev.active = s.dev.active)
  ∧ (∀ (op : Nat) (o : TravOp) (b : Block) (s : State), (s.dev.trav.find? fun k => k.id == op) = some o →
      (s.work.ctx o.ref.ctx).enable = true → (s.work.ctx o.ref.ctx).halt.valid = false →
      ({ w := s.work, c := o.ref.ctx, p := o.params, g := parseGraph (s.work.ldN o.ref.ctx o.params.graph 128), ret := o.returned } : Trav).run = .ok b →
      (o.params.maxUnique < b.nodes.length ∨ o.params.capacity < (b.bytes o.params s.dev.deviceNumber).length) →
    ∃ t, exec (.sampleComplete op) s = .next t ∧ (t.work.ctx o.ref.ctx).halt.valid = true ∧ (t.work.ctx o.ref.ctx).halt.reason = 0x30)

/-- TRAVERSE_READ_RETURN for an operation in flight (R100): the return is counted, and a peer's data are kept for it. A peer's
denial halts the context with OBJECT_ACCESS_DENIED (0x48, R361). -/
def Obligations.TraverseReturnCompletes : Prop :=
  (∀ (op a : Nat) (k : SourceKind) (bs : List Byte) (o : TravOp) (s : State), (s.dev.trav.find? fun k => k.id == op) = some o → k ≠ .peer →
    exec (.traverseReadReturn op k a (.data bs)) s = .next { s with dev := { s.dev with
      trav := s.dev.trav.map fun k => if k.id = op then { k with returns := k.returns + 1 } else k } })
  ∧ (∀ (op a : Nat) (bs : List Byte) (o : TravOp) (s : State), (s.dev.trav.find? fun k => k.id == op) = some o →
    ∃ t, exec (.traverseReadReturn op .peer a (.data bs)) s = .next t
      ∧ t.dev.trav = (s.dev.trav.map fun k => if k.id = op then { k with returns := k.returns + 1, returned := cellsOf a bs ++ k.returned } else k)
      ∧ t.mem = s.mem ∧ t.dev.ctxs = s.dev.ctxs ∧ t.dev.counters = s.dev.counters)
  ∧ (∀ (op a d : Nat) (k : SourceKind) (o : TravOp) (s : State), (s.dev.trav.find? fun k => k.id == op) = some o →
      (s.work.ctx o.ref.ctx).enable = true → (s.work.ctx o.ref.ctx).halt.valid = false →
    ∃ t, exec (.traverseReadReturn op k a (.denied d)) s = .next t ∧ (t.work.ctx o.ref.ctx).halt.valid = true
      ∧ (t.work.ctx o.ref.ctx).halt.reason = 0x48 ∧ (t.work.ctx o.ref.ctx).halt.detail = d)

/-! ### Gather -/

/-- GATHER of an active context. Its start checks (R107, R371): a failing one halts the context with their reason and detail. While
eight operations are in flight it waits, and one stalled cycle is counted (R115). Otherwise, unless a position that cannot be
taken in halts the context, the operation is in flight under a fresh number; with no position and nothing else in flight, that is
all that changes. -/
def Obligations.GatherStarts : Prop :=
  (∀ (r : StreamRef) (p : GatherParams) (reason d : Nat) (s : State), (s.work.ctx r.ctx).active = true →
      s.work.gatherFault r.ctx p = some (reason, d) →
    ∃ t, exec (.gather r p) s = .next t ∧ (t.work.ctx r.ctx).halt.valid = true ∧ (t.work.ctx r.ctx).halt.reason = reason
      ∧ (t.work.ctx r.ctx).halt.detail = d)
  ∧ (∀ (r : StreamRef) (p : GatherParams) (s : State), (s.work.ctx r.ctx).active = true → s.work.gatherFault r.ctx p = none →
      s.work.poisonIn p.table 64 = none → 8 ≤ s.dev.gathers.length →
    exec (.gather r p) s = .next { s with dev := { s.dev with
      counters := ctrAdd s.dev.counters (ctrKey Ctr.stallQueueFull r.ctx 6) 1 } })
  ∧ (∀ (r : StreamRef) (p : GatherParams) (s : State), (s.work.ctx r.ctx).active = true → s.work.gatherFault r.ctx p = none →
      s.work.poisonIn p.table 64 = none → s.dev.gathers.length < 8 →
    ∃ t, exec (.gather r p) s = .next t ∧ ((t.work.ctx r.ctx).halt.valid = false →
      ∃ g, g ∈ t.dev.gathers ∧ g.id = s.dev.nextId ∧ g.ref = r ∧ g.params = p))
  ∧ (∀ (r : StreamRef) (p : GatherParams) (s : State), (s.work.ctx r.ctx).active = true → s.work.gatherFault r.ctx p = none →
      s.work.poisonIn p.table 64 = none → s.dev.gathers = [] → (s.work.keyArray p.source p.keys p.count p.hop).count = 0 →
    ∃ t, exec (.gather r p) s = .next t ∧ t = { s with dev := { s.dev with nextId := s.dev.nextId + 1, gathers := t.dev.gathers } }
      ∧ ∃ g, t.dev.gathers = [g] ∧ g.id = s.dev.nextId ∧ g.ref = r ∧ g.params = p ∧ g.seen = [] ∧ g.masked = []
        ∧ ∀ e, e ∈ g.todo → e.2 = [])

/-- GATHER_FETCH_RETURN of an outstanding fetch whose row is there, with no position left to take in (R113, R119): every waiting
position's output row is written, and the entry no longer fetches. GATHER_COMPLETE once every position is written (R109, R112): the
drop mask and the census record are written, and the operation is gone. SERVED_LOOKUP of a job tag that no context here carries
(R361): a denial goes back on the answer's route, and memory stays. -/
def Obligations.GatherProceeds : Prop :=
  (∀ (op u key cls : Nat) (peer : Option PeerRow) (o : GatherOp) (e : DedupEntry) (vs : List Val) (s : State), Memory.wf s.mem = true →
      u < s.dev.units.length → s.work.gatherOp op = some o →
      (((s.work.unit u).sets.flatMap fun x => x.2).find? fun e => e.op == op && e.key == key && e.outstanding) = some e →
      s.work.fetched o.ref.ctx (s.work.table o.params.table) e.key peer = .row cls vs →
      (∀ g, g ∈ s.dev.gathers → ∀ x, x ∈ g.todo → x.2 = []) →
    ∃ t, exec (.gatherFetchReturn op u key peer) s = .next t
      ∧ (∀ k, Memory.read t.mem k = (s.work.fillWaiting o (rowOut o.form vs).1 (rowOut o.form vs).2 e.waiting).rd k)
      ∧ t.dev.ctxs = s.dev.ctxs ∧ t.dev.tiles = s.dev.tiles
      ∧ ∃ x, x ∈ (t.work.unit u).entries (dedupSet (s.work.table o.params.table).id e.key) ∧ x.op = e.op ∧ x.key = e.key
        ∧ x.outstanding = false ∧ x.waiting = [])
  ∧ (∀ (op : Nat) (o : GatherOp) (s : State), Memory.wf s.mem = true → s.work.gatherOp op = some o → s.work.fetching op = [] →
      (∀ g, g ∈ s.dev.gathers → ∀ x, x ∈ g.todo → x.2 = []) → fmtInt o.form.fmt = false → o.tally.hist.length = 16 →
      o.params.tag.tensor < (s.work.ctx o.ref.ctx).censusTable.2 →
    ∃ t, exec (.gatherComplete op) s = .next t ∧ t.dev.gathers = (s.dev.gathers.filter fun g => g.id != op) ∧ t.dev.tiles = s.dev.tiles
      ∧ (∀ k, let c := o.ref.ctx
          let m := localKey c o.params.dropMask
          let a := localKey c ((s.work.ctx c).censusTable.1 + 192 * (2 * o.params.tag.tensor + (s.work.ctx c).step % 2))
          let n := (s.work.keyArray o.params.source o.params.keys o.params.count o.params.hop).count
          ¬(a ≤ k ∧ k < a + 192) → Memory.read t.mem k =
            if n = 0 then Memory.read s.mem k
            else if m ≤ k then ((dropMask n o.masked)[k - m]?).getD (Memory.read s.mem k) else Memory.read s.mem k))
  ∧ (∀ (link jobTag table key req l : Nat) (s : State), (s.work.link link).state = .up → s.work.tagged jobTag = none →
      s.work.routeLink 2 (s.work.link link).peerId = some l →
    ∃ t, exec (.servedLookup link jobTag table key req) s = .next t ∧ t.mem = s.mem ∧ t.dev.ctxs = s.dev.ctxs ∧ t.dev.tiles = s.dev.tiles
      ∧ t.dev.linkOut = s.dev.linkOut ++ [{
          link := l, dest := (s.work.link link).peerId, jobTag := BitVec.ofNat 32 jobTag, msg := .servedResult req (.denied table) }])

/-! ### Scatter-reduce -/

/-- SCATTER of an active context. A failing start check (R132, R161, R371) halts the context with its reason and detail. While eight
operations are in flight it waits, and one stalled cycle is counted (R159). Otherwise, unless a position halts the context, the
operation is in flight under a fresh number. A SUM of one valid listed key with a given scale 2^E, into a region row of another
stamp (R139, R140, R143): the row becomes the stamp, the count 1 and each element rounded to a multiple of 2^E, and no other byte
of memory changes. -/
def Obligations.ScatterStarts : Prop :=
  (∀ (r : StreamRef) (p : ScatterParams) (reason d : Nat) (s : State), (s.work.ctx r.ctx).active = true →
      s.work.scatterFault r.ctx p = some (reason, d) →
    ∃ t, exec (.scatter r p) s = .next t ∧ (t.work.ctx r.ctx).halt.valid = true ∧ (t.work.ctx r.ctx).halt.reason = reason
      ∧ (t.work.ctx r.ctx).halt.detail = d)
  ∧ (∀ (r : StreamRef) (p : ScatterParams) (s : State), (s.work.ctx r.ctx).active = true → s.work.scatterFault r.ctx p = none →
      8 ≤ s.dev.scatters.length →
    exec (.scatter r p) s = .next { s with dev := { s.dev with
      counters := ctrAdd s.dev.counters (ctrKey Ctr.stallQueueFull r.ctx 7) 1 } })
  ∧ (∀ (r : StreamRef) (p : ScatterParams) (s : State), (s.work.ctx r.ctx).active = true → s.work.scatterFault r.ctx p = none →
      s.dev.scatters.length < 8 →
    ∃ t, exec (.scatter r p) s = .next t ∧ ((t.work.ctx r.ctx).halt.valid = false →
      ∃ o, o ∈ t.dev.scatters ∧ o.id = s.dev.nextId ∧ o.ref = r ∧ o.params = p))
  ∧ (∀ (r : StreamRef) (p : ScatterParams) (e : Int) (d stride key : Nat) (place : Placement) (b16 : Bool) (s : State),
      Memory.wf s.mem = true → (s.work.ctx r.ctx).active = true → s.work.scatterFault r.ctx p = none → s.dev.scatters = [] →
      s.dev.lines = [] → (s.work.ctx r.ctx).replay = none → p.kind = .sum → p.source = .list32 ∨ p.source = .list64 →
      p.target = .output d place b16 stride → p.exponent = .fixed e →
      (s.work.keyArray p.source p.keys p.count p.hop).count = 1 →
      s.work.keyAt r.ctx (s.work.keyArray p.source p.keys p.count p.hop) 0 = key →
      s.work.sortKey r.ctx p d key 0 = .valid → s.work.contribStop p 0 = none →
      s.work.poisonIn (regionAt p key) (8 + 8 * p.elems) = none → s.work.le (regionAt p key) 4 ≠ p.stamp % 2 ^ 32 →
    ∃ t, exec (.scatter r p) s = .next t ∧ t.dev.lines = [] ∧ t.dev.tiles = s.dev.tiles ∧ t.dev.ctxs = s.dev.ctxs
      ∧ s.stores t (regionAt p key) (leBytes 4 (p.stamp % 2 ^ 32) ++ leBytes 4 1 ++
          ((s.work.contribRow p 0).map fun x => leBytes 8 (ofSigned 64 (quantise ((f32.decode x).scale (-(min e 127)))).1)).flatten))

/-- SCATTER_FINALISE of an operation not yet finalised (R144): it is finalised; where SUM has one destination whose region row
carries the stamp, exactly that output row is stored, each element its sum times 2^E in the output format.
SCATTER_COMPLETE (R135, R155): it waits for acknowledgements, one stalled cycle counted; a finalised ROW_UPDATE with none is gone,
and memory stays. SERVED_ACK takes one acknowledgement off. SERVED_CONTRIBUTION (R155, R361): denied for a job tag that no context
here carries; an invalid row is dropped and acknowledged, and memory stays. -/
def Obligations.ScatterProceeds : Prop :=
  (∀ (op : Nat) (o : ScatterOp) (s : State), s.work.scatterOp op = some o → o.finalised = false →
    ∃ t, exec (.scatterFinalise op) s = .next t ∧ (∃ k, t.work.scatterOp op = some k ∧ k.finalised = true ∧ k.params = o.params)
      ∧ t.dev.tiles = s.dev.tiles ∧ t.dev.trav = s.dev.trav ∧ t.dev.gathers = s.dev.gathers ∧ t.dev.residency = s.dev.residency)
  ∧ (∀ (op d stride : Nat) (place : Placement) (b16 : Bool) (o : ScatterOp) (s : State), Memory.wf s.mem = true →
      s.work.scatterOp op = some o → o.finalised = false → o.params.kind = .sum → o.params.source = .list32 ∨ o.params.source = .list64 →
      o.params.target = .output d place b16 stride → d = 1 → o.written = [] → s.work.le (regionAt o.params 0) 4 = o.stamp →
    ∃ t, exec (.scatterFinalise op) s = .next t
      ∧ s.stores t (placeRow place stride 0)
          (rowOut o.form (tab o.params.elems fun j => Val.ofInt (s.work.les (regionAt o.params 0 + 8 + 8 * j) 8) o.exponent)).1)
  ∧ (∀ (op : Nat) (o : ScatterOp) (s : State), s.work.scatterOp op = some o → o.acks ≠ 0 →
    exec (.scatterComplete op) s = .next { s with dev := { s.dev with
      counters := ctrAdd s.dev.counters (ctrKey Ctr.stallDataLatePeer o.ref.ctx 7) 1 } })
  ∧ (∀ (op tbl area alpha : Nat) (o : ScatterOp) (s : State), s.work.scatterOp op = some o → o.acks = 0 → o.finalised = true →
      o.params.target = .rowUpdate tbl area alpha →
    ∃ t, exec (.scatterComplete op) s = .next t ∧ t.dev.scatters = (s.dev.scatters.filter fun k => k.id != op) ∧ t.mem = s.mem
      ∧ t.dev.ctxs = s.dev.ctxs ∧ t.dev.tiles = s.dev.tiles)
  ∧ (∀ (op u : Nat) (o : ScatterOp) (s : State), s.work.scatterOp op = some o → o.acks ≠ 0 → u < 16 →
    ∃ t, exec (.servedAck op u) s = .next t ∧ t.mem = s.mem ∧ t.dev.ctxs = s.dev.ctxs
      ∧ t.dev.scatters = s.dev.scatters.map fun k => if k.id = op then { k with acks := k.acks - 1 } else k)
  ∧ (∀ (link jobTag table area alpha row l : Nat) (e : Int) (accs : List Int) (s : State), (s.work.link link).state = .up →
      s.work.tagged jobTag = none → s.work.routeLink 2 (s.work.link link).peerId = some l →
    ∃ t, exec (.servedContribution link jobTag table area alpha row e accs) s = .next t ∧ t.mem = s.mem ∧ t.dev.ctxs = s.dev.ctxs
      ∧ t.dev.linkOut = s.dev.linkOut ++ [{
          link := l, dest := (s.work.link link).peerId, jobTag := BitVec.ofNat 32 jobTag, msg := .denied row }])
  ∧ (∀ (link jobTag table area alpha row l c : Nat) (e : Int) (accs : List Int) (s : State), (s.work.link link).state = .up →
      s.work.tagged jobTag = some c → s.work.accessFault c table 64 false = none → s.work.accessFault c area 64 true = none →
      (s.work.table table).ok = true → s.work.areaOk area (s.work.table table) = true → (s.work.table table).elems = accs.length →
      (s.work.table table).kind ≠ 3 → (s.work.table table).rows ≤ row → s.work.routeLink 2 (s.work.link link).peerId = some l →
    ∃ t, exec (.servedContribution link jobTag table area alpha row e accs) s = .next t ∧ t.mem = s.mem ∧ t.dev.ctxs = s.dev.ctxs
      ∧ t.dev.windows = s.dev.windows
      ∧ t.dev.linkOut = s.dev.linkOut ++ [{
          link := l, dest := (s.work.link link).peerId, jobTag := BitVec.ofNat 32 jobTag, msg := .ack row }])

/-! ### Row moves and the hot set -/

/-- ROW_MOVE of an active context (R175): a list that fails its checks halts the context with their reason and detail; an accepted
list of one entry whose result is 0 adds that move, pending until its start tick, and no other.
ROW_MOVE_COPY_DONE of a MOVE that has begun (R176): a row that keeps its class is stored at its new home as its home holds it, and
no other byte changes. HOTSET_REFRESH at a tick of its interval (R184): a log that holds more uses than its ring leaves counts and
moves as they are; otherwise the counts are halved and take the uses since the last refresh. -/
def Obligations.RowCommandsComplete : Prop :=
  (∀ (r : StreamRef) (list reason d : Nat) (s : State), (s.work.ctx r.ctx).active = true → s.work.rowMoveFault r.ctx list = some (reason, d) →
    ∃ t, exec (.rowMove r list) s = .next t ∧ (t.work.ctx r.ctx).halt.valid = true ∧ (t.work.ctx r.ctx).halt.reason = reason
      ∧ (t.work.ctx r.ctx).halt.detail = d)
  ∧ (∀ (r : StreamRef) (list : Nat) (s : State), (s.work.ctx r.ctx).active = true → s.work.rowMoveFault r.ctx list = none →
      s.work.le (list + 8) 4 = 1 →
      s.work.moveResult r.ctx (s.work.le (list + 16) 8) (s.work.le (list + 24) 8) (s.work.moveAsk list 0) = 0 →
    ∃ t k, exec (.rowMove r list) s = .next t ∧ t.dev.rowMoves = s.dev.rowMoves ++ [k] ∧ k.ctx = r.ctx
      ∧ k.index = (s.work.moveAsk list 0).index ∧ k.action = (s.work.moveAsk list 0).action ∧ k.start = s.work.le (list + 16) 8
      ∧ k.commit = s.work.le (list + 24) 8 ∧ k.began = false ∧ t.dev.tiles = s.dev.tiles ∧ t.dev.active = s.dev.active)
  ∧ (∀ (m : RowMove) (s : State), Memory.wf s.mem = true →
      (s.dev.rowMoves.find? fun k => k.index == m.index && k.action == 0 && k.began && !k.copied) = some m →
      s.work.poisonIn (s.work.rowEntry m.index).home (storedLen (s.work.rowEntry m.index).cls (s.work.rowEntry m.index).elems) = none →
      (s.work.rowEntry m.index).cls = m.newClass →
    ∃ t, exec (.rowMoveCopyDone m.index) s = .next t
      ∧ s.stores t m.newHome
          (s.work.rdN (s.work.rowEntry m.index).home (storedLen (s.work.rowEntry m.index).cls (s.work.rowEntry m.index).elems))
      ∧ t.dev.rowMoves = (s.dev.rowMoves.map fun k => if k.index = m.index then { k with copied := true } else k)
      ∧ t.dev.ctxs = s.dev.ctxs ∧ t.dev.tiles = s.dev.tiles)
  ∧ (∀ s : State, s.work.mapBase ≠ 0 → s.work.mapHeaderOk = true → bitOf (s.work.le (s.work.mapBase + 45) 1) 0 = true →
      s.work.le (s.work.mapBase + 46) 2 ≠ 0 → s.work.tick % s.work.le (s.work.mapBase + 46) 2 = 0 → s.work.popLog.1 ≠ 0 →
    ∃ t, exec .hotsetRefresh s = .next t ∧ t.dev.tiles = s.dev.tiles ∧ t.dev.fw.logReadTo = s.dev.logRead
      ∧ (s.work.popLog.2.1 < s.dev.logCount - s.dev.fw.logReadTo → t.dev.fw.counts = s.dev.fw.counts ∧ t.dev.rowMoves = s.dev.rowMoves)
      ∧ (s.dev.logCount - s.dev.fw.logReadTo ≤ s.work.popLog.2.1 →
          t.dev.fw.counts = decayCounts s.dev.fw.counts (s.work.logged s.dev.fw.logReadTo s.dev.logRead)))

/-! ### Merge -/

/-- MERGE of an active context. A failing start check (R187, R194, R371) halts it with its reason and detail. While four merges are
in flight it waits, and one stalled cycle is counted (R193). Otherwise it halts with MERGE_STRUCTURE (0x3A) or MERGE_CAPACITY
(0x3B), or the merge is in flight under a fresh number and nothing else of the contexts, tiles and memory changes; where no offset
falls, the boundary keys rise and the output has room (R198, R201), it is in flight with the items of its pre-pass, dealt (R203). -/
def Obligations.MergeStarts : Prop :=
  (∀ (r : StreamRef) (p : MergeParams) (reason d : Nat) (s : State), (s.work.ctx r.ctx).active = true →
      s.work.mergeFault r.ctx p = some (reason, d) →
    ∃ t, exec (.merge r p) s = .next t ∧ (t.work.ctx r.ctx).halt.valid = true ∧ (t.work.ctx r.ctx).halt.reason = reason
      ∧ (t.work.ctx r.ctx).halt.detail = d)
  ∧ (∀ (r : StreamRef) (p : MergeParams) (s : State), (s.work.ctx r.ctx).active = true → s.work.mergeFault r.ctx p = none →
      4 ≤ s.dev.merges.length →
    exec (.merge r p) s = .next { s with dev := { s.dev with
      counters := ctrAdd s.dev.counters (ctrKey Ctr.stallQueueFull r.ctx 8) 1 } })
  ∧ (∀ (r : StreamRef) (p : MergeParams) (s : State), (s.work.ctx r.ctx).active = true → s.work.mergeFault r.ctx p = none →
      s.dev.merges.length < 4 →
    ∃ t, exec (.merge r p) s = .next t
      ∧ (((t.work.ctx r.ctx).halt.valid = true ∧ ((t.work.ctx r.ctx).halt.reason = 0x3A ∨ (t.work.ctx r.ctx).halt.reason = 0x3B))
        ∨ (t.mem = s.mem ∧ t.dev.ctxs = s.dev.ctxs ∧ t.dev.tiles = s.dev.tiles
          ∧ ∃ o, t.dev.merges = s.dev.merges ++ [o] ∧ o.id = s.dev.nextId ∧ o.ref = r ∧ o.params = p)))
  ∧ (∀ (r : StreamRef) (p : MergeParams) (s : State), (s.work.ctx r.ctx).active = true → s.work.mergeFault r.ctx p = none →
      s.dev.merges.length < 4 → s.work.mergeFalls p = false → keysBroken (s.work.mergeItems p) = false →
      entryOffset (s.work.mergeItems p).length + 16 * ((s.work.mergeItems p).map fun i => i.bound).sum ≤ p.capacity →
    ∃ t, exec (.merge r p) s = .next t ∧ t.mem = s.mem ∧ t.dev.ctxs = s.dev.ctxs ∧ t.dev.tiles = s.dev.tiles
      ∧ t.dev.nextId = s.dev.nextId + 1
      ∧ t.dev.merges = s.dev.merges ++ [{ id := s.dev.nextId, ref := r, params := p, items := deal s.work.mergeLoad (s.work.mergeItems p) }])

/-- MERGE_COMPLETE of a merge in flight (R187, R191, R194). A run whose structure proves broken halts its context with
MERGE_STRUCTURE (0x3A). Otherwise the operation is gone and contexts and tiles stay; one item without entries stores exactly the
header and its run record (R196); one item's entries stand, each in its 16 bytes, from the item's place in the entry array on. -/
def Obligations.MergeCompletes : Prop :=
  (∀ (op : Nat) (o : MergeOp) (s : State), (s.dev.merges.find? fun o => o.id == op) = some o →
      (o.items.any fun i => (s.work.mergeItem o.params (s.work.sparse o.params.x) (s.work.sparse o.params.y) i).broken) = true →
      (s.work.ctx o.ref.ctx).enable = true → (s.work.ctx o.ref.ctx).halt.valid = false →
    ∃ t, exec (.mergeComplete op) s = .next t ∧ (t.work.ctx o.ref.ctx).halt.valid = true ∧ (t.work.ctx o.ref.ctx).halt.reason = 0x3A)
  ∧ (∀ (op : Nat) (o : MergeOp) (s : State), (s.dev.merges.find? fun o => o.id == op) = some o →
      (o.items.any fun i => (s.work.mergeItem o.params (s.work.sparse o.params.x) (s.work.sparse o.params.y) i).broken) = false →
    ∃ t, exec (.mergeComplete op) s = .next t ∧ t.dev.merges = (s.dev.merges.filter fun k => k.id != op)
      ∧ t.dev.ctxs = s.dev.ctxs ∧ t.dev.tiles = s.dev.tiles ∧ t.dev.residency = s.dev.residency)
  ∧ (∀ (op : Nat) (o : MergeOp) (i : MergeItem) (m : Merged) (s : State), Memory.wf s.mem = true →
      (s.dev.merges.find? fun o => o.id == op) = some o → o.items = [i] →
      s.work.mergeItem o.params (s.work.sparse o.params.x) (s.work.sparse o.params.y) i = m → m.broken = false → m.entries = [] →
    ∃ t, exec (.mergeComplete op) s = .next t
      ∧ s.stores t o.params.output
          (mergeHeader o.params (m.range + m.group != 0) (match o.params.pairs with | none => (s.work.sparse o.params.x).rows | some (_, k) => k)
              1 0 i.bound ++ (leBytes 8 i.first ++ leBytes 4 0 ++ leBytes 4 i.pair)))
  ∧ (∀ (op : Nat) (o : MergeOp) (i : MergeItem) (m : Merged) (s : State), Memory.wf s.mem = true →
      (s.dev.merges.find? fun o => o.id == op) = some o → o.items = [i] →
      s.work.mergeItem o.params (s.work.sparse o.params.x) (s.work.sparse o.params.y) i = m → m.broken = false →
    ∃ t, exec (.mergeComplete op) s = .next t
      ∧ ∀ j, j < ((m.entries.map (entryBytes i.pair)).flatten).length →
          Memory.read t.mem (o.params.output + entryOffset 1 + 16 * i.first + j)
            = (((m.entries.map (entryBytes i.pair)).flatten)[j]?).getD 0)

/-! ### The matrix array -/

/-- LOAD at the address of a running tile core. Invalid operands halt its context (R214, R227). While four array instructions wait
it waits, and one stalled cycle is counted (R207). Into an empty queue it fills a slot with the stationary operand that it names
(R210, R213), goes into the queue and leaves memory, the context and every other tile as they are; which of the two free slots is
the model's free value (log 33). LOAD_COMPLETE takes a LOAD that has filled its slot out of the queue. -/
def Obligations.LoadsComplete : Prop :=
  (∀ (t : TileRef) (p : LoadParams) (c r : Nat) (s : State), s.work.executing t = some c → t.pc < (s.work.tile t.tile).imageLen →
      loadBad p = some r →
    ∃ u, exec (.load t p) s = .next u ∧ (u.work.ctx c).halt.valid = true ∧ (u.work.ctx c).halt.reason = 0x18
      ∧ (u.work.ctx c).halt.detail = r)
  ∧ (∀ (t : TileRef) (p : LoadParams) (c : Nat) (s : State), s.work.executing t = some c → t.pc < (s.work.tile t.tile).imageLen →
      loadBad p = none → loadStoreFault p = none → 4 ≤ (s.work.tile t.tile).mat.length →
    exec (.load t p) s = .next { s with dev := { s.dev with counters := ctrAdd s.dev.counters (ctrKey Ctr.stallQueueFull c 0) 1 } })
  ∧ (∀ (t : TileRef) (p : LoadParams) (c : Nat) (s : State), s.work.executing t = some c → t.pc < (s.work.tile t.tile).imageLen →
      t.tile < s.dev.tiles.length → loadBad p = none → loadStoreFault p = none → (s.work.tile t.tile).mat = [] →
    ∃ u slot, exec (.load t p) s = .next u ∧ slot < 2 ∧ u.mem = s.mem ∧ u.dev.ctxs = s.dev.ctxs
      ∧ u.work.tile t.tile = ({ s.work.tile t.tile with
          mat := [.load { ref := t, params := p, slot := some slot }]
          slots := updAt (s.work.tile t.tile).slots slot fun _ => some (s.work.stationary t.tile p) }).advance t.pc t.next
      ∧ ∀ k, k ≠ t.tile → u.work.tile k = s.work.tile k)
  ∧ (∀ (n slot : Nat) (l : MatLoad) (s : State), n < s.dev.tiles.length → (s.work.tile n).mat = [.load l] → l.slot = some slot →
    ∃ u, exec (.loadComplete n) s = .next u ∧ u.mem = s.mem ∧ u.dev.ctxs = s.dev.ctxs
      ∧ u.work.tile n = { s.work.tile n with mat := [] } ∧ ∀ k, k ≠ n → u.work.tile k = s.work.tile k)

/-- STREAM at the address of a running tile core. Invalid parameters halt its context (R214, R227). While four array instructions
wait it waits (R207). Into an empty queue, one row against a stationary operand of one column stores exactly one element: the sum
over the column by its mode (R217 to R221), rounded into the result's format (R286), at the target in the tile store (R215).
STREAM_COMPLETE takes a STREAM whose rows have all entered out of the queue, an integer result without a census (R290). -/
def Obligations.StreamsComplete : Prop :=
  (∀ (t : TileRef) (p : StreamParams) (form : OutForm) (c : Nat) (s : State), s.work.executing t = some c →
      t.pc < (s.work.tile t.tile).imageLen → s.work.outForm c p.result p.tag = some form → streamBad p form.fmt = true →
    ∃ u, exec (.stream t p) s = .next u ∧ (u.work.ctx c).halt.valid = true ∧ (u.work.ctx c).halt.reason = 0x18)
  ∧ (∀ (t : TileRef) (p : StreamParams) (form : OutForm) (c : Nat) (s : State), s.work.executing t = some c →
      t.pc < (s.work.tile t.tile).imageLen → s.work.outForm c p.result p.tag = some form → streamBad p form.fmt = false →
      4 ≤ (s.work.tile t.tile).mat.length →
    exec (.stream t p) s = .next { s with dev := { s.dev with counters := ctrAdd s.dev.counters (ctrKey Ctr.stallQueueFull c 0) 1 } })
  ∧ (∀ (t : TileRef) (p : StreamParams) (form : OutForm) (x : Stationary) (b st b' st' c : Nat) (g : Int) (s : State), Memory.wf s.mem = true →
      s.work.executing t = some c → t.pc < (s.work.tile t.tile).imageLen → t.tile < s.dev.tiles.length →
      s.work.outForm c p.result p.tag = some form → streamBad p form.fmt = false → (s.work.tile t.tile).mat = [] →
      (s.work.tile t.tile).slots[p.slot]? = some (some x) → x.n = 1 → p.rows = 1 → p.source = .store b st → p.target = .store b' st' →
      p.accumulate = false → p.bits = .none →
      s.work.streamStart t.tile { ref := t, params := p, entered := 0, form := form, tally := Tally.empty } x = none →
      s.work.poisonIn (tileStoreAddr t.tile b) (streamRowLen p.fmt) = none → s.work.readScale c p.srcLayer = some g →
    ∃ u, exec (.stream t p) s = .next u
      ∧ s.stores u (tileStoreAddr t.tile b') (leBytes (fmtBits form.fmt / 8)
          (Tally.empty.store form (roundOf p.rnd (if p.rnd = .sr then s.work.rho c p.tag 0 else 0))
            (arrayResult p.mode p.fmt p.theta (s.work.streamRow t.tile p x.k 0 g) (x.column 0))).1.code)
      ∧ u.dev.ctxs = s.dev.ctxs ∧ ∀ k, k ≠ t.tile → u.work.tile k = s.work.tile k)
  ∧ (∀ (n c : Nat) (k : MatStream) (s : State), n < s.dev.tiles.length → (s.work.tile n).mat = [.stream k] → k.entered = k.params.rows →
      s.work.owner n = some c → fmtInt k.form.fmt = true →
    ∃ u, exec (.streamComplete n) s = .next u ∧ u.mem = s.mem ∧ u.dev.ctxs = s.dev.ctxs
      ∧ u.work.tile n = { s.work.tile n with mat := [] } ∧ ∀ k, k ≠ n → u.work.tile k = s.work.tile k)

/-! ### The vector engine -/

/-- The element-wise classes, taken up by a running tile core with room in the queue of the vector engine (R233), with their operands
in range (R258) and nothing held by the array (R225): each selected element is the operation on its operands as they stood, and
every unselected one is 0 or as it was (R245). VECTOR_ARITHMETIC and VECTOR_TRANSCENDENTAL round into the output's format
(R236, R237, R286); VECTOR_INTEGER wraps (R238), a shift by the width or more writes the model's free value; VECTOR_SELECT takes
the first source where the mask's bit is 1, else the second (R235). The instruction takes its place in the queue, and no other tile
changes; the integer class writes nothing below the keys of the tiles' registers. -/
def Obligations.VectorElementsComplete : Prop :=
  (∀ (t : TileRef) (op : FOp) (f : Fmt) (rnd : Rnd) (span dst c : Nat) (x y z : VSrc) (m : Masking) (tag : TensorTag) (form : OutForm) (s : State),
      Memory.wf s.mem = true → s.work.takes t c → (s.work.tile t.tile).vecQueue < 8 → arithFmt f = true → rnd ≠ .rtz →
      s.work.outForm c f tag = some form → fmtInt form.fmt = false → fmtBits form.fmt % 8 = 0 → s.work.censusBelow c tag →
      spanBad span (([x, y, z].take (fpArity op)).flatMap srcReg) m = none →
      pastRegs dst (outSpan (fmtBits f) (fmtBits form.fmt) span) = false →
      s.work.vecHeld t.tile ((dst, outSpan (fmtBits f) (fmtBits form.fmt) span)
        :: (([x, y, z].take (fpArity op)).flatMap srcReg).map fun r => (r, span)) (maskOf m) = false →
    ∃ u, exec (.vectorArithmetic t op f rnd span dst x y z m tag) s = .next u ∧ s.tookUp u t Tile.queued
      ∧ s.elements u t.tile dst (fmtBits f) (fmtBits form.fmt) span m (fun p i =>
          (fmtEncode form.fmt (roundOf rnd (if rnd = .sr then s.work.rho c tag (p * regElems (fmtBits f) + i) else 0))
            ((fpOp op (fmtDecode f (s.work.operand t.tile (fmtBits f) x p i)) (fmtDecode f (s.work.operand t.tile (fmtBits f) y p i))
              (fmtDecode f (s.work.operand t.tile (fmtBits f) z p i))).scale (-form.scale))).code))
  ∧ (∀ (t : TileRef) (op : TOp) (f : Fmt) (span dst c : Nat) (x : VSrc) (m : Masking) (tag : TensorTag) (form : OutForm) (s : State),
      Memory.wf s.mem = true → s.work.takes t c → (s.work.tile t.tile).vecQueue < 8 → arithFmt f = true →
      s.work.outForm c f tag = some form → fmtInt form.fmt = false → fmtBits form.fmt % 8 = 0 → s.work.censusBelow c tag →
      spanBad span (srcReg x) m = none → pastRegs dst (outSpan (fmtBits f) (fmtBits form.fmt) span) = false →
      s.work.vecHeld t.tile ((dst, outSpan (fmtBits f) (fmtBits form.fmt) span) :: (srcReg x).map fun r => (r, span)) (maskOf m) = false →
    ∃ u, exec (.vectorTranscendental t op f span dst x m tag) s = .next u ∧ s.tookUp u t Tile.queued
      ∧ s.elements u t.tile dst (fmtBits f) (fmtBits form.fmt) span m (fun p i =>
          (fmtEncode form.fmt .rne ((transOp op (fmtDecode f (s.work.operand t.tile (fmtBits f) x p i))).scale (-form.scale))).code))
  ∧ (∀ (t : TileRef) (op : IOp) (f : Fmt) (span dst c : Nat) (x y : VSrc) (m : Masking) (s : State),
      Memory.wf s.mem = true → s.work.takes t c → (s.work.tile t.tile).vecQueue < 8 → f = .int8 ∨ f = .int16 ∨ f = .int32 →
      spanBad span (dst :: srcReg x ++ srcReg y) m = none →
      s.work.vecHeld t.tile ((dst :: srcReg x ++ srcReg y).map fun r => (r, span)) (maskOf m) = false →
    ∃ u, exec (.vectorInteger t op f span dst x y m) s = .next u ∧ s.tookUp u t Tile.queued ∧ u.dev.ctxs = s.dev.ctxs
      ∧ (∀ k, k < 2 ^ 56 → Memory.read u.mem k = Memory.read s.mem k)
      ∧ s.elements u t.tile dst (fmtBits f) (fmtBits f) span m (fun p i =>
          intOpFree op (fmtBits f) (s.work.operand t.tile (fmtBits f) x p i) (s.work.operand t.tile (fmtBits f) y p i) s.dev.freeCtr
            (p * regElems (fmtBits f) + i)))
  ∧ (∀ (t : TileRef) (f : Fmt) (span dst c k : Nat) (x y : VSrc) (g : Granule) (s : State),
      Memory.wf s.mem = true → s.work.takes t c → (s.work.tile t.tile).vecQueue < 8 → fmtMx f = false → f ≠ .int64 →
      spanBad span (dst :: srcReg x ++ srcReg y) { mask := some k, granule := g, zero := false } = none →
      s.work.vecHeld t.tile ((dst :: srcReg x ++ srcReg y).map fun r => (r, span)) [k] = false →
    ∃ u, exec (.vectorSelect t f span dst x y k g) s = .next u ∧ s.tookUp u t Tile.queued ∧ u.dev.ctxs = s.dev.ctxs
      ∧ ∀ p i, p < span → i < coverage (fmtBits f) { mask := some k, granule := g, zero := false } →
          u.work.elemAt (vregAt t.tile dst 0) (fmtBits f) (p * regElems (fmtBits f) + i) =
            s.work.operand t.tile (fmtBits f)
              (if (s.work.tile t.tile).selects (fmtBits f) { mask := some k, granule := g, zero := false } i then x else y) p i)

/-- The mask registers, taken up by a running tile core, with nothing that they name held by the array (R225). VECTOR_COMPARE sets
each bit of its mask by the comparison of its elements where selected, and where not clears it under ZERO and keeps it under MERGE
(R235, R245). MASK_LOGIC writes its mask by its operation, one 64-bit piece to or from a general register, or all 512 bytes to or
from the tile store (R246). MASK_QUERY answers in a general register (R246). -/
def Obligations.VectorMasksComplete : Prop :=
  (∀ (t : TileRef) (op : COp) (f : Fmt) (dst c : Nat) (x y : VSrc) (m : Masking) (s : State), s.work.takes t c →
      (s.work.tile t.tile).vecQueue < 8 → spanBad 1 (srcReg x ++ srcReg y) m = none → fmtMx f = false → f ≠ .int64 → dst < 8 →
      (fmtBits f < 32 → m.granule = .element) →
      s.work.vecHeld t.tile ((srcReg x ++ srcReg y).map fun r => (r, 1)) (dst :: maskOf m) = false →
    ∃ u v, exec (.vectorCompare t op f dst x y m) s = .next u ∧ u.mem = s.mem ∧ u.dev.ctxs = s.dev.ctxs
      ∧ s.tookUp u t (fun k => (k.setMask dst v).queued)
      ∧ ∀ i, i < 4096 → v.getLsbD i =
          if (s.work.tile t.tile).selects (fmtBits f) m i then
            compareVals op (fmtDecode f (s.work.operand t.tile (fmtBits f) x 0 i)) (fmtDecode f (s.work.operand t.tile (fmtBits f) y 0 i))
          else !m.zero && ((s.work.tile t.tile).mask dst).getLsbD i)
  ∧ (∀ (t : TileRef) (op : MaskOp) (dst c : Nat) (v : BitVec 4096) (s : State), s.work.takes t c →
      ((maskFoot op dst).any fun m => decide (8 ≤ m)) = false → s.work.vecHeld t.tile [] (maskFoot op dst) = false →
      s.work.maskGives t.tile op dst v →
    ∃ u, exec (.maskLogic t op dst) s = .next u ∧ u.mem = s.mem ∧ u.dev.ctxs = s.dev.ctxs ∧ s.tookUp u t fun k => k.setMask dst v)
  ∧ (∀ (t : TileRef) (piece g dst c : Nat) (s : State), s.work.takes t c → dst < 8 → piece < 64 → s.work.vecHeld t.tile [] [dst] = false →
    ∃ u, exec (.maskLogic t (.toG piece g) dst) s = .next u ∧ u.mem = s.mem ∧ u.dev.ctxs = s.dev.ctxs
      ∧ s.tookUp u t fun k => k.setG g (BitVec.ofNat 64 ((k.mask dst).toNat / 2 ^ (64 * piece))))
  ∧ (∀ (t : TileRef) (a dst c : Nat) (s : State), Memory.wf s.mem = true → s.work.takes t c → dst < 8 → storeFault a 512 = none →
      s.work.vecHeld t.tile [] [dst] = false →
    ∃ u, exec (.maskLogic t (.store a) dst) s = .next u ∧ u.dev.ctxs = s.dev.ctxs ∧ s.tookUp u t id
      ∧ s.stores u (tileStoreAddr t.tile a) (leBytes 512 ((s.work.tile t.tile).mask dst).toNat))
  ∧ (∀ (t : TileRef) (op : MaskQ) (m g c : Nat) (s : State), s.work.takes t c → m < 8 → s.work.vecHeld t.tile [] [m] = false →
    ∃ u, exec (.maskQuery t op m g) s = .next u ∧ u.mem = s.mem ∧ u.dev.ctxs = s.dev.ctxs
      ∧ s.tookUp u t fun k => k.setG g (BitVec.ofNat 64 (maskAnswer op (k.mask m))))

/-- VEXTRACT_VINSERT (R243): the element goes to a general register, zero-extended, or the register's low bits to the element, its
bytes and no others stored. VECTOR_INSTRUCTION_COMPLETE (R233, R251): one place of the queue is free again, and nothing else of
the tile, no other tile and no memory changes. -/
def Obligations.VectorPlacesComplete : Prop :=
  (∀ (t : TileRef) (width v e g c : Nat) (s : State), s.work.takes t c → v < 32 → width = 8 ∨ width = 16 ∨ width = 32 →
      e < regElems width → s.work.vecHeld t.tile [(v, 1)] [] = false →
    ∃ u, exec (.vextractVinsert t false width v e g) s = .next u ∧ u.mem = s.mem ∧ u.dev.ctxs = s.dev.ctxs
      ∧ s.tookUp u t fun k => k.setG g (BitVec.ofNat 64 (s.work.elemAt (vregAt t.tile v 0) width e)))
  ∧ (∀ (t : TileRef) (width v e g c : Nat) (s : State), Memory.wf s.mem = true → s.work.takes t c → v < 32 →
      width = 8 ∨ width = 16 ∨ width = 32 → e < regElems width → s.work.vecHeld t.tile [(v, 1)] [] = false →
    ∃ u, exec (.vextractVinsert t true width v e g) s = .next u ∧ u.dev.ctxs = s.dev.ctxs ∧ s.tookUp u t id
      ∧ s.stores u (vregAt t.tile v 0 + width / 8 * e) (leBytes (width / 8) (((s.work.tile t.tile).greg g).toNat % 2 ^ width)))
  ∧ (∀ (n : Nat) (s : State), n < s.dev.tiles.length →
    ∃ u, exec (.vectorInstructionComplete n) s = .next u ∧ u.mem = s.mem ∧ u.dev.ctxs = s.dev.ctxs
      ∧ u.work.tile n = { s.work.tile n with vecQueue := (s.work.tile n).vecQueue - 1 } ∧ ∀ k, k ≠ n → u.work.tile k = s.work.tile k)

/-- Moving data (R243), taken up with room in the queue (R233) and nothing held by the array (R225). VLOAD of one row stores exactly
that row of the tile store into the register, and VSTORE the register's bytes into the tile store. VGATHER and VSCATTER of one
element move it between the register and the offset that its index names. A shuffle, broadcast or transpose writes each selected
element from the element that it names, 0 where that lies beyond the span. -/
def Obligations.VectorMovesComplete : Prop :=
  (∀ (t : TileRef) (p : VLsParams) (base stride c : Nat) (s : State), Memory.wf s.mem = true → s.work.takes t c →
      (s.work.tile t.tile).vecQueue < 8 → p.place = .store base stride → p.rows = 1 → 0 < p.rowBytes → p.rowBytes ≤ vregSize →
      p.reg < 32 → stride % 16 = 0 → storeFault base p.rowBytes = none →
      (p.store = false → s.work.vecPoison t.tile base p.rowBytes = none) →
      s.work.heldByArray t.tile { Foot.none with regs := [(p.reg, 1)], store := [(base, p.rowBytes)] } = false →
    ∃ u, exec (.vloadVstore t p) s = .next u ∧ s.tookUp u t Tile.queued ∧ u.dev.ctxs = s.dev.ctxs
      ∧ (if p.store then s.stores u (tileStoreAddr t.tile base) (s.work.rdN (vregAt t.tile p.reg 0) p.rowBytes)
        else s.stores u (vregAt t.tile p.reg 0) (s.work.rdN (tileStoreAddr t.tile base) p.rowBytes)))
  ∧ (∀ (t : TileRef) (p : VGsParams) (off n c : Nat) (s : State), Memory.wf s.mem = true → s.work.takes t c →
      (s.work.tile t.tile).vecQueue < 8 → p.count = 1 → p.reg < 32 → p.indexReg < 32 → n = (if p.wide then 4 else 2) →
      off = p.base + s.work.elemAt (vregAt t.tile p.indexReg 0) 32 0 → storeFault off n = none →
      (p.scatter = false → s.work.vecPoison t.tile off n = none) →
      s.work.heldByArray t.tile { Foot.none with regs := [(p.reg, 1), (p.indexReg, 1)], store := [(off, n)] } = false →
    ∃ u, exec (.vgatherVscatter t p) s = .next u ∧ s.tookUp u t Tile.queued ∧ u.dev.ctxs = s.dev.ctxs
      ∧ (if p.scatter then s.stores u (tileStoreAddr t.tile off) (s.work.rdN (vregAt t.tile p.reg 0) n)
        else s.stores u (vregAt t.tile p.reg 0) (s.work.rdN (tileStoreAddr t.tile off) n)))
  ∧ (∀ (t : TileRef) (op : ShuffleOp) (f : Fmt) (span dst src c : Nat) (m : Masking) (index : List (Nat × Nat)) (s : State),
      Memory.wf s.mem = true → s.work.takes t c → (s.work.tile t.tile).vecQueue < 8 → fmtMx f = false → f ≠ .int64 →
      index = (match op with | .shuffle x => [(x, ceilDiv (span * regElems (fmtBits f)) 4096)] | _ => []) →
      spanBad span [dst, src] m = none → (∀ x, x ∈ index → pastRegs x.1 x.2 = false) →
      s.work.vecHeld t.tile ((dst, span) :: (src, span) :: index) (maskOf m) = false →
    ∃ u, exec (.shuffle t op f span dst src m) s = .next u ∧ s.tookUp u t Tile.queued ∧ u.dev.ctxs = s.dev.ctxs
      ∧ s.elements u t.tile dst (fmtBits f) (fmtBits f) span m (fun p i =>
          if span * regElems (fmtBits f) ≤ s.work.shuffleFrom t.tile (fmtBits f) op p i then 0
          else s.work.elemAt (vregAt t.tile src 0) (fmtBits f) (s.work.shuffleFrom t.tile (fmtBits f) op p i)))

/-- VECTOR_CONVERSION, VECTOR_REDUCTION and SUMX, taken up with room in the queue (R233), operands in range and nothing held by the
array. A conversion to an integer rounds each selected element into the destination (R235, R286). A reduction of the whole span
writes one result, in FP32, BF16, FP16 or as a count, to a general register (R239, R240); SUMX writes the exact sum of the elements
clamped at the scale, times the scale, and makes SAT sticky where any was clamped (R241). -/
def Obligations.VectorSumsComplete : Prop :=
  (∀ (t : TileRef) (p : ConvParams) (m : Masking) (tag : TensorTag) (form : OutForm) (g : Int) (c : Nat) (s : State), Memory.wf s.mem = true →
      s.work.takes t c → (s.work.tile t.tile).vecQueue < 8 → s.work.outForm c p.dst tag = some form → s.work.readScale c p.srcLayer = some g →
      form.fmt = .int8 ∨ form.fmt = .int32 → fmtBits p.src % 8 = 0 → convBad p form.fmt m = none →
      s.work.vecHeld t.tile ((p.dstReg, outSpan (fmtBits p.src) (fmtBits form.fmt) p.span) :: (p.srcReg, p.span)
        :: (if fmtMx p.src then [(p.scaleReg, 1)] else [])) (maskOf m) = false →
    ∃ u, exec (.vectorConversion t p m tag) s = .next u ∧ s.tookUp u t Tile.queued ∧ u.dev.ctxs = s.dev.ctxs
      ∧ s.elements u t.tile p.dstReg (fmtBits p.src) (fmtBits form.fmt) p.span m (fun q i =>
          (fmtEncode form.fmt (roundOf p.rnd (if p.rnd = .sr then s.work.rho c tag (q * regElems (fmtBits p.src) + i) else 0))
            ((s.work.convRead t p g q i).scale (-form.scale))).code))
  ∧ (∀ (t : TileRef) (op : ROp) (f : Fmt) (r src span c : Nat) (m : Masking) (tag : TensorTag) (form : OutForm) (s : State),
      s.work.takes t c → (s.work.tile t.tile).vecQueue < 8 → op = .sum ∨ op = .max ∨ op = .min → arithFmt f = true →
      s.work.outForm c (if op = .sum then .fp32 else f) tag = some form → tag.tensor < (s.work.ctx c).censusTable.2 ∨ fmtInt form.fmt = true →
      spanBad span [src] m = none → r < 32 → s.work.vecHeld t.tile [(src, span)] (maskOf m) = false →
    ∃ u, exec (.vectorReduction t op f .whole (.g r) src span m tag) s = .next u
      ∧ s.tookUp u t fun k => (k.setG r (BitVec.ofNat 64
          ((Tally.storeAll form .rne (fun _ => 0) (s.work.reduce t.tile op f .whole src span m)).1.headD 0))).queued)
  ∧ (∀ (t : TileRef) (f : Fmt) (r src span c k : Nat) (m : Masking) (tag : TensorTag) (form : OutForm) (s : State), s.work.takes t c →
      (s.work.tile t.tile).vecQueue < 8 → s.work.outForm c .int32 tag = some form → tag.tensor < (s.work.ctx c).censusTable.2 ∨ fmtInt form.fmt = true →
      m.mask = some k → spanBad span [] m = none → r < 32 → s.work.vecHeld t.tile [] [k] = false →
    ∃ u, exec (.vectorReduction t .count f .whole (.g r) src span m tag) s = .next u
      ∧ s.tookUp u t fun x => (x.setG r (BitVec.ofNat 64 ((Tally.storeAll form .rne (fun _ => 0)
          ((maskCounts .whole ((s.work.tile t.tile).mask k)).map fun (n : Nat) => Val.ofInt (n : Int) 0)).1.headD 0))).queued)
  ∧ (∀ (t : TileRef) (f : Fmt) (e : Int) (r src span c : Nat) (m : Masking) (tag : TensorTag) (form : OutForm) (s : State),
      s.work.takes t c → (s.work.tile t.tile).vecQueue < 8 → arithFmt f = true → -128 ≤ e → e ≤ 127 →
      s.work.outForm c .fp32 tag = some form → tag.tensor < (s.work.ctx c).censusTable.2 ∨ fmtInt form.fmt = true →
      spanBad span [src] m = none → r < 32 → s.work.vecHeld t.tile [(src, span)] (maskOf m) = false →
    ∃ u, exec (.sumx t f e .whole (.g r) src span m tag) s = .next u
      ∧ s.tookUp u t fun k => (({ k with satFlag := k.satFlag || decide (0 < (s.work.sumExact t.tile f e .whole src span m).2) } : Tile).setG r
          (BitVec.ofNat 64 ((Tally.storeAll form .rne (fun _ => 0)
            ((s.work.sumExact t.tile f e .whole src span m).1.map fun x => Val.ofInt x e)).1.headD 0))).queued)

/-- UPDATE_REM on a half, with its weight and remainder in different registers (R242, R308, R309): each selected weight and remainder
is replaced by what UPDATE_REM makes of them and the update; every other element of the half keeps both. -/
def Obligations.UpdateRemCompletes : Prop :=
  ∀ (t : TileRef) (h wr rr ur c : Nat) (m : Masking) (tag : TensorTag) (form : OutForm) (s : State), Memory.wf s.mem = true →
      s.work.takes t c → (s.work.tile t.tile).vecQueue < 8 → s.work.outForm c .bf16 tag = some form → s.work.censusBelow c tag →
      spanBad 1 [wr, rr, ur] m = none → h < 2 → (m.mask.isSome = true → m.granule = .element) → wr ≠ rr →
      s.work.vecHeld t.tile [(wr, 1), (rr, 1), (ur, 1)] (maskOf m) = false →
    ∃ u, exec (.updateRem t h wr rr ur m tag) s = .next u ∧ s.tookUp u t Tile.queued
      ∧ ∀ j, j < 4096 →
          let a := s.work.elemAt (vregAt t.tile wr 0) 16 (4096 * h + j)
          let b := s.work.elemAt (vregAt t.tile rr 0) 16 (4096 * h + j)
          let x := Sys2Proof.Machine.updateRem a b (BitVec.ofNat 32 (s.work.elemAt (vregAt t.tile ur 0) 32 j))
          let on := (s.work.tile t.tile).selects 32 { m with granule := .element } j
          u.work.elemAt (vregAt t.tile wr 0) 16 (4096 * h + j) = (if on then x.1 % 2 ^ 16 else a)
            ∧ u.work.elemAt (vregAt t.tile rr 0) 16 (4096 * h + j) = (if on then x.2.1 % 2 ^ 16 else b)

/-! ### The tile core -/

/-- Arithmetic of a scalar instruction at the address of a running tile core (R247). The destination holds the immediate, the integer
result (which wraps: sums, differences and products are those of 64-bit words; a shift count of 64 or more leaves a result that the
model keeps free), the quotient or remainder of signed division (log 34: signed is the model's choice; by zero, all ones and the
dividend), or the FP32 result in bits [31:0] with bits [63:32] zero. A general register is written through `Tile.setG`, which leaves
g0 alone. Nothing but the tile, the instruction counter and, for integer operations, the free-value counter changes. -/
def Obligations.ScalarArithmeticCompletes : Prop :=
  (∀ (t : TileRef) (rd c : Nat) (v : W64) (s : State), s.work.takes t c →
    exec (.scalarInstruction t (.imm rd v)) s = .next (s.ran t.tile fun k => (k.setG rd v).advance t.pc t.next))
  ∧ (∀ (t : TileRef) (op : IOp) (rd ra rb c : Nat) (s : State), s.work.takes t c →
    ∃ v, exec (.scalarInstruction t (.int op rd ra rb)) s
        = .next { s.ran t.tile (fun k => (k.setG rd v).advance t.pc t.next) with
            dev := { (s.ran t.tile fun k => (k.setG rd v).advance t.pc t.next).dev with freeCtr := s.dev.freeCtr + 1 } }
      ∧ (shiftOp op = false ∨ ((s.work.tile t.tile).greg rb).toNat < 64 →
          v = BitVec.ofNat 64 (intOp op 64 ((s.work.tile t.tile).greg ra).toNat ((s.work.tile t.tile).greg rb).toNat)))
  ∧ (∀ a b : W64, BitVec.ofNat 64 (intOp .add 64 a.toNat b.toNat) = a + b ∧ BitVec.ofNat 64 (intOp .sub 64 a.toNat b.toNat) = a - b
      ∧ BitVec.ofNat 64 (intOp .mul 64 a.toNat b.toNat) = a * b)
  ∧ (∀ (t : TileRef) (rd ra rb c : Nat) (s : State), s.work.takes t c → (s.work.tile t.tile).greg rb = 0 →
    exec (.scalarInstruction t (.div rd ra rb)) s
        = .next (s.ran t.tile fun k => (k.setG rd (BitVec.allOnes 64)).advance t.pc t.next)
      ∧ exec (.scalarInstruction t (.rem rd ra rb)) s
        = .next (s.ran t.tile fun k => (k.setG rd ((s.work.tile t.tile).greg ra)).advance t.pc t.next))
  ∧ (∀ (t : TileRef) (rd ra rb c : Nat) (a b : W64) (s : State), s.work.takes t c → (s.work.tile t.tile).greg ra = a →
      (s.work.tile t.tile).greg rb = b → b ≠ 0 →
    exec (.scalarInstruction t (.div rd ra rb)) s = .next (s.ran t.tile fun k => (k.setG rd (a.sdiv b)).advance t.pc t.next)
      ∧ exec (.scalarInstruction t (.rem rd ra rb)) s = .next (s.ran t.tile fun k => (k.setG rd (a.srem b)).advance t.pc t.next))
  ∧ (∀ (t : TileRef) (op : FOp) (rd ra rb rc c : Nat) (s : State), s.work.takes t c →
    let k := s.work.tile t.tile
    exec (.scalarInstruction t (.fp op rd ra rb rc)) s = .next (s.ran t.tile fun x =>
      (x.setG rd ((toF32 (fpOp op (k.fpReg ra) (k.fpReg rb) (k.fpReg rc))).zeroExtend 64)).advance t.pc t.next))
  ∧ (∀ (t : TileRef) (op : TOp) (rd ra c : Nat) (s : State), s.work.takes t c →
    exec (.scalarInstruction t (.trans op rd ra)) s = .next (s.ran t.tile fun k =>
      (k.setG rd ((toF32 (transOp op ((s.work.tile t.tile).fpReg ra))).zeroExtend 64)).advance t.pc t.next))

/-- The other scalar instructions at the address of a running tile core (R41, R216, R241, R247, R254). A branch taken goes to its
target and leaves the loop bodies that do not hold it; one not taken, as every other instruction, goes on, an end address counting
its loop down. CALL writes the return address; CALL and RET pop no level. The tick count, the intra-pitch cycle count and the
saturation flag, which the read clears, go into a register. A ring is set with its counts at 0. An undecodable word halts the context
with ILLEGAL_INSTRUCTION (0x01), and so does execution at or beyond the loaded image (R250). -/
def Obligations.ScalarControlCompletes : Prop :=
  (∀ (t : TileRef) (op : BrOp) (ra rb target c : Nat) (s : State), s.work.takes t c →
    let k := s.work.tile t.tile
    exec (.scalarInstruction t (.branch op ra rb target)) s = .next (s.ran t.tile fun x =>
      if branchTaken op (k.greg ra) (k.greg rb) then { x with pc := target, loops := branchLoops target x.loops }
      else x.advance t.pc t.next))
  ∧ (∀ (t : TileRef) (rd target c : Nat) (s : State), s.work.takes t c →
    exec (.scalarInstruction t (.call rd target)) s
      = .next (s.ran t.tile fun k => { k.setG rd (BitVec.ofNat 64 t.next) with pc := target }))
  ∧ (∀ (t : TileRef) (ra c : Nat) (s : State), s.work.takes t c →
    exec (.scalarInstruction t (.ret ra)) s
      = .next (s.ran t.tile fun k => { k with pc := ((s.work.tile t.tile).greg ra).toNat }))
  ∧ (∀ (t : TileRef) (rd c : Nat) (s : State), s.work.takes t c →
    exec (.scalarInstruction t (.readTick rd)) s
        = .next (s.ran t.tile fun k => (k.setG rd s.dev.pitch.tickCount).advance t.pc t.next)
      ∧ exec (.scalarInstruction t (.readCycle rd)) s
        = .next (s.ran t.tile fun k => (k.setG rd (s.dev.pitch.cycle.zeroExtend 64)).advance t.pc t.next)
      ∧ exec (.scalarInstruction t (.readSat rd)) s = .next (s.ran t.tile fun k =>
          { k.setG rd (if k.satFlag then 1 else 0) with satFlag := false }.advance t.pc t.next))
  ∧ (∀ (t : TileRef) (n base slot slots b z m c : Nat) (s : State), s.work.takes t c → n < 4 →
      ((s.work.tile t.tile).greg base).toNat = b → ((s.work.tile t.tile).greg slot).toNat = z →
      ((s.work.tile t.tile).greg slots).toNat = m → b % 64 = 0 → z % 64 = 0 → 64 ≤ z → z ≤ 4096 → 1 ≤ m → m ≤ 65536 →
      b + z * m ≤ tileStoreSize →
    exec (.scalarInstruction t (.ring n base slot slots)) s = .next (s.ran t.tile fun k =>
      (k.updRing n fun _ => { base := b, slotSize := z, slots := m, produced := 0, consumed := 0 }).advance t.pc t.next))
  ∧ (∀ (t : TileRef) (c : Nat) (s : State), s.work.takes t c →
    ∃ u, exec (.scalarInstruction t .illegal) s = .next u ∧ (u.work.ctx c).halt.valid = true ∧ (u.work.ctx c).halt.reason = 0x01)
  ∧ (∀ (t : TileRef) (op : ScalarOp) (c : Nat) (s : State), s.work.executing t = some c → (s.work.tile t.tile).imageLen ≤ t.pc →
    ∃ u, exec (.scalarInstruction t op) s = .next u ∧ (u.work.ctx c).halt.valid = true ∧ (u.work.ctx c).halt.reason = 0x01)

/-- LOOP and LOOP_INDEX at the address of a running tile core (R253, R254, R255). An end address not after the LOOP or not within the
image halts with LOOP_END_INVALID (0x07). A count of 0 pushes nothing and goes on behind the end address, where each enclosing level
ending there counts down. A count of 1 or more pushes a level, but a fifth halts with LOOP_DEPTH_EXCEEDED (0x04) and
the LOOP's address. LOOP_INDEX writes
the iteration of a level, 0 for one that is not active. -/
def Obligations.LoopsComplete : Prop :=
  (∀ (t : TileRef) (n : LoopCount) (v last after c : Nat) (s : State), s.work.takes t c → (s.work.tile t.tile).loopCount n = some v →
      last ≤ t.pc ∨ (s.work.tile t.tile).imageLen ≤ last →
    ∃ u, exec (.loop t n last after) s = .next u ∧ (u.work.ctx c).halt.valid = true ∧ (u.work.ctx c).halt.reason = 0x07)
  ∧ (∀ (t : TileRef) (n : LoopCount) (last after c : Nat) (s : State), s.work.takes t c → (s.work.tile t.tile).loopCount n = some 0 →
      t.pc < last → last < (s.work.tile t.tile).imageLen →
    exec (.loop t n last after) s = .next (s.ran t.tile fun k =>
      { k with loops := (loopEnd last after (s.work.tile t.tile).loops).1, pc := (loopEnd last after (s.work.tile t.tile).loops).2 }))
  ∧ (∀ (t : TileRef) (n : LoopCount) (v last after c : Nat) (s : State), s.work.takes t c → (s.work.tile t.tile).loopCount n = some v →
      1 ≤ v → t.pc < last → last < (s.work.tile t.tile).imageLen → 4 ≤ (s.work.tile t.tile).loops.length →
    ∃ u, exec (.loop t n last after) s = .next u ∧ (u.work.ctx c).halt.valid = true ∧ (u.work.ctx c).halt.reason = 0x04
      ∧ (u.work.ctx c).halt.address = t.pc)
  ∧ (∀ (t : TileRef) (n : LoopCount) (v last after c : Nat) (s : State), s.work.takes t c → (s.work.tile t.tile).loopCount n = some v →
      1 ≤ v → t.pc < last → last < (s.work.tile t.tile).imageLen → (s.work.tile t.tile).loops.length < 4 →
    exec (.loop t n last after) s = .next (s.ran t.tile fun k =>
      { k with loops := { first := t.next, last := last, remaining := v, iteration := 0 } :: k.loops, pc := t.next }))
  ∧ (∀ (t : TileRef) (g level c : Nat) (s : State), s.work.takes t c →
    exec (.loopIndex t g level) s = .next (s.ran t.tile fun k => (k.setG g (BitVec.ofNat 64
      (match (s.work.tile t.tile).loops[level]? with | some l => l.iteration | none => 0))).advance t.pc t.next))

/-- Data memory and the ends of a program, at the address of a running tile core. A misaligned access or one beyond 0x1_FFFF halts with
DATA_MEMORY_FAULT (0x03); a store puts the register's low bytes; a load waits for an unfinished tile DMA that writes its bytes, else
extends them into the register (R248). PITCH_END waits until the tile's issued work has completed, then marks the tile done; in the
urgent context it halts with ILLEGAL_INSTRUCTION (0x01) (R251). STOP stops the core (R250). TRAP halts with 0x05 and its operand as
detail (R257, R258). -/
def Obligations.TileProgramEnds : Prop :=
  (∀ (t : TileRef) (p : DmemParams) (c : Nat) (s : State), s.work.takes t c → p.size = 1 ∨ p.size = 2 ∨ p.size = 4 ∨ p.size = 8 →
      p.addr % p.size ≠ 0 ∨ 131072 < p.addr + p.size →
    ∃ u, exec (.dataMemoryAccess t p) s = .next u ∧ (u.work.ctx c).halt.valid = true ∧ (u.work.ctx c).halt.reason = 0x03)
  ∧ (∀ (t : TileRef) (p : DmemParams) (c : Nat) (s : State), Memory.wf s.mem = true → s.work.takes t c →
      p.size = 1 ∨ p.size = 2 ∨ p.size = 4 ∨ p.size = 8 → p.addr % p.size = 0 → p.addr + p.size ≤ 131072 → p.store = true →
    ∃ u, exec (.dataMemoryAccess t p) s = .next u ∧ s.tookUp u t id ∧ u.dev.ctxs = s.dev.ctxs
      ∧ s.stores u (dmemKey t.tile p.addr) (leBytes p.size ((s.work.tile t.tile).greg p.reg).toNat))
  ∧ (∀ (t : TileRef) (p : DmemParams) (c : Nat) (s : State), s.work.takes t c →
      p.size = 1 ∨ p.size = 2 ∨ p.size = 4 ∨ p.size = 8 → p.addr % p.size = 0 → p.addr + p.size ≤ 131072 → p.store = false →
      (s.work.tile t.tile).dmaWrites p.addr p.size = true →
    exec (.dataMemoryAccess t p) s
      = .next { s with dev := { s.dev with counters := ctrAdd s.dev.counters (ctrKey Ctr.stallScoreboard c 0) 1 } })
  ∧ (∀ (t : TileRef) (p : DmemParams) (c : Nat) (s : State), s.work.takes t c →
      p.size = 1 ∨ p.size = 2 ∨ p.size = 4 ∨ p.size = 8 → p.addr % p.size = 0 → p.addr + p.size ≤ 131072 → p.store = false →
      (s.work.tile t.tile).dmaWrites p.addr p.size = false →
    exec (.dataMemoryAccess t p) s = .next (s.ran t.tile fun k => (k.setG p.reg (BitVec.ofNat 64
      (if p.signed then ofSigned 64 (toSigned (8 * p.size) (s.work.le (dmemKey t.tile p.addr) p.size))
        else s.work.le (dmemKey t.tile p.addr) p.size))).advance t.pc t.next))
  ∧ (∀ (t : TileRef) (c : Nat) (s : State), s.work.takes t c → (s.work.ctx c).urgent = false → (s.work.tile t.tile).drained = false →
    exec (.pitchEnd t) s = .next s)
  ∧ (∀ (t : TileRef) (c : Nat) (s : State), s.work.takes t c → (s.work.ctx c).urgent = false → (s.work.tile t.tile).drained = true →
    ∃ u, exec (.pitchEnd t) s = .next u ∧ u.mem = s.mem ∧ u.dev.ctxs = s.dev.ctxs
      ∧ s.tookUp u t fun k => { k with run := .pitchDone, doneCycle := s.dev.pitch.cycle.toNat })
  ∧ (∀ (t : TileRef) (c : Nat) (s : State), s.work.takes t c → (s.work.ctx c).urgent = true →
    ∃ u, exec (.pitchEnd t) s = .next u ∧ (u.work.ctx c).halt.valid = true ∧ (u.work.ctx c).halt.reason = 0x01)
  ∧ (∀ (t : TileRef) (c : Nat) (s : State), s.work.takes t c →
    ∃ u, exec (.stop t) s = .next u ∧ u.mem = s.mem ∧ u.dev.ctxs = s.dev.ctxs ∧ s.tookUp u t fun k => { k with run := .stopped })
  ∧ (∀ (t : TileRef) (operand c : Nat) (s : State), s.work.takes t c →
    ∃ u, exec (.trap t operand) s = .next u ∧ (u.work.ctx c).halt.valid = true ∧ (u.work.ctx c).halt.reason = 0x05
      ∧ (u.work.ctx c).halt.detail = operand % 65536)

/-! ### Tile DMA -/

/-- TILE_DMA at the address of a running tile core (R252). A length, count or stride outside its range, or a ring that it does not
own, halts with TILE_DMA_INVALID (0x08); a region it declares that does not resolve halts as the region rules say. Between places on
this device that are no rings, on a tile with no transfer under way, it takes its place with its first requests, up to the 512 tags,
issued, and no byte moves yet. TILE_DMA_COMPLETE then moves the bytes of the oldest outstanding request, of at most 512 bytes, and
frees its tag; the transfer ends with its last request. -/
def Obligations.TileDmaCompletes : Prop :=
  (∀ (t : TileRef) (p : DmaParams) (c : Nat) (s : State), s.work.takes t c →
      dmaBad p = true ∨ (s.work.tile t.tile).ringBad p p.src false = true ∨ (s.work.tile t.tile).ringBad p p.dst true = true →
    ∃ u, exec (.tileDma t p) s = .next u ∧ u.haltedWith c 0x08)
  ∧ (∀ (t : TileRef) (p : DmaParams) (c r d : Nat) (s : State), s.work.takes t c → dmaBad p = false → dmaRings p = [] →
      s.work.resolveAll c (some t.tile) (s.work.tile t.tile).regions p.uses = .error (r, d) →
    ∃ u, exec (.tileDma t p) s = .next u ∧ u.haltedWith c r ∧ (u.work.ctx c).halt.detail = d)
  ∧ (∀ (t : TileRef) (p : DmaParams) (rs : List Resolved) (c src dst n : Nat) (s : State), s.work.takes t c → dmaBad p = false →
      dmaRings p = [] → (s.work.tile t.tile).dma = [] → (s.work.tile t.tile).mat = [] →
      s.work.resolveAll c (some t.tile) (s.work.tile t.tile).regions p.uses = .ok rs →
      s.work.dmaSide c t.tile rs p p.src p.srcStride false = .ok (src, false) →
      s.work.dmaSide c t.tile rs p p.dst p.dstStride true = .ok (dst, false) → s.work.dmaSourceFault c p src = .ok n →
    ∃ u, exec (.tileDma t p) s = .next u ∧ u.mem = s.mem ∧ u.dev.ctxs = s.dev.ctxs
      ∧ s.tookUp u t fun k => { k with
          dma := [{ ref := t
                    params := p
                    src := src
                    dst := dst
                    peer := false
                    issued := min 512 (ceilDiv p.length 512 * p.count)
                    completed := 0
                    draw := s.dev.freeCtr }] })
  ∧ (∀ (n c i b m key : Nat) (o : DmaOp) (s : State), Memory.wf s.mem = true → n < s.dev.tiles.length → s.work.owner n = some c →
      (s.work.tile n).dma = [o] → dmaRings o.params = [] → o.peer = false → o.completed < o.issued → o.issued ≤ o.total →
      o.params.length ≤ o.params.dstStride → o.completed / o.perRow = i → o.completed % o.perRow * 512 = b →
      min 512 (o.params.length - b) = m → o.dst + i * o.params.dstStride + b = key →
      s.work.poisonIn (o.src + i * o.params.srcStride + b) m = none →
    ∃ u, exec (.tileDmaComplete n) s = .next u ∧ s.stores u key (s.work.rdN (o.src + i * o.params.srcStride + b) m)
      ∧ u.dev.ctxs = s.dev.ctxs ∧ (∀ k, k ≠ n → u.work.tile k = s.work.tile k)
      ∧ ∃ l, u.work.tile n = { s.work.tile n with dma := l }
        ∧ (o.completed + 1 = o.total → l = [])
        ∧ (o.completed + 1 < o.total → ∃ k, o.issued ≤ k ∧ l = [{ o with completed := o.completed + 1, issued := k }]))

/-! ### The scoreboard -/

/-- SETREGION and SEQ (R393, R395, R396). An encoding outside the rules halts with REGION_INVALID (0x26), the slot in the detail; one
whose slot an issued command of the same stream or tile names waits; else the slot of the tile or stream is rewritten. A key below the
current one or outside the pitch's range halts with 0x28; else it becomes the key of the tile core, or the last key of the stream. -/
def Obligations.RegionsAndKeysComplete : Prop :=
  (∀ (t : TileRef) (slot c : Nat) (region : Region) (j : Job) (s : State), s.work.takes t c → s.work.runningJob c = some j →
      regionBad region true = true →
    ∃ u, exec (.setregion (.tile t) slot region) s = .next u ∧ u.haltedWith c 0x26 ∧ (u.work.ctx c).halt.detail = slot)
  ∧ (∀ (r : StreamRef) (slot : Nat) (region : Region) (j : Job) (e : EStream) (s : State), s.work.dispatchable r = some (j, e) →
      regionBad region false = true →
    ∃ u, exec (.setregion (.stream r) slot region) s = .next u ∧ u.haltedWith r.ctx 0x26 ∧ (u.work.ctx r.ctx).halt.detail = slot)
  ∧ (∀ (t : TileRef) (slot c : Nat) (region : Region) (j : Job) (s : State), s.work.takes t c → s.work.runningJob c = some j →
      regionBad region true = false →
      ((s.work.ctx c).cmds.any fun k => sameOrigin k.desc.from_ (.tile t) && k.desc.uses.any fun u => u.slot == slot) = true →
    exec (.setregion (.tile t) slot region) s = .next (s.waited c Ctr.stallScoreboard 0))
  ∧ (∀ (t : TileRef) (slot c : Nat) (region : Region) (j : Job) (s : State), s.work.takes t c → s.work.runningJob c = some j →
      regionBad region true = false →
      ((s.work.ctx c).cmds.any fun k => sameOrigin k.desc.from_ (.tile t) && k.desc.uses.any fun u => u.slot == slot) = false →
    exec (.setregion (.tile t) slot region) s
      = .next (s.ran t.tile fun k => { k with regions := updAt k.regions slot fun _ => region }.advance t.pc t.next))
  ∧ (∀ (r : StreamRef) (slot : Nat) (region : Region) (j : Job) (e : EStream) (s : State), s.work.dispatchable r = some (j, e) →
      regionBad region false = false →
      ((s.work.ctx r.ctx).cmds.any fun k => sameOrigin k.desc.from_ (.stream r) && k.desc.uses.any fun u => u.slot == slot) = false →
    ∃ u, exec (.setregion (.stream r) slot region) s = .next u ∧ s.onCtx u r.ctx fun x =>
      (x.withStream r.stream fun e => { e with regions := updAt e.regions slot fun _ => region }).withStream r.stream
        (EStream.passed none s.dev.pitch.cycle.toNat))
  ∧ (∀ (t : TileRef) (q c : Nat) (j : Job) (s : State), s.work.takes t c → s.work.runningJob c = some j →
      q < (s.work.tile t.tile).curQ ∨ q < j.low ∨ j.high ≤ q →
    ∃ u, exec (.seq (.tile t) q) s = .next u ∧ u.haltedWith c 0x28)
  ∧ (∀ (t : TileRef) (q c : Nat) (j : Job) (s : State), s.work.takes t c → s.work.runningJob c = some j →
      (s.work.tile t.tile).curQ ≤ q → j.low ≤ q → q < j.high →
    exec (.seq (.tile t) q) s = .next (s.ran t.tile fun k => { k with curQ := q }.advance t.pc t.next))
  ∧ (∀ (r : StreamRef) (q : Nat) (j : Job) (e : EStream) (s : State), s.work.dispatchable r = some (j, e) →
      q < e.lastQ ∨ q < j.low ∨ j.high ≤ q →
    ∃ u, exec (.seq (.stream r) q) s = .next u ∧ u.haltedWith r.ctx 0x28)
  ∧ (∀ (r : StreamRef) (q : Nat) (j : Job) (e : EStream) (s : State), s.work.dispatchable r = some (j, e) →
      e.lastQ ≤ q → j.low ≤ q → q < j.high →
    ∃ u, exec (.seq (.stream r) q) s = .next u
      ∧ s.onCtx u r.ctx fun x => x.withStream r.stream (EStream.passed (some q) s.dev.pitch.cycle.toNat))

/-- COMMAND_START, COMMAND_COMPLETE, FENCE and FENCE_RELEASE (R393, R397 to R404, R406). An absent unit halts with 0x21; a key out of
order with 0x28. A key that a fence or a frontier holds back waits. A command whose regions resolve, conflict with none in progress
and that nothing holds is taken into its context's scoreboard with a new number, and one more command dispatched is counted for
engines 0 to 5. A completed command leaves the scoreboard, once the work that its issuer began is done. A machine fence of an urgent
image, or in an open replay section, halts with 0x29; another fence is held with the tick and key of its issue, and is released once no
command it awaits is left. -/
def Obligations.CommandsAndFencesComplete : Prop :=
  (∀ (k : CmdDesc) (r : StreamRef) (j : Job) (e : EStream) (n : Nat) (s : State), k.from_ = .stream r →
      s.work.dispatchable r = some (j, e) → s.work.absent k = some n →
    ∃ u, exec (.commandStart k) s = .next u ∧ u.haltedWith r.ctx 0x21 ∧ (u.work.ctx r.ctx).halt.detail = n)
  ∧ (∀ (k : CmdDesc) (r : StreamRef) (j : Job) (e : EStream) (h : Nat) (s : State), k.from_ = .stream r →
      s.work.dispatchable r = some (j, e) → s.work.absent k = none → s.work.keyHalt r.ctx j k.from_ k.q = some h →
    ∃ u, exec (.commandStart k) s = .next u ∧ u.haltedWith r.ctx h)
  ∧ (∀ (k : CmdDesc) (t : TileRef) (j : Job) (l : List Resolved) (c cause : Nat) (s : State), k.from_ = .tile t →
      s.work.executing t = some c → s.work.runningJob c = some j → s.work.absent k = none →
      s.work.keyHalt c j k.from_ (s.work.tile t.tile).curQ = none →
      s.work.resolveAll c (some t.tile) (s.work.tile t.tile).regions k.uses = .ok l →
      s.work.holding c j k.from_ (s.work.tile t.tile).curQ k.heads l = some cause →
    exec (.commandStart k) s = .next (s.waited c cause 0))
  ∧ (∀ (k : CmdDesc) (t : TileRef) (j : Job) (l : List Resolved) (c : Nat) (s : State), k.from_ = .tile t →
      s.work.executing t = some c → s.work.runningJob c = some j → s.work.absent k = none →
      s.work.keyHalt c j k.from_ (s.work.tile t.tile).curQ = none →
      s.work.resolveAll c (some t.tile) (s.work.tile t.tile).regions k.uses = .ok l →
      s.work.holding c j k.from_ (s.work.tile t.tile).curQ k.heads l = none →
      s.work.conflicting c { k with engine := 7, q := (s.work.tile t.tile).curQ } l = [] → s.work.permuteHeld c l = false →
    ∃ u, exec (.commandStart k) s = .next u ∧ u.dev.nextId = s.dev.nextId + 1 ∧ s.onCtx u c fun x => { x with
      cmds := x.cmds ++ [{ id := s.dev.nextId
                           desc := { k with engine := 7, q := (s.work.tile t.tile).curQ }
                           step := j.step
                           regions := l
                           started := true
                           dueTick := s.work.tick + 1 + k.later }]
      waited := x.waited.filter fun f => f != k.from_ })
  ∧ (∀ (k : CmdDesc) (r : StreamRef) (j : Job) (e : EStream) (l : List Resolved) (s : State), k.from_ = .stream r →
      s.work.dispatchable r = some (j, e) → s.work.absent k = none → s.work.keyHalt r.ctx j k.from_ k.q = none →
      ((s.work.ctx r.ctx).cmds.filter fun m => (tileOf m.desc.from_).isNone).length < 256 →
      s.work.resolveAll r.ctx none (s.work.slotsOf j k.from_) k.uses = .ok l →
      s.work.holding r.ctx j k.from_ k.q k.heads l = none →
      s.work.conflicting r.ctx { k with engine := e.engine } l = [] → s.work.permuteHeld r.ctx l = false →
    ∃ u, exec (.commandStart k) s = .next u ∧ u.dev.nextId = s.dev.nextId + 1 ∧ s.onCtx u r.ctx fun x =>
      ({ x with
        cmds := x.cmds ++ [{ id := s.dev.nextId
                             desc := { k with engine := e.engine }
                             step := j.step
                             regions := l
                             started := true
                             dueTick := s.work.tick + 1 + k.later }]
        waited := x.waited.filter fun f => f != k.from_ } : Ctx).withStream r.stream (EStream.passed (some k.q) s.dev.pitch.cycle.toNat))
  ∧ (∀ (c id : Nat) (k : Cmd) (s : State), c < s.dev.ctxs.length → ((s.work.ctx c).cmds.find? fun k => k.id == id) = some k →
      s.work.underWay k.desc.from_ = false →
    ∃ u, exec (.commandComplete c id) s = .next u
      ∧ s.onCtx u c fun x => { x with cmds := x.cmds.filter fun m => m.id != id })
  ∧ (∀ (c id : Nat) (k : Cmd) (s : State), ((s.work.ctx c).cmds.find? fun k => k.id == id) = some k →
      s.work.underWay k.desc.from_ = true → exec (.commandComplete c id) s = .next s)
  ∧ (∀ (r : StreamRef) (q : Nat) (heads : List (Nat × Nat)) (j : Job) (e : EStream) (s : State),
      s.work.dispatchable r = some (j, e) → j.urgent = true ∨ (s.work.ctx r.ctx).replay.isSome = true →
    ∃ u, exec (.fence (.stream r) q heads .machine) s = .next u ∧ u.haltedWith r.ctx 0x29)
  ∧ (∀ (r : StreamRef) (q : Nat) (heads : List (Nat × Nat)) (scope : FenceScope) (j : Job) (e : EStream) (l : List Resolved) (s : State),
      s.work.dispatchable r = some (j, e) → (scope = .machine → j.urgent = false ∧ (s.work.ctx r.ctx).replay = none) →
      s.work.keyHalt r.ctx j (.stream r) q = none →
      (match scope with
        | .region slots => s.work.fenceRegions r.ctx (.stream r) (s.work.slotsOf j (.stream r)) slots
        | _ => .ok []) = .ok l →
      s.work.holding r.ctx j (.stream r) q heads l = none →
    ∃ u, exec (.fence (.stream r) q heads scope) s = .next u ∧ u.dev.nextId = s.dev.nextId + 1 ∧ s.onCtx u r.ctx fun x =>
      ({ x with fences := x.fences ++ [{ id := s.dev.nextId
                                         from_ := .stream r
                                         tick := s.work.tick
                                         step := j.step
                                         q := q
                                         scope := scope
                                         regions := l }] } : Ctx).withStream r.stream (EStream.passed (some q) s.dev.pitch.cycle.toNat))
  ∧ (∀ (t : TileRef) (q c : Nat) (heads : List (Nat × Nat)) (scope : FenceScope) (j : Job) (l : List Resolved) (s : State),
      s.work.takes t c → s.work.runningJob c = some j → (scope = .machine → j.urgent = false ∧ (s.work.ctx c).replay = none) →
      s.work.keyHalt c j (.tile t) (s.work.tile t.tile).curQ = none →
      (match scope with
        | .region slots => s.work.fenceRegions c (.tile t) (s.work.slotsOf j (.tile t)) slots
        | _ => .ok []) = .ok l →
      s.work.holding c j (.tile t) (s.work.tile t.tile).curQ heads l = none →
    ∃ u, exec (.fence (.tile t) q heads scope) s = .next u ∧ u.dev.nextId = s.dev.nextId + 1 ∧ u.mem = s.mem ∧ s.tookUp u t id
      ∧ (∀ k, k ≠ c → u.work.ctx k = s.work.ctx k)
      ∧ u.work.ctx c = { s.work.ctx c with fences := (s.work.ctx c).fences ++ [{ id := s.dev.nextId
                                                                                 from_ := .tile t
                                                                                 tick := s.work.tick
                                                                                 step := j.step
                                                                                 q := (s.work.tile t.tile).curQ
                                                                                 scope := scope
                                                                                 regions := l }] })
  ∧ (∀ (c id : Nat) (f : Fence) (s : State), ((s.work.ctx c).fences.find? fun f => f.id == id) = some f → f.scope ≠ .machine →
      (s.work.ctx c).cmds.any f.awaits = true → exec (.fenceRelease c id) s = .next s)
  ∧ (∀ (c id : Nat) (f : Fence) (s : State), c < s.dev.ctxs.length → ((s.work.ctx c).fences.find? fun f => f.id == id) = some f →
      f.scope ≠ .machine → (s.work.ctx c).cmds.any f.awaits = false →
    ∃ u, exec (.fenceRelease c id) s = .next u ∧ u.dev.pitch = s.dev.pitch
      ∧ s.onCtx u c fun x => { x with fences := x.fences.filter fun g => g.id != id })

/-! ### The geometry unit -/

/-- GSH, GRADIAL and GCOUPLE, and the gradient forms of the first two, at the address of a running tile core, on operands in registers
or the tile store (R270, R272, R275, R277): one row is written for each row read, each element its value rounded once into the output's
form. A degree above 6 halts with 0x10, radial parameters outside their ranges with 0x14, a bad path with 0x13 and its number. -/
def Obligations.GeometryRowsComplete : Prop :=
  (∀ (t : TileRef) (p : GshParams) (form : OutForm) (c : Nat) (s : State), Memory.wf s.mem = true → s.work.takes t c →
      s.work.geoForm c p.bf16 p.tag = .ok form → p.degree ≤ 6 →
      let disp := rows32 p.disp 3 p.count
      let out : GeoRows := { src := p.out, len := formBytes form * harmonics p.degree, rows := p.count, out := true }
      s.work.rowsFree t.tile [disp, out] → s.work.censusApart c t.tile p.tag out →
    ∃ u, exec (.gsh t p) s = .next u ∧ s.tookUp u t id
      ∧ s.rowsWritten u c t.tile out form p.tag (harmonics p.degree) fun r k => gshValue p.orthonormal (s.work.pats t.tile disp r 3) k)
  ∧ (∀ (t : TileRef) (p : GshParams) (form : OutForm) (c : Nat) (s : State), s.work.takes t c → 6 < p.degree →
      s.work.geoForm c p.bf16 p.tag = .ok form →
    ∃ u, exec (.gsh t p) s = .next u ∧ u.haltedWith c 0x10)
  ∧ (∀ (t : TileRef) (p : GradialParams) (form : OutForm) (c : Nat) (s : State), Memory.wf s.mem = true → s.work.takes t c →
      s.work.geoForm c p.bf16 p.tag = .ok form → radialBad p = false →
      let disp := rows32 p.disp 4 p.count
      let out : GeoRows := { src := p.out, len := formBytes form * p.n, rows := p.count, out := true }
      s.work.rowsFree t.tile [disp, out] → s.work.censusApart c t.tile p.tag out →
    ∃ u, exec (.gradial t p) s = .next u ∧ s.tookUp u t id
      ∧ s.rowsWritten u c t.tile out form p.tag p.n fun r n => radialValue p (at3 0 (s.work.pats t.tile disp r 4) 3) (n + 1))
  ∧ (∀ (t : TileRef) (p : GradialParams) (form : OutForm) (c : Nat) (s : State), s.work.takes t c → radialBad p = true →
      s.work.geoForm c p.bf16 p.tag = .ok form →
    ∃ u, exec (.gradial t p) s = .next u ∧ u.haltedWith c 0x14)
  ∧ (∀ (t : TileRef) (p : GcoupleParams) (form : OutForm) (ps : List Path) (c : Nat) (s : State), Memory.wf s.mem = true →
      s.work.takes t c → s.work.geoForm c p.bf16Out p.tag = .ok form → s.work.pathTable t.tile p = .ok ps →
      let f := coupleIn p
      let x := coupleRows p p.x p.xLen f
      let y := coupleRows p p.y p.yLen f
      let wt := weightRows p ps
      let out : GeoRows := { src := p.out, len := formBytes form * p.outLen, rows := p.edges, out := true }
      s.work.rowsFree t.tile [x, y, wt, out] → s.work.censusApart c t.tile p.tag out →
    ∃ u, exec (.gcouple t p) s = .next u ∧ s.tookUp u t id
      ∧ s.rowsWritten u c t.tile out form p.tag p.outLen fun r i =>
        ((ps.foldl (fun o q => couplePath q (s.work.rowVals t.tile x f r p.xLen) (s.work.rowVals t.tile y f r p.yLen)
          (s.work.rowVals t.tile wt f (if q.edge then r else 0) p.wLen) o) (List.replicate p.outLen Val.zero))[i]?).getD .nan)
  ∧ (∀ (t : TileRef) (p : GcoupleParams) (form : OutForm) (d c : Nat) (s : State), s.work.takes t c →
      s.work.geoForm c p.bf16Out p.tag = .ok form → s.work.pathTable t.tile p = .error (0x13, d) →
    ∃ u, exec (.gcouple t p) s = .next u ∧ u.haltedWith c 0x13 ∧ (u.work.ctx c).halt.detail = d)
  ∧ (∀ (t : TileRef) (p : GshParams) (second : Bool) (form : OutForm) (c : Nat) (s : State), Memory.wf s.mem = true → s.work.takes t c →
      s.work.geoForm c false p.tag = .ok form → p.degree ≤ 6 →
      let n := harmonics p.degree
      let disp := rows32 p.disp 3 p.count
      let grad : GeoRows := { src := p.gradIn, len := (if p.bf16 then 2 else 4) * n, rows := p.count, out := false }
      let vec := rows32 p.vec 3 p.count
      let out : GeoRows := { src := p.out, len := 3 * formBytes form, rows := p.count, out := true }
      s.work.rowsFree t.tile ([disp, grad] ++ (if second then [vec] else []) ++ [out]) → s.work.censusApart c t.tile p.tag out →
    ∃ u, exec (if second then .gshBwd2 t p else .gshBwd t p) s = .next u ∧ s.tookUp u t id
      ∧ s.rowsWritten u c t.tile out form p.tag 3 fun r x =>
        ofF32 (Config.sphHarmGrad (if second then 1 else 0) p.orthonormal p.degree x
          (s.work.pats t.tile disp r 3 ++ s.work.gradPats t.tile grad r n p.bf16 ++ if second then s.work.pats t.tile vec r 3 else [])))
  ∧ (∀ (t : TileRef) (p : GradialParams) (form : OutForm) (c : Nat) (s : State), Memory.wf s.mem = true → s.work.takes t c →
      s.work.geoForm c false p.tag = .ok form → radialBad p = false →
      let disp := rows32 p.disp 4 p.count
      let grad : GeoRows := { src := p.gradIn, len := (if p.bf16 then 2 else 4) * p.n, rows := p.count, out := false }
      let out : GeoRows := { src := p.out, len := 3 * formBytes form, rows := p.count, out := true }
      s.work.rowsFree t.tile [disp, grad, out] → s.work.censusApart c t.tile p.tag out →
    ∃ u, exec (.gradialBwd t p) s = .next u ∧ s.tookUp u t id
      ∧ s.rowsWritten u c t.tile out form p.tag 3 fun r x =>
        ofF32 (Config.radialGrad (radialCode p.family) (envelopeCode p.env) p.n x
          (toF32 (fmtDecode form.fmt (s.work.elemAt (s.work.geoKey t.tile out r) (fmtBits form.fmt) x))
            :: (s.work.pats t.tile disp r 4 ++ [p.rc, p.gamma] ++ s.work.gradPats t.tile grad r p.n p.bf16))))

/-- GCOUPLE_BWD at the address of a running tile core (R277), its three gradients apart from each other: each element of the gradients
of x, of y and of the weights is its sum, rounded once into its output's form, an edge's rows in their edge's place; the weight row that
all edges share holds the sum over the edges. How the sums round is the model's free value (log 36). -/
def Obligations.CouplingGradientsComplete : Prop :=
  ∀ (t : TileRef) (p : GcoupleParams) (fx fy fw : OutForm) (ps : List Path) (c : Nat) (s : State), Memory.wf s.mem = true →
    s.work.takes t c → s.work.geoForm c p.bf16Out p.tag = .ok fx → s.work.geoForm c p.bf16Out p.tagY = .ok fy →
    s.work.geoForm c p.bf16Out p.tagW = .ok fw → s.work.pathTable t.tile p = .ok ps →
    let gx := (coupleOuts p ps fx fy fw).1
    let gy := (coupleOuts p ps fx fy fw).2.1
    let gw := (coupleOuts p ps fx fy fw).2.2
    let g := coupleBwdGo ps p.wLen p.xLen p.yLen (s.work.coupleEdge t.tile p ps) p.edges
    s.work.rowsFree t.tile (coupleIns p ps ++ [gx, gy, gw]) →
    (∀ tag, tag = p.tag ∨ tag = p.tagY ∨ tag = p.tagW → ∀ o, o = gx ∨ o = gy ∨ o = gw → s.work.censusApart c t.tile tag o) →
    s.work.rowsApart t.tile gx gy → s.work.rowsApart t.tile gx gw → s.work.rowsApart t.tile gy gw →
    ∃ u, exec (.gcoupleBwd t p) s = .next u ∧ s.tookUp u t id
      ∧ s.rowsHold u t.tile gx fx p.xLen (fun r i => (((g.1[r]?).getD ([], [], [])).1[i]?).getD .nan)
      ∧ s.rowsHold u t.tile gy fy p.yLen (fun r i => (((g.1[r]?).getD ([], [], [])).2.1[i]?).getD .nan)
      ∧ s.rowsHold u t.tile gw fw p.wLen (fun r i => ((coupleWeightRow ps p.wLen g.2 g.1 r)[i]?).getD .nan)

/-- GBIN, GSTAGE and GEMIT at the address of a running tile core (R263 to R268). A bad cell halts with the reason R262 to R264 give it.
GBIN stores the atoms it keeps, ordered by bin, in the model's own entries (log 36), and for each bin how many kept atoms stand before
it; no other byte changes. GSTAGE stores the staged coordinates of each candidate and its index and shift, puts the group's coordinates
into the operand register, and theta into a general register. GEMIT appends the kept edges of each home atom to the block, whose header
gives the segments and edges it then holds; a block too small for them halts with 0x12. -/
def Obligations.RadiusGraphsComplete : Prop :=
  (∀ (t : TileRef) (p : GbinParams) (c r : Nat) (s : State), s.work.takes t c → p.count ≤ 2 ^ 24 → (s.work.tile t.tile).mat = [] →
      s.work.storeRanges t.tile [(p.cell, 128, true), (p.atoms, 16 * p.count, true)] = none →
      s.work.cell (tileStoreAddr t.tile p.cell) = .error r →
    ∃ u, exec (.gbin t p) s = .next u ∧ u.haltedWith c r)
  ∧ (∀ (t : TileRef) (p : GbinParams) (x : Cell) (c : Nat) (s : State), Memory.wf s.mem = true → s.work.takes t c → p.count ≤ 2 ^ 24 →
      (s.work.tile t.tile).mat = [] → s.work.storeRanges t.tile [(p.cell, 128, true), (p.atoms, 16 * p.count, true)] = none →
      s.work.cell (tileStoreAddr t.tile p.cell) = .ok x →
      let atoms := (List.range p.count).filterMap fun i => s.work.binAtom x (tileStoreAddr t.tile p.atoms) i
      let list := ((sortBy (fun a b => decide (a.bin < b.bin)) atoms).map atomEntry).flatten
      let starts := ((List.range (x.total + 1)).map fun b => leBytes 4 (atoms.filter fun a => decide (a.bin < b)).length).flatten
      s.work.storeRanges t.tile [(p.list, 32 * atoms.length, false), (p.starts, 4 * (x.total + 1), false)] = none →
    ∃ u m, exec (.gbin t p) s = .next u ∧ s.tookUp u t id ∧ s.stores m (tileStoreAddr t.tile p.list) list
      ∧ m.stores u (tileStoreAddr t.tile p.starts) starts)
  ∧ (∀ (t : TileRef) (p : GstageParams) (x : Stage) (c : Nat) (s : State), Memory.wf s.mem = true → s.work.takes t c →
      (s.work.tile t.tile).mat = [] → s.work.stage t.tile p = .ok x →
      s.work.storeRanges t.tile [(p.rows, 16 * x.cands.length, false), (p.cands, 8 * x.cands.length, false)] = none →
      let cands := x.cands.flatMap fun a => leBytes 4 a.1.idx ++ (a.2.flatMap fun k => leBytes 1 (ofSigned 8 k)) ++ leBytes 1 0
      p.rows + 16 * x.cands.length ≤ p.cands ∨ p.cands + cands.length ≤ p.rows →
      let group := x.group.map fun a => (List.range 3).map fun k => x.coord a [0, 0, 0] k
      let rows := x.cands.map fun a => (List.range 3).map fun k => x.coord a.1 a.2 k
      let big := ((group ++ rows).flatten.map fun k => (bf16.decode k).abs).foldl Val.greatest Val.zero
      let theta := x.cell.rc.add (big.upPow2.scale (-6))
    ∃ u, exec (.gstage t p) s = .next u
      ∧ s.tookUp u t (fun k => k.setG p.thetaReg (BitVec.ofNat 64 (theta.mul theta).up32))
      ∧ u.work.rdN (tileStoreAddr t.tile p.cands) cands.length = cands
      ∧ (∀ r k, r < x.cands.length → k < 3 →
        u.work.le (tileStoreAddr t.tile p.rows + 16 * r + 2 * k) 2 = ((rows[r]?).getD [])[k]?.getD 0 % 2 ^ 16)
      ∧ (∀ n k, n < x.group.length → k < 3 →
        u.work.elemAt (vregAt t.tile p.opReg 0) 16 (64 * k + n) = ((group[n]?).getD [])[k]?.getD 0 % 2 ^ 16)
      ∧ ∀ k, Memory.within [(tileStoreAddr t.tile p.rows, 16 * x.cands.length), (tileStoreAddr t.tile p.cands, cands.length),
          (vregAt t.tile p.opReg 0, 384)] k = false → Memory.read u.mem k = Memory.read s.mem k)
  ∧ (∀ (t : TileRef) (p : GemitParams) (x : Stage) (c : Nat) (s : State), s.work.takes t c → s.work.stage t.tile p.stage = .ok x →
      s.work.storeRanges t.tile [(p.stage.cands, 8 * p.candCount, true), (p.bits, 8 * p.candCount, true)] = none →
      s.work.le (localKey c p.block) 4 ≠ 0x48444152 → 128 ≤ p.capacity → p.capacity ≤ 2 ^ 32 - 64 →
      s.work.accessFault c p.block p.capacity true = none →
      let segs := x.group.mapIdx fun n i => (i.idx, s.work.segment t.tile p x n i)
      let homes := (x.list.filter fun a => a.home).length
      let edges := (segs.map fun k => k.2.1.length).sum
      (∀ k, k ∈ segs → k.2.1.length ≤ 4096) → edgeRoom p.capacity homes < edges →
    ∃ u, exec (.gemit t p) s = .next u ∧ u.haltedWith c 0x12)
  ∧ (∀ (t : TileRef) (p : GemitParams) (x : Stage) (c : Nat) (s : State), Memory.wf s.mem = true → s.work.takes t c →
      (s.work.tile t.tile).mat = [] → (s.work.tile t.tile).dmaTags < 512 → s.work.stage t.tile p.stage = .ok x →
      s.work.storeRanges t.tile [(p.stage.cands, 8 * p.candCount, true), (p.bits, 8 * p.candCount, true)] = none →
      s.work.le (localKey c p.block) 4 ≠ 0x48444152 → 128 ≤ p.capacity → p.capacity ≤ 2 ^ 32 - 64 → p.block + 64 ≤ hostWindowBase →
      s.work.accessFault c p.block p.capacity true = none →
      let segs := x.group.mapIdx fun n i => (i.idx, s.work.segment t.tile p x n i)
      let homes := (x.list.filter fun a => a.home).length
      let edges := (segs.map fun k => k.2.1.length).sum
      let lay := blockLay p.capacity homes
      let head := blockHeader x.cell.images (decide (x.list.length < p.stage.bin.count)) p.stage.bin.count segs.length edges p.capacity lay
      (∀ k, k ∈ segs → k.2.1.length ≤ 4096) → edges ≤ edgeRoom p.capacity homes → segs.length ≤ homes →
    ∃ u, exec (.gemit t p) s = .next u ∧ s.tookUp u t id ∧ u.work.rdN p.block 64 = head
      ∧ ∀ k, Memory.read u.mem k = (((s.work.stN c (p.block + 64 * lay.seg) (leBytes 4 0)).stN c p.block head).putSegments c p.block lay
          (segs.map fun k => (k.1, k.2.1)) 0 0).rd k)

/-! ### Power, clocks and the sideband -/

/-- The domain commands (R537 to R540). The device ignores them until it responds. A pair that a context owns is not switched off
(cause 1), nor a group with a link training or up (cause 2), nor do the stacks sleep while a context is enabled or pitches run
(cause 3); with a trip latched nothing switches on or off (cause 4). A write taken sets the field, clears the cause and requests each
domain whose bit changes, at most four switching at once and the rest queued. A domain done is on or off, a tile pair that comes on is
zeroed, and a stack that comes on is awake. -/
def Obligations.PowerDomainsComplete : Prop :=
  (∀ (v : W32) (n : Nat) (s : State), s.dev.responds = false →
    exec (.pwrTilePairEn v) s = .next s ∧ exec (.pwrLinkGroupEn n) s = .next s ∧ exec .pwrHbmSleepSet s = .next s
      ∧ exec .pwrHbmSleepClear s = .next s)
  ∧ (∀ (v : W32) (t : Nat) (s : State), s.dev.responds = true → t < 64 → (s.work.owner t).isSome = true →
      s.dev.pwr.tilePairEn.getLsbD (t / 2) = true → (v &&& s.fuses.pairs).getLsbD (t / 2) = false →
    exec (.pwrTilePairEn v) s = .next (s.withPwr fun p => { p with cause := 1 }))
  ∧ (∀ (v : W32) (s : State), s.dev.responds = true →
      (∀ t, t < 64 → s.dev.pwr.tilePairEn.getLsbD (t / 2) = true → (v &&& s.fuses.pairs).getLsbD (t / 2) = false → s.work.owner t = none) →
    exec (.pwrTilePairEn v) s = .next (s.withPwr fun p =>
      if p.tripLatched then { p with cause := 4 }
      else { p.requestAll 0 32 p.tilePairEn.toNat (v &&& s.fuses.pairs).toNat with tilePairEn := v &&& s.fuses.pairs, cause := 0 }))
  ∧ (∀ (v l : Nat) (s : State), s.dev.responds = true → l < 36 → (s.work.link l).state = .training ∨ (s.work.link l).state = .up →
      s.dev.pwr.linkGroupEn.getLsbD (l / 6) = true → (BitVec.ofNat 6 v &&& BitVec.ofNat 6 s.fuses.groups).getLsbD (l / 6) = false →
    exec (.pwrLinkGroupEn v) s = .next (s.withPwr fun p => { p with cause := 2 }))
  ∧ (∀ (v : Nat) (s : State), s.dev.responds = true →
      (∀ l, l < 36 → s.dev.pwr.linkGroupEn.getLsbD (l / 6) = true →
        (BitVec.ofNat 6 v &&& BitVec.ofNat 6 s.fuses.groups).getLsbD (l / 6) = false →
        (s.work.link l).state ≠ .training ∧ (s.work.link l).state ≠ .up) →
    exec (.pwrLinkGroupEn v) s = .next (s.withPwr fun p =>
      if p.tripLatched then { p with cause := 4 }
      else
        { p.requestAll 44 6 p.linkGroupEn.toNat (BitVec.ofNat 6 v &&& BitVec.ofNat 6 s.fuses.groups).toNat with
          linkGroupEn := BitVec.ofNat 6 v &&& BitVec.ofNat 6 s.fuses.groups, cause := 0 }))
  ∧ (∀ s : State, s.dev.responds = true → s.dev.pwr.hbmSleep = false →
      (contexts.any fun c => (s.work.ctx c).enable) = true ∨ s.dev.pwr.enableWait ≠ [] ∨ s.dev.pitch.run = true →
    exec .pwrHbmSleepSet s = .next (s.withPwr fun p => { p with cause := 3 }))
  ∧ (∀ s : State, s.dev.responds = true → s.dev.pwr.hbmSleep = false → (contexts.any fun c => (s.work.ctx c).enable) = false →
      s.dev.pwr.enableWait = [] → s.dev.pitch.run = false → s.dev.pwr.tripLatched = true →
    exec .pwrHbmSleepSet s = .next (s.withPwr fun p => { p with cause := 4 }))
  ∧ (∀ s : State, s.dev.responds = true → s.dev.pwr.hbmSleep = false → (contexts.any fun c => (s.work.ctx c).enable) = false →
      s.dev.pwr.enableWait = [] → s.dev.pitch.run = false → s.dev.pwr.tripLatched = false →
    exec .pwrHbmSleepSet s = .next { s.withPwr (fun p =>
        { s.fuses.stackList.foldl (fun p n => p.request (32 + n) false) p with hbmSleep := true, cause := 0 }) with
      dev := { (s.withPwr fun p =>
          { s.fuses.stackList.foldl (fun p n => p.request (32 + n) false) p with hbmSleep := true, cause := 0 }).dev with
        memRegs := { s.dev.memRegs with sleeping := s.fuses.hbmStacks } } })
  ∧ (∀ s : State, s.dev.responds = true → s.dev.pwr.hbmSleep = true →
    exec .pwrHbmSleepSet s = .next s
      ∧ exec .pwrHbmSleepClear s = .next (s.withPwr fun p =>
        { s.fuses.stackList.foldl (fun p n => p.request (32 + n) true) p with hbmSleep := false }))
  ∧ (∀ (d : Nat) (s : State), (s.dev.pwr.switching.find? fun k => k.domain == d) = none → exec (.domainPowerDone d) s = .next s)
  ∧ (∀ (d : Nat) (k : Switch) (s : State), (s.dev.pwr.switching.find? fun k => k.domain == d) = some k → s.dev.pwr.enableWait = [] →
      k.on = false →
    ∃ u, exec (.domainPowerDone d) s = .next u ∧ s.quietly u (fun x => { x with pwr := u.dev.pwr }) ∧ u.mem = s.mem
      ∧ u.dev.tiles = s.dev.tiles ∧ u.dev.ctxs = s.dev.ctxs
      ∧ u.dev.pwr.domains = s.dev.pwr.domains &&& ~~~(BitVec.ofNat 54 (2 ^ k.domain))
      ∧ u.dev.pwr.switching = s.dev.pwr.switching.erase k ++ s.dev.pwr.queued.take (4 - (s.dev.pwr.switching.erase k).length)
      ∧ u.dev.pwr.queued = s.dev.pwr.queued.drop (4 - (s.dev.pwr.switching.erase k).length))
  ∧ (∀ (d : Nat) (k : Switch) (s : State), Memory.wf s.mem = true → (s.dev.pwr.switching.find? fun k => k.domain == d) = some k →
      s.dev.pwr.enableWait = [] → k.on = true → s.fuses.lacks k.domain = false → s.dev.tiles.length = 64 →
    ∃ u, exec (.domainPowerDone d) s = .next u
      ∧ u.dev.pwr.domains = s.dev.pwr.domains ||| BitVec.ofNat 54 (2 ^ k.domain) ∧ u.dev.ctxs = s.dev.ctxs
      ∧ (∀ t, u.work.tile t = if k.domain < 32 ∧ t / 2 = k.domain then Tile.zeroed else s.work.tile t)
      ∧ (k.domain < 32 → ∀ t, t / 2 = k.domain → ∀ key,
        Memory.within [(vregKey t 0, 32 * 16384), (dmemKey t 0, 131072), (imemKey t 0, 65536), (tileStoreAddr t 0, tileStoreSize)] key = true →
        Memory.read u.mem key = 0)
      ∧ (32 ≤ k.domain → u.mem = s.mem)
      ∧ u.dev.memRegs.sleeping = if 32 ≤ k.domain ∧ k.domain < 44 then
          s.dev.memRegs.sleeping &&& ~~~(BitVec.ofNat 12 (2 ^ (k.domain - 32))) else s.dev.memRegs.sleeping)
  ∧ (∀ s : State, s.dev.pwr.idleTimer = false → exec .idleGateTimer s = .next s)
  ∧ (∀ s : State, s.dev.pwr.idleTimer = true →
    exec .idleGateTimer s = .next (s.withPwr fun p =>
      if s.dev.pwr.idleGate = false ∨ (contexts.any fun c => (s.work.ctx c).enable) = true then { p with idleTimer := false }
      else engineDomains.foldl (fun p d => if p.domains.getLsbD d then p.request d false else p) { p with idleTimer := false }))

/-- The input, the limits and the clocks (R433, R463, R542 to R548, R553). PWR_EN powers the module up or down, and both leave it in reset
with every domain off. An input below 44 V is POWER_FAULT (0x4C), held until module reset; below 40 V the module powers down. A power
window takes its readings, and, once the firmware is verified, sets the clock target as R544 and R547 give it. A first trigger clamps
the clock; the clamp outlasts its last trigger by the hold. A power or current trigger that stands for 10 ms is
POWER_FAULT, a trip OVERTEMPERATURE (0x4B) with every domain off and every link down. A lost core reference is POWER_FAULT, a lost
host reference loses the host link, a lost link reference takes down its connector's links, and a lost capacity reference its port. -/
def Obligations.PowerLimitsComplete : Prop :=
  (∀ s : State, s.dev.pwr.powered = true → exec .pwrEnAssert s = .next s)
  ∧ (∀ s : State, s.dev.pwr.powered = false →
    ∃ u, exec .pwrEnAssert s = .next u ∧ u.fuses = s.fuses ∧ u.mem = s.mem ∧ u.dev.pwr.powered = true ∧ u.dev.pwr.good = true
      ∧ u.dev.pwr.inReset = true ∧ u.dev.pwr.domains = 0 ∧ u.dev.sec.fwHeader = s.dev.sec.cutFlash.fwHeader)
  ∧ (∀ s : State, s.dev.pwr.powered = false → exec .pwrEnDeassert s = .next s)
  ∧ (∀ (mv : Nat) (s : State), s.dev.pwr.powered = true → mv < 40000 →
    ∃ u, exec .pwrEnDeassert s = .next u ∧ exec (.inputUndervoltage mv) s = .next u ∧ u.fuses = s.fuses ∧ u.mem = s.mem
      ∧ u.dev.pwr.powered = false ∧ u.dev.pwr.good = false ∧ u.dev.pwr.inReset = true ∧ u.dev.pwr.domains = 0
      ∧ u.dev.side.i3cDynamic = none ∧ (∀ c, (u.work.ctx c).enable = false) ∧ ∀ t, t < 64 → u.work.tile t = Tile.zeroed)
  ∧ (∀ (mv : Nat) (s : State), s.dev.pwr.powered = true → 40000 ≤ mv → mv < 44000 →
    ∃ u, exec (.inputUndervoltage mv) s = .next u ∧ s.haltsAll u 0x4C 0x70000
      ∧ s.quietly u fun d => { d with sec := d.sec.cutFlash, pwr := { d.pwr with faultHeld := true } })
  ∧ (∀ (mv : Nat) (s : State), s.dev.pwr.powered = false ∨ 44000 ≤ mv → exec (.inputUndervoltage mv) s = .next s)
  ∧ (∀ (r : PowerReadings) (s : State), s.dev.pwr.good = false → exec (.powerWindow r) s = .next s)
  ∧ (∀ (r : PowerReadings) (s : State), s.dev.pwr.good = true → s.dev.sec.fwVerified = false →
    exec (.powerWindow r) s = .next (s.withPwr fun p =>
      { p with
        inputW := r.inputW, inputMv := r.inputMv, tjMax := hottest r.dies, hbmMax := hottest r.hbmStacks, coolantIn := r.coolantIn
        coolantOut := r.coolantOut }))
  ∧ (∀ (r : PowerReadings) (s : State), s.dev.pwr.good = true → s.dev.sec.fwVerified = true →
    let cap := s.dev.active.powerCap
    let throttle := decide (95 ≤ hottest r.dies) || decide (90 ≤ hottest r.hbmStacks)
    let target :=
      if throttle || (s.dev.pwr.policyEnable && decide (cap < r.inputW)) then max 1250 (s.dev.pwr.targetMhz - 25)
      else if s.dev.pwr.policyEnable && decide (100 * r.inputW < 97 * cap) then min 2500 (s.dev.pwr.targetMhz + 25)
      else s.dev.pwr.targetMhz
    ∃ u, exec (.powerWindow r) s = .next u ∧ s.quietly u fun d =>
      { d with pwr := { d.pwr with
          inputW := r.inputW, inputMv := r.inputMv, tjMax := hottest r.dies, hbmMax := hottest r.hbmStacks, coolantIn := r.coolantIn
          coolantOut := r.coolantOut, targetMhz := target, throttleDie := decide (95 ≤ hottest r.dies)
          throttleHbm := decide (90 ≤ hottest r.hbmStacks), coolantWarm := decide (60 ≤ r.coolantOut)
          floorWindows := if s.dev.pwr.policyEnable ∧ target = 1250 ∧ cap < r.inputW then s.dev.pwr.floorWindows + 1 else 0 } })
  ∧ (∀ (k : ClampTrigger) (s : State), s.dev.pwr.good = false → exec (.clampTrigger k) s = .next s)
  ∧ (∀ (k : ClampTrigger) (s : State), s.dev.pwr.good = true →
    ∃ u, exec (.clampTrigger k) s = .next u ∧ u.dev.pwr.clamped = true ∧ s.quietly u fun d =>
      { d with pwr := { d.pwr with
          clampTriggers := if d.pwr.clampTriggers.contains k then d.pwr.clampTriggers else d.pwr.clampTriggers ++ [k]
          clampHold := false, brake := d.pwr.brake || decide (k = .brake) } })
  ∧ (∀ (k : ClampTrigger) (s : State), s.dev.pwr.clampTriggers.contains k = true →
    exec (.clampTriggerClear k) s = .next (s.withPwr fun p =>
      { p with
        clampTriggers := p.clampTriggers.filter fun x => x != k, clampHold := (p.clampTriggers.filter fun x => x != k).isEmpty
        brake := p.brake && decide (k ≠ .brake) }))
  ∧ (∀ (k : ClampTrigger) (s : State), s.dev.pwr.clampTriggers.contains k = false → exec (.clampTriggerClear k) s = .next s)
  ∧ (∀ s : State, s.dev.pwr.clampTriggers = [] → exec .clampHoldExpiry s = .next (s.withPwr fun p => { p with clampHold := false }))
  ∧ (∀ s : State, s.dev.pwr.clampTriggers ≠ [] → exec .clampHoldExpiry s = .next s)
  ∧ (∀ s : State, s.dev.pwr.clampTriggers.contains .power = true ∨ s.dev.pwr.clampTriggers.contains .current = true →
    ∃ u, exec .clampPersistFault s = .next u ∧ s.haltsAll u 0x4C 0x1070000 ∧ s.quietly u id)
  ∧ (∀ s : State, s.dev.pwr.clampTriggers.contains .power = false → s.dev.pwr.clampTriggers.contains .current = false →
    exec .clampPersistFault s = .next s)
  ∧ (∀ (n : Nat) (s : State), s.dev.pwr.good = true → s.dev.links.length = 36 →
    ∃ u, exec (.thermalTrip n) s = .next u ∧ s.haltsAll u 0x4B (0x70000 + n * 2 ^ 24) ∧ u.dev.sec = s.dev.sec
      ∧ u.dev.pwr = { s.dev.pwr with
          tripLatched := true, domains := 0, switching := [], queued := [], enableWait := [], thermAlert := true, faultPin := true }
      ∧ ∀ l, l < 36 → (u.work.link l).state
          = if (s.work.link l).state = .up ∨ (s.work.link l).state = .training then .down else (s.work.link l).state)
  ∧ (∀ s : State, ∃ u, exec (.refclkLoss .core) s = .next u ∧ s.haltsAll u 0x4C 0x2070000
      ∧ s.quietly u fun d => { d with pwr := { d.pwr with refPresent := d.pwr.refPresent &&& ~~~1#7 } })
  ∧ (∀ s : State, ∃ u, exec (.refclkLoss .host) s = .next u ∧ u.dev.hif.width = 0 ∧ u.dev.hif.speed = 0
      ∧ (s.dev.pitch.run = true → s.haltsAll u 0x61 0xFFFFFFFF)
      ∧ s.quietly u fun d => { d with pwr := { d.pwr with refPresent := d.pwr.refPresent &&& ~~~2#7 } })
  ∧ (∀ (n : Nat) (s : State), n < 3 → s.dev.links.length = 36 →
    ∃ u, exec (.refclkLoss (.link n)) s = .next u ∧ ∀ l, l < 36 → (u.work.link l).state
          = if l / 12 = n ∧ ((s.work.link l).state = .up ∨ (s.work.link l).state = .training) then .down else (s.work.link l).state)
  ∧ (∀ (p c : Nat) (e : ResEntry) (s : State), p < 2 → s.fuses.capPorts.getLsbD p = true → c < 16 → (s.work.ctx c).enable = true →
      (s.work.ctx c).halt.valid = false → e ∈ s.dev.residency → e.owner = c → e.state ≠ .free → s.fuses.space e.home = .cap p →
    ∃ u, exec (.refclkLoss (.cap p)) s = .next u ∧ u.haltedWith c 0x45 ∧ (u.work.ctx c).halt.detail = p)

/-- The sideband, the leak sensor and the TAP (R433, R463, R529, R553, R556). From PWR_GOOD onward a PLDM request is answered, an
address is assigned and the sensors are updated, each whose limit the new reading crosses sending an alert; without PWR_GOOD nothing
happens. A leak sets its flag and raises THERMAL_WARNING, and nothing else changes. A TAP instruction is selected; one that takes the pins
from the core loses the host port and every link, and a private one that is locked does nothing. -/
def Obligations.SidebandCompletes : Prop :=
  (∀ (q : PldmReq) (a : Nat) (r : PowerReadings) (s : State), s.dev.pwr.good = false →
    exec (.mctpPldmRequest q) s = .next s ∧ exec (.i3cDynamicAddress a) s = .next s ∧ exec (.pldmSensorUpdate r) s = .next s)
  ∧ (∀ (q : PldmReq) (s : State), s.dev.pwr.good = true →
    exec (.mctpPldmRequest q) s = .next (s.withSide fun x => { x with pldmOut := x.pldmOut ++ [s.work.pldmAnswer q] }))
  ∧ (∀ (id v : Nat) (s : State), s.dev.side.sensor id = some v → s.work.pldmAnswer (.sensor id) = leBytes 1 0 ++ leBytes 4 v)
  ∧ (∀ (a : Nat) (s : State), s.dev.pwr.good = true →
    exec (.i3cDynamicAddress a) s = .next (s.withSide fun x => { x with i3cDynamic := some a }))
  ∧ (∀ (r : PowerReadings) (s : State), s.dev.pwr.good = true →
    ∃ l, exec (.pldmSensorUpdate r) s = .next (s.withSide fun x =>
        { x with pldmSensors := r, pldmCoreMhz := s.dev.pwr.coreMhz, pldmAlerts := x.pldmAlerts ++ l })
      ∧ ∀ id, id ∈ l ↔ id < 20 ∧ ∃ a b, s.dev.side.sensor id = some a
          ∧ ({ s.dev.side with pldmSensors := r, pldmCoreMhz := s.dev.pwr.coreMhz } : Side).sensor id = some b
          ∧ ∃ t, t ∈ sensorLimits id ∧ ¬ (t ≤ a ↔ t ≤ b))
  ∧ (∀ s : State, ∃ u, exec .leakDet s = .next u ∧ s.quietly u fun d => { d with side := { d.side with leak := true } })
  ∧ (∀ s : State, exec .bypass s = .next (s.withSide fun x => { x with tap := .bypass, pinsTaken := false })
      ∧ exec .idcode s = .next (s.withSide fun x => { x with tap := .idcode, pinsTaken := false })
      ∧ exec .samplePreload s = .next (s.withSide fun x => { x with tap := .samplePreload, pinsTaken := false })
      ∧ exec .tapReset s = .next (s.withSide fun x => { x with tap := .idcode, pinsTaken := false }))
  ∧ (∀ (i : Instr) (t : TapInstr) (s : State), s.dev.links.length = 36 →
      (i, t) ∈ [(Instr.extest, TapInstr.extest), (.extestPulse, .extestPulse), (.extestTrain, .extestTrain), (.clamp, .clamp)] →
    ∃ u, exec i s = .next u ∧ u.fuses = s.fuses ∧ u.dev.sec = s.dev.sec ∧ u.dev.pwr = s.dev.pwr
      ∧ u.dev.side = { s.dev.side with tap := t, pinsTaken := true } ∧ u.dev.hif.speed = 0 ∧ u.dev.hif.width = 0
      ∧ (s.dev.pitch.run = true ∨ s.work.jobActive = true → s.haltsAll u 0x61 0xFFFFFFFF)
      ∧ ∀ l, l < 36 → (u.work.link l).state
          = if (s.work.link l).state = .up ∨ (s.work.link l).state = .training then .down else (s.work.link l).state)
  ∧ (∀ (k : TapPrivate) (s : State), s.dev.sec.unlocked = false ∨ s.dev.sec.level.getLsbD (tapBit k) = false →
    exec (.tapPrivateInstruction k) s = .next s)

/-! ### Numerics: the governor and replay sections -/

/-- GOVERNOR_UPDATE (R298, R299). Nothing happens while the context is halted or disabled, while no format table stands, where the base
is the active table, or with the governor disabled. Otherwise the table at the base starts as a copy of the active one; into a table
that stands in the shadow set the entry of a managed layer is written, with the rung that its decision gives, between the layer's
limits, and no other byte below the host's changes. A swap that stands for the same table and tick carries it; else a machine-scope arm
whose checks pass stands, and the governor holds it. -/
def Obligations.GovernorCompletes : Prop :=
  (∀ (c step base target : Nat) (m : List Summary) (s : State), (s.work.ctx c).active = false →
    exec (.governorUpdate c step base target m) s = .next s)
  ∧ (∀ (c step base target : Nat) (m : List Summary) (s : State),
      s.dev.active.format = 0 ∨ base = s.dev.active.format ∨ bitOf (s.work.le (s.dev.active.format + 17) 1) 0 = false →
    exec (.governorUpdate c step base target m) s = .next s)
  ∧ (∀ (c step base target : Nat) (m : List Summary) (e : LayerEntry) (s : State), Memory.wf s.mem = true →
      (s.work.ctx c).active = true → s.dev.active.format ≠ 0 → base ≠ s.dev.active.format →
      bitOf (s.work.le (s.dev.active.format + 17) 1) 0 = true → s.dev.shadow.format = base →
      (s.work.formatRange s.dev.active.format c).2 = 1 → s.work.layerEntry c 0 = some e → bitOf e.flags 0 = true →
      s.dev.cfg.armed = some .machine → s.dev.cfg.target = target → base + (e.addr - s.dev.active.format) + 20 ≤ 2 ^ 50 →
    let own := s.work.summary c 0 step
    let sum := if bitOf (s.work.le (s.dev.active.format + 17) 1) 2 then (m.find? fun x => x.layer == 0).getD own else own
    let d := (s.work.governDecision s.dev.active.format e sum (((s.work.ctx c).layerState 0).override.getD 0) step).entry
    let bytes := leBytes 1 d.rung ++ leBytes 1 e.minRung ++ leBytes 1 e.maxRung ++ leBytes 1 (e.flags ||| 4) ++ leBytes 1 d.warm
      ++ leBytes 1 (ofSigned 8 d.scale) ++ leBytes 1 (ofSigned 8 d.scatterE) ++ leBytes 1 0 ++ leBytes 2 (ofSigned 16 d.maxExp)
      ++ leBytes 2 (ofSigned 16 d.ref) ++ leBytes 2 d.stepsAt ++ leBytes 2 d.silent ++ leBytes 4 (step % 2 ^ 32)
    ∃ u, exec (.governorUpdate c step base target m) s = .next u ∧ s.quietly u id
      ∧ (e.minRung ≤ e.maxRung → e.minRung ≤ d.rung ∧ d.rung ≤ e.maxRung)
      ∧ ∀ k, k < 2 ^ 80 → Memory.read u.mem k =
          if base + (e.addr - s.dev.active.format) ≤ k then (bytes[k - (base + (e.addr - s.dev.active.format))]?).getD (Memory.read s.mem k)
          else Memory.read s.mem k)
  ∧ (∀ (c step base target : Nat) (m : List Summary) (s : State), Memory.wf s.mem = true → (s.work.ctx c).active = true →
      s.dev.active.format ≠ 0 → base ≠ s.dev.active.format → bitOf (s.work.le (s.dev.active.format + 17) 1) 0 = true →
      s.dev.shadow.format ≠ base → s.dev.cfg.armed = none →
    let bytes := s.work.rdN s.dev.active.format (128 + 32 * s.work.le (s.dev.active.format + 6) 2)
    let w := (s.work.wr base bytes).upd fun d => { d with shadow := { d.shadow with format := base } }
    ((s.work.wr base bytes).formatRange s.dev.active.format c).2 = 0 → w.armCause true target = 0 → w.armTables = none →
    ∃ u, exec (.governorUpdate c step base target m) s = .next u ∧ s.stores u base bytes
      ∧ u.dev.shadow = { s.dev.shadow with format := base } ∧ u.dev.cfg.armed = some .machine ∧ u.dev.cfg.target = target
      ∧ u.dev.fw.governorArm = some (c, base, target) ∧ u.dev.ctxs = s.dev.ctxs ∧ u.dev.tiles = s.dev.tiles
      ∧ u.dev.active = s.dev.active)

/-- REPLAY_OPEN, REPLAY_CHECK and REPLAY_DECISION (R301 to R305). A section opens with the restart point of every running tile and of
every stream; a second one, or a check without one, halts with 0x83, a layer that no entry stands for with 0x82. A check waits for the
section's operations, then waits for the decision. A decision without a cause closes the section; one with a cause that a limit stops
halts with 0x81; else the layer counts one replay more, a compute cause widening its rung, and every tile and stream goes back to its
restart point. -/
def Obligations.ReplayCompletes : Prop :=
  (∀ (r : StreamRef) (layer : Nat) (s : State), (s.work.ctx r.ctx).active = true → (s.work.ctx r.ctx).replay.isSome = true →
    ∃ u, exec (.replayOpen r layer) s = .next u ∧ u.haltedWith r.ctx 0x83)
  ∧ (∀ (r : StreamRef) (layer : Nat) (s : State), (s.work.ctx r.ctx).active = true → (s.work.ctx r.ctx).replay = none →
      s.work.layerEntry r.ctx layer = none →
    ∃ u, exec (.replayOpen r layer) s = .next u ∧ u.haltedWith r.ctx 0x82 ∧ (u.work.ctx r.ctx).halt.detail = layer)
  ∧ (∀ (r : StreamRef) (layer : Nat) (s : State), (s.work.ctx r.ctx).active = true → (s.work.ctx r.ctx).replay = none →
      (s.work.layerEntry r.ctx layer).isSome = true →
    ∃ u, exec (.replayOpen r layer) s = .next u ∧ s.onCtx u r.ctx fun x => { x with
      replay := some {
        layer := layer, ref := r, checkRef := r, attempt := 0, scale := false, compute := false, maxExp := -32768, windows := []
        checking := false
        nexts := match x.job with
          | some j => j.streams.map fun e => (e.number, e.next, e.lastQ)
          | none => []
        tilePcs := (x.tiles.filter fun t => decide ((s.work.tile t).run = .running)).map fun t =>
          (t, (s.work.tile t).pc, (s.work.tile t).curQ) } })
  ∧ (∀ (r : StreamRef) (s : State), (s.work.ctx r.ctx).active = true → (s.work.ctx r.ctx).replay = none →
    ∃ u, exec (.replayCheck r) s = .next u ∧ u.haltedWith r.ctx 0x83)
  ∧ (∀ (r : StreamRef) (p : Replay) (s : State), (s.work.ctx r.ctx).active = true → (s.work.ctx r.ctx).replay = some p →
      s.work.sectionBusy r.ctx p r = true →
    exec (.replayCheck r) s = .next (s.waited r.ctx Ctr.stallScoreboard 11))
  ∧ (∀ (r : StreamRef) (p : Replay) (s : State), (s.work.ctx r.ctx).active = true → (s.work.ctx r.ctx).replay = some p →
      s.work.sectionBusy r.ctx p r = false →
    ∃ u, exec (.replayCheck r) s = .next u
      ∧ s.onCtx u r.ctx fun x => { x with replay := some { p with checking := true, checkRef := r } })
  ∧ (∀ (c : Nat) (sc cp : Bool) (k : Int) (s : State), (s.work.ctx c).active = true →
      (s.work.ctx c).replay = none ∨ (∃ p, (s.work.ctx c).replay = some p ∧ p.checking = false) →
    exec (.replayDecision c sc cp k) s = .next s)
  ∧ (∀ (c : Nat) (k : Int) (p : Replay) (s : State), (s.work.ctx c).active = true → (s.work.ctx c).replay = some p → p.checking = true →
      p.scale = false → p.compute = false →
    ∃ u, exec (.replayDecision c false false k) s = .next u ∧ s.onCtx u c fun x => { x with replay := none })
  ∧ (∀ (c : Nat) (sc cp : Bool) (k : Int) (p : Replay) (e : LayerEntry) (s : State), (s.work.ctx c).active = true →
      (s.work.ctx c).replay = some p → p.checking = true → p.scale = true ∨ p.compute = true → s.work.layerEntry c p.layer = some e →
      p.checkRef.ctx = c → s.work.le (s.dev.active.format + 16) 1 ≤ ((s.work.ctx c).layerState p.layer).used →
    ∃ u, exec (.replayDecision c sc cp k) s = .next u ∧ u.haltedWith c 0x81 ∧ (u.work.ctx c).halt.detail = p.layer)
  ∧ (∀ (c : Nat) (k : Int) (p : Replay) (e : LayerEntry) (s : State), Memory.wf s.mem = true → (s.work.ctx c).active = true →
      (s.work.ctx c).replay = some p → p.checking = true → p.scale = true ∨ p.compute = true → s.work.layerEntry c p.layer = some e →
      s.work.exhausted ((s.work.ctx c).layerState p.layer) e (s.work.rungOf c p.layer e).1 p.scale p.compute = false →
      (p.tilePcs.map fun t => t.1).Nodup → (∀ t, t ∈ p.tilePcs → t.1 < s.dev.tiles.length) →
    ∃ u, exec (.replayDecision c false false k) s = .next u
      ∧ (u.work.ctx c).replay = some { p with
          attempt := p.attempt + 1, scale := false, compute := false, maxExp := -32768, windows := [], checking := false }
      ∧ ((u.work.ctx c).layerState p.layer).used = ((s.work.ctx c).layerState p.layer).used + 1
      ∧ ((u.work.ctx c).layerState p.layer).override
          = (if p.compute then some ((s.work.rungOf c p.layer e).1 + 1) else ((s.work.ctx c).layerState p.layer).override)
      ∧ (u.work.ctx c).cmds = (s.work.ctx c).cmds.filter (fun m => keyLt m.step m.desc.q p.ref.keyStep p.ref.keyQ)
      ∧ (u.work.ctx c).job = (s.work.ctx c).job.map (fun j => { j with streams := restartStreams p.nexts j.streams })
      ∧ (∀ x, x ∈ p.tilePcs → u.work.tile x.1 = (s.work.tile x.1).restartAt x.2.1 x.2.2)
      ∧ (∀ t, (∀ x, x ∈ p.tilePcs → x.1 ≠ t) → u.work.tile t = s.work.tile t)
      ∧ (s.dev.windows.filter (fun a => p.windows.contains a.area) = [] → ∀ key, key < 2 ^ 80 → Memory.read u.mem key = Memory.read s.mem key))

/-! ### The stitch engine -/

/-- The five collectives at their start (R317 to R325, R333 to R337, R340, R343). A context that is halted or disabled starts none. A
failing check halts with its reason and detail; with 64 in flight the command waits. Otherwise the collective is in the engine under a
fresh number: a reduction with its sums over its sources, quantised at the exponent that history gives, or waiting for a pre-round, or
under RING_FP32 as FP32 sums; a participant's own shard of an ALL_GATHER is in its place; the words of an ALLREDUCE_SMALL are held. With
nobody to wait for, ALL_GATHER and ALLREDUCE_SMALL complete at once. A PERMUTE whose swap stands, on a device that keeps nothing of the
tensor, is done but for its tick. No other byte of memory changes. -/
def Obligations.CollectivesStart : Prop :=
  (∀ (r : StreamRef) (k : CollKind) (s : State), (s.work.ctx r.ctx).active = false → exec (k.row r) s = .next s)
  ∧ (∀ (r : StreamRef) (k : CollKind) (reason d : Nat) (s : State), (s.work.ctx r.ctx).active = true →
      s.work.collHalt r.ctx k = some (reason, d) →
    ∃ u, exec (k.row r) s = .next u ∧ u.haltedWith r.ctx reason ∧ (u.work.ctx r.ctx).halt.detail = d)
  ∧ (∀ (r : StreamRef) (k : CollKind) (reason d : Nat) (s : State), (s.work.ctx r.ctx).active = true →
      s.work.collHalt r.ctx k = none →
      s.work.collFault (s.work.named r k) (s.work.namedEntry k) (s.work.newEntry k (s.work.namedEntry k)) = some (reason, d) →
    ∃ u, exec (k.row r) s = .next u ∧ u.haltedWith r.ctx reason ∧ (u.work.ctx r.ctx).halt.detail = d)
  ∧ (∀ (r : StreamRef) (k : CollKind) (n : Nat) (s : State), (s.work.ctx r.ctx).active = true → s.work.collHalt r.ctx k = none →
      s.work.collFault (s.work.named r k) (s.work.namedEntry k) (s.work.newEntry k (s.work.namedEntry k)) = none →
      ((s.work.collRanges (s.work.named r k)).1.findSome? fun q => if q.2 = 0 then none else s.work.poisonIn q.1 q.2) = none →
      s.work.verifyAll (s.work.collRanges (s.work.named r k)).1 = .ok n → 64 ≤ (s.dev.colls.filter fun o => !o.finished).length →
    exec (k.row r) s = .next (s.waited r.ctx Ctr.stallQueueFull 9))
  ∧ (∀ (r : StreamRef) (p : ReduceParams) (s : State), s.work.mayBegin r (.reduce p) → p.exact = false →
      s.work.awaited (s.work.named r (.reduce p)) ≠ [] →
    let o := s.work.named r (.reduce p)
    let mine := shardOf o.shards s.dev.deviceNumber
    ∃ u, exec (.reduceScatter r p) s = .next u ∧ u.mem = s.mem
      ∧ s.began u { o with
          acc := slice (tab o.elems fun j =>
            (((ringSum (p.sources.map fun a => ((s.work.sourceWords r.ctx o.elems p.sourceBf16 a)[j]?).getD 0)).1 : Nat) : Int)) mine.lo mine.hi })
  ∧ (∀ (r : StreamRef) (p : ReduceParams) (s : State), s.work.mayBegin r (.reduce p) → p.exact = true →
      s.work.historyE r.ctx p.layer = none → (s.work.named r (.reduce p)).shards.length ≠ 1 →
    ∃ u, exec (.reduceScatter r p) s = .next u ∧ u.mem = s.mem ∧ s.began u { s.work.named r (.reduce p) with preRound := true })
  ∧ (∀ (r : StreamRef) (p : ReduceParams) (e : Int) (s : State), s.work.mayBegin r (.reduce p) → p.exact = true →
      p.compression = .none → s.work.historyE r.ctx p.layer = some e → (s.work.named r (.reduce p)).shards.length ≠ 1 →
    let o := s.work.named r (.reduce p)
    let mine := shardOf o.shards s.dev.deviceNumber
    ∃ u, exec (.reduceScatter r p) s = .next u ∧ u.mem = s.mem
      ∧ s.began u { o with
          exponent := e
          acc := slice ((p.sources.map fun a => (s.work.sourceWords r.ctx o.elems p.sourceBf16 a).map fun x => (quantiseAt e x).1).foldl
            (fun t q => t.zipWith (fun a b => a + b) q) (List.replicate o.elems 0)) mine.lo mine.hi })
  ∧ (∀ (r : StreamRef) (p : AllGatherParams) (s : State), Memory.wf s.mem = true → s.work.mayBegin r (.allGather p) →
    let o := s.work.named r (.allGather p)
    let mine := shardOf o.shards s.dev.deviceNumber
    ∃ u, exec (.allGather r p) s = .next u
      ∧ s.stores u (localKey r.ctx (p.dest + mine.lo * p.elemBytes)) (s.work.ldN r.ctx p.source ((mine.hi - mine.lo) * p.elemBytes))
      ∧ (s.work.awaited o ≠ [] → s.began u o) ∧ (s.work.awaited o = [] → u.dev.colls = s.dev.colls ∧ u.dev.ctxs = s.dev.ctxs))
  ∧ (∀ (r : StreamRef) (p : AllToAllParams) (s : State), s.work.mayBegin r (.allToAll p) →
      s.work.awaited (s.work.named r (.allToAll p)) ≠ [] →
    ∃ u, exec (.allToAll r p) s = .next u ∧ u.mem = s.mem ∧ s.began u (s.work.named r (.allToAll p)))
  ∧ (∀ (r : StreamRef) (p : SmallParams) (s : State), s.work.mayBegin r (.small p) →
      s.work.awaited (s.work.named r (.small p)) ≠ [] →
    ∃ u, exec (.allreduceSmall r p) s = .next u ∧ u.mem = s.mem
      ∧ s.began u { s.work.named r (.small p) with acc := tab p.words fun i => s.work.les (localKey r.ctx (p.source + 8 * i)) 8 })
  ∧ (∀ (r : StreamRef) (p : SmallParams) (s : State), Memory.wf s.mem = true → s.work.mayBegin r (.small p) →
      s.work.awaited (s.work.named r (.small p)) = [] →
    ∃ u, exec (.allreduceSmall r p) s = .next u ∧ u.dev.colls = s.dev.colls ∧ u.dev.ctxs = s.dev.ctxs
      ∧ s.stores u (localKey r.ctx p.dest)
          ((tab p.words fun i => leBytes 8 (ofSigned 64 (s.work.les (localKey r.ctx (p.source + 8 * i)) 8))).flatten))
  ∧ (∀ (r : StreamRef) (p : PermuteParams) (s : State), s.work.mayBegin r (.permute p) → s.dev.cfg.armed = some .machine →
      s.dev.cfg.target = p.commitTick → (∀ x, x ∈ (s.work.named r (.permute p)).newShards → x.device ≠ s.dev.deviceNumber) →
    ∃ u, exec (.permute r p) s = .next u ∧ u.mem = s.mem ∧ s.began u { s.work.named r (.permute p) with finished := true })

/-- What a collective in flight meets (R320, R323, R325 to R328, R333 to R335, R342). Data over a link that is not UP, and a return for
no collective, change nothing. Data of no collective here are held while the buffer has room, or discarded and counted when a later
attempt has superseded them. Data of a collective whose parameters disagree halt it with 0x64 and the sender; otherwise they are taken:
partials added into the sums, an ALL_GATHER's shard put in its place. A trailer that counts other contributions than were named halts
with 0x64; one that agrees is kept, and with it and all data an INT64 reduction stores exactly its shard. A timeout halts with 0x62 and
the lowest device still awaited. -/
def Obligations.CollectivesProceed : Prop :=
  (∀ (l : Nat) (a : Arrival) (s : State), (s.work.link l).state ≠ .up → exec (.collectiveDataArrival l a) s = .next s)
  ∧ (∀ (l : Nat) (a : Arrival) (s : State), (s.work.link l).state = .up → (∀ o, o ∈ s.dev.colls → collMatches o a = false) →
      s.work.staleArrival a = true →
    exec (.collectiveDataArrival l a) s
      = .next { s with dev := { s.dev with counters := ctrAdd s.dev.counters (ctrKey Ctr.stitchStaleDiscards 31 0xFF) 1 } })
  ∧ (∀ (l : Nat) (a : Arrival) (s : State), (s.work.link l).state = .up → (∀ o, o ∈ s.dev.colls → collMatches o a = false) →
      s.work.staleArrival a = false →
    exec (.collectiveDataArrival l a) s
      = .next (if 4194304 < s.work.heldArrivals l + arrivalBytes a then s
        else { s with dev := { s.dev with arrivals := s.dev.arrivals ++ [(l, a)] } }))
  ∧ (∀ (l : Nat) (a : Arrival) (o : Coll) (s : State), (s.work.link l).state = .up →
      (s.dev.colls.find? fun o => collMatches o a) = some o → a.sender ∉ o.heard → a.paramsHash ≠ o.params →
      (s.work.ctx o.ref.ctx).active = true →
    ∃ u, exec (.collectiveDataArrival l a) s = .next u ∧ u.haltedWith o.ref.ctx 0x64
      ∧ (u.work.ctx o.ref.ctx).halt.detail = a.sender)
  ∧ (∀ (l : Nat) (a : Arrival) (o : Coll) (p : ReduceParams) (s : State), (s.work.link l).state = .up →
      (s.dev.colls.find? fun o => collMatches o a) = some o → a.paramsHash = o.params → o.kind = .reduce p → p.exact = true →
      o.preRound = false → o.trailer = none → s.work.onward o a = none → (s.dev.colls.map fun o => o.id).Nodup →
    ∃ u, exec (.collectiveDataArrival l a) s = .next u ∧ u.mem = s.mem ∧ u.dev.ctxs = s.dev.ctxs ∧ u.dev.tiles = s.dev.tiles
      ∧ u.dev.colls = s.dev.colls.map fun k => if k.id = o.id then
          { k with
            acc := addParts (partialWidth p.contributors) (shardOf o.shards s.dev.deviceNumber).lo k.acc
              (arrivalParts p (shardOf o.shards s.dev.deviceNumber).hi a)
            heard := if o.heard.contains a.sender then k.heard else k.heard ++ [a.sender]
            doneFrom := if a.last then k.doneFrom ++ (a.sender :: a.also) else k.doneFrom }
        else k)
  ∧ (∀ (l : Nat) (a : Arrival) (o : Coll) (p : AllGatherParams) (s : State), Memory.wf s.mem = true → (s.work.link l).state = .up →
      (s.dev.colls.find? fun o => collMatches o a) = some o → a.paramsHash = o.params → o.kind = .allGather p →
      (s.dev.colls.map fun o => o.id).Nodup →
    ∃ u, exec (.collectiveDataArrival l a) s = .next u ∧ u.dev.ctxs = s.dev.ctxs ∧ u.dev.tiles = s.dev.tiles
      ∧ s.stores u (localKey o.ref.ctx (p.dest + a.first * p.elemBytes)) (a.bytes.take ((o.elems - a.first) * p.elemBytes)))
  ∧ (∀ (op : Nat) (t : Trailer) (s : State), s.work.coll op = none →
    exec (.trailerReturn op t) s = .next s ∧ exec (.collectiveTimeout op) s = .next s)
  ∧ (∀ (op : Nat) (t : Trailer) (o : Coll) (p : ReduceParams) (s : State), s.work.coll op = some o → o.kind = .reduce p →
      p.exact = true → o.trailer = none → o.preRound = false → t.contributions ≠ p.contributors →
      (s.work.ctx o.ref.ctx).active = true →
    ∃ u, exec (.trailerReturn op t) s = .next u ∧ u.haltedWith o.ref.ctx 0x64
      ∧ (u.work.ctx o.ref.ctx).halt.detail = t.contributions % 2 ^ 32)
  ∧ (∀ (op : Nat) (t : Trailer) (o : Coll) (p : ReduceParams) (s : State), s.work.coll op = some o → o.kind = .reduce p →
      p.exact = true → o.trailer = none → o.preRound = false → t.contributions = p.contributors → o.finished = false →
      s.work.awaited o ≠ [] → o.ref.ctx < s.dev.ctxs.length →
    ∃ u, exec (.trailerReturn op t) s = .next u
      ∧ u.dev.colls = s.dev.colls.map (fun k => if k.id = op then { k with trailer := some t } else k)
      ∧ s.onCtx u o.ref.ctx fun x => if t.scale || t.compute then
          { x with replay := x.replay.map fun r =>
              { r with scale := r.scale || t.scale, compute := r.compute || t.compute, maxExp := max r.maxExp t.maxExp } }
        else x)
  ∧ (∀ (op : Nat) (t : Trailer) (o : Coll) (p : ReduceParams) (s : State), Memory.wf s.mem = true → s.work.coll op = some o →
      o.kind = .reduce p → p.exact = true → p.int64Out = true → o.trailer = none → o.preRound = false →
      t.contributions = p.contributors → o.finished = false → s.work.awaited o = [] →
    ∃ u, exec (.trailerReturn op t) s = .next u ∧ u.dev.colls = s.dev.colls.filter (fun k => k.id != op)
      ∧ u.dev.tiles = s.dev.tiles
      ∧ s.stores u (localKey o.ref.ctx p.output) ((o.acc.map fun x => leBytes 8 (ofSigned 64 x)).flatten))
  ∧ (∀ (op : Nat) (o : Coll) (s : State), s.work.coll op = some o → s.work.awaited o = [] ∨ o.finished = true →
    exec (.collectiveTimeout op) s = .next s)
  ∧ (∀ (op d : Nat) (ds : List Nat) (o : Coll) (s : State), s.work.coll op = some o → s.work.awaited o = d :: ds →
      o.finished = false → (s.work.ctx o.ref.ctx).active = true →
    ∃ u, exec (.collectiveTimeout op) s = .next u ∧ u.haltedWith o.ref.ctx 0x62
      ∧ (u.work.ctx o.ref.ctx).halt.detail = ds.foldl min d)

/-! ### The haul engine -/

/-- The eight haul actions of a stream (R356, R357, R363 to R368). An issuer that cannot act acts not. A context without a haul allowance
halts with 0x43; a transition on a handle that is not in use with 0x48, one that conflicts with 0x46, one in an open section with 0x83.
REGISTER makes an object resident, INSTALL one that is on its way to its home with its copy in flight; MOVE, REPLACE and RELEASE of a
resident object put it in its state until its commit tick, the first two with their copy; one that must wait is deferred. STAGE and COPY
put a copy in flight. RESIDENCY_QUERY stores the entry's 48 bytes. A host's REGISTER does as a stream's and completes its descriptor. -/
def Obligations.HaulActionsComplete : Prop :=
  (∀ (h : HaulFrom) (a b len n k : Nat) (src : HaulSrc) (ev : Bool) (s : State), (∀ x, s.work.issuer h x = none) →
    exec (.register h a b len n ev) s = .next s ∧ exec (.install h a b src len n k) s = .next s ∧ exec (.move h a b k) s = .next s
      ∧ exec (.replace h a b src k) s = .next s ∧ exec (.release h a k) s = .next s ∧ exec (.stage h src b len) s = .next s
      ∧ exec (.copy h src b len) s = .next s ∧ exec (.residencyQuery h a b) s = .next s)
  ∧ (∀ (r : StreamRef) (i : Instr) (a b len n k : Nat) (src : HaulSrc) (ev : Bool) (s : State), (s.work.ctx r.ctx).active = true →
      (s.work.ctx r.ctx).replay = none → s.work.haulAllowed r.ctx = false →
      i ∈ [Instr.register (.stream r) a b len n ev, .install (.stream r) a b src len n k, .move (.stream r) a b k,
        .replace (.stream r) a b src k, .release (.stream r) a k, .stage (.stream r) src b len, .copy (.stream r) src b len,
        .residencyQuery (.stream r) a b] →
    ∃ u, exec i s = .next u ∧ u.haltedWith r.ctx 0x43 ∧ (u.work.ctx r.ctx).halt.detail = 4)
  ∧ (∀ (r : StreamRef) (i : Instr) (a b len n k : Nat) (src : HaulSrc) (s : State), (s.work.ctx r.ctx).active = true →
      (s.work.ctx r.ctx).replay.isSome = true →
      i ∈ [Instr.install (.stream r) a b src len n k, .move (.stream r) a b k, .replace (.stream r) a b src k,
        .release (.stream r) a k] →
    ∃ u, exec i s = .next u ∧ u.haltedWith r.ctx 0x83)
  ∧ (∀ (r : StreamRef) (handle home len readers : Nat) (ev : Bool) (s : State), (s.work.ctx r.ctx).active = true →
      s.work.haulAllowed r.ctx = true → ownsHandle r.ctx handle = true → badNumbers home len 0 true false = false →
      s.work.homeFault r.ctx handle home len (s.work.obj handle).isSome = none →
    exec (.register (.stream r) handle home len readers ev) s
      = .next { s with dev := { s.dev with
          residency := s.dev.residency ++ [newEntry r.ctx handle home len readers ev .resident s.dev.nowNs] } })
  ∧ (∀ (c ring : Nat) (d : Desc) (s : State), s.work.ready c ring 0x20 false = some d → d.field 0 1 = 0 → s.work.haulAllowed c = true →
      ownsHandle c (d.field 4 2) = true → badNumbers (d.field 8 8) (d.field 24 8) 0 true false = false →
      s.work.homeFault c (d.field 4 2) (d.field 8 8) (d.field 24 8) (s.work.obj (d.field 4 2)).isSome = none →
    ∀ (a b len n : Nat) (ev : Bool), ∃ u, exec (.register (.host c ring) a b len n ev) s = .next u ∧ s.quietly u fun x =>
      { x with residency := x.residency ++
          [newEntry c (d.field 4 2) (d.field 8 8) (d.field 24 8) (d.field 2 2) (bitOf (d.field 6 1) 0) .resident x.nowNs] })
  ∧ (∀ (r : StreamRef) (handle home len readers reason detail : Nat) (ev : Bool) (s : State), (s.work.ctx r.ctx).active = true →
      s.work.haulAllowed r.ctx = true → ownsHandle r.ctx handle = true → badNumbers home len 0 true false = false →
      s.work.homeFault r.ctx handle home len (s.work.obj handle).isSome = some (reason, detail) →
    ∃ u, exec (.register (.stream r) handle home len readers ev) s = .next u ∧ u.haltedWith r.ctx reason
      ∧ (u.work.ctx r.ctx).halt.detail = detail)
  ∧ (∀ (r : StreamRef) (handle home len readers k : Nat) (src : HaulSrc) (s : State), (s.work.ctx r.ctx).active = true →
      (s.work.ctx r.ctx).replay = none → s.work.haulAllowed r.ctx = true → ownsHandle r.ctx handle = true →
      badNumbers home len k true true = false → s.work.obj handle = none → s.work.homeFault r.ctx handle home len false = none →
      s.work.sourceFault r.ctx src len = none → s.work.capTagFault r.ctx home = none → (s.work.localSource src).isSome = true →
    exec (.install (.stream r) handle home src len readers k) s = .next (s.hauled
      (s.dev.residency ++ [{ newEntry r.ctx handle 0 len readers false .installing s.dev.nowNs with
        newHome := home, commitTick := s.work.tick + k }])
      { id := 0, ctx := r.ctx, source := src, dest := home, length := len, handle := some handle, queue := none, ref := some r
        stage := false, host := false, desc := none, dueTick := s.work.tick + k }))
  ∧ (∀ (r : StreamRef) (handle home k : Nat) (e : ResEntry) (s : State), (s.work.ctx r.ctx).active = true →
      (s.work.ctx r.ctx).replay = none → s.work.haulAllowed r.ctx = true → badNumbers home 0 k false true = false →
      s.work.obj handle = some e → e.state = .resident → (e.owner == r.ctx || e.readers.getLsbD r.ctx) = true →
      s.work.homeFault r.ctx handle home e.length false = none → s.work.capTagFault r.ctx home = none →
    exec (.move (.stream r) handle home k) s = .next (s.hauled
      (retable s.dev.residency handle fun x =>
        { x with
          state := .moving, newHome := home, newCharged := r.ctx, commitTick := s.work.tick + k, host := false, descs := []
          copied := false, deferred := none })
      { id := 0, ctx := r.ctx, source := .loc e.home, dest := home, length := e.length, handle := some handle, queue := none
        ref := some r, stage := false, host := false, desc := none, dueTick := s.work.tick + k }))
  ∧ (∀ (r : StreamRef) (handle home k : Nat) (src : HaulSrc) (e : ResEntry) (s : State), (s.work.ctx r.ctx).active = true →
      (s.work.ctx r.ctx).replay = none → s.work.haulAllowed r.ctx = true → badNumbers home 0 k false true = false →
      s.work.obj handle = some e → e.state = .resident → e.owner = r.ctx →
      s.work.homeFault r.ctx handle home e.length false = none → s.work.sourceFault r.ctx src e.length = none →
      s.work.capTagFault r.ctx home = none → (s.work.localSource src).isSome = true →
    exec (.replace (.stream r) handle home src k) s = .next (s.hauled
      (retable s.dev.residency handle fun x =>
        { x with
          state := .replacing, newHome := home, newCharged := r.ctx, commitTick := s.work.tick + k, host := false, descs := []
          copied := false, deferred := none })
      { id := 0, ctx := r.ctx, source := src, dest := home, length := e.length, handle := some handle, queue := none
        ref := some r, stage := false, host := false, desc := none, dueTick := s.work.tick + k }))
  ∧ (∀ (r : StreamRef) (handle k : Nat) (e : ResEntry) (s : State), (s.work.ctx r.ctx).active = true →
      (s.work.ctx r.ctx).replay = none → s.work.haulAllowed r.ctx = true → badNumbers 0 0 k false true = false →
      s.work.obj handle = some e → e.state = .resident → e.owner = r.ctx →
    exec (.release (.stream r) handle k) s = .next { s with dev := { s.dev with
      residency := retable s.dev.residency handle fun x =>
        { x with
          state := .releasing, newHome := 0, newCharged := r.ctx, commitTick := s.work.tick + k, host := false, descs := []
          copied := true, deferred := none } } })
  ∧ (∀ (r : StreamRef) (i : Instr) (handle home k : Nat) (src : HaulSrc) (s : State), (s.work.ctx r.ctx).active = true →
      (s.work.ctx r.ctx).replay = none → s.work.haulAllowed r.ctx = true → badNumbers home 0 k false true = false →
      s.work.obj handle = none → i ∈ [Instr.move (.stream r) handle home k, .replace (.stream r) handle home src k] →
    ∃ u, exec i s = .next u ∧ u.haltedWith r.ctx 0x48 ∧ (u.work.ctx r.ctx).halt.detail = handle)
  ∧ (∀ (r : StreamRef) (handle home k : Nat) (e : ResEntry) (s : State), (s.work.ctx r.ctx).active = true →
      (s.work.ctx r.ctx).replay = none → s.work.haulAllowed r.ctx = true → badNumbers home 0 k false true = false →
      s.work.obj handle = some e → e.owner = r.ctx → s.work.meet e 2 home = .conflicts →
    ∃ u, exec (.move (.stream r) handle home k) s = .next u ∧ u.haltedWith r.ctx 0x46 ∧ (u.work.ctx r.ctx).halt.detail = handle)
  ∧ (∀ (r : StreamRef) (handle home k : Nat) (e : ResEntry) (pp : Bool) (s : State), (s.work.ctx r.ctx).active = true →
      (s.work.ctx r.ctx).replay = none → s.work.haulAllowed r.ctx = true → badNumbers home 0 k false true = false →
      s.work.obj handle = some e → e.owner = r.ctx → s.work.meet e 2 home = .defers pp →
      s.work.homeFault r.ctx handle home e.length false = none → s.work.capTagFault r.ctx home = none →
    ∃ u, exec (.move (.stream r) handle home k) s = .next u ∧ u.mem = s.mem ∧ s.quietly u fun d => { d with
      residency := retable d.residency handle fun x =>
        { x with deferred := some {
            action := 2, ctx := r.ctx, newHome := home, source := .loc 0, k := k, host := false, descs := [], ref := some r } } })
  ∧ (∀ (r : StreamRef) (src : HaulSrc) (dest len : Nat) (s : State), (s.work.ctx r.ctx).active = true →
      s.work.haulAllowed r.ctx = true → (s.work.localSource src).isSome = true →
    (∀ stage, s.work.plainFault r.ctx stage src dest len = none →
      exec (if stage then .stage (.stream r) src dest len else .copy (.stream r) src dest len) s = .next (s.hauled s.dev.residency
        { id := 0, ctx := r.ctx, source := src, dest := dest, length := len, handle := none, queue := none, ref := some r
          stage := stage, host := false, desc := none, dueTick := s.work.tick + 1 }))
    ∧ ∀ stage reason detail, s.work.plainFault r.ctx stage src dest len = some (reason, detail) →
      ∃ u, exec (if stage then .stage (.stream r) src dest len else .copy (.stream r) src dest len) s = .next u
        ∧ u.haltedWith r.ctx reason ∧ (u.work.ctx r.ctx).halt.detail = detail)
  ∧ (∀ (r : StreamRef) (handle dest : Nat) (s : State), Memory.wf s.mem = true → (s.work.ctx r.ctx).active = true →
      s.work.haulAllowed r.ctx = true → s.work.accessFault r.ctx dest 48 true = none →
    ∃ u, exec (.residencyQuery (.stream r) handle dest) s = .next u ∧ u.dev.residency = s.dev.residency ∧ u.dev.ctxs = s.dev.ctxs
      ∧ s.stores u (localKey r.ctx dest)
          (match s.work.obj handle with
            | some e => residencyBytes e
            | none => List.replicate 48 0))

/-- The rest of the haul engine (R361, R362, R365, R376 to R378). A copy whose source is on this device stores exactly its bytes, leaves,
and marks the copy of its object as written; a peer's denial halts its context with 0x48. An old home is free once no issued command
holds it. A re-arm stands for the end of the stream, one more or one of no stream halts with 0x22. An armed stream, and a stream's next
chunk, start a copy into the next window once nothing reads it. At its end a released re-arm takes effect. -/
def Obligations.HaulProceeds : Prop :=
  (∀ (n : Nat) (p : Option PeerData) (s : State), (s.dev.copies.find? fun k => k.id == n) = none → exec (.haulCopyDone n p) s = .next s)
  ∧ (∀ (n a : Nat) (k : HaulCopy) (s : State), (s.dev.copies.find? fun k => k.id == n) = some k → (s.work.ctx k.ctx).active = true →
    ∃ u, exec (.haulCopyDone n (some (.denied a))) s = .next u ∧ u.haltedWith k.ctx 0x48 ∧ (u.work.ctx k.ctx).halt.detail = a)
  ∧ (∀ (n a b : Nat) (k : HaulCopy) (s : State), Memory.wf s.mem = true → (s.dev.copies.find? fun k => k.id == n) = some k →
      s.work.localSource k.source = some a → s.work.copyFault k = .ok b → k.desc = none →
    ∃ u, exec (.haulCopyDone n none) s = .next u ∧ s.stores u (localKey k.ctx k.dest) (s.work.ldN k.ctx a k.length)
      ∧ u.dev.copies = s.dev.copies.filter (fun e => e.id != n) ∧ u.dev.ctxs = s.dev.ctxs ∧ u.dev.tiles = s.dev.tiles
      ∧ u.dev.residency = (match k.handle with
          | some h => retable s.dev.residency h fun e => { e with copied := true }
          | none => s.dev.residency))
  ∧ (∀ (h : Nat) (s : State), (∀ e, e ∈ s.dev.residency → e.handle = h → e.releasing ≠ 0 → s.work.heldByCmd e.releasing e.length = false) →
    exec (.oldHomeRelease h) s = .next { s with dev := { s.dev with
      residency := (s.dev.residency.map fun e => if e.handle = h ∧ e.releasing ≠ 0 then { e with releasing := 0, relCharged := 0 } else e).filter
        fun e => !decide (e.handle = h ∧ e.state = .free ∧ e.releasing = 0) } })
  ∧ (∀ (r : StreamRef) (src : HaulSrc) (count : Option Nat) (q : HaulQueue) (s : State), (s.work.ctx r.ctx).active = true →
      ((s.work.ctx r.ctx).queueOf r.stream).bind s.work.queue = some q → q.params.isSome = true → q.pending = none →
      (∀ n, count = some n → 1 ≤ n ∧ n ≤ 65535) →
    exec (.streamRearm r src count) s = .next { s with dev := { s.dev with
      queues := s.dev.queues.map fun x =>
        if x.number = q.number then { x with pending := some { source := src, count := count, released := false } } else x } })
  ∧ (∀ (r : StreamRef) (src : HaulSrc) (count : Option Nat) (q : HaulQueue) (s : State), (s.work.ctx r.ctx).active = true →
      ((s.work.ctx r.ctx).queueOf r.stream).bind s.work.queue = some q → q.params = none ∨ q.pending.isSome = true →
    ∃ u, exec (.streamRearm r src count) s = .next u ∧ u.haltedWith r.ctx 0x22 ∧ (u.work.ctx r.ctx).halt.detail = q.number)
  ∧ (∀ (n : Nat) (q : HaulQueue) (p : HaulStreamParams) (s : State), s.work.queue n = some q → (s.work.ctx q.ctx).active = true →
      q.params = some p → q.filling = true ∨ q.chunks ≤ q.next →
    exec (.streamChunkFill n none) s = .next s)
  ∧ (∀ (n : Nat) (q : HaulQueue) (p : HaulStreamParams) (s : State), s.work.queue n = some q → (s.work.ctx q.ctx).active = true →
      q.params = some p → q.filling = false → q.next < q.chunks →
      s.work.windowRead q.ctx ((p.windows[q.window]?).getD 0) p.chunkLength = true →
    exec (.streamChunkFill n none) s = .next (s.waited q.ctx Ctr.stallScoreboard 10))
  ∧ (∀ (n : Nat) (q : HaulQueue) (p : HaulStreamParams) (s : State), s.work.queue n = some q → (s.work.ctx q.ctx).active = true →
      q.params = some p → q.filling = false → q.next < q.chunks →
      s.work.windowRead q.ctx ((p.windows[q.window]?).getD 0) p.chunkLength = false →
      s.work.plainFault q.ctx p.stage (chunkSource q.source (q.next * p.chunkLength)) ((p.windows[q.window]?).getD 0) p.chunkLength = none →
      (s.work.localSource (chunkSource q.source (q.next * p.chunkLength))).isSome = true →
    let h := s.hauled s.dev.residency
      { id := 0, ctx := q.ctx, source := chunkSource q.source (q.next * p.chunkLength), dest := (p.windows[q.window]?).getD 0
        length := p.chunkLength, handle := none, queue := some n, ref := none, stage := p.stage, host := false, desc := none
        dueTick := s.work.tick + 1 }
    exec (.streamChunkFill n none) s = .next { h with dev := { h.dev with
      queues := s.dev.queues.map fun x => if x.number = n then { x with filling := true } else x } })
  ∧ (∀ (n : Nat) (q : HaulQueue) (p : HaulStreamParams) (s : State), s.work.queue n = some q → (s.work.ctx q.ctx).active = true →
      s.work.haulAllowed q.ctx = true → HaulStreamParams.ok p = false →
    ∃ u, exec (.streamChunkFill n (some p)) s = .next u ∧ u.haltedWith q.ctx 0x22 ∧ (u.work.ctx q.ctx).halt.detail = n)
  ∧ (∀ (n : Nat) (q : HaulQueue) (s : State), s.work.queue n = some q →
      q.filling = true ∨ q.next < q.chunks ∨ q.pending = none ∨ (∃ r, q.pending = some r ∧ r.released = false) →
    exec (.streamEnd n) s = .next s)
  ∧ (∀ (n : Nat) (q : HaulQueue) (r : Rearm) (s : State), s.work.queue n = some q → q.filling = false → q.chunks ≤ q.next →
      q.pending = some r → r.released = true →
    exec (.streamEnd n) s = .next { s with dev := { s.dev with
      queues := s.dev.queues.map fun x =>
        if x.number = n then { x with source := r.source, chunks := r.count.getD x.chunks, next := 0, pending := none } else x
      counters := ctrAdd s.dev.counters (ctrKey Ctr.haulRearms 31 0xFF) 1 } })

/-- The host's job commands (R389 to R391, R442 to R444, R454). A command whose descriptor cannot start changes nothing. NOP, and a SYNC
of the oldest descriptor, complete with OK; START_JOB, STOP_JOB, UNLOAD_JOB and URGENT_REQUEST in a wrong state complete with
STATE_INVALID. A load checks the image, halting with the reason of the first check that fails, or loads its job; a start checks the
job's requirement and its census table and then waits for a tick; a stop names the step after which the job ends, or the step reached
when it comes late; an unload leaves the context IDLE; a request waits for its dispatch. -/
def Obligations.JobDescriptorsComplete : Prop :=
  (∀ (c ring op : Nat) (serial : Bool) (i : Instr) (s : State), s.work.ready c ring op serial = none →
      (i, op, serial) ∈ [(Instr.nop c ring, 0x00, false), (.sync c ring, 0x01, true), (.loadJob c ring, 0x10, true),
        (.startJob c ring, 0x11, true), (.stopJob c ring, 0x12, true), (.unloadJob c ring, 0x13, true),
        (.urgentRequest c ring, 0x30, false)] →
    exec i s = .next s)
  ∧ (∀ (c ring : Nat) (d : Desc) (s : State), Memory.wf s.mem = true → s.work.waits c ring 0x00 false d →
    ∃ u, exec (.nop c ring) s = .next u ∧ s.completed u c d .ok 0 ∧ s.quietly u id ∧ u.dev.tiles = s.dev.tiles
      ∧ (u.work.ctx c).job = (s.work.ctx c).job ∧ (u.work.ctx c).state = (s.work.ctx c).state)
  ∧ (∀ (c ring : Nat) (d : Desc) (s : State), Memory.wf s.mem = true → s.work.waits c ring 0x01 true d →
    if (s.work.ctx c).oldest d then
      ∃ u, exec (.sync c ring) s = .next u ∧ s.completed u c d .ok 0 ∧ s.quietly u id ∧ u.dev.tiles = s.dev.tiles
        ∧ (u.work.ctx c).job = (s.work.ctx c).job ∧ (u.work.ctx c).state = (s.work.ctx c).state
    else exec (.sync c ring) s = .next s)
  ∧ (∀ (c ring op : Nat) (serial : Bool) (d : Desc) (i : Instr) (s : State), Memory.wf s.mem = true → s.work.waits c ring op serial d →
      (i = .startJob c ring ∧ op = 0x11 ∧ serial = true
          ∧ ((s.work.ctx c).job = none ∨ (s.work.ctx c).state ≠ .loaded ∨ ∃ j, (s.work.ctx c).job = some j ∧ j.startDesc.isSome = true))
        ∨ (i = .stopJob c ring ∧ op = 0x12 ∧ serial = true ∧ ((s.work.ctx c).job = none ∨ (s.work.ctx c).state ≠ .running))
        ∨ (i = .unloadJob c ring ∧ op = 0x13 ∧ serial = true
          ∧ ((s.work.ctx c).state = .running ∨ ∃ j, (s.work.ctx c).job = some j ∧ j.startDesc.isSome = true))
        ∨ (i = .urgentRequest c ring ∧ op = 0x30 ∧ serial = false ∧ (s.work.ctx c).state ≠ .running) →
    ∃ u, exec i s = .next u ∧ s.completed u c d .stateInvalid 0 ∧ s.quietly u id ∧ u.dev.tiles = s.dev.tiles
      ∧ (u.work.ctx c).job = (s.work.ctx c).job ∧ (u.work.ctx c).state = (s.work.ctx c).state)
  ∧ (∀ (c ring : Nat) (d : Desc) (s : State), s.work.waits c ring 0x10 true d → (s.work.ctx c).job.isSome = true →
    ∃ u, exec (.loadJob c ring) s = .next u ∧ u.haltedWith c 0x22)
  ∧ (∀ (c ring : Nat) (d : Desc) (s : State), s.work.waits c ring 0x10 true d → (s.work.ctx c).job = none →
      (∀ e, e ∈ s.dev.residency → e.handle = d.field 0 2 → e.state = .resident → e.owner = c → s.fuses.space e.home ≠ .hbm) →
    ∃ u, exec (.loadJob c ring) s = .next u ∧ u.haltedWith c 0x48 ∧ (u.work.ctx c).halt.detail = d.field 0 2)
  ∧ (∀ (c ring : Nat) (d : Desc) (e : ResEntry) (s : State), s.work.waits c ring 0x10 true d → (s.work.ctx c).job = none →
      (s.dev.residency.find? fun e =>
        e.handle == d.field 0 2 && decide (e.state = .resident) && e.owner == c && decide (s.fuses.space e.home = .hbm)) = some e →
      s.work.poisonIn e.home e.length = none →
    (∀ reason detail, s.work.loadFault c e.home e.length = some (reason, detail) →
      ∃ u, exec (.loadJob c ring) s = .next u ∧ u.haltedWith c reason ∧ (u.work.ctx c).halt.detail = detail)
    ∧ (s.work.loadFault c e.home e.length = none → ∃ u, exec (.loadJob c ring) s = .next u
      ∧ (u.work.ctx c).state = .loaded
      ∧ (u.work.ctx c).job = some (s.work.imageJob e.home (d.field 0 2) (s.work.sections e.home))
      ∧ (u.work.ctx c).fetched = (s.work.ctx c).fetched.filter (fun e => e.seq != d.seq)
      ∧ u.dev.queues = (s.dev.queues.filter fun q => q.ctx != c) ++ s.work.loadQueues c e.home (s.work.sections e.home)
      ∧ u.dev.sec.jobDigests
        = updAt s.dev.sec.jobDigests c fun _ => Config.sha384 (s.work.rdN e.home (s.work.le (e.home + 16) 8))))
  ∧ (∀ (c ring : Nat) (d : Desc) (j : Job) (s : State), s.work.waits c ring 0x11 true d → (s.work.ctx c).job = some j →
      (s.work.ctx c).state = .loaded → j.startDesc = none →
    (s.work.startCause c j ≠ 0 →
      ∃ u, exec (.startJob c ring) s = .next u ∧ u.haltedWith c 0x2B ∧ (u.work.ctx c).halt.detail = s.work.startCause c j)
    ∧ (∀ a, s.work.startCause c j = 0 → s.work.censusOutside c j = some a →
      ∃ u, exec (.startJob c ring) s = .next u ∧ u.haltedWith c 0x48 ∧ (u.work.ctx c).halt.detail = a)
    ∧ (s.work.startCause c j = 0 → s.work.censusOutside c j = none → ∃ u, exec (.startJob c ring) s = .next u
      ∧ (u.work.ctx c).job = some { j with startDesc := some { d with started := true } } ∧ (u.work.ctx c).state = .loaded
      ∧ (∀ k, k ≠ c → u.work.ctx k = s.work.ctx k) ∧ u.mem = s.mem ∧ u.dev.tiles = s.dev.tiles
      ∧ u.dev.machineStopped = (s.dev.machineStopped && !j.machine)))
  ∧ (∀ (c ring : Nat) (d : Desc) (j : Job) (s : State), Memory.wf s.mem = true → s.work.waits c ring 0x12 true d →
      (s.work.ctx c).job = some j → (s.work.ctx c).state = .running →
    let late := decide (stepsFrom j.firstStep (d.field 0 4) < stepsFrom j.firstStep j.step)
    ∃ u, exec (.stopJob c ring) s = .next u ∧ s.quietly u id ∧ u.dev.tiles = s.dev.tiles
      ∧ s.completed u c d (if late then .stopLate else .ok) (if late then j.step % 2 ^ 32 else 0)
      ∧ (u.work.ctx c).job = some { j with stopStep := some (if late then j.step else d.field 0 4) })
  ∧ (∀ (c ring : Nat) (d : Desc) (s : State), Memory.wf s.mem = true → s.work.waits c ring 0x13 true d → (s.work.ctx c).state ≠ .running →
      (∀ j, (s.work.ctx c).job = some j → j.startDesc = none) →
    ∃ u, exec (.unloadJob c ring) s = .next u ∧ s.completed u c d .ok 0
      ∧ (u.work.ctx c).job = none ∧ (u.work.ctx c).state = .idle ∧ u.dev.queues = s.dev.queues.filter fun q => q.ctx != c)
  ∧ (∀ (c ring : Nat) (d : Desc) (s : State), s.work.waits c ring 0x30 false d → (s.work.ctx c).state = .running →
    exec (.urgentRequest c ring) s = .next { s with dev := { s.dev with
      ctxs := updAt s.dev.ctxs c fun x =>
        { x with
          fetched := x.fetched.map fun e => if e.seq = d.seq then { e with started := true } else e
          waiting := x.waiting ++ [{ d with started := true : Desc }.request] } } })

/-- Doorbells, descriptor fetch and context setup (R373, R431, R435, R436, R439 to R441, R446, R452, R453). Nothing answers before boot or
in recovery, and a virtual function's writes of privileged fields change nothing. A doorbell moves its index, or is reported when its
value is out of range (for a disabled context it is ignored: the model's choice, log 43). A fetch moves the ring's head by as many
descriptors as fit and adds them to the context. The coalescing timer signals what is due. Enabling checks the setup and waits for the
engine domains; disabling discards what was fetched; clearing a halt unloads the job. CTX_URGENT, CTX_TILE_MASK and CTX_ARENA_VALID are
taken whole or refused whole, and new tiles are zeroed. -/
def Obligations.ContextSetupCompletes : Prop :=
  (∀ (c a b : Nat) (v : Bool) (i : Instr) (s : State), s.dev.responds = false →
      i ∈ [Instr.dbCmdTail c a b, .dbCplHead c b, .dbEvtHead c b, .ctxEnableSet c, .ctxEnableClear c, .ctxClear c, .ctxUrgent 0 c v,
        .ctxTileMask 0 c b, .ctxArenaValid 0 c v, .ctxUrgentLatClear c] →
    exec i s = .next s)
  ∧ (∀ (fn c b : Nat) (v : Bool) (i : Instr) (s : State), fn ≠ 0 →
      i ∈ [Instr.ctxUrgent fn c v, .ctxTileMask fn c b, .ctxArenaValid fn c v] → exec i s = .next s)
  ∧ (∀ (c ring v : Nat) (i : Instr) (s : State), (s.work.ctx c).enable = false →
      i ∈ [Instr.dbCmdTail c ring v, .dbCplHead c v, .dbEvtHead c v] → exec i s = .next s)
  ∧ (∀ (c ring v : Nat) (s : State), s.dev.responds = true → (s.work.ctx c).enable = true →
      ((s.work.ctx c).ring ring).size ≠ 0 → v % 65536 < 2 ^ ((s.work.ctx c).ring ring).size →
    exec (.dbCmdTail c ring v) s = .next { s with dev := { s.dev with
      ctxs := updAt s.dev.ctxs c fun x => x.updRing ring fun r => r.ringBell (v % 65536) s.dev.nowNs } })
  ∧ (∀ (c v : Nat) (s : State), s.dev.responds = true → (s.work.ctx c).enable = true → v % 65536 < 2 ^ (s.work.ctx c).cpl.size →
    exec (.dbCplHead c v) s = .next { s with dev := { s.dev with
      ctxs := updAt s.dev.ctxs c fun x => { x with cpl := { x.cpl with head := v % 65536 } } } })
  ∧ (∀ (c v : Nat) (s : State), s.dev.responds = true → (s.work.ctx c).enable = true → v % 4096 < 2 ^ (s.work.ctx c).evt.size →
    exec (.dbEvtHead c v) s = .next { s with dev := { s.dev with
      ctxs := updAt s.dev.ctxs c fun x => { x with evt := { x.evt with head := v % 4096 } } } })
  ∧ (∀ (c ring v off value : Nat) (i : Instr) (s : State), Memory.wf s.mem = true → s.dev.responds = true → (s.work.ctx c).enable = true →
      c < s.dev.ctxs.length →
      (i = .dbCmdTail c ring v ∧ off = 8 * ring ∧ value = v % 65536
          ∧ (((s.work.ctx c).ring ring).size = 0 ∨ 2 ^ ((s.work.ctx c).ring ring).size ≤ value))
        ∨ (i = .dbCplHead c v ∧ off = 0x20 ∧ value = v % 65536 ∧ 2 ^ (s.work.ctx c).cpl.size ≤ value)
        ∨ (i = .dbEvtHead c v ∧ off = 0x28 ∧ value = v % 4096 ∧ 2 ^ (s.work.ctx c).evt.size ≤ value) →
    ∃ u, exec i s = .next u ∧ s.quietly u id ∧ (u.work.ctx c).cmd = (s.work.ctx c).cmd ∧ (u.work.ctx c).cpl = (s.work.ctx c).cpl
      ∧ (u.work.ctx c).evt.head = (s.work.ctx c).evt.head ∧ (∀ k, k ≠ c → u.work.ctx k = s.work.ctx k)
      ∧ ((s.work.ctx c).evt.full = false → s.posted u c false
          (s.work.event 0x0003 c (leBytes 1 (off / 8) ++ leBytes 1 0 ++ leBytes 2 value))))
  ∧ (∀ (c ring : Nat) (s : State), ¬ s.work.mayFetch c ring ∨ (s.work.ctx c).fetchCount ((s.work.ctx c).ring ring) = 0 →
    exec (.descriptorFetch c ring) s = .next s)
  ∧ (∀ (c ring : Nat) (s : State), s.work.mayFetch c ring → c < s.dev.ctxs.length → ring < (s.work.ctx c).cmd.length →
      ((s.work.ctx c).ring ring).head < 2 ^ ((s.work.ctx c).ring ring).size →
    ∃ u, exec (.descriptorFetch c ring) s = .next u ∧ s.quietly u id ∧ u.dev.tiles = s.dev.tiles
      ∧ (∀ k, k ≠ c → u.work.ctx k = s.work.ctx k)
      ∧ ((u.work.ctx c).ring ring).head = (((s.work.ctx c).ring ring).head + (s.work.ctx c).fetchCount ((s.work.ctx c).ring ring))
          % 2 ^ ((s.work.ctx c).ring ring).size)
  ∧ (∀ (c ring : Nat) (s : State), s.work.mayFetch c ring → c < s.dev.ctxs.length → (s.work.ctx c).halt.valid = false →
      (s.work.ctx c).fetchCount ((s.work.ctx c).ring ring) = 1 → (s.work.ctx c).opcodeBad c (s.work.nextDesc c ring) = false →
    ∃ u, exec (.descriptorFetch c ring) s = .next u ∧ s.onCtx u c fun x =>
      { x with
        fetched := x.fetched ++ [s.work.nextDesc c ring], fetchSeq := x.fetchSeq + 1
        cmd := updAt x.cmd ring fun r =>
          { r with head := (s.work.nextDesc c ring).head, bells := (takeBell ((s.work.ctx c).ring ring).bells).2 } })
  ∧ (∀ (c : Nat) (s : State),
    if (s.work.ctx c).unsignalled = 0 ∨ (s.work.ctx c).coalesceTime = 0
        ∨ s.dev.nowNs < (s.work.ctx c).unsignalledAt + 100 * (s.work.ctx c).coalesceTime then
      exec (.coalesceTimer c) s = .next s
    else
      exec (.coalesceTimer c) s = .next { s with dev := { s.dev with
        ctxs := updAt s.dev.ctxs c fun x => { x with unsignalled := 0 }
        hif :=
          if (c, 0) ∉ s.dev.hif.masked then { s.dev.hif with msixOut := s.dev.hif.msixOut ++ [(c, 0)] }
          else if (c, 0) ∈ s.dev.hif.pendingBits then s.dev.hif
          else { s.dev.hif with pendingBits := s.dev.hif.pendingBits ++ [(c, 0)] } } })
  ∧ (∀ (c : Nat) (s : State), (s.work.ctx c).enable = true ∨ s.dev.pwr.hbmSleep = true ∨ s.dev.pwr.faultHeld = true →
    exec (.ctxEnableSet c) s = .next s)
  ∧ (∀ (c : Nat) (s : State), s.dev.responds = true → (s.work.ctx c).enable = false → s.dev.pwr.hbmSleep = false →
      s.dev.pwr.faultHeld = false →
    (s.work.enableCause c ≠ 0 → exec (.ctxEnableSet c) s = .next { s with dev := { s.dev with
      ctxs := updAt s.dev.ctxs c fun x => { x with enableCause := s.work.enableCause c } } })
    ∧ (s.work.enableCause c = 0 → s.dev.pwr.enginesOn = true → c ≠ 0 ∨ s.dev.heldEvents = [] →
      exec (.ctxEnableSet c) s = .next { s with dev := { s.dev with
        ctxs := updAt s.dev.ctxs c Ctx.opened, pwr := { s.dev.pwr with idleTimer := false } } })
    ∧ (s.work.enableCause c = 0 → s.dev.pwr.enginesOn = true → c < s.dev.ctxs.length → ∃ u, exec (.ctxEnableSet c) s = .next u
      ∧ (u.work.ctx c).enable = true ∧ (u.work.ctx c).state = .idle ∧ (∀ k, k ≠ c → u.work.ctx k = s.work.ctx k)
      ∧ u.dev.heldEvents = (if c = 0 then [] else s.dev.heldEvents) ∧ u.dev.pwr = { s.dev.pwr with idleTimer := false })
    ∧ (s.work.enableCause c = 0 → s.dev.pwr.enginesOn = false → exec (.ctxEnableSet c) s = .next (s.withPwr fun q =>
        let p := engineDomains.foldl Pwr.wantOn { q with idleTimer := false }
        { p with enableWait := if c ∈ p.enableWait then p.enableWait else p.enableWait ++ [c] })))
  ∧ (∀ (c : Nat) (s : State), s.dev.responds = true →
      (s.work.ctx c).enable = false ∨ (s.work.ctx c).state = .loaded ∨ (s.work.ctx c).state = .running →
    exec (.ctxEnableClear c) s = .next (s.withPwr fun p => { p with enableWait := p.enableWait.filter fun k => k != c }))
  ∧ (∀ (c : Nat) (s : State), s.dev.responds = true → c < s.dev.ctxs.length → (s.work.ctx c).enable = true →
      (s.work.ctx c).state ≠ .loaded → (s.work.ctx c).state ≠ .running →
    ∃ u, exec (.ctxEnableClear c) s = .next u ∧ (u.work.ctx c).enable = false ∧ (u.work.ctx c).state = .disabled
      ∧ (u.work.ctx c).fetched = [] ∧ (u.work.ctx c).job = (s.work.ctx c).job ∧ (∀ k, k ≠ c → u.work.ctx k = s.work.ctx k)
      ∧ u.dev.tiles = s.dev.tiles
      ∧ u.dev.pwr.idleTimer = (s.dev.pwr.idleTimer
          || ((contexts.all fun k => k == c || !(s.work.ctx k).enable) && (s.dev.pwr.enableWait.filter fun k => k != c).isEmpty)))
  ∧ (∀ (c : Nat) (s : State), (s.work.ctx c).halt.valid = false ∨ s.dev.pwr.faultHeld = true → exec (.ctxClear c) s = .next s)
  ∧ (∀ (c : Nat) (s : State), s.dev.responds = true → c < s.dev.ctxs.length → (s.work.ctx c).halt.valid = true →
      s.dev.pwr.faultHeld = false →
    ∃ u, exec (.ctxClear c) s = .next u ∧ u.mem = s.mem ∧ (u.work.ctx c).halt = HaltRec.empty
      ∧ (u.work.ctx c).streamHalt = HaltRec.empty ∧ (u.work.ctx c).job = none
      ∧ (u.work.ctx c).state = (if (s.work.ctx c).enable then .idle else .disabled) ∧ (∀ k, k ≠ c → u.work.ctx k = s.work.ctx k)
      ∧ (∀ t, t < s.dev.tiles.length → t ∈ (s.work.ctx c).tiles → (u.work.tile t).halt = HaltRec.empty)
      ∧ (∀ t, t ∉ (s.work.ctx c).tiles → u.work.tile t = s.work.tile t))
  ∧ (∀ (c : Nat) (v : Bool) (s : State), s.dev.responds = true →
    let x := s.work.ctx c
    let free := (x.state = .disabled ∨ x.state = .idle)
      ∧ (v = true → 0x0200 ≤ x.ringVersion ∧ ∀ k, k < 16 → k ≠ c → (s.work.ctx k).urgent = false)
    (v = x.urgent → exec (.ctxUrgent 0 c v) s = .next s)
    ∧ (v ≠ x.urgent → free → exec (.ctxUrgent 0 c v) s
        = .next { s with dev := { s.dev with ctxs := updAt s.dev.ctxs c fun x => { x with urgent := v } } })
    ∧ (v ≠ x.urgent → ¬ free → exec (.ctxUrgent 0 c v) s
        = .next { s with dev := { s.dev with ctxs := updAt s.dev.ctxs c fun x => { x with urgentRefused := true } } }))
  ∧ (∀ (c m : Nat) (s : State), s.dev.responds = true → s.work.tileCause c (BitVec.ofNat 64 m) ≠ 0 →
    exec (.ctxTileMask 0 c m) s = .next { s with dev := { s.dev with
      ctxs := updAt s.dev.ctxs c fun x => { x with tileCause := s.work.tileCause c (BitVec.ofNat 64 m) } } })
  ∧ (∀ (c m : Nat) (s : State), s.dev.responds = true → Memory.wf s.mem = true → c < s.dev.ctxs.length → 64 ≤ s.dev.tiles.length →
      s.work.tileCause c (BitVec.ofNat 64 m) = 0 →
    let fresh := fun t => t < 64 ∧ m.testBit t = true ∧ (s.work.ctx c).tileMask.getLsbD t = false
    ∃ u, exec (.ctxTileMask 0 c m) s = .next u
      ∧ (u.work.ctx c).tileMask = BitVec.ofNat 64 m ∧ (u.work.ctx c).tileCause = 0
      ∧ (∀ k, k ≠ c → u.work.ctx k = s.work.ctx k)
      ∧ (∀ t, fresh t → u.work.tile t = Tile.zeroed) ∧ (∀ t, ¬ fresh t → u.work.tile t = s.work.tile t)
      ∧ (∀ t k, fresh t → Memory.within (tileStorage t) k = true → Memory.read u.mem k = 0)
      ∧ (∀ k, (∀ t, fresh t → Memory.within (tileStorage t) k = false) → Memory.read u.mem k = Memory.read s.mem k))
  ∧ (∀ (c : Nat) (v : Bool) (s : State),
      (s.work.ctx c).state = .loaded ∨ (s.work.ctx c).state = .running ∨ s.dev.pwr.hbmSleep = true →
    exec (.ctxArenaValid 0 c v) s = .next s)
  ∧ (∀ (c : Nat) (v : Bool) (s : State), s.dev.responds = true → (s.work.ctx c).state = .disabled ∨ (s.work.ctx c).state = .idle →
      s.dev.pwr.hbmSleep = false →
    exec (.ctxArenaValid 0 c v) s = .next { s with dev := { s.dev with
      ctxs := updAt s.dev.ctxs c fun x =>
        if v && s.work.arenaBad c then { x with arenaValid := false, arenaOverlap := true } else { x with arenaValid := v } } })
  ∧ (∀ (c : Nat) (s : State), s.dev.responds = true →
    exec (.ctxUrgentLatClear c) s = .next { s with dev := { s.dev with ctxs := updAt s.dev.ctxs c fun x => { x with latMax := 0 } } })

/-- The host port and its resets (R430, R432 to R434, R452, R564). A link that comes up takes its rate, its width and what the host wrote
beside it, and reports less than 64 GT/s in sixteen lanes; a lost link halts every running context. Correctable errors count, an
invalidation drops the translations of its range, an unmasked vector sends what was pending. A function-level reset returns its
context's rings, work, objects and tiles to their reset state and leaves every other context alone; that of the physical function does
so for all, stops the pitch and restores the boot configuration. -/
def Obligations.HostPortCompletes : Prop :=
  (∀ (sp w n bm : Nat) (s : State),
    let h := { s.dev.hif with
      speed := sp % 8, width := w % 32, flitMode := decide (sp % 8 = 6), srisActive := s.dev.pwr.hostSris, numVfs := n % 16
      vfEnable := decide (n % 16 ≠ 0), busMaster := BitVec.ofNat 16 bm }
    let e := s.work.event 0x0004 0xFF (leBytes 1 (gtps (sp % 8)) ++ leBytes 1 (w % 32))
    (sp % 8 = 6 ∧ w % 32 = 16 → exec (.hostLinkUp sp w n bm) s = .next { s with dev := { s.dev with hif := h } })
    ∧ (¬ (sp % 8 = 6 ∧ w % 32 = 16) → (s.work.ctx 0).enable = false → exec (.hostLinkUp sp w n bm) s
        = .next { s with dev := { s.dev with hif := h, heldEvents := s.dev.heldEvents ++ [e] } })
    ∧ (¬ (sp % 8 = 6 ∧ w % 32 = 16) → (s.work.ctx 0).enable = true → 0 < s.dev.ctxs.length → Memory.wf s.mem = true →
        ∃ u, exec (.hostLinkUp sp w n bm) s = .next u ∧ s.quietly u id ∧ u.dev.hif.speed = sp % 8 ∧ u.dev.hif.width = w % 32
          ∧ u.dev.hif.numVfs = n % 16 ∧ u.dev.hif.busMaster = BitVec.ofNat 16 bm
          ∧ ((s.work.ctx 0).evt.full = false → s.posted u 0 true e)))
  ∧ (∀ s : State, s.dev.pitch.run = false → s.work.jobActive = false → exec .hostLinkLoss s = .next { s with dev := { s.dev with
      hif := { s.dev.hif with speed := 0, width := 0, flitMode := false, srisActive := false } } })
  ∧ (∀ s : State, s.dev.pitch.run = true ∨ s.work.jobActive = true → ∃ u, exec .hostLinkLoss s = .next u
      ∧ s.haltsAll u 0x61 0xFFFFFFFF ∧ s.quietly u id ∧ u.dev.hif.speed = 0 ∧ u.dev.hif.width = 0)
  ∧ (∀ (fn iova size : Nat) (s : State), exec (.atsInvalidation fn iova size) s = .next { s with dev := { s.dev with
      hif := { s.dev.hif with atc := s.dev.hif.atc.filter fun e => decide (e.1 ≠ fn ∨ overlaps e.2.1 e.2.2 iova size = false) } } })
  ∧ (∀ s : State, exec .hostCorrectableError s = .next { s with dev := { s.dev with
      hif := { s.dev.hif with correctable := if s.dev.hif.correctable = 0xFFFFFFFF then 0xFFFFFFFF else s.dev.hif.correctable + 1 } } })
  ∧ (∀ (fn v : Nat) (s : State), exec (.msixVectorUnmask fn v) s = .next { s with dev := { s.dev with
      hif := { s.dev.hif with
        masked := s.dev.hif.masked.filter fun m => m != (fn, v), pendingBits := s.dev.hif.pendingBits.filter fun m => m != (fn, v)
        msixOut := if (fn, v) ∈ s.dev.hif.pendingBits then s.dev.hif.msixOut ++ [(fn, v)] else s.dev.hif.msixOut } } })
  ∧ (∀ (c : Nat) (s : State), c < s.dev.ctxs.length → Memory.wf s.mem = true →
    ∃ u, exec (.vfFlr c) s = .next u
      ∧ ((u.work.ctx c).enable = false ∧ (u.work.ctx c).state = .disabled ∧ (u.work.ctx c).ringVersion = 0x0100
        ∧ (u.work.ctx c).cmd = List.replicate 4 CmdRing.reset ∧ (u.work.ctx c).cpl = OutRing.reset ∧ (u.work.ctx c).evt = OutRing.reset
        ∧ (u.work.ctx c).halt = HaltRec.empty ∧ (u.work.ctx c).streamHalt = HaltRec.empty ∧ (u.work.ctx c).job = none
        ∧ (u.work.ctx c).fetched = [] ∧ (u.work.ctx c).cmds = [] ∧ (u.work.ctx c).tileMask = (s.work.ctx c).tileMask
        ∧ (u.work.ctx c).arena = (s.work.ctx c).arena)
      ∧ (∀ k, k ≠ c → u.work.ctx k = s.work.ctx k)
      ∧ (∀ t, t ∈ (s.work.ctx c).tiles → t < s.dev.tiles.length → u.work.tile t = Tile.zeroed)
      ∧ (∀ t, t ∉ (s.work.ctx c).tiles → u.work.tile t = s.work.tile t)
      ∧ (∀ e, e ∈ u.dev.residency → e.owner ≠ c)
      ∧ (∀ k, (u.dev.hif.busMaster.getLsbD k) = (decide (k ≠ c) && s.dev.hif.busMaster.getLsbD k))
      ∧ ((c, 0) ∈ u.dev.hif.masked ∧ (c, 1) ∈ u.dev.hif.masked ∧ ∀ v, (c, v) ∉ u.dev.hif.pendingBits)
      ∧ (∀ t k, t ∈ (s.work.ctx c).tiles → Memory.within (tileStorage t) k = true → Memory.read u.mem k = 0)
      ∧ (∀ k, (∀ t, t ∈ (s.work.ctx c).tiles → Memory.within (tileStorage t) k = false) → Memory.read u.mem k = Memory.read s.mem k))
  ∧ (∀ s : State, s.dev.ctxs.length = 16 → ∃ u, exec .pfFlr s = .next u
      ∧ (∀ c, c < 16 → (u.work.ctx c).enable = false ∧ (u.work.ctx c).state = .disabled ∧ (u.work.ctx c).job = none
        ∧ (u.work.ctx c).halt = HaltRec.empty ∧ (u.work.ctx c).cmd = List.replicate 4 CmdRing.reset)
      ∧ u.dev.hif.vfEnable = false ∧ u.dev.hif.numVfs = 0 ∧ u.dev.hif.busMaster = 0 ∧ u.dev.pitch.run = false
      ∧ u.dev.active = s.dev.bootSet ∧ u.dev.shadow = s.dev.bootSet ∧ u.dev.cfg.armed = none)

/-- The chip-to-chip links (R461 to R466, R473, R477, R478). A training starts on a present link that is neither held nor training, and
switches its domain on where it is off; it ends with the link UP, or FAILED with its cause. A flit is taken only on an UP link: a bad CRC
is counted and answered by a NAK for the expected sequence, data out of sequence is dropped, data in sequence moves the expected number
and returns credits. A NAK replays the retry buffer; the eighth for one sequence, a lane that loses lock, an acknowledgement that never
comes, a hold and a new training take an UP link down, which halts the contexts that need it. -/
def Obligations.LinksComplete : Prop :=
  (∀ (l : Nat) (s : State), s.fuses.links.getLsbD l = false ∨ (s.work.link l).disable = true ∨ (s.work.link l).state = .training →
    exec (.linkTrain l) s = .next s)
  ∧ (∀ (l : Nat) (s : State), s.fuses.links.getLsbD l = true → (s.work.link l).disable = false →
      (s.work.link l).state = .down ∨ (s.work.link l).state = .failed →
    exec (.linkTrain l) s = .next { s with dev := { s.dev with
      links := updAt s.dev.links l fun k => k.down .training
      pwr := if s.dev.pwr.domains.getLsbD (linkDomain l) then s.dev.pwr else
        { s.dev.pwr.request (linkDomain l) true with linkGroupEn := s.dev.pwr.linkGroupEn ||| BitVec.ofNat 6 (2 ^ (l / 6)) } } })
  ∧ (∀ (l lane seq : Nat) (i : Instr) (after : LinkState) (hold : Bool) (s : State), l < s.dev.links.length → (s.work.link l).state = .up →
      (i = .linkTrain l ∧ after = .training ∧ hold = false ∧ s.fuses.links.getLsbD l = true ∧ (s.work.link l).disable = false)
        ∨ (i = .linkDisable l true ∧ after = .down ∧ hold = true ∧ s.fuses.links.getLsbD l = true)
        ∨ (i = .laneLossOfLock l lane ∧ after = .down ∧ hold = (s.work.link l).disable ∧ (s.work.link l).lanes.getLsbD lane = true)
        ∨ (i = .ackTimeout l ∧ after = .down ∧ hold = (s.work.link l).disable ∧ (s.work.link l).retry ≠ [])
        ∨ (i = .nakReceive l seq ∧ after = .down ∧ hold = (s.work.link l).disable ∧ (s.work.link l).nakSeq = some seq
          ∧ 7 ≤ (s.work.link l).nakRuns) →
    ∃ u, exec i s = .next u ∧ s.linkLost u l { (s.work.link l).down after with disable := hold })
  ∧ (∀ (l lane : Nat) (s : State), (s.work.link l).state ≠ .up ∨ (s.work.link l).lanes.getLsbD lane = false →
    exec (.laneLossOfLock l lane) s = .next s)
  ∧ (∀ (l : Nat) (s : State), (s.work.link l).state ≠ .up ∨ (s.work.link l).retry = [] → exec (.ackTimeout l) s = .next s)
  ∧ (∀ (l : Nat) (v : Bool) (s : State), s.fuses.links.getLsbD l = false → exec (.linkDisable l v) s = .next s)
  ∧ (∀ (l : Nat) (v : Bool) (s : State), s.fuses.links.getLsbD l = true → v = false ∨ (s.work.link l).state ≠ .up →
    exec (.linkDisable l v) s = .next { s with dev := { s.dev with
      links := updAt s.dev.links l fun k => { (if v then k.down .down else k) with disable := v } } })
  ∧ (∀ (l : Nat) (r : TrainResult) (s : State), (s.work.link l).state ≠ .training → exec (.linkTrainingDone l r) s = .next s)
  ∧ (∀ (l : Nat) (r : TrainResult) (s : State), l < s.dev.links.length → (s.work.link l).state = .training →
    ∃ u, exec (.linkTrainingDone l r) s = .next u ∧ u.dev.tiles = s.dev.tiles ∧ (∀ j, j ≠ l → u.work.link j = s.work.link j)
      ∧ u.work.link l = (match trainCause r with
        | some cause => { (s.work.link l).down .failed with failCause := cause }
        | none =>
          { (s.work.link l).down .up with
            v1 := !r.peerV2, spareIn := (failedLane ((List.range 5).filter fun n => r.passing.contains n)).isSome
            lanes := BitVec.ofNat 5 ((((List.range 5).filter fun n => r.passing.contains n).take 4).foldl (fun n i => n + 2 ^ i) 0)
            latencyNs10 := r.latencyNs10, peerId := r.peerId, peerLink := r.peerLink, peer9300 := r.peer9300
            credits := initialCredits })
      ∧ ((s.work.ctx 0).enable = false → u.dev.heldEvents.getLast? = some (match trainCause r with
          | some cause => s.work.event 0x0041 0xFF (leBytes 1 l ++ leBytes 1 cause)
          | none => s.work.event 0x0040 0xFF (leBytes 1 l ++ leBytes 1 (if r.peerV2 then 0 else 1) ++ leBytes 2 r.latencyNs10))))
  ∧ (∀ (l n seq : Nat) (f : Flit) (ok : Bool) (i : Instr) (s : State), (s.work.link l).state ≠ .up →
      i ∈ [Instr.flitReceive l f n ok, .nakReceive l seq] → exec i s = .next s)
  ∧ (∀ (l n : Nat) (f : Flit) (s : State), (s.work.link l).state = .up →
    exec (.flitReceive l f n false) s = .next { s with dev := { s.dev with
      links := updAt s.dev.links l fun k => { k with discarding := true }
      linkOut := s.dev.linkOut ++ [{ link := l, dest := (s.work.link l).peerId, jobTag := 0, msg := .nak (s.work.link l).expectSeq }]
      counters := ctrAdd (ctrAdd (ctrAdd s.dev.counters (ctrKey Ctr.linkFecCorrected 31 l) (BitVec.ofNat 64 n))
        (ctrKey Ctr.linkCrcErrors 31 l) 1) (ctrKey Ctr.linkFlitsSent 31 l) 1 } })
  ∧ (∀ (l n : Nat) (f : Flit) (s : State), (s.work.link l).state = .up → f.type_ = 0 → f.seq ≠ (s.work.link l).expectSeq →
    exec (.flitReceive l f n true) s = .next { s with dev := { s.dev with
      counters := ctrAdd s.dev.counters (ctrKey Ctr.linkFecCorrected 31 l) (BitVec.ofNat 64 n) } })
  ∧ (∀ (l n : Nat) (f : Flit) (s : State), (s.work.link l).state = .up → f.cls < 5 →
      (f.type_ = 0 ∧ f.seq = (s.work.link l).expectSeq ∧ f.dest = s.dev.deviceNumber ∧ f.read = none) ∨ f.type_ = 1 ∨ f.type_ = 4 →
    exec (.flitReceive l f n true) s = .next { s with dev := { s.dev with
      links := updAt s.dev.links l fun k =>
        if f.type_ = 0 then { k.acknowledge f with expectSeq := (k.expectSeq + 1) % 4096, discarding := false } else k.acknowledge f
      counters :=
        let c := ctrAdd s.dev.counters (ctrKey Ctr.linkFecCorrected 31 l) (BitVec.ofNat 64 n)
        if f.type_ = 1 then c else ctrAdd c (ctrKey Ctr.linkFlitsReceived 31 l) 1 } })
  ∧ (∀ (l seq : Nat) (s : State), l < s.dev.links.length → (s.work.link l).state = .up →
      (s.work.link l).nakSeq ≠ some seq ∨ (s.work.link l).nakRuns < 7 →
    let k := s.work.link l
    let again := k.retry.filter fun e => decide (seqAfter e.1 seq < 2048)
    ∃ u, exec (.nakReceive l seq) s = .next u ∧ u.dev.ctxs = s.dev.ctxs ∧ u.mem = s.mem ∧ u.dev.tiles = s.dev.tiles
      ∧ u.work.link l = { k with nakSeq := some seq, nakRuns := if k.nakSeq = some seq then k.nakRuns + 1 else 1, retry := again }
      ∧ (∀ j, j ≠ l → u.work.link j = s.work.link j)
      ∧ u.dev.linkOut = s.dev.linkOut ++ again.map (fun e => { e.2 with link := l })
        ++ (match k.lastBelay with
          | some (_, b, at_) => [{ link := l, dest := k.peerId, jobTag := 0, msg := .belay { b with
              accLatency := if b.kind = 0 then b.accLatency + (s.dev.pitch.timerNs - at_) * 10 else 0 } }]
          | none => []))

/-! ### Integrity -/

/-- Scrubbing, device faults and the loss of a capacity link (R355, R485 to R490, R495 to R498). A clean block changes nothing; a
corrected one is counted, and a stack that corrects above its threshold within a day raises MEM_CE_RATE and has its rows put on the
repair list. An uncorrectable block is poisoned and put on the repair list, and every context whose arena or objects hold it halts with
0x41, no other where no structure holds it. An uncorrectable word of a tile halts its owner, of the configuration tables every context,
and of control logic is a device fault 0x49; a stack's interface is 0x4A. The record of device faults keeps the first until it is
cleared. The loss of a capacity link halts exactly the contexts with homes on it, with 0x45. -/
def Obligations.IntegrityCompletes : Prop :=
  (∀ (n a : Nat) (last : Bool) (r : EccResult) (s : State), s.dev.memRegs.trained.getLsbD n = false ∨ s.dev.pwr.hbmSleep = true →
    exec (.hbmScrub n a last r) s = .next s)
  ∧ (∀ (n a : Nat) (last : Bool) (s : State), s.dev.memRegs.trained.getLsbD n = true → s.dev.pwr.hbmSleep = false →
    exec (.hbmScrub n a last .clean) s = .next { s with dev := { s.dev with
      counters := if last then ctrAdd s.dev.counters (ctrKey Ctr.memScrubPasses 31 0xFF) 1 else s.dev.counters } })
  ∧ (∀ (n a : Nat) (s : State), s.dev.memRegs.trained.getLsbD n = true → s.dev.pwr.hbmSleep = false →
    let recent := (s.dev.memRegs.ceTimes.filter fun e => decide (s.dev.nowNs < e.2.1 + dayNs)) ++ [(n, s.dev.nowNs, a / 64 * 64)]
    let own := recent.filter fun e => e.1 == n
    (own.length ≤ s.dev.memRegs.ceThreshold.toNat →
      exec (.hbmScrub n a false .corrected) s = .next { s with dev := { s.dev with
        memRegs := { s.dev.memRegs with ceTimes := recent }
        counters := ctrAdd s.dev.counters (ctrKey Ctr.memHbmCorrected 31 n) 1 } })
    ∧ (s.dev.memRegs.ceThreshold.toNat < own.length → 0 < s.dev.ctxs.length → Memory.wf s.mem = true →
      let e := s.work.event 0x0052 0xFF (leBytes 1 n ++ leBytes 3 0 ++ leBytes 8 own.length)
      ∃ u, exec (.hbmScrub n a false .corrected) s = .next u ∧ s.quietly u id ∧ (∀ c, (u.work.ctx c).halt = (s.work.ctx c).halt)
        ∧ ((s.work.ctx 0).enable = false → u.mem = s.mem ∧ u.dev.heldEvents = s.dev.heldEvents ++ [e])
        ∧ ((s.work.ctx 0).enable = true → (s.work.ctx 0).evt.full = false → s.posted u 0 true e)
        ∧ u.dev.memRegs.ceTimes = recent.filter (fun e => e.1 != n)
        ∧ (∀ e, e ∈ own → (n, e.2.2) ∈ u.dev.memRegs.repairList)
        ∧ (n < 12 → u.dev.memRegs.repairPending.getLsbD n = true)))
  ∧ (∀ (n a : Nat) (last : Bool) (s : State), s.dev.memRegs.trained.getLsbD n = true → s.dev.pwr.hbmSleep = false →
    ∃ u, exec (.hbmScrub n a last .uncorrectable) s = .next u ∧ s.quietly u id
      ∧ (n, a / 64 * 64) ∈ u.dev.memRegs.repairList
      ∧ (a < 2 ^ 80 → a / 64 * 64 ∈ u.dev.memRegs.poisoned)
      ∧ (∀ c, c < 16 → (s.work.ctx c).enable = true → (s.work.ctx c).halt.valid = false →
        (s.work.holdsAddress c (a / 64 * 64) = true →
          (u.work.ctx c).halt.valid = true ∧ (u.work.ctx c).halt.reason = 0x41 ∧ (u.work.ctx c).halt.detail = a / 64 * 64)
        ∧ ((s.work.ctx 0).enable = false → s.work.structural (a / 64 * 64) = false → s.work.holdsAddress c (a / 64 * 64) = false →
          (u.work.ctx c).halt = (s.work.ctx c).halt)))
  ∧ (∀ (k : SramKind) (last : Bool) (r : EccResult) (s : State), r ≠ .uncorrectable →
    exec (.sramScrub k last r) s = .next { s with dev := { s.dev with
      counters :=
        let c := if r = .corrected then ctrAdd s.dev.counters (ctrKey Ctr.memSramCorrected 31 0xFF) 1 else s.dev.counters
        if last then ctrAdd c (ctrKey Ctr.memScrubPasses 31 0xFF) 1 else c } })
  ∧ (∀ (t off : Nat) (last : Bool) (s : State), s.work.owner t = none →
    exec (.sramScrub (.tile t off) last .uncorrectable) s = .next { s with dev := { s.dev with
      counters := if last then ctrAdd s.dev.counters (ctrKey Ctr.memScrubPasses 31 0xFF) 1 else s.dev.counters } })
  ∧ (∀ (t off c : Nat) (last : Bool) (s : State), s.work.owner t = some c → (s.work.ctx c).enable = true →
      (s.work.ctx c).halt.valid = false →
    ∃ u, exec (.sramScrub (.tile t off) last .uncorrectable) s = .next u ∧ s.quietly u id
      ∧ (u.work.ctx c).halt.valid = true ∧ (u.work.ctx c).halt.reason = 0x41 ∧ (u.work.ctx c).halt.detail = tileStoreAddr t off
      ∧ ∀ k, k ≠ c → (u.work.ctx k).halt = (s.work.ctx k).halt)
  ∧ (∀ (a : Nat) (last : Bool) (s : State), ∃ u, exec (.sramScrub (.shared a) last .uncorrectable) s = .next u ∧ s.quietly u id
      ∧ ∀ c, c < 16 → (s.work.ctx c).enable = true → (s.work.ctx c).halt.valid = false →
        (s.work.structural a = true ∨ s.work.holdsAddress c a = true →
          (u.work.ctx c).halt.valid = true ∧ (u.work.ctx c).halt.reason = 0x41 ∧ (u.work.ctx c).halt.detail = a)
        ∧ (s.work.structural a = false → s.work.holdsAddress c a = false → (u.work.ctx c).halt = (s.work.ctx c).halt))
  ∧ (∀ (a : Nat) (last : Bool) (s : State), ∃ u, exec (.sramScrub (.configTable a) last .uncorrectable) s = .next u ∧ s.quietly u id
      ∧ s.haltsAll u 0x41 a)
  ∧ (∀ (n : Nat) (last : Bool) (i : Instr) (reason detail source : Nat) (s : State),
      (i = .sramScrub (.control n) last .uncorrectable ∧ reason = 0x49 ∧ source = 4 ∧ detail = 0x40000 + n * 2 ^ 24)
        ∨ (i = .hbmInterfaceFault n ∧ reason = 0x4A ∧ source = 0 ∧ detail = n * 2 ^ 24 ∧ s.fuses.hbmStacks.getLsbD n = true) →
    ∃ u, exec i s = .next u ∧ s.quietly u id ∧ s.haltsAll u reason detail
      ∧ u.dev.fault = if s.dev.fault.valid then s.dev.fault else
        { valid := true, reason := reason, source := source, index := n, tick := s.dev.pitch.tickCount, cycle := s.dev.pitch.cycle, addr := 0 })
  ∧ (∀ (n : Nat) (s : State), s.fuses.hbmStacks.getLsbD n = false → exec (.hbmInterfaceFault n) s = .next s)
  ∧ (∀ s : State, s.dev.sec.ready = true ∨ s.dev.sec.recovery = true →
    exec .evtFaultClear s = .next { s with dev := { s.dev with fault := FaultRec.empty } })
  ∧ (∀ s : State, s.dev.sec.ready = false → s.dev.sec.recovery = false → exec .evtFaultClear s = .next s)
  ∧ (∀ (p : Nat) (s : State), s.fuses.capPorts.getLsbD p = false → exec (.capacityLinkDown p) s = .next s)
  ∧ (∀ (p : Nat) (s : State), s.fuses.capPorts.getLsbD p = true →
    ∃ u, exec (.capacityLinkDown p) s = .next u ∧ s.quietly u id
      ∧ ∀ c, c < 16 → (s.work.ctx c).enable = true → (s.work.ctx c).halt.valid = false →
        let on := ∃ e, e ∈ s.dev.residency ∧ e.owner = c ∧ e.state ≠ .free
          ∧ (s.fuses.space e.home = .cap p ∨ (e.newHome ≠ 0 ∧ s.fuses.space e.newHome = .cap p))
        (on → (u.work.ctx c).halt.valid = true ∧ (u.work.ctx c).halt.reason = 0x45 ∧ (u.work.ctx c).halt.detail = p)
        ∧ (¬ on → (u.work.ctx c).halt = (s.work.ctx c).halt))

/-! ### Boot, flash, debug access and attestation -/

/-- Boot (R513 to R515, R547), flash updates (R521 to R523), SVN commit (R524), unlock and debug disable (R530 to R532) and attestation
(R525 to R528). A module reset clears the module; one whose image passes every check comes out ready with that image's version, with
HBM, the shared store and the tile stores zero, and one that fails stays in recovery with its cause and fault 0xA1. A flash request is refused with a cause
or goes on to a write, which erases its sectors and programs its data. A committed SVN is burnt. An unlock that passes zeroes those
stores; one that fails says why; each ends its nonce. The debug-disable fuse refuses every later unlock (cause 1) and ends one at once. Every SPDM request is answered in its order or with the ERROR that R527 names; that
the message bytes are those of DSP0274 is the model's reading. -/
def Obligations.SecurityCompletes : Prop :=
  (∀ (e : BootEnv) (s : State), s.dev.pwr.good = false → exec (.moduleReset e) s = .next s)
  ∧ (∀ (e : BootEnv) (s : State), s.dev.pwr.good = true → 85 ≤ e.maxTemp →
    ∃ u, exec (.moduleReset e) s = .next u ∧ u.fuses = s.fuses ∧ u.mem = s.mem ∧ u.cleared ∧ u.dev.pwr.inReset = true
      ∧ u.dev.pwr.domains = 0 ∧ u.dev.sec.ready = false ∧ u.dev.sec.recovery = false)
  ∧ (∀ (e : BootEnv) (cause : Nat) (s : State), s.dev.pwr.good = true → e.maxTemp < 85 →
      (if verdictOk e.factory then s.dev.sec.cutFlash.fwHeader.cause s.fuses e.firmware else some 10) = some cause →
    ∃ u, exec (.moduleReset e) s = .next u ∧ u.fuses = s.fuses ∧ u.mem = s.mem ∧ u.cleared ∧ u.dev.pwr.inReset = false
      ∧ u.dev.pwr.domains = 0 ∧ u.dev.sec.ready = false ∧ u.dev.sec.recovery = true ∧ u.dev.sec.bootCause = cause
      ∧ u.dev.fault.valid = true ∧ u.dev.fault.reason = 0xA1)
  ∧ (∀ (e : BootEnv) (s : State), s.dev.pwr.good = true → e.maxTemp < 85 → Memory.wf s.mem = true →
      (if verdictOk e.factory then s.dev.sec.cutFlash.fwHeader.cause s.fuses e.firmware else some 10) = none →
    ∃ u, exec (.moduleReset e) s = .next u ∧ u.fuses = s.fuses ∧ u.cleared ∧ u.dev.pwr.inReset = false ∧ u.dev.responds = true
      ∧ u.dev.sec.fwVerified = true ∧ u.dev.sec.fwVersion = s.dev.sec.cutFlash.fwHeader.version
      ∧ u.dev.sec.svnRunning = s.dev.sec.cutFlash.fwHeader.svn
      ∧ ∀ k, Memory.within [(0, s.fuses.hbmRange), (sharedBase, sharedSize), (tileStoreBase, 64 * tileStoreSize)] k = true →
        Memory.read u.mem k = 0)
  ∧ (∀ (c : ResetCause) (s : State), ∃ u, exec (.modResetNAssert c) s = .next u ∧ u.fuses = s.fuses ∧ u.mem = s.mem ∧ u.cleared
      ∧ u.dev.pwr.inReset = true ∧ u.dev.pwr.domains = 0 ∧ u.dev.sec.ready = false ∧ u.dev.sec.recovery = false)
  ∧ (∀ (f : Bool) (v : Verdict) (s : State), s.dev.sec.ready = false → s.dev.sec.recovery = false → exec (.secFlashGo f v) s = .next s)
  ∧ (∀ (f : Bool) (v : Verdict) (c : Nat) (s : State), s.dev.sec.ready = true ∨ s.dev.sec.recovery = true →
      s.work.flashCause f v = some c →
    ∃ u, exec (.secFlashGo f v) s = .next u
      ∧ s.quietly u (fun d => { d with sec := { d.sec with
        flashState := if decide (d.sec.flashState = .busy) then .busy else .refused, flashCause := c } })
      ∧ ((s.work.ctx 0).enable = false → u.mem = s.mem ∧ u.dev.heldEvents = s.dev.heldEvents
          ++ [s.work.event 0x0061 0xFF (leBytes 1 s.dev.sec.flashTarget ++ leBytes 1 c)]))
  ∧ (∀ (f : Bool) (v : Verdict) (s : State), s.dev.sec.ready = true ∨ s.dev.sec.recovery = true → s.work.flashCause f v = none →
    exec (.secFlashGo f v) s = .next (s.withSec fun x =>
      { x with
        flashState := .busy, flashCause := 0, flashProgress := 0, flashActive := x.flashTarget
        flashData := if x.flashTarget = 3 then [] else s.work.rdN (hostKey 0 x.flashSrc.toNat) x.flashLen.toNat }))
  ∧ (∀ (ok : Bool) (s : State), s.dev.sec.flashState ≠ .busy → exec (.flashWriteComplete ok) s = .next s)
  ∧ (∀ (target at_ len : Nat) (s : State), s.dev.sec.flashState = .busy → s.dev.sec.flashActive = target → Memory.wf s.mem = true →
      (target = 1 ∧ at_ = 0x01000000 ∧ len = roundUp s.dev.sec.flashData.length 65536)
        ∨ (target = 2 ∧ at_ = 0x00100000 ∧ len = roundUp s.dev.sec.flashData.length 65536)
        ∨ (target = 3 ∧ at_ = 0x00100000 ∧ len = 0x00100000 ∧ s.dev.sec.flashData = []) →
    let bs := s.dev.sec.flashData
    let done := { s.dev.sec with flashState := .done, flashCause := 0, flashProgress := 100, flashData := [] }
    ∃ u, exec (.flashWriteComplete true) s = .next u
      ∧ s.quietly u (fun d => { d with
        freeCtr := d.freeCtr + 1
        sec := if target = 1 then { done with
            fwHeader := FwHeader.parse bs, svnImage := if (FwHeader.parse bs).formOk then (FwHeader.parse bs).svn else 0 }
          else { done with settingsTorn := false } })
      ∧ ∀ k, k < 2 ^ 80 ∨ 2 ^ 90 ≤ k → Memory.read u.mem k =
        if flashKey at_ ≤ k ∧ k < flashKey at_ + len then (bs[k - flashKey at_]?).getD 0xFF else Memory.read s.mem k)
  ∧ (∀ s : State, s.dev.sec.flashState = .busy → ∃ u, exec (.flashWriteComplete false) s = .next u
      ∧ u.dev.sec.flashState = .refused ∧ u.dev.sec.flashCause = 15 ∧ s.quietly u fun d => { d with sec := u.dev.sec, freeCtr := d.freeCtr + 1 })
  ∧ (∀ s : State, s.commits = false → exec .secSvnCommit s = .next s)
  ∧ (∀ s : State, s.commits = true → ∃ u, exec .secSvnCommit s = .next u ∧ u.fuses = { s.fuses with svn := s.dev.sec.svnRunning }
      ∧ u.dev.quiet = s.dev.quiet)
  ∧ (∀ (v : Verdict) (key : Nat) (s : State), s.dev.responds = false →
    exec (.secUnlockGo v) s = .next s ∧ exec .secDebugRelock s = .next s ∧ exec (.secDebugDisable key) s = .next s)
  ∧ (∀ (v : Verdict) (s : State), s.dev.responds = true →
    let t := s.work.rdN (hostKey 0 s.dev.sec.unlockSrc.toNat) 2988
    (s.work.unlockCauseOf t v ≠ 0 →
      exec (.secUnlockGo v) s = .next (s.withSec fun x => { x.newNonce with unlockCause := s.work.unlockCauseOf t v }))
    ∧ (s.work.unlockCauseOf t v = 0 → Memory.wf s.mem = true → ∃ u, exec (.secUnlockGo v) s = .next u
      ∧ s.quietly u (fun d => { d with sec := { d.sec.newNonce with
        unlockCause := 0, unlocked := true, level := BitVec.ofNat 3 (fieldAt t 6 2) } })
      ∧ ∀ k, k < 2 ^ 80 → Memory.read u.mem k =
        if Memory.within [(0, s.fuses.hbmRange), (sharedBase, sharedSize), (tileStoreBase, 64 * tileStoreSize)] k then 0
        else Memory.read s.mem k))
  ∧ (∀ s : State, s.dev.responds = true →
    exec .secDebugRelock s = .next (s.withSec fun x => { x with unlocked := false, level := 0 })
    ∧ exec (.secDebugDisable 0xD15A) s
        = .next { s.withSec (fun x => { x with unlocked := false, level := 0 }) with fuses := { s.fuses with debugDisabled := true } })
  ∧ (∀ (key : Nat) (s : State), key ≠ 0xD15A → exec (.secDebugDisable key) s = .next s)
  ∧ (∀ (t : List Byte) (v : Verdict) (s : State), s.fuses.debugDisabled = true → s.work.unlockCauseOf t v = 1)
  ∧ (∀ (slot off len : Nat) (n : List Byte) (sign : Bool) (i : Instr) (s : State), s.dev.responds = false →
      i ∈ [Instr.getVersion, .getCapabilities, .negotiateAlgorithms, .getDigests, .getCertificate slot off len, .challenge slot n,
        .getMeasurements slot sign n, .spdmUnsupportedRequest slot] → exec i s = .next s)
  ∧ (∀ (slot off len : Nat) (n : List Byte) (sign : Bool) (i : Instr) (s : State), s.dev.responds = true → s.dev.sec.spdmAlgs = false →
      i ∈ [Instr.getDigests, .getCertificate slot off len, .challenge slot n, .getMeasurements slot sign n] →
    exec i s = .next (s.spdmErr 0x04 0))
  ∧ (∀ (code : Nat) (s : State), s.dev.responds = true →
    exec .getVersion s = .next ((s.withSec fun x => { x with
        spdmVersion := true, spdmCaps := false, spdmAlgs := false, transcript := [] }).spdmReply
      [0x10, 0x84, 0, 0] [0x10, 0x04, 0, 0, 0, 2, 0x00, 0x12, 0x00, 0x13])
    ∧ exec .getCapabilities s = .next (if s.dev.sec.spdmVersion then
        (s.withSec fun x => { x with spdmCaps := true }).spdmReply [0x13, 0xE1, 0, 0] ([0x13, 0x61, 0, 0] ++ leBytes 4 0x36)
      else s.spdmErr 0x04 0)
    ∧ exec .negotiateAlgorithms s = .next (if s.dev.sec.spdmCaps then
        (s.withSec fun x => { x with spdmAlgs := true }).spdmReply [0x13, 0xE3, 0, 0]
          ([0x13, 0x63, 0, 0] ++ leBytes 4 0x04 ++ leBytes 4 0x80 ++ leBytes 4 0x02)
      else s.spdmErr 0x04 0)
    ∧ exec (.spdmUnsupportedRequest code) s = .next (s.spdmErr 0x07 code))
  ∧ (∀ (slot off len : Nat) (n : List Byte) (s : State), s.dev.responds = true → s.dev.sec.spdmAlgs = true →
    let chain := Config.certificate s.fuses.secret s.fuses.serial
    let part := (chain.drop off).take len
    exec .getDigests s = .next (s.spdmReply [0x13, 0x81, 0, 0] ([0x13, 0x01, 0, 1] ++ Config.sha384 chain))
    ∧ (slot ≠ 0 → exec (.challenge slot n) s = .next (s.spdmErr 0x01 0))
    ∧ (slot ≠ 0 ∨ chain.length ≤ off → exec (.getCertificate slot off len) s = .next (s.spdmErr 0x01 0))
    ∧ (off < chain.length → exec (.getCertificate 0 off len) s = .next (s.spdmReply ([0x13, 0x82, 0, 0] ++ leBytes 2 off ++ leBytes 2 len)
        ([0x13, 0x02, 0, 0] ++ leBytes 2 part.length ++ leBytes 2 (chain.length - off - part.length) ++ part)))
    ∧ (s.dev.sec.leafNext < 2 ^ 30 → exec (.challenge 0 n) s = .next (s.spdmSigned ([0x13, 0x83, 0, 0] ++ padTo 32 n)
        ([0x13, 0x03, 0, 1] ++ Config.sha384 chain ++ (List.range 32).map (Config.freeByte s.dev.freeCtr))))
    ∧ (2 ^ 30 ≤ s.dev.sec.leafNext → ∃ u, exec (.challenge 0 n) s = .next u
        ∧ s.quietly u fun d => { d with freeCtr := d.freeCtr + 1, sec := (s.spdmErr 0x04 0).dev.sec }))
  ∧ (∀ (index : Nat) (n : List Byte) (s : State), s.dev.responds = true → s.dev.sec.spdmAlgs = true →
    (s.work.measurementBlocks index = none → ∀ sign, exec (.getMeasurements index sign n) s = .next (s.spdmErr 0x01 0))
    ∧ (∀ bs, s.work.measurementBlocks index = some bs →
      let number := if index = 0 ∨ index = 0xFF then 22 else 1
      let response := [0x13, 0x60, BitVec.ofNat 8 (if index = 0 then number else 0), 0] ++ leBytes 1 (if index = 0 then 0 else number)
        ++ leBytes 3 bs.length ++ bs ++ (List.range 32).map (Config.freeByte s.dev.freeCtr)
      exec (.getMeasurements index false n) s = .next ({ s with dev := { s.dev with freeCtr := s.dev.freeCtr + 1 } }.spdmReply
          [0x13, 0xE0, 0, BitVec.ofNat 8 index] response)
      ∧ (s.dev.sec.leafNext < 2 ^ 30 → exec (.getMeasurements index true n) s
          = .next (s.spdmSigned ([0x13, 0xE0, 1, BitVec.ofNat 8 index] ++ padTo 32 n) response))))

/-- The state of reset (R433, R513, R515): safe, nothing waiting, ready and not in recovery, with every context DISABLED and no record of
a halt, every link DOWN, no pitch running and none counted, the factory values in the configuration sets, no set armed, the counters at
zero and no fault. What its storage reads as is the model's choice (log 2). -/
def Obligations.ResetState : Prop :=
  State.reset.safe = true ∧ State.reset.pending = [] ∧ State.reset.dev.responds = true
  ∧ (∀ c, c < 16 → (State.reset.work.ctx c).state = .disabled ∧ (State.reset.work.ctx c).enable = false
      ∧ (State.reset.work.ctx c).halt = HaltRec.empty ∧ (State.reset.work.ctx c).job = none)
  ∧ (∀ l, l < 36 → (State.reset.work.link l).state = .down)
  ∧ State.reset.dev.pitch.run = false ∧ State.reset.dev.pitch.tickCount = 0
  ∧ State.reset.dev.active.pitchLen = 500000 ∧ State.reset.dev.active.subdiv = 5 ∧ State.reset.dev.active.grace = 50
  ∧ State.reset.dev.active.powerCap = 1800 ∧ State.reset.dev.shadow = State.reset.dev.active ∧ State.reset.dev.cfg.armed = none
  ∧ State.reset.dev.memRegs.scrubHours = 24 ∧ State.reset.dev.memRegs.scrubMs = 100 ∧ State.reset.dev.memRegs.ceThreshold = 1000
  ∧ State.reset.dev.fault.valid = false ∧ State.reset.dev.counters = [] ∧ State.reset.dev.residency = []
  ∧ ∀ k, Memory.read State.reset.mem k = if 2 ^ 90 ≤ k then 0xFF else 0
end

