-- ==== Sys2Proof/Laws/Memory.lean ====
section
/-!
SUPPORT. The laws of memory: what a read gives after a write, that every memory operation keeps the canonical form, and that
what a meaning reads while it runs is what its command leaves behind.
-/

namespace Sys2Proof.Machine

/-! ### One byte -/

/-- A key at or below the lower bound of a canonical list is not listed. -/
theorem Memory.read_below (m : List Host.Cell) (l k : Nat) (h : Memory.wfAbove (some l) m = true) (hk : k ≤ l) :
    Memory.read m k = Memory.dflt k := by
  induction m generalizing l with
  | nil => rfl
  | cons c m ih =>
    obtain ⟨a, b⟩ := c
    simp only [Memory.wfAbove, Bool.and_eq_true, decide_eq_true_eq] at h
    have ha : ¬ a = k := by omega
    simp only [Memory.read, ha, if_false]
    exact ih a h.2 (by omega)

/-- A weaker lower bound. -/
theorem Memory.wfAbove_none (lo : Option Nat) (m : List Host.Cell) (h : Memory.wfAbove lo m = true) :
    Memory.wfAbove none m = true := by
  cases m with
  | nil => rfl
  | cons c m =>
    simp only [Memory.wfAbove, Bool.and_eq_true] at h ⊢
    exact ⟨⟨trivial, h.1.2⟩, h.2⟩

/-- A lower lower bound. -/
theorem Memory.wfAbove_le (l k : Nat) (m : List Host.Cell) (h : Memory.wfAbove (some l) m = true) (hk : k ≤ l) :
    Memory.wfAbove (some k) m = true := by
  cases m with
  | nil => rfl
  | cons c m =>
    simp only [Memory.wfAbove, Bool.and_eq_true, decide_eq_true_eq] at h ⊢
    exact ⟨⟨by omega, h.1.2⟩, h.2⟩

/-- A write keeps the canonical form, above every bound below the key. -/
theorem Memory.write_wfAbove (m : List Host.Cell) (lo : Option Nat) (k : Nat) (v : Byte)
    (h : Memory.wfAbove lo m = true) (hk : ∀ l, lo = some l → l < k) : Memory.wfAbove lo (Memory.write m k v) = true := by
  induction m generalizing lo with
  | nil =>
    by_cases hv : v = Memory.dflt k
    · simp [Memory.write, hv, Memory.wfAbove]
    · cases lo with
      | none => simp [Memory.write, hv, Memory.wfAbove]
      | some l => simp [Memory.write, hv, Memory.wfAbove, hk l rfl]
  | cons c m ih =>
    obtain ⟨a, b⟩ := c
    simp only [Memory.wfAbove, Bool.and_eq_true] at h
    unfold Memory.write
    by_cases h1 : k < a
    · by_cases hv : v = Memory.dflt k
      · simp only [h1, hv, if_true, Memory.wfAbove, Bool.and_eq_true]
        exact h
      · cases lo with
        | none => simp_all [Memory.wfAbove]
        | some l => simp_all [Memory.wfAbove]
    · by_cases h2 : k = a
      · by_cases hv : v = Memory.dflt k
        · simp only [h2, Nat.lt_irrefl, if_false, if_true]
          subst h2
          simp only [hv, if_true]
          cases lo with
          | none => exact Memory.wfAbove_none _ _ h.2
          | some l => exact Memory.wfAbove_le k l m h.2 (Nat.le_of_lt (hk l rfl))
        · subst h2
          cases lo with
          | none => simp_all [Memory.wfAbove]
          | some l => simp_all [Memory.wfAbove]
      · simp only [h1, h2, if_false, Memory.wfAbove, Bool.and_eq_true]
        exact ⟨h.1, ih (some a) h.2 (by intro l hl; cases hl; omega)⟩

/-- A write keeps the canonical form. -/
theorem Memory.write_wf (m : List Host.Cell) (k : Nat) (v : Byte) (h : Memory.wf m = true) :
    Memory.wf (Memory.write m k v) = true :=
  Memory.write_wfAbove m none k v h (by intro l hl; cases hl)

/-- The byte written is the byte read, in a list that is canonical above some bound. -/
theorem Memory.read_write_same_above (m : List Host.Cell) (lo : Option Nat) (k : Nat) (v : Byte) (h : Memory.wfAbove lo m = true) :
    Memory.read (Memory.write m k v) k = v := by
  induction m generalizing lo with
  | nil =>
    by_cases hv : v = Memory.dflt k
    · simp [Memory.write, hv, Memory.read]
    · simp [Memory.write, hv, Memory.read]
  | cons c m ih =>
    obtain ⟨a, b⟩ := c
    simp only [Memory.wfAbove, Bool.and_eq_true] at h
    unfold Memory.write
    by_cases h1 : k < a
    · by_cases hv : v = Memory.dflt k
      · have hne : ¬ a = k := by omega
        simp only [h1, if_true, hv, Memory.read, hne, if_false]
        exact Memory.read_below m a k h.2 (by omega)
      · simp [h1, hv, Memory.read]
    · by_cases h2 : k = a
      · subst h2
        by_cases hv : v = Memory.dflt k
        · simp only [Nat.lt_irrefl, if_false, if_true, hv]
          exact Memory.read_below m k k h.2 (by omega)
        · simp [hv, Memory.read]
      · have hne : ¬ a = k := fun e => h2 e.symm
        simp only [h1, h2, if_false, Memory.read, hne]
        exact ih (some a) h.2

/-- The byte written is the byte read. -/
theorem Memory.read_write_same (m : List Host.Cell) (k : Nat) (v : Byte) (h : Memory.wf m = true) :
    Memory.read (Memory.write m k v) k = v := Memory.read_write_same_above m none k v h

/-- A write leaves every other key alone. -/
theorem Memory.read_write_other (m : List Host.Cell) (k j : Nat) (v : Byte) (hj : j ≠ k) :
    Memory.read (Memory.write m k v) j = Memory.read m j := by
  have hkj : ¬ k = j := fun e => hj e.symm
  induction m with
  | nil =>
    by_cases hv : v = Memory.dflt k
    · simp [Memory.write, hv]
    · simp [Memory.write, hv, Memory.read, hkj]
  | cons c m ih =>
    obtain ⟨a, b⟩ := c
    unfold Memory.write
    by_cases h1 : k < a
    · by_cases hv : v = Memory.dflt k
      · simp [h1, hv]
      · simp [h1, hv, Memory.read, hkj]
    · by_cases h2 : k = a
      · subst h2
        by_cases hv : v = Memory.dflt k
        · simp [hv, Memory.read, hkj]
        · simp [hv, Memory.read, hkj]
      · simp only [h1, h2, if_false, Memory.read, ih]

/-! ### A journal -/

/-- A journal applied keeps the canonical form. -/
theorem Memory.apply_wf (m : List Host.Cell) (log : List Host.Cell) (h : Memory.wf m = true) : Memory.wf (Memory.apply m log) = true := by
  induction log with
  | nil => exact h
  | cons c log ih =>
    obtain ⟨k, v⟩ := c
    exact Memory.write_wf _ k v ih

/-- Cells taken out keep the canonical form. -/
theorem Memory.filter_wf (m : List Host.Cell) (p : Host.Cell → Bool) (h : Memory.wf m = true) : Memory.wf (m.filter p) = true := by
  suffices H : ∀ lo, Memory.wfAbove lo m = true → Memory.wfAbove lo (m.filter p) = true from H none h
  clear h
  induction m with
  | nil => intro lo _; rfl
  | cons c m ih =>
    obtain ⟨a, b⟩ := c
    intro lo h
    simp only [Memory.wfAbove, Bool.and_eq_true] at h
    by_cases hp : p (a, b) = true
    · simp only [List.filter_cons, hp, if_true, Memory.wfAbove, Bool.and_eq_true]
      exact ⟨h.1, ih (some a) h.2⟩
    · simp only [List.filter_cons, hp]
      apply ih
      cases lo with
      | none => exact Memory.wfAbove_none _ _ h.2
      | some l => exact Memory.wfAbove_le a l m h.2 (by have := of_decide_eq_true h.1.1; omega)

/-- What a journal leaves at a key: its newest write there, or what stood there. -/
theorem Memory.read_apply (m : List Host.Cell) (log : List Host.Cell) (k : Nat) (h : Memory.wf m = true) :
    Memory.read (Memory.apply m log) k = (Memory.find log k).getD (Memory.read m k) := by
  induction log with
  | nil => rfl
  | cons c log ih =>
    obtain ⟨a, v⟩ := c
    by_cases ha : a = k
    · subst ha
      simp only [Memory.apply, Memory.find, if_true, Option.getD_some]
      exact Memory.read_write_same _ a v (Memory.apply_wf m log h)
    · simp only [Memory.apply, Memory.find, ha, if_false]
      rw [Memory.read_write_other _ a k v (fun e => ha e.symm), ih]

/-- What cleared ranges leave at a key. -/
theorem Memory.read_filter (m : List Host.Cell) (rs : List (Nat × Nat)) (k : Nat) :
    Memory.read (m.filter fun c => !Memory.within rs c.1) k = if Memory.within rs k then Memory.dflt k else Memory.read m k := by
  induction m with
  | nil => simp [Memory.read]
  | cons c m ih =>
    obtain ⟨a, b⟩ := c
    by_cases hw : Memory.within rs a = true
    · simp only [List.filter_cons, hw, Bool.not_true, Bool.false_eq_true, if_false, ih, Memory.read]
      by_cases ha : a = k
      · subst ha; simp [hw]
      · simp [ha]
    · have hw' : Memory.within rs a = false := by simpa using hw
      simp only [List.filter_cons, hw', Bool.not_false, if_true, Memory.read, ih]
      by_cases ha : a = k
      · subst ha; simp [hw']
      · simp [ha]

/-- What stands outside the bytes put in front of a journal is as before. -/
theorem Memory.find_journal_other (bs : List Byte) (k j : Nat) (log : List Host.Cell) (h : j < k ∨ k + bs.length ≤ j) :
    Memory.find (journal k bs log) j = Memory.find log j := by
  induction bs generalizing k log with
  | nil => rfl
  | cons b bs ih =>
    simp only [List.length_cons] at h
    have hk : ¬ k = j := by omega
    simp only [journal]
    rw [ih (k + 1) _ (by omega)]
    simp [Memory.find, hk]

/-- Byte `i` of the bytes put in front of a journal. -/
theorem Memory.find_journal_at (bs : List Byte) (k i : Nat) (log : List Host.Cell) (h : i < bs.length) :
    Memory.find (journal k bs log) (k + i) = bs[i]? := by
  induction bs generalizing k i log with
  | nil => simp at h
  | cons b bs ih =>
    simp only [journal]
    cases i with
    | zero =>
      rw [Memory.find_journal_other bs (k + 1) (k + 0) _ (by omega)]
      simp [Memory.find]
    | succ i =>
      have := ih (k + 1) i ((k, b) :: log) (by simpa using h)
      rw [show k + (i + 1) = k + 1 + i by omega, this]
      simp

/-! ### A meaning's memory -/

/-- A meaning keeps the canonical form, whatever it writes. -/
theorem State.run_wf (s : State) (f : Work → Work) (h : Memory.wf s.mem = true) : Memory.wf (s.run f).mem = true :=
  Memory.apply_wf _ _ (Memory.filter_wf _ _ h)

end Sys2Proof.Machine
end

