-- ==== Sys2Proof/Laws/State.lean ====
section
/-!
SUPPORT. What each basic update of the working state changes and what it keeps, one lemma per field, and what a command's
result is in terms of the working state its meaning leaves.
-/

namespace Sys2Proof.Machine

/-! ### The working state a command finds -/

@[simp] theorem State.work_fz (s : State) : s.work.fz = s.fuses := rfl
@[simp] theorem State.work_base (s : State) : s.work.base = s.mem := rfl
@[simp] theorem State.work_wiped (s : State) : s.work.wiped = [] := rfl
@[simp] theorem State.work_log (s : State) : s.work.log = [] := rfl
@[simp] theorem State.work_d (s : State) : s.work.d = s.dev := rfl

/-- A command's first reads see memory as it stands. -/
@[simp] theorem State.work_rd (s : State) (k : Nat) : s.work.rd k = Memory.read s.mem k := rfl

/-! ### Work.upd -/

@[simp] theorem Work.upd_fz (w : Work) (f : Dev → Dev) : (w.upd f).fz = w.fz := rfl
@[simp] theorem Work.upd_base (w : Work) (f : Dev → Dev) : (w.upd f).base = w.base := rfl
@[simp] theorem Work.upd_wiped (w : Work) (f : Dev → Dev) : (w.upd f).wiped = w.wiped := rfl
@[simp] theorem Work.upd_log (w : Work) (f : Dev → Dev) : (w.upd f).log = w.log := rfl
@[simp] theorem Work.upd_d (w : Work) (f : Dev → Dev) : (w.upd f).d = f w.d := rfl

/-! ### Work.updCtx -/

@[simp] theorem Work.updCtx_fz (w : Work) (c : Nat) (f : Ctx → Ctx) : (w.updCtx c f).fz = w.fz := rfl
@[simp] theorem Work.updCtx_base (w : Work) (c : Nat) (f : Ctx → Ctx) : (w.updCtx c f).base = w.base := rfl
@[simp] theorem Work.updCtx_wiped (w : Work) (c : Nat) (f : Ctx → Ctx) : (w.updCtx c f).wiped = w.wiped := rfl
@[simp] theorem Work.updCtx_log (w : Work) (c : Nat) (f : Ctx → Ctx) : (w.updCtx c f).log = w.log := rfl
@[simp] theorem Work.updCtx_d (w : Work) (c : Nat) (f : Ctx → Ctx) : (w.updCtx c f).d = { w.d with ctxs := updAt w.d.ctxs c f } := rfl

/-! ### Work.updTile -/

@[simp] theorem Work.updTile_fz (w : Work) (t : Nat) (f : Tile → Tile) : (w.updTile t f).fz = w.fz := rfl
@[simp] theorem Work.updTile_base (w : Work) (t : Nat) (f : Tile → Tile) : (w.updTile t f).base = w.base := rfl
@[simp] theorem Work.updTile_wiped (w : Work) (t : Nat) (f : Tile → Tile) : (w.updTile t f).wiped = w.wiped := rfl
@[simp] theorem Work.updTile_log (w : Work) (t : Nat) (f : Tile → Tile) : (w.updTile t f).log = w.log := rfl
@[simp] theorem Work.updTile_d (w : Work) (t : Nat) (f : Tile → Tile) : (w.updTile t f).d = { w.d with tiles := updAt w.d.tiles t f } := rfl

/-! ### Work.updLink -/

@[simp] theorem Work.updLink_fz (w : Work) (l : Nat) (f : Link → Link) : (w.updLink l f).fz = w.fz := rfl
@[simp] theorem Work.updLink_base (w : Work) (l : Nat) (f : Link → Link) : (w.updLink l f).base = w.base := rfl
@[simp] theorem Work.updLink_wiped (w : Work) (l : Nat) (f : Link → Link) : (w.updLink l f).wiped = w.wiped := rfl
@[simp] theorem Work.updLink_log (w : Work) (l : Nat) (f : Link → Link) : (w.updLink l f).log = w.log := rfl
@[simp] theorem Work.updLink_d (w : Work) (l : Nat) (f : Link → Link) : (w.updLink l f).d = { w.d with links := updAt w.d.links l f } := rfl

/-! ### Work.updJob -/

@[simp] theorem Work.updJob_fz (w : Work) (c : Nat) (f : Job → Job) : (w.updJob c f).fz = w.fz := rfl
@[simp] theorem Work.updJob_base (w : Work) (c : Nat) (f : Job → Job) : (w.updJob c f).base = w.base := rfl
@[simp] theorem Work.updJob_wiped (w : Work) (c : Nat) (f : Job → Job) : (w.updJob c f).wiped = w.wiped := rfl
@[simp] theorem Work.updJob_log (w : Work) (c : Nat) (f : Job → Job) : (w.updJob c f).log = w.log := rfl
@[simp] theorem Work.updJob_d (w : Work) (c : Nat) (f : Job → Job) : (w.updJob c f).d = { w.d with ctxs := updAt w.d.ctxs c fun x => { x with job := x.job.map f } } := rfl

/-! ### Work.count -/

@[simp] theorem Work.count_fz (w : Work) (id n : Nat) : (w.count id n).fz = w.fz := rfl
@[simp] theorem Work.count_base (w : Work) (id n : Nat) : (w.count id n).base = w.base := rfl
@[simp] theorem Work.count_wiped (w : Work) (id n : Nat) : (w.count id n).wiped = w.wiped := rfl
@[simp] theorem Work.count_log (w : Work) (id n : Nat) : (w.count id n).log = w.log := rfl
@[simp] theorem Work.count_d (w : Work) (id n : Nat) : (w.count id n).d = { w.d with counters := ctrAdd w.d.counters (ctrKey id 31 0xFF) (BitVec.ofNat 64 n) } := rfl

/-! ### Work.countCtx -/

@[simp] theorem Work.countCtx_fz (w : Work) (c id n : Nat) : (w.countCtx c id n).fz = w.fz := rfl
@[simp] theorem Work.countCtx_base (w : Work) (c id n : Nat) : (w.countCtx c id n).base = w.base := rfl
@[simp] theorem Work.countCtx_wiped (w : Work) (c id n : Nat) : (w.countCtx c id n).wiped = w.wiped := rfl
@[simp] theorem Work.countCtx_log (w : Work) (c id n : Nat) : (w.countCtx c id n).log = w.log := rfl
@[simp] theorem Work.countCtx_d (w : Work) (c id n : Nat) : (w.countCtx c id n).d = { w.d with counters := ctrAdd w.d.counters (ctrKey id c 0xFF) (BitVec.ofNat 64 n) } := rfl

/-! ### Work.countInst -/

@[simp] theorem Work.countInst_fz (w : Work) (id inst n : Nat) : (w.countInst id inst n).fz = w.fz := rfl
@[simp] theorem Work.countInst_base (w : Work) (id inst n : Nat) : (w.countInst id inst n).base = w.base := rfl
@[simp] theorem Work.countInst_wiped (w : Work) (id inst n : Nat) : (w.countInst id inst n).wiped = w.wiped := rfl
@[simp] theorem Work.countInst_log (w : Work) (id inst n : Nat) : (w.countInst id inst n).log = w.log := rfl
@[simp] theorem Work.countInst_d (w : Work) (id inst n : Nat) : (w.countInst id inst n).d = { w.d with counters := ctrAdd w.d.counters (ctrKey id 31 inst) (BitVec.ofNat 64 n) } := rfl

/-! ### Work.stall -/

@[simp] theorem Work.stall_fz (w : Work) (c cause cls : Nat) : (w.stall c cause cls).fz = w.fz := rfl
@[simp] theorem Work.stall_base (w : Work) (c cause cls : Nat) : (w.stall c cause cls).base = w.base := rfl
@[simp] theorem Work.stall_wiped (w : Work) (c cause cls : Nat) : (w.stall c cause cls).wiped = w.wiped := rfl
@[simp] theorem Work.stall_log (w : Work) (c cause cls : Nat) : (w.stall c cause cls).log = w.log := rfl
@[simp] theorem Work.stall_d (w : Work) (c cause cls : Nat) : (w.stall c cause cls).d = { w.d with counters := ctrAdd w.d.counters (ctrKey cause c cls) 1 } := rfl

/-! ### Work.wr -/

@[simp] theorem Work.wr_fz (w : Work) (k : Nat) (bs : List Byte) : (w.wr k bs).fz = w.fz := rfl
@[simp] theorem Work.wr_base (w : Work) (k : Nat) (bs : List Byte) : (w.wr k bs).base = w.base := rfl
@[simp] theorem Work.wr_wiped (w : Work) (k : Nat) (bs : List Byte) : (w.wr k bs).wiped = w.wiped := rfl
@[simp] theorem Work.wr_log (w : Work) (k : Nat) (bs : List Byte) : (w.wr k bs).log = journal k bs w.log := rfl
@[simp] theorem Work.wr_d (w : Work) (k : Nat) (bs : List Byte) : (w.wr k bs).d = w.d := rfl

/-! ### Work.stN -/

@[simp] theorem Work.stN_fz (w : Work) (c a : Nat) (bs : List Byte) : (w.stN c a bs).fz = w.fz := rfl
@[simp] theorem Work.stN_base (w : Work) (c a : Nat) (bs : List Byte) : (w.stN c a bs).base = w.base := rfl
@[simp] theorem Work.stN_wiped (w : Work) (c a : Nat) (bs : List Byte) : (w.stN c a bs).wiped = w.wiped := rfl
@[simp] theorem Work.stN_log (w : Work) (c a : Nat) (bs : List Byte) : (w.stN c a bs).log = journal (localKey c a) bs w.log := rfl
@[simp] theorem Work.stN_d (w : Work) (c a : Nat) (bs : List Byte) : (w.stN c a bs).d = w.d := rfl

/-! ### Settling and running -/

@[simp] theorem Work.settle_fz (w : Work) : w.settle.fz = w.fz := by unfold Work.settle; split <;> rfl
@[simp] theorem Work.settle_base (w : Work) : w.settle.base = w.base := by unfold Work.settle; split <;> rfl
@[simp] theorem Work.settle_wiped (w : Work) : w.settle.wiped = w.wiped := by unfold Work.settle; split <;> rfl
@[simp] theorem Work.settle_log (w : Work) : w.settle.log = w.log := by unfold Work.settle; split <;> rfl

@[simp] theorem Work.settle_pitch (w : Work) : w.settle.d.pitch = w.d.pitch := by unfold Work.settle; split <;> rfl
@[simp] theorem Work.settle_active (w : Work) : w.settle.d.active = w.d.active := by unfold Work.settle; split <;> rfl
@[simp] theorem Work.settle_shadow (w : Work) : w.settle.d.shadow = w.d.shadow := by unfold Work.settle; split <;> rfl
@[simp] theorem Work.settle_bootSet (w : Work) : w.settle.d.bootSet = w.d.bootSet := by unfold Work.settle; split <;> rfl
@[simp] theorem Work.settle_cfg (w : Work) : w.settle.d.cfg = w.d.cfg := by unfold Work.settle; split <;> rfl
@[simp] theorem Work.settle_ctxs (w : Work) : w.settle.d.ctxs = w.d.ctxs := by unfold Work.settle; split <;> rfl
@[simp] theorem Work.settle_tiles (w : Work) : w.settle.d.tiles = w.d.tiles := by unfold Work.settle; split <;> rfl
@[simp] theorem Work.settle_links (w : Work) : w.settle.d.links = w.d.links := by unfold Work.settle; split <;> rfl
@[simp] theorem Work.settle_residency (w : Work) : w.settle.d.residency = w.d.residency := by unfold Work.settle; split <;> rfl
@[simp] theorem Work.settle_copies (w : Work) : w.settle.d.copies = w.d.copies := by unfold Work.settle; split <;> rfl
@[simp] theorem Work.settle_queues (w : Work) : w.settle.d.queues = w.d.queues := by unfold Work.settle; split <;> rfl
@[simp] theorem Work.settle_trav (w : Work) : w.settle.d.trav = w.d.trav := by unfold Work.settle; split <;> rfl
@[simp] theorem Work.settle_gathers (w : Work) : w.settle.d.gathers = w.d.gathers := by unfold Work.settle; split <;> rfl
@[simp] theorem Work.settle_units (w : Work) : w.settle.d.units = w.d.units := by unfold Work.settle; split <;> rfl
@[simp] theorem Work.settle_scatters (w : Work) : w.settle.d.scatters = w.d.scatters := by unfold Work.settle; split <;> rfl
@[simp] theorem Work.settle_lines (w : Work) : w.settle.d.lines = w.d.lines := by unfold Work.settle; split <;> rfl
@[simp] theorem Work.settle_held (w : Work) : w.settle.d.held = w.d.held := by unfold Work.settle; split <;> rfl
@[simp] theorem Work.settle_windows (w : Work) : w.settle.d.windows = w.d.windows := by unfold Work.settle; split <;> rfl
@[simp] theorem Work.settle_merges (w : Work) : w.settle.d.merges = w.d.merges := by unfold Work.settle; split <;> rfl
@[simp] theorem Work.settle_colls (w : Work) : w.settle.d.colls = w.d.colls := by unfold Work.settle; split <;> rfl
@[simp] theorem Work.settle_arrivals (w : Work) : w.settle.d.arrivals = w.d.arrivals := by unfold Work.settle; split <;> rfl
@[simp] theorem Work.settle_rowMoves (w : Work) : w.settle.d.rowMoves = w.d.rowMoves := by unfold Work.settle; split <;> rfl
@[simp] theorem Work.settle_logCount (w : Work) : w.settle.d.logCount = w.d.logCount := by unfold Work.settle; split <;> rfl
@[simp] theorem Work.settle_logRead (w : Work) : w.settle.d.logRead = w.d.logRead := by unfold Work.settle; split <;> rfl
@[simp] theorem Work.settle_fw (w : Work) : w.settle.d.fw = w.d.fw := by unfold Work.settle; split <;> rfl
@[simp] theorem Work.settle_counters (w : Work) : w.settle.d.counters = w.d.counters := by unfold Work.settle; split <;> rfl
@[simp] theorem Work.settle_snapshot (w : Work) : w.settle.d.snapshot = w.d.snapshot := by unfold Work.settle; split <;> rfl
@[simp] theorem Work.settle_snapTick (w : Work) : w.settle.d.snapTick = w.d.snapTick := by unfold Work.settle; split <;> rfl
@[simp] theorem Work.settle_cntSelect (w : Work) : w.settle.d.cntSelect = w.d.cntSelect := by unfold Work.settle; split <;> rfl
@[simp] theorem Work.settle_regIo (w : Work) : w.settle.d.regIo = w.d.regIo := by unfold Work.settle; split <;> rfl
@[simp] theorem Work.settle_fault (w : Work) : w.settle.d.fault = w.d.fault := by unfold Work.settle; split <;> rfl
@[simp] theorem Work.settle_heldEvents (w : Work) : w.settle.d.heldEvents = w.d.heldEvents := by unfold Work.settle; split <;> rfl
@[simp] theorem Work.settle_machineStopped (w : Work) : w.settle.d.machineStopped = w.d.machineStopped := by unfold Work.settle; split <;> rfl
@[simp] theorem Work.settle_routeCause (w : Work) : w.settle.d.routeCause = w.d.routeCause := by unfold Work.settle; split <;> rfl
@[simp] theorem Work.settle_routeLink (w : Work) : w.settle.d.routeLink = w.d.routeLink := by unfold Work.settle; split <;> rfl
@[simp] theorem Work.settle_deviceNumber (w : Work) : w.settle.d.deviceNumber = w.d.deviceNumber := by unfold Work.settle; split <;> rfl
@[simp] theorem Work.settle_sec (w : Work) : w.settle.d.sec = w.d.sec := by unfold Work.settle; split <;> rfl
@[simp] theorem Work.settle_pwr (w : Work) : w.settle.d.pwr = w.d.pwr := by unfold Work.settle; split <;> rfl
@[simp] theorem Work.settle_hif (w : Work) : w.settle.d.hif = w.d.hif := by unfold Work.settle; split <;> rfl
@[simp] theorem Work.settle_side (w : Work) : w.settle.d.side = w.d.side := by unfold Work.settle; split <;> rfl
@[simp] theorem Work.settle_linkOut (w : Work) : w.settle.d.linkOut = w.d.linkOut := by unfold Work.settle; split <;> rfl
@[simp] theorem Work.settle_nextId (w : Work) : w.settle.d.nextId = w.d.nextId := by unfold Work.settle; split <;> rfl
@[simp] theorem Work.settle_freeCtr (w : Work) : w.settle.d.freeCtr = w.d.freeCtr := by unfold Work.settle; split <;> rfl
@[simp] theorem Work.settle_nowNs (w : Work) : w.settle.d.nowNs = w.d.nowNs := by unfold Work.settle; split <;> rfl

/-- The writes of no command change no checksum. -/
theorem Work.settle_nil (w : Work) (h : w.log = []) : w.settle = w := by unfold Work.settle; rw [h]

@[simp] theorem State.run_pending (s : State) (f : Work → Work) : (s.run f).pending = s.pending := rfl
@[simp] theorem State.run_fuses (s : State) (f : Work → Work) : (s.run f).fuses = s.fuses := rfl
@[simp] theorem State.run_dev (s : State) (f : Work → Work) : (s.run f).dev = (f s.work).d := rfl
@[simp] theorem State.exec_pending (s : State) (f : Work → Work) : (s.exec f).pending = s.pending := rfl
@[simp] theorem State.exec_fuses (s : State) (f : Work → Work) : (s.exec f).fuses = s.fuses := rfl
@[simp] theorem State.exec_dev (s : State) (f : Work → Work) : (s.exec f).dev = (f s.work).settle.d := rfl

/-- A command keeps the canonical form of memory. -/
theorem State.exec_wf (s : State) (f : Work → Work) (h : Memory.wf s.mem = true) : Memory.wf (s.exec f).mem = true :=
  State.run_wf s _ h

/-- What a command leaves at a key is what its meaning read there at its end. -/
theorem State.exec_read (s : State) (f : Work → Work) (h : Memory.wf s.mem = true) (hb : (f s.work).base = s.mem) (k : Nat) :
    Memory.read (s.exec f).mem k = (f s.work).rd k := by
  have e : (s.exec f).mem = Memory.apply (s.mem.filter fun c => !Memory.within (f s.work).wiped c.1) (f s.work).log := by
    show Memory.apply _ _ = _
    simp only [State.work, Work.settle_wiped, Work.settle_log]
  rw [e, Memory.read_apply _ _ _ (Memory.filter_wf _ _ h), Memory.read_filter, Work.rd, hb]
  cases Memory.find (f s.work).log k <;> simp

/-- A meaning that writes nothing and clears nothing leaves memory as it stood, whatever its form. -/
theorem State.exec_mem (s : State) (f : Work → Work) (hl : (f s.work).log = []) (hw : (f s.work).wiped = []) : (s.exec f).mem = s.mem := by
  have e : (s.exec f).mem = Memory.apply (s.mem.filter fun c => !Memory.within (f s.work).wiped c.1) (f s.work).log := by
    show Memory.apply _ _ = _
    simp only [State.work, Work.settle_wiped, Work.settle_log]
  rw [e, hl, hw]
  simp [Memory.apply, Memory.within]

/-- A meaning that only changes the device: its command's whole next state. -/
theorem State.exec_upd (s : State) (f : Dev → Dev) : s.exec (fun w => w.upd f) = { s with dev := f s.dev } := by
  have hm : (s.exec fun w => w.upd f).mem = s.mem := State.exec_mem s _ rfl rfl
  have hd : (s.exec fun w => w.upd f).dev = f s.dev := by
    show ((s.work.upd f).settle).d = _
    rw [Work.settle_nil _ rfl]
    rfl
  calc s.exec (fun w => w.upd f)
      = { pending := s.pending, fuses := s.fuses, mem := (s.exec fun w => w.upd f).mem, dev := (s.exec fun w => w.upd f).dev } := rfl
    _ = _ := by rw [hm, hd]

/-- A meaning that changes nothing leaves the state as it is. -/
theorem State.exec_id (s : State) (f : Work → Work) (h : f s.work = s.work) : s.exec f = s := by
  have hm : (s.exec f).mem = s.mem := State.exec_mem s _ (by rw [h]; rfl) (by rw [h]; rfl)
  have hd : (s.exec f).dev = s.dev := by
    show ((f s.work).settle).d = _
    rw [h, Work.settle_nil _ rfl]
    rfl
  calc s.exec f = { pending := s.pending, fuses := s.fuses, mem := (s.exec f).mem, dev := (s.exec f).dev } := rfl
    _ = _ := by rw [hm, hd]

/-! ### The state a meaning leaves -/

/-- The state that a command leaves when its meaning ends in `v`. -/
def State.finish (s : State) (v : Work) : State :=
  { s with mem := Memory.apply (s.mem.filter fun c => !Memory.within v.wiped c.1) v.log, dev := v.settle.d }

/-- A command's result by the working state its meaning leaves. -/
theorem State.exec_eq (s : State) (f : Work → Work) : s.exec f = s.finish (f s.work) := by
  have hm : (s.exec f).mem = Memory.apply (s.mem.filter fun c => !Memory.within (f s.work).wiped c.1) (f s.work).log := by
    show Memory.apply _ _ = _
    simp only [State.work, Work.settle_wiped, Work.settle_log]
  calc s.exec f = { pending := s.pending, fuses := s.fuses, mem := (s.exec f).mem, dev := (s.exec f).dev } := rfl
    _ = _ := by rw [hm]; rfl

/-- A command whose meaning ends in `v` answers the state that `v` leaves. -/
theorem exec_gives {c : Instr} {s : State} {f : Work → Work} {v : Work} {P : State → Prop} (h : exec c s = .next (s.exec f))
    (e : f s.work = v) (p : P (s.finish v)) : ∃ t, exec c s = .next t ∧ P t :=
  ⟨s.exec f, h, by rw [State.exec_eq, e]; exact p⟩

@[simp] theorem State.finish_pending (s : State) (v : Work) : (s.finish v).pending = s.pending := rfl
@[simp] theorem State.finish_fuses (s : State) (v : Work) : (s.finish v).fuses = s.fuses := rfl
@[simp] theorem State.finish_pitch (s : State) (v : Work) : (s.finish v).dev.pitch = v.d.pitch := Work.settle_pitch v
@[simp] theorem State.finish_active (s : State) (v : Work) : (s.finish v).dev.active = v.d.active := Work.settle_active v
@[simp] theorem State.finish_shadow (s : State) (v : Work) : (s.finish v).dev.shadow = v.d.shadow := Work.settle_shadow v
@[simp] theorem State.finish_bootSet (s : State) (v : Work) : (s.finish v).dev.bootSet = v.d.bootSet := Work.settle_bootSet v
@[simp] theorem State.finish_cfg (s : State) (v : Work) : (s.finish v).dev.cfg = v.d.cfg := Work.settle_cfg v
@[simp] theorem State.finish_ctxs (s : State) (v : Work) : (s.finish v).dev.ctxs = v.d.ctxs := Work.settle_ctxs v
@[simp] theorem State.finish_tiles (s : State) (v : Work) : (s.finish v).dev.tiles = v.d.tiles := Work.settle_tiles v
@[simp] theorem State.finish_links (s : State) (v : Work) : (s.finish v).dev.links = v.d.links := Work.settle_links v
@[simp] theorem State.finish_residency (s : State) (v : Work) : (s.finish v).dev.residency = v.d.residency := Work.settle_residency v
@[simp] theorem State.finish_copies (s : State) (v : Work) : (s.finish v).dev.copies = v.d.copies := Work.settle_copies v
@[simp] theorem State.finish_queues (s : State) (v : Work) : (s.finish v).dev.queues = v.d.queues := Work.settle_queues v
@[simp] theorem State.finish_trav (s : State) (v : Work) : (s.finish v).dev.trav = v.d.trav := Work.settle_trav v
@[simp] theorem State.finish_gathers (s : State) (v : Work) : (s.finish v).dev.gathers = v.d.gathers := Work.settle_gathers v
@[simp] theorem State.finish_units (s : State) (v : Work) : (s.finish v).dev.units = v.d.units := Work.settle_units v
@[simp] theorem State.finish_scatters (s : State) (v : Work) : (s.finish v).dev.scatters = v.d.scatters := Work.settle_scatters v
@[simp] theorem State.finish_lines (s : State) (v : Work) : (s.finish v).dev.lines = v.d.lines := Work.settle_lines v
@[simp] theorem State.finish_held (s : State) (v : Work) : (s.finish v).dev.held = v.d.held := Work.settle_held v
@[simp] theorem State.finish_windows (s : State) (v : Work) : (s.finish v).dev.windows = v.d.windows := Work.settle_windows v
@[simp] theorem State.finish_merges (s : State) (v : Work) : (s.finish v).dev.merges = v.d.merges := Work.settle_merges v
@[simp] theorem State.finish_colls (s : State) (v : Work) : (s.finish v).dev.colls = v.d.colls := Work.settle_colls v
@[simp] theorem State.finish_arrivals (s : State) (v : Work) : (s.finish v).dev.arrivals = v.d.arrivals := Work.settle_arrivals v
@[simp] theorem State.finish_rowMoves (s : State) (v : Work) : (s.finish v).dev.rowMoves = v.d.rowMoves := Work.settle_rowMoves v
@[simp] theorem State.finish_logCount (s : State) (v : Work) : (s.finish v).dev.logCount = v.d.logCount := Work.settle_logCount v
@[simp] theorem State.finish_logRead (s : State) (v : Work) : (s.finish v).dev.logRead = v.d.logRead := Work.settle_logRead v
@[simp] theorem State.finish_fw (s : State) (v : Work) : (s.finish v).dev.fw = v.d.fw := Work.settle_fw v
@[simp] theorem State.finish_counters (s : State) (v : Work) : (s.finish v).dev.counters = v.d.counters := Work.settle_counters v
@[simp] theorem State.finish_snapshot (s : State) (v : Work) : (s.finish v).dev.snapshot = v.d.snapshot := Work.settle_snapshot v
@[simp] theorem State.finish_snapTick (s : State) (v : Work) : (s.finish v).dev.snapTick = v.d.snapTick := Work.settle_snapTick v
@[simp] theorem State.finish_cntSelect (s : State) (v : Work) : (s.finish v).dev.cntSelect = v.d.cntSelect := Work.settle_cntSelect v
@[simp] theorem State.finish_regIo (s : State) (v : Work) : (s.finish v).dev.regIo = v.d.regIo := Work.settle_regIo v
@[simp] theorem State.finish_fault (s : State) (v : Work) : (s.finish v).dev.fault = v.d.fault := Work.settle_fault v
@[simp] theorem State.finish_heldEvents (s : State) (v : Work) : (s.finish v).dev.heldEvents = v.d.heldEvents := Work.settle_heldEvents v
@[simp] theorem State.finish_machineStopped (s : State) (v : Work) : (s.finish v).dev.machineStopped = v.d.machineStopped := Work.settle_machineStopped v
@[simp] theorem State.finish_routeCause (s : State) (v : Work) : (s.finish v).dev.routeCause = v.d.routeCause := Work.settle_routeCause v
@[simp] theorem State.finish_routeLink (s : State) (v : Work) : (s.finish v).dev.routeLink = v.d.routeLink := Work.settle_routeLink v
@[simp] theorem State.finish_deviceNumber (s : State) (v : Work) : (s.finish v).dev.deviceNumber = v.d.deviceNumber := Work.settle_deviceNumber v
@[simp] theorem State.finish_sec (s : State) (v : Work) : (s.finish v).dev.sec = v.d.sec := Work.settle_sec v
@[simp] theorem State.finish_pwr (s : State) (v : Work) : (s.finish v).dev.pwr = v.d.pwr := Work.settle_pwr v
@[simp] theorem State.finish_hif (s : State) (v : Work) : (s.finish v).dev.hif = v.d.hif := Work.settle_hif v
@[simp] theorem State.finish_side (s : State) (v : Work) : (s.finish v).dev.side = v.d.side := Work.settle_side v
@[simp] theorem State.finish_linkOut (s : State) (v : Work) : (s.finish v).dev.linkOut = v.d.linkOut := Work.settle_linkOut v
@[simp] theorem State.finish_nextId (s : State) (v : Work) : (s.finish v).dev.nextId = v.d.nextId := Work.settle_nextId v
@[simp] theorem State.finish_freeCtr (s : State) (v : Work) : (s.finish v).dev.freeCtr = v.d.freeCtr := Work.settle_freeCtr v
@[simp] theorem State.finish_nowNs (s : State) (v : Work) : (s.finish v).dev.nowNs = v.d.nowNs := Work.settle_nowNs v

/-- Memory where nothing was written and nothing cleared. -/
theorem State.finish_mem (s : State) (v : Work) (hl : v.log = []) (hw : v.wiped = []) : (s.finish v).mem = s.mem := by
  show Memory.apply _ _ = _
  rw [hl, hw]
  simp [Memory.apply, Memory.within]

/-- The whole device where nothing was written. -/
theorem State.finish_dev (s : State) (v : Work) (hl : v.log = []) : (s.finish v).dev = v.d := by
  show v.settle.d = _
  rw [Work.settle_nil v hl]

/-- The whole state where nothing was written and nothing cleared. -/
theorem State.finish_eq (s : State) (v : Work) (hl : v.log = []) (hw : v.wiped = []) : s.finish v = { s with dev := v.d } := by
  calc s.finish v = { pending := s.pending, fuses := s.fuses, mem := (s.finish v).mem, dev := (s.finish v).dev } := rfl
    _ = _ := by rw [State.finish_mem s v hl hw, State.finish_dev s v hl]

/-- What is left at a key is what the meaning read there at its end. -/
theorem State.finish_read (s : State) (v : Work) (h : Memory.wf s.mem = true) (hb : v.base = s.mem) (k : Nat) :
    Memory.read (s.finish v).mem k = v.rd k := by
  show Memory.read (Memory.apply _ _) k = _
  rw [Memory.read_apply _ _ _ (Memory.filter_wf _ _ h), Memory.read_filter, Work.rd, hb]
  cases Memory.find v.log k <;> simp

/-- What is left in memory where the meaning stored some bytes from a key upward and nothing else. -/
theorem State.finish_stores (s : State) (v : Work) (key : Nat) (bs : List Byte) (h : Memory.wf s.mem = true) (hb : v.base = s.mem)
    (hw : v.wiped = []) (hl : v.log = journal key bs []) : s.stores (s.finish v) key bs := by
  intro k
  rw [State.finish_read s v h hb, Work.rd, hb, hl, hw]
  have hn : Memory.within [] k = false := rfl
  rw [hn]
  by_cases hk : key ≤ k
  · rw [if_pos hk]
    by_cases hlt : k - key < bs.length
    · have e := Memory.find_journal_at bs key (k - key) [] hlt
      rw [show key + (k - key) = k by omega] at e
      rw [e, List.getElem?_eq_getElem hlt]
      rfl
    · rw [Memory.find_journal_other bs key k [] (Or.inr (by omega)), List.getElem?_eq_none (by omega)]
      rfl
  · rw [if_neg hk, Memory.find_journal_other bs key k [] (Or.inl (by omega))]
    rfl

/-- The contexts of the state a meaning leaves. -/
theorem State.finish_ctx (s : State) (v : Work) (c : Nat) (h : v.fz = s.fuses) : (s.finish v).work.ctx c = v.ctx c := by
  simp [Work.ctx, h]

/-- The tiles of the state a meaning leaves. -/
@[simp] theorem State.finish_tile (s : State) (v : Work) (t : Nat) : (s.finish v).work.tile t = v.tile t := by simp [Work.tile]

/-- The links of the state a meaning leaves. -/
@[simp] theorem State.finish_link (s : State) (v : Work) (l : Nat) : (s.finish v).work.link l = v.link l := by simp [Work.link]

end Sys2Proof.Machine
end

