-- ==== Sys2Proof/Laws/Access.lean ====
section
/-!
SUPPORT. What the access check of R348 and R361 depends on: fuses, populated capacity, residency and the contexts.
-/

namespace Sys2Proof.Machine

/-- The walk over the local address map depends on fuses and populated capacity alone. -/
theorem Work.unmappedGo_congr (v w : Work) (hz : v.fz = w.fz) (hm : v.d.memRegs = w.d.memRegs) (n a b : Nat) : v.unmappedGo n a b = w.unmappedGo n a b := by
  have e : ∀ a, v.mapEnd a = w.mapEnd a := by
    intro a; unfold Work.mapEnd Work.capSize; rw [hz, hm]
  induction n generalizing a with
  | zero => rfl
  | succ n ih => unfold Work.unmappedGo; rw [e]; split; · rfl
                 · split; · rfl
                   · exact ih _

/-- The access check depends on fuses, populated capacity, residency and contexts alone. -/
theorem Work.accessFault_congr (v w : Work) (c lo len : Nat) (wr : Bool) (hz : v.fz = w.fz) (hm : v.d.memRegs = w.d.memRegs) (hr : v.d.residency = w.d.residency) (hc : v.d.ctxs = w.d.ctxs) :
    v.accessFault c lo len wr = w.accessFault c lo len wr := by
  have h1 : v.unmappedIn lo len = w.unmappedIn lo len := Work.unmappedGo_congr v w hz hm _ _ _
  have h2 : v.inTransition lo len = w.inTransition lo len := by unfold Work.inTransition; rw [hr]
  have h3 : v.ctx c = w.ctx c := by unfold Work.ctx; rw [hc, hz]
  have h4 : v.rights c wr = w.rights c wr := by unfold Work.rights; rw [hr, h3, hz]
  unfold Work.accessFault; rw [h1, h2, h4, hz]

end Sys2Proof.Machine
end

