-- ==== Sys2Proof/Laws/Frame.lean ====
section
/-!
SUPPORT. What the shared operations of Machine/Ops.lean never change: one lemma per operation, and one per field that follows.
-/

namespace Sys2Proof.Machine

/-! ### From the still part to its fields -/

theorem Work.still_fz {v w : Work} (h : v.still = w.still) : v.fz = w.fz := congrArg (fun x => x.1) h
theorem Work.still_base {v w : Work} (h : v.still = w.still) : v.base = w.base := congrArg (fun x => x.2.1) h
theorem Work.still_wiped {v w : Work} (h : v.still = w.still) : v.wiped = w.wiped := congrArg (fun x => x.2.2.1) h
theorem Work.still_pitch {v w : Work} (h : v.still = w.still) : v.d.pitch = w.d.pitch := congrArg (fun x => x.2.2.2.pitch) h
theorem Work.still_active {v w : Work} (h : v.still = w.still) : v.d.active = w.d.active := congrArg (fun x => x.2.2.2.active) h
theorem Work.still_shadow {v w : Work} (h : v.still = w.still) : v.d.shadow = w.d.shadow := congrArg (fun x => x.2.2.2.shadow) h
theorem Work.still_bootSet {v w : Work} (h : v.still = w.still) : v.d.bootSet = w.d.bootSet := congrArg (fun x => x.2.2.2.bootSet) h
theorem Work.still_cfg {v w : Work} (h : v.still = w.still) : v.d.cfg = w.d.cfg := congrArg (fun x => x.2.2.2.cfg) h
theorem Work.still_links {v w : Work} (h : v.still = w.still) : v.d.links = w.d.links := congrArg (fun x => x.2.2.2.links) h
theorem Work.still_residency {v w : Work} (h : v.still = w.still) : v.d.residency = w.d.residency := congrArg (fun x => x.2.2.2.residency) h
theorem Work.still_queues {v w : Work} (h : v.still = w.still) : v.d.queues = w.d.queues := congrArg (fun x => x.2.2.2.queues) h
theorem Work.still_held {v w : Work} (h : v.still = w.still) : v.d.held = w.d.held := congrArg (fun x => x.2.2.2.held) h
theorem Work.still_arrivals {v w : Work} (h : v.still = w.still) : v.d.arrivals = w.d.arrivals := congrArg (fun x => x.2.2.2.arrivals) h
theorem Work.still_rowMoves {v w : Work} (h : v.still = w.still) : v.d.rowMoves = w.d.rowMoves := congrArg (fun x => x.2.2.2.rowMoves) h
theorem Work.still_logCount {v w : Work} (h : v.still = w.still) : v.d.logCount = w.d.logCount := congrArg (fun x => x.2.2.2.logCount) h
theorem Work.still_logRead {v w : Work} (h : v.still = w.still) : v.d.logRead = w.d.logRead := congrArg (fun x => x.2.2.2.logRead) h
theorem Work.still_fw {v w : Work} (h : v.still = w.still) : v.d.fw = w.d.fw := congrArg (fun x => x.2.2.2.fw) h
theorem Work.still_snapshot {v w : Work} (h : v.still = w.still) : v.d.snapshot = w.d.snapshot := congrArg (fun x => x.2.2.2.snapshot) h
theorem Work.still_snapTick {v w : Work} (h : v.still = w.still) : v.d.snapTick = w.d.snapTick := congrArg (fun x => x.2.2.2.snapTick) h
theorem Work.still_cntSelect {v w : Work} (h : v.still = w.still) : v.d.cntSelect = w.d.cntSelect := congrArg (fun x => x.2.2.2.cntSelect) h
theorem Work.still_regIo {v w : Work} (h : v.still = w.still) : v.d.regIo = w.d.regIo := congrArg (fun x => x.2.2.2.regIo) h
theorem Work.still_routeCause {v w : Work} (h : v.still = w.still) : v.d.routeCause = w.d.routeCause := congrArg (fun x => x.2.2.2.routeCause) h
theorem Work.still_routeLink {v w : Work} (h : v.still = w.still) : v.d.routeLink = w.d.routeLink := congrArg (fun x => x.2.2.2.routeLink) h
theorem Work.still_deviceNumber {v w : Work} (h : v.still = w.still) : v.d.deviceNumber = w.d.deviceNumber := congrArg (fun x => x.2.2.2.deviceNumber) h
theorem Work.still_sec {v w : Work} (h : v.still = w.still) : v.d.sec = w.d.sec := congrArg (fun x => x.2.2.2.sec) h
theorem Work.still_pwr {v w : Work} (h : v.still = w.still) : v.d.pwr = w.d.pwr := congrArg (fun x => x.2.2.2.pwr) h
theorem Work.still_side {v w : Work} (h : v.still = w.still) : v.d.side = w.d.side := congrArg (fun x => x.2.2.2.side) h
theorem Work.still_linkOut {v w : Work} (h : v.still = w.still) : v.d.linkOut = w.d.linkOut := congrArg (fun x => x.2.2.2.linkOut) h
theorem Work.still_nextId {v w : Work} (h : v.still = w.still) : v.d.nextId = w.d.nextId := congrArg (fun x => x.2.2.2.nextId) h
theorem Work.still_freeCtr {v w : Work} (h : v.still = w.still) : v.d.freeCtr = w.d.freeCtr := congrArg (fun x => x.2.2.2.freeCtr) h
theorem Work.still_nowNs {v w : Work} (h : v.still = w.still) : v.d.nowNs = w.d.nowNs := congrArg (fun x => x.2.2.2.nowNs) h

/-! ### Operation by operation -/

/-- A fold of an operation that keeps the still part keeps it. -/
theorem Work.foldl_still {α : Type} (g : Work → α → Work) (hg : ∀ w a, (g w a).still = w.still) (l : List α) (w : Work) :
    (l.foldl g w).still = w.still := by
  induction l generalizing w with
  | nil => rfl
  | cons a l ih => rw [List.foldl_cons, ih, hg]

@[simp] theorem Work.updCtx_still (w : Work) (c : Nat) (f : Ctx → Ctx) : (w.updCtx c f).still = w.still := rfl
@[simp] theorem Work.updTile_still (w : Work) (t : Nat) (f : Tile → Tile) : (w.updTile t f).still = w.still := rfl
@[simp] theorem Work.updJob_still (w : Work) (c : Nat) (f : Job → Job) : (w.updJob c f).still = w.still := rfl
@[simp] theorem Work.count_still (w : Work) (id n : Nat) : (w.count id n).still = w.still := rfl
@[simp] theorem Work.countCtx_still (w : Work) (c id n : Nat) : (w.countCtx c id n).still = w.still := rfl
@[simp] theorem Work.countInst_still (w : Work) (id i n : Nat) : (w.countInst id i n).still = w.still := rfl
@[simp] theorem Work.stall_still (w : Work) (c cause cls : Nat) : (w.stall c cause cls).still = w.still := rfl
@[simp] theorem Work.wr_still (w : Work) (k : Nat) (bs : List Byte) : (w.wr k bs).still = w.still := rfl
@[simp] theorem Work.stN_still (w : Work) (c a : Nat) (bs : List Byte) : (w.stN c a bs).still = w.still := rfl
@[simp] theorem Work.msix_still (w : Work) (fn vec : Nat) : (w.msix fn vec).still = w.still := rfl
@[simp] theorem Work.cacheIova_still (w : Work) (fn iova : Nat) : (w.cacheIova fn iova).still = w.still := rfl
@[simp] theorem Work.dropOps_still (w : Work) (c : Nat) : (w.dropOps c).still = w.still := rfl

@[simp] theorem Work.settle_still (w : Work) : w.settle.still = w.still := by unfold Work.settle; split <;> rfl

@[simp] theorem Work.writeEvent_still (w : Work) (c : Nat) (dev : Bool) (e : HeldEvent) : (w.writeEvent c dev e).still = w.still := by
  unfold Work.writeEvent
  dsimp only
  split
  · rw [Work.updCtx_still, Work.countCtx_still]
  · split
    · rw [Work.msix_still, Work.updCtx_still, Work.countCtx_still, Work.wr_still, Work.cacheIova_still]
    · rw [Work.updCtx_still, Work.countCtx_still, Work.wr_still, Work.cacheIova_still]

@[simp] theorem Work.postEvent_still (w : Work) (c code : Nat) (p : List Byte) : (w.postEvent c code p).still = w.still := by
  unfold Work.postEvent
  split
  · exact Work.writeEvent_still ..
  · rfl

@[simp] theorem Work.deviceEvent_still (w : Work) (code : Nat) (p : List Byte) : (w.deviceEvent code p).still = w.still := by
  unfold Work.deviceEvent
  dsimp only
  split
  · exact Work.writeEvent_still ..
  · rfl

@[simp] theorem Work.postCompletion_still (w : Work) (c : Nat) (d : Desc) (s : Status) (r : Nat) :
    (w.postCompletion c d s r).still = w.still := by
  unfold Work.postCompletion
  dsimp only
  split
  · rw [Work.msix_still, Work.updCtx_still, Work.countCtx_still, Work.wr_still, Work.cacheIova_still]
  · rw [Work.updCtx_still, Work.countCtx_still, Work.wr_still, Work.cacheIova_still]

@[simp] theorem Work.complete_still (w : Work) (c seq : Nat) (s : Status) (r : Nat) : (w.complete c seq s r).still = w.still := by
  unfold Work.complete
  split
  · rfl
  · rw [Work.postCompletion_still, Work.updCtx_still]

@[simp] theorem Work.ownRecord_still (w : Work) (c : Nat) (r : HaltRec) : (w.ownRecord c r).still = w.still := by
  unfold Work.ownRecord
  split
  · rfl
  · split <;> rfl

@[simp] theorem Work.stopWork_still (w : Work) (c : Nat) : (w.stopWork c).still = w.still := by
  unfold Work.stopWork
  dsimp only
  rw [Work.updCtx_still, Work.dropOps_still]
  exact Work.foldl_still _ (fun v t => Work.updTile_still v t Tile.halted) _ _

@[simp] theorem Work.haltDescs_still (w : Work) (c reason : Nat) : (w.haltDescs c reason).still = w.still := by
  unfold Work.haltDescs
  exact Work.foldl_still _ (fun _ _ => Work.complete_still ..) _ _

@[simp] theorem Work.halt_still (w : Work) (c : Nat) (r : HaltRec) : (w.halt c r).still = w.still := by
  unfold Work.halt
  dsimp only
  split
  · rfl
  · split
    · rw [Work.ownRecord_still]
    · split
      · split
        · show Work.still (Work.stopWork ..) = _
          rw [Work.stopWork_still, Work.haltDescs_still, Work.postEvent_still, Work.updCtx_still, Work.ownRecord_still]
        · rw [Work.stopWork_still, Work.haltDescs_still, Work.postEvent_still, Work.updCtx_still, Work.ownRecord_still]
      · rw [Work.stopWork_still, Work.haltDescs_still, Work.postEvent_still, Work.updCtx_still, Work.ownRecord_still]

@[simp] theorem Work.haltStream_still (w : Work) (r : StreamRef) (e reason d : Nat) : (w.haltStream r e reason d).still = w.still :=
  Work.halt_still ..

@[simp] theorem Work.haltTile_still (w : Work) (t : TileRef) (u reason d : Nat) : (w.haltTile t u reason d).still = w.still := by
  unfold Work.haltTile
  split
  · rfl
  · exact Work.halt_still ..

@[simp] theorem Work.haltAll_still (w : Work) (r : HaltRec) : (w.haltAll r).still = w.still :=
  Work.foldl_still _ (fun _ _ => Work.halt_still ..) _ _

@[simp] theorem Work.haltNonUrgent_still (w : Work) (r : HaltRec) : (w.haltNonUrgent r).still = w.still := by
  refine Work.foldl_still _ (fun v c => ?_) _ _
  split
  · rfl
  · exact Work.halt_still ..

@[simp] theorem Work.poisonHalt_still (w : Work) (c : Nat) (r : HaltRec) (p : Nat) : (w.poisonHalt c r p).still = w.still := by
  unfold Work.poisonHalt
  split
  · exact Work.haltAll_still ..
  · exact Work.halt_still ..

@[simp] theorem Work.recordFault_still (w : Work) (reason : Nat) (src : FaultSource) (i a : Nat) :
    (w.recordFault reason src i a).still = w.still := by
  unfold Work.recordFault
  split <;> rfl

@[simp] theorem Work.deviceFault_still (w : Work) (reason : Nat) (src : FaultSource) (i a : Nat) :
    (w.deviceFault reason src i a).still = w.still := by
  unfold Work.deviceFault
  dsimp only
  rw [Work.foldl_still _ (fun _ _ => Work.halt_still ..), Work.deviceEvent_still, Work.recordFault_still]

end Sys2Proof.Machine
end

