-- ==== Sys2Proof/Laws/Halt.lean ====
section
/-!
SUPPORT. What taking a halt does to the contexts (R256, R257, R498): its context is halted with the record, and no other
context's record changes.
-/

namespace Sys2Proof.Machine

/-! ### Elements of a list changed in place -/

theorem updAt_getElem? {α : Type} (l : List α) (i j : Nat) (f : α → α) :
    (updAt l i f)[j]? = if j = i then (l[j]?).map f else l[j]? := by
  induction l generalizing i j with
  | nil => simp [updAt]
  | cons x xs ih =>
    cases i with
    | zero =>
      cases j with
      | zero => simp [updAt]
      | succ j => simp [updAt]
    | succ i =>
      cases j with
      | zero => simp [updAt]
      | succ j => simp [updAt, ih]

@[simp] theorem updAt_length {α : Type} (l : List α) (i : Nat) (f : α → α) : (updAt l i f).length = l.length := by
  induction l generalizing i with
  | nil => rfl
  | cons x xs ih => cases i <;> simp [updAt, ih]

/-! ### Contexts, tiles and links under their updates -/

/-- A context that exists, changed. -/
theorem Work.updCtx_ctx_same (w : Work) (c : Nat) (f : Ctx → Ctx) (h : c < w.d.ctxs.length) : (w.updCtx c f).ctx c = f (w.ctx c) := by
  simp only [Work.ctx, Work.updCtx_d, updAt_getElem?, if_true, List.getElem?_eq_getElem h, Option.map_some, Option.getD_some]

/-- Every other context. -/
theorem Work.updCtx_ctx_other (w : Work) (c k : Nat) (f : Ctx → Ctx) (h : k ≠ c) : (w.updCtx c f).ctx k = w.ctx k := by
  simp only [Work.ctx, Work.updCtx_d, Work.updCtx_fz, updAt_getElem?, h, if_false]

/-- A tile that exists, changed. -/
theorem Work.updTile_tile_same (w : Work) (t : Nat) (f : Tile → Tile) (h : t < w.d.tiles.length) : (w.updTile t f).tile t = f (w.tile t) := by
  simp only [Work.tile, Work.updTile_d, updAt_getElem?, if_true, List.getElem?_eq_getElem h, Option.map_some, Option.getD_some]

/-- Every other tile. -/
theorem Work.updTile_tile_other (w : Work) (t k : Nat) (f : Tile → Tile) (h : k ≠ t) : (w.updTile t f).tile k = w.tile k := by
  simp only [Work.tile, Work.updTile_d, updAt_getElem?, h, if_false]

/-- A link that exists, changed. -/
theorem Work.updLink_link_same (w : Work) (l : Nat) (f : Link → Link) (h : l < w.d.links.length) : (w.updLink l f).link l = f (w.link l) := by
  simp only [Work.link, Work.updLink_d, updAt_getElem?, if_true, List.getElem?_eq_getElem h, Option.map_some, Option.getD_some]

/-- Every other link. -/
theorem Work.updLink_link_other (w : Work) (l k : Nat) (f : Link → Link) (h : k ≠ l) : (w.updLink l f).link k = w.link k := by
  simp only [Work.link, Work.updLink_d, updAt_getElem?, h, if_false]

/-- An enabled context is one of the device's. -/
theorem Work.ctx_exists (w : Work) (c : Nat) (h : (w.ctx c).enable = true) : c < w.d.ctxs.length := by
  rcases Nat.lt_or_ge c w.d.ctxs.length with h1 | h1
  · exact h1
  · rw [Work.ctx, List.getElem?_eq_none h1] at h
    exact absurd h (by simp [Ctx.reset])

/-- A change of a context that keeps its `p` keeps every context's `p`. -/
theorem Work.updCtx_keeps {β : Type} (p : Ctx → β) (w : Work) (c k : Nat) (f : Ctx → Ctx) (h : ∀ x, p (f x) = p x) :
    p ((w.updCtx c f).ctx k) = p (w.ctx k) := by
  by_cases hk : k = c
  · subst hk
    rcases Nat.lt_or_ge k w.d.ctxs.length with h1 | h1
    · rw [Work.updCtx_ctx_same w k f h1, h]
    · simp only [Work.ctx, Work.updCtx_d, Work.updCtx_fz, updAt_getElem?, if_true, List.getElem?_eq_none h1, Option.map_none]
  · rw [Work.updCtx_ctx_other w c k f hk]

/-- A fold of an operation that keeps a context's `p` keeps it. -/
theorem Work.foldl_keeps {α β : Type} (p : Work → β) (g : Work → α → Work) (hg : ∀ w a, p (g w a) = p w) (l : List α) (w : Work) :
    p (l.foldl g w) = p w := by
  induction l generalizing w with
  | nil => rfl
  | cons a l ih => rw [List.foldl_cons, ih, hg]

/-! ### What completions, events and a stop keep of a context -/

/-- A context's lasting part: without its rings' indices, its descriptors and its work in progress. -/
def Ctx.lasting (x : Ctx) : Ctx :=
  { x with
    cpl := OutRing.reset, evt := OutRing.reset, unsignalled := 0, unsignalledAt := 0, fetched := [], cmds := [], fences := [],
    waited := [], replay := none, waiting := [], executing := [] }

theorem Work.writeEvent_lasting (w : Work) (c k : Nat) (dev : Bool) (e : HeldEvent) :
    ((w.writeEvent c dev e).ctx k).lasting = (w.ctx k).lasting := by
  unfold Work.writeEvent
  dsimp only
  split
  · exact Work.updCtx_keeps Ctx.lasting (w.countCtx c Ctr.eventDrops 1) c k _ (fun _ => rfl)
  · split
    · exact Work.updCtx_keeps Ctx.lasting (Work.countCtx _ c _ _) c k _ (fun _ => rfl)
    · exact Work.updCtx_keeps Ctx.lasting (Work.countCtx _ c _ _) c k _ (fun _ => rfl)

theorem Work.postEvent_lasting (w : Work) (c k code : Nat) (p : List Byte) :
    ((w.postEvent c code p).ctx k).lasting = (w.ctx k).lasting := by
  unfold Work.postEvent
  split
  · exact Work.writeEvent_lasting ..
  · rfl

theorem Work.deviceEvent_lasting (w : Work) (k code : Nat) (p : List Byte) :
    ((w.deviceEvent code p).ctx k).lasting = (w.ctx k).lasting := by
  unfold Work.deviceEvent
  dsimp only
  split
  · exact Work.writeEvent_lasting ..
  · rfl

theorem Work.postCompletion_lasting (w : Work) (c k : Nat) (d : Desc) (s : Status) (r : Nat) :
    ((w.postCompletion c d s r).ctx k).lasting = (w.ctx k).lasting := by
  unfold Work.postCompletion
  dsimp only
  split
  · exact Work.updCtx_keeps Ctx.lasting (Work.countCtx _ c _ _) c k _ (fun _ => rfl)
  · exact Work.updCtx_keeps Ctx.lasting (Work.countCtx _ c _ _) c k _ (fun _ => rfl)

theorem Work.complete_lasting (w : Work) (c k seq : Nat) (s : Status) (r : Nat) :
    ((w.complete c seq s r).ctx k).lasting = (w.ctx k).lasting := by
  unfold Work.complete
  split
  · rfl
  · rw [Work.postCompletion_lasting]
    exact Work.updCtx_keeps Ctx.lasting w c k _ (fun _ => rfl)

theorem Work.haltDescs_lasting (w : Work) (c k reason : Nat) : ((w.haltDescs c reason).ctx k).lasting = (w.ctx k).lasting := by
  unfold Work.haltDescs
  exact Work.foldl_keeps (fun v => (v.ctx k).lasting) _ (fun v _ => Work.complete_lasting v ..) _ _

theorem Work.stopWork_lasting (w : Work) (c k : Nat) : ((w.stopWork c).ctx k).lasting = (w.ctx k).lasting := by
  unfold Work.stopWork
  dsimp only
  refine (Work.updCtx_keeps Ctx.lasting _ c k
    (fun x => { x with cmds := [], fences := [], waited := [], replay := none, waiting := [], executing := [] }) (fun _ => rfl)).trans ?_
  show ((List.foldl (fun w t => w.updTile t Tile.halted) w (w.ctx c).tiles).ctx k).lasting = _
  exact Work.foldl_keeps (fun v => (v.ctx k).lasting) (fun w t => w.updTile t Tile.halted) (fun _ _ => rfl) _ _

theorem Ctx.halt_of_lasting {x y : Ctx} (h : x.lasting = y.lasting) : x.halt = y.halt := by
  have e := congrArg Ctx.halt h
  exact e

theorem Ctx.enable_of_lasting {x y : Ctx} (h : x.lasting = y.lasting) : x.enable = y.enable := by
  have e := congrArg Ctx.enable h
  exact e

theorem Ctx.urgent_of_lasting {x y : Ctx} (h : x.lasting = y.lasting) : x.urgent = y.urgent := by
  have e := congrArg Ctx.urgent h
  exact e

/-! ### Taking a halt -/

theorem Work.updCtx_length (w : Work) (c : Nat) (f : Ctx → Ctx) : (w.updCtx c f).d.ctxs.length = w.d.ctxs.length := by simp

/-- The record that a halt of context `c` writes: `r` with its context, tick and cycle (R570). -/
def Work.haltRec (w : Work) (c : Nat) (r : HaltRec) : HaltRec :=
  { r with valid := true, context := c, tick := w.tick, cycle := w.d.pitch.cycle.toNat }

theorem Work.ownRecord_halt (w : Work) (c k : Nat) (r : HaltRec) : ((w.ownRecord c r).ctx k).halt = (w.ctx k).halt := by
  unfold Work.ownRecord
  split
  · rfl
  · split
    · exact Work.updCtx_keeps Ctx.halt w c k _ (fun x => by split <;> rfl)
    · rfl

theorem Work.ownRecord_enable (w : Work) (c k : Nat) (r : HaltRec) : ((w.ownRecord c r).ctx k).enable = (w.ctx k).enable := by
  unfold Work.ownRecord
  split
  · rfl
  · split
    · exact Work.updCtx_keeps Ctx.enable w c k _ (fun x => by split <;> rfl)
    · rfl

theorem Work.ownRecord_length (w : Work) (c : Nat) (r : HaltRec) : (w.ownRecord c r).d.ctxs.length = w.d.ctxs.length := by
  unfold Work.ownRecord
  split
  · rfl
  · split
    · simp
    · rfl

/-- A halt of an enabled context that holds no record (R257, R570): the record. -/
theorem Work.halt_rec (w : Work) (c : Nat) (r : HaltRec) (he : (w.ctx c).enable = true) (hv : (w.ctx c).halt.valid = false) :
    ((w.halt c r).ctx c).halt = w.haltRec c r := by
  have hl := Work.ctx_exists w c he
  unfold Work.halt
  dsimp only
  rw [if_neg (by simp [he]), if_neg (by simp [hv])]
  have h1 : ∀ v v' : Work, (v.ctx c).lasting = (v'.ctx c).lasting → (v.ctx c).halt = (v'.ctx c).halt :=
    fun _ _ h => Ctx.halt_of_lasting h
  split
  · split
    · refine (h1 _ _ (Work.stopWork_lasting ..)).trans ?_
      rw [h1 _ _ (Work.haltDescs_lasting ..), h1 _ _ (Work.postEvent_lasting ..),
        Work.updCtx_ctx_same _ _ _ (by rw [Work.ownRecord_length]; exact hl)]
      rfl
    · refine (h1 _ _ (Work.stopWork_lasting ..)).trans ?_
      rw [h1 _ _ (Work.haltDescs_lasting ..), h1 _ _ (Work.postEvent_lasting ..),
        Work.updCtx_ctx_same _ _ _ (by rw [Work.ownRecord_length]; exact hl)]
      rfl
  · refine (h1 _ _ (Work.stopWork_lasting ..)).trans ?_
    rw [h1 _ _ (Work.haltDescs_lasting ..), h1 _ _ (Work.postEvent_lasting ..),
      Work.updCtx_ctx_same _ _ _ (by rw [Work.ownRecord_length]; exact hl)]
    rfl

/-- A halted context stays halted by its first record (R256, R257). -/
theorem Work.halt_keeps (w : Work) (c k : Nat) (r : HaltRec) (h : (w.ctx k).halt.valid = true ∨ k ≠ c) :
    ((w.halt c r).ctx k).halt = (w.ctx k).halt := by
  unfold Work.halt
  dsimp only
  split
  · rfl
  · split
    · exact Work.ownRecord_halt ..
    · rename_i hv
      have hk : k ≠ c := by
        rcases h with h | h
        · intro e
          subst e
          exact hv h
        · exact h
      have h1 : ∀ v v' : Work, (v.ctx k).lasting = (v'.ctx k).lasting → (v.ctx k).halt = (v'.ctx k).halt :=
        fun _ _ h => Ctx.halt_of_lasting h
      split
      · split
        · refine (h1 _ _ (Work.stopWork_lasting ..)).trans ?_
          rw [h1 _ _ (Work.haltDescs_lasting ..), h1 _ _ (Work.postEvent_lasting ..), Work.updCtx_ctx_other _ _ _ _ hk,
            Work.ownRecord_halt]
        · refine (h1 _ _ (Work.stopWork_lasting ..)).trans ?_
          rw [h1 _ _ (Work.haltDescs_lasting ..), h1 _ _ (Work.postEvent_lasting ..), Work.updCtx_ctx_other _ _ _ _ hk,
            Work.ownRecord_halt]
      · refine (h1 _ _ (Work.stopWork_lasting ..)).trans ?_
        rw [h1 _ _ (Work.haltDescs_lasting ..), h1 _ _ (Work.postEvent_lasting ..), Work.updCtx_ctx_other _ _ _ _ hk,
          Work.ownRecord_halt]

/-- A halt keeps whatever of a context neither its records nor its work in progress hold. -/
theorem Work.halt_lasts {β : Type} (p : Ctx → β) (h1 : ∀ x r, p { x with halt := r } = p x)
    (h2 : ∀ x r, p { x with streamHalt := r } = p x) (h3 : ∀ x y : Ctx, x.lasting = y.lasting → p x = p y)
    (w : Work) (c k : Nat) (r : HaltRec) : p ((w.halt c r).ctx k) = p (w.ctx k) := by
  have h0 : p ((w.ownRecord c (w.haltRec c r)).ctx k) = p (w.ctx k) := by
    unfold Work.ownRecord
    split
    · rfl
    · split
      · exact Work.updCtx_keeps p w c k _ (fun x => by
          split
          · rfl
          · exact h2 ..)
      · rfl
  have h4 : ∀ (v : Work) (h : HaltRec), p ((v.updCtx c fun x => { x with halt := h }).ctx k) = p (v.ctx k) :=
    fun v h => Work.updCtx_keeps p v c k _ (fun x => h1 x h)
  unfold Work.halt
  dsimp only
  split
  · rfl
  · split
    · exact h0
    · split
      · split
        · refine (h3 _ _ (Work.stopWork_lasting ..)).trans ?_
          rw [h3 _ _ (Work.haltDescs_lasting ..), h3 _ _ (Work.postEvent_lasting ..), h4]
          exact h0
        · refine (h3 _ _ (Work.stopWork_lasting ..)).trans ?_
          rw [h3 _ _ (Work.haltDescs_lasting ..), h3 _ _ (Work.postEvent_lasting ..), h4]
          exact h0
      · refine (h3 _ _ (Work.stopWork_lasting ..)).trans ?_
        rw [h3 _ _ (Work.haltDescs_lasting ..), h3 _ _ (Work.postEvent_lasting ..), h4]
        exact h0

/-- A halt enables and disables no context. -/
theorem Work.halt_enable (w : Work) (c k : Nat) (r : HaltRec) : ((w.halt c r).ctx k).enable = (w.ctx k).enable :=
  Work.halt_lasts Ctx.enable (fun _ _ => rfl) (fun _ _ => rfl) (fun _ _ => Ctx.enable_of_lasting) w c k r

/-- A halt makes no context urgent and none not. -/
theorem Work.halt_urgent (w : Work) (c k : Nat) (r : HaltRec) : ((w.halt c r).ctx k).urgent = (w.ctx k).urgent :=
  Work.halt_lasts Ctx.urgent (fun _ _ => rfl) (fun _ _ => rfl) (fun _ _ => Ctx.urgent_of_lasting) w c k r

/-- After a halt of an enabled context it is halted. -/
theorem Work.halt_valid (w : Work) (c : Nat) (r : HaltRec) (he : (w.ctx c).enable = true) : ((w.halt c r).ctx c).halt.valid = true := by
  cases hv : (w.ctx c).halt.valid with
  | true => rw [Work.halt_keeps w c c r (Or.inl hv)]; exact hv
  | false => rw [Work.halt_rec w c r he hv]; rfl

/-! ### Halting several contexts -/

/-- A fold of halts enables and disables no context. -/
theorem Work.foldl_halt_enable (r : Nat → HaltRec) (p : Work → Nat → Bool) (l : List Nat) (w : Work) (k : Nat) :
    ((l.foldl (fun w c => if p w c then w else w.halt c (r c)) w).ctx k).enable = (w.ctx k).enable := by
  refine Work.foldl_keeps (fun v => (v.ctx k).enable) _ (fun v c => ?_) _ _
  split
  · rfl
  · exact Work.halt_enable ..

/-- A fold of halts leaves a halted context's record alone. -/
theorem Work.foldl_halt_keeps (r : Nat → HaltRec) (l : List Nat) (w : Work) (k : Nat) (h : (w.ctx k).halt.valid = true ∨ k ∉ l) :
    ((l.foldl (fun w c => w.halt c (r c)) w).ctx k).halt = (w.ctx k).halt := by
  induction l generalizing w with
  | nil => rfl
  | cons c l ih =>
    rw [List.foldl_cons]
    have hs : ((w.halt c (r c)).ctx k).halt = (w.ctx k).halt :=
      Work.halt_keeps w c k (r c) (by
        rcases h with h | h
        · exact Or.inl h
        · exact Or.inr (fun e => h (by simp [e])))
    rw [ih (w.halt c (r c)) (by
      rcases h with h | h
      · exact Or.inl (by rw [hs]; exact h)
      · exact Or.inr (fun e => h (by simp [e]))), hs]

/-- A halt of every context (R53, R56, R433, R498): an enabled one that held no record takes this one. -/
theorem Work.haltAll_rec (w : Work) (c : Nat) (r : HaltRec) (hc : c < 16) (he : (w.ctx c).enable = true)
    (hv : (w.ctx c).halt.valid = false) : ((w.haltAll r).ctx c).halt = w.haltRec c r := by
  have hmem : c ∈ contexts := by simp [contexts, hc]
  have go : ∀ (l : List Nat) (v : Work), c ∈ l → (v.ctx c).enable = true → (v.ctx c).halt.valid = false → v.still = w.still →
      ((l.foldl (fun v k => v.halt k r) v).ctx c).halt = w.haltRec c r := by
    intro l
    induction l with
    | nil => intro v h; simp at h
    | cons k l ih =>
      intro v h h1 h2 h3
      rw [List.foldl_cons]
      by_cases hk : k = c
      · subst hk
        rw [Work.foldl_halt_keeps (fun _ => r) l _ k (Or.inl (Work.halt_valid v k r h1)), Work.halt_rec v k r h1 h2]
        simp only [Work.haltRec, Work.tick, Work.still_pitch h3]
      · refine ih (v.halt k r) ?_ ?_ ?_ ?_
        · simpa [show ¬ c = k from fun e => hk e.symm] using h
        · rw [Work.halt_enable]; exact h1
        · rw [Work.halt_keeps v k c r (Or.inr (fun e => hk e.symm))]; exact h2
        · rw [Work.halt_still, h3]
  exact go contexts w hmem he hv rfl

/-- A halt of every context that is not urgent (R49, R51): an enabled one that held no record takes this one. -/
theorem Work.haltNonUrgent_rec (w : Work) (c : Nat) (r : HaltRec) (hc : c < 16) (he : (w.ctx c).enable = true)
    (hu : (w.ctx c).urgent = false) (hv : (w.ctx c).halt.valid = false) : ((w.haltNonUrgent r).ctx c).halt = w.haltRec c r := by
  have hmem : c ∈ contexts := by simp [contexts, hc]
  have keep : ∀ (l : List Nat) (v : Work), (v.ctx c).halt.valid = true →
      ((l.foldl (fun v k => if (v.ctx k).urgent then v else v.halt k r) v).ctx c).halt = (v.ctx c).halt := by
    intro l
    induction l with
    | nil => intro v h; rfl
    | cons k l ih =>
      intro v h
      rw [List.foldl_cons]
      split
      · exact ih v h
      · have e := Work.halt_keeps v k c r (Or.inl h)
        rw [ih (v.halt k r) (by rw [e]; exact h), e]
  have go : ∀ (l : List Nat) (v : Work), c ∈ l → (v.ctx c).enable = true → (v.ctx c).urgent = false → (v.ctx c).halt.valid = false →
      v.still = w.still → ((l.foldl (fun v k => if (v.ctx k).urgent then v else v.halt k r) v).ctx c).halt = w.haltRec c r := by
    intro l
    induction l with
    | nil => intro v h; simp at h
    | cons k l ih =>
      intro v h h1 h2 h3 h4
      rw [List.foldl_cons]
      by_cases hk : k = c
      · subst hk
        rw [if_neg (by simp [h2]), keep l _ (Work.halt_valid v k r h1), Work.halt_rec v k r h1 h3]
        simp only [Work.haltRec, Work.tick, Work.still_pitch h4]
      · have hm : c ∈ l := by simpa [show ¬ c = k from fun e => hk e.symm] using h
        split
        · exact ih v hm h1 h2 h3 h4
        · refine ih (v.halt k r) hm ?_ ?_ ?_ ?_
          · rw [Work.halt_enable]; exact h1
          · rw [Work.halt_urgent]; exact h2
          · rw [Work.halt_keeps v k c r (Or.inr (fun e => hk e.symm))]; exact h3
          · rw [Work.halt_still, h4]
  exact go contexts w hmem he hu hv rfl

/-- A command whose meaning ends in a halt of an enabled context that held no record: the state it answers. -/
theorem exec_halts {c : Instr} {s : State} {f : Work → Work} {v : Work} {k : Nat} {r : HaltRec} (h : exec c s = .next (s.exec f))
    (e : f s.work = v.halt k r) (hz : v.fz = s.fuses) (he : (v.ctx k).enable = true) (hv : (v.ctx k).halt.valid = false) :
    ∃ t, exec c s = .next t ∧ (t.work.ctx k).halt = v.haltRec k r ∧ t = s.finish (v.halt k r) := by
  refine ⟨_, h, ?_, ?_⟩
  · rw [State.exec_eq, e, State.finish_ctx _ _ _ (by rw [Work.still_fz (Work.halt_still v k r)]; exact hz), Work.halt_rec v k r he hv]
  · rw [State.exec_eq, e]

end Sys2Proof.Machine
end

