-- ==== Sys2Proof/Laws/Pitch.lean ====
section
/-!
SUPPORT. What the shared pitch operations keep. A `p` is any reading of the working state; a lemma says that an operation keeps
every reading that its basic updates keep.
-/

namespace Sys2Proof.Machine

/-- The urgent dispatch changes nothing of the still part (R454). -/
@[simp] theorem Work.dispatchUrgent_still (w : Work) (c : Nat) : (w.dispatchUrgent c).still = w.still := by
  unfold Work.dispatchUrgent
  dsimp only
  split
  · rfl
  · split
    · rfl
    · split
      · exact Work.halt_still ..
      · rw [Work.updCtx_still, Work.countCtx_still]
        exact Work.foldl_still (fun w t => (w.writeRequests t _).updTile t fun k => k.startUrgent _ _) (fun _ _ => rfl) _ _

/-- A sub-tick changes nothing of the still part (R62). -/
@[simp] theorem Work.subTickNow_still (w : Work) : w.subTickNow.still = w.still := by
  unfold Work.subTickNow
  split
  · rfl
  · dsimp only
    split
    · rfl
    · split
      · exact Work.dispatchUrgent_still ..
      · rfl

/-- What the forwarding of an announcement keeps (R474). -/
theorem Work.forward_keeps {β : Type} (p : Work → β) (h : ∀ v l b, p (v.sendBelay l b) = p v) (w : Work) (b : Belay) :
    p (w.forward b) = p w :=
  Work.foldl_keeps p (fun w l => w.sendBelay l { b with accLatency := b.accLatency + (w.link l).latency }) (fun v _ => h v _ _) _ w

/-- The pitch bookkeeping of reports and announcements changed. -/
def Work.notePitch (w : Work) (r1 r2 : Bool) (a : Option Belay) (at_ : Nat) (held : Bool) : Work :=
  w.upd fun d =>
    { d with pitch := { d.pitch with reported := r1, reportedSwap := r2, announced := a, announceAt := at_, held := held } }

/-- What a done-report or a held tick's announcement keeps (R47, R50). -/
theorem Work.tryReport_keeps {β : Type} (p : Work → β) (h : ∀ v l b, p (v.sendBelay l b) = p v)
    (h2 : ∀ (v : Work) (r1 r2 : Bool) (a : Option Belay) (at_ : Nat) (held : Bool), p (v.notePitch r1 r2 a at_ held) = p v) (w : Work) :
    p w.tryReport = p w := by
  unfold Work.tryReport
  dsimp only
  split
  · rfl
  · split
    · split
      · unfold Work.announce
        dsimp only
        rw [Work.forward_keeps p h]
        exact h2 w w.d.pitch.reported _ _ _ _
      · rfl
    · split
      · rfl
      · rw [h]
        exact h2 w true _ w.d.pitch.announced w.d.pitch.announceAt w.d.pitch.held

end Sys2Proof.Machine
end

