-- ==== Sys2Proof/Laws/Calm.lean ====
section
/-!
SUPPORT. What the work of contexts, engines, tiles, hauls and the tick never changes.
-/

namespace Sys2Proof.Machine

/-- What nothing but register writes, the pitch timer, security, power and the sidebands changes. -/
def Work.calm (w : Work) : Fuses × List Host.Cell × List (Nat × Nat) × Dev := (w.fz, w.base, w.wiped, w.d.calm)

theorem Work.calm_of_still {v w : Work} (h : v.still = w.still) : v.calm = w.calm :=
  congrArg (fun x : Fuses × List Host.Cell × List (Nat × Nat) × Dev => (x.1, x.2.1, x.2.2.1, x.2.2.2.calm)) h
theorem Work.calm_fz {v w : Work} (h : v.calm = w.calm) : v.fz = w.fz := congrArg (fun x => x.1) h
theorem Work.calm_base {v w : Work} (h : v.calm = w.calm) : v.base = w.base := congrArg (fun x => x.2.1) h
theorem Work.calm_wiped {v w : Work} (h : v.calm = w.calm) : v.wiped = w.wiped := congrArg (fun x => x.2.2.1) h
theorem Work.calm_pitch {v w : Work} (h : v.calm = w.calm) : v.d.pitch = w.d.pitch := congrArg (fun x => x.2.2.2.pitch) h
theorem Work.calm_bootSet {v w : Work} (h : v.calm = w.calm) : v.d.bootSet = w.d.bootSet := congrArg (fun x => x.2.2.2.bootSet) h
theorem Work.calm_cntSelect {v w : Work} (h : v.calm = w.calm) : v.d.cntSelect = w.d.cntSelect := congrArg (fun x => x.2.2.2.cntSelect) h
theorem Work.calm_regIo {v w : Work} (h : v.calm = w.calm) : v.d.regIo = w.d.regIo := congrArg (fun x => x.2.2.2.regIo) h
theorem Work.calm_deviceNumber {v w : Work} (h : v.calm = w.calm) : v.d.deviceNumber = w.d.deviceNumber := congrArg (fun x => x.2.2.2.deviceNumber) h
theorem Work.calm_sec {v w : Work} (h : v.calm = w.calm) : v.d.sec = w.d.sec := congrArg (fun x => x.2.2.2.sec) h
theorem Work.calm_pwr {v w : Work} (h : v.calm = w.calm) : v.d.pwr = w.d.pwr := congrArg (fun x => x.2.2.2.pwr) h
theorem Work.calm_side {v w : Work} (h : v.calm = w.calm) : v.d.side = w.d.side := congrArg (fun x => x.2.2.2.side) h
theorem Work.calm_snapTick {v w : Work} (h : v.calm = w.calm) : v.d.snapTick = w.d.snapTick := congrArg (fun x => x.2.2.2.snapTick) h
theorem Work.calm_nowNs {v w : Work} (h : v.calm = w.calm) : v.d.nowNs = w.d.nowNs := congrArg (fun x => x.2.2.2.nowNs) h

/-- A fold of an operation that keeps the calm part keeps it. -/
theorem Work.foldl_calm {α : Type} (g : Work → α → Work) (hg : ∀ w a, (g w a).calm = w.calm) (l : List α) (w : Work) :
    (l.foldl g w).calm = w.calm := by
  induction l generalizing w with
  | nil => rfl
  | cons a l ih => rw [List.foldl_cons, ih, hg]

@[simp] theorem Work.updCtx_calm (w : Work) (c : Nat) (f : Ctx → Ctx) : (w.updCtx c f).calm = w.calm := Work.calm_of_still (Work.updCtx_still ..)
@[simp] theorem Work.updTile_calm (w : Work) (t : Nat) (f : Tile → Tile) : (w.updTile t f).calm = w.calm := Work.calm_of_still (Work.updTile_still ..)
@[simp] theorem Work.updJob_calm (w : Work) (c : Nat) (f : Job → Job) : (w.updJob c f).calm = w.calm := Work.calm_of_still (Work.updJob_still ..)
@[simp] theorem Work.count_calm (w : Work) (id n : Nat) : (w.count id n).calm = w.calm := Work.calm_of_still (Work.count_still ..)
@[simp] theorem Work.countCtx_calm (w : Work) (c id n : Nat) : (w.countCtx c id n).calm = w.calm := Work.calm_of_still (Work.countCtx_still ..)
@[simp] theorem Work.countInst_calm (w : Work) (id i n : Nat) : (w.countInst id i n).calm = w.calm := Work.calm_of_still (Work.countInst_still ..)
@[simp] theorem Work.stall_calm (w : Work) (c cause cls : Nat) : (w.stall c cause cls).calm = w.calm := Work.calm_of_still (Work.stall_still ..)
@[simp] theorem Work.wr_calm (w : Work) (k : Nat) (bs : List Byte) : (w.wr k bs).calm = w.calm := Work.calm_of_still (Work.wr_still ..)
@[simp] theorem Work.stN_calm (w : Work) (c a : Nat) (bs : List Byte) : (w.stN c a bs).calm = w.calm := Work.calm_of_still (Work.stN_still ..)
@[simp] theorem Work.msix_calm (w : Work) (fn vec : Nat) : (w.msix fn vec).calm = w.calm := Work.calm_of_still (Work.msix_still ..)
@[simp] theorem Work.cacheIova_calm (w : Work) (fn iova : Nat) : (w.cacheIova fn iova).calm = w.calm := Work.calm_of_still (Work.cacheIova_still ..)
@[simp] theorem Work.dropOps_calm (w : Work) (c : Nat) : (w.dropOps c).calm = w.calm := Work.calm_of_still (Work.dropOps_still ..)
@[simp] theorem Work.settle_calm (w : Work) : w.settle.calm = w.calm := Work.calm_of_still (Work.settle_still ..)
@[simp] theorem Work.writeEvent_calm (w : Work) (c : Nat) (dev : Bool) (e : HeldEvent) : (w.writeEvent c dev e).calm = w.calm := Work.calm_of_still (Work.writeEvent_still ..)
@[simp] theorem Work.postEvent_calm (w : Work) (c code : Nat) (p : List Byte) : (w.postEvent c code p).calm = w.calm := Work.calm_of_still (Work.postEvent_still ..)
@[simp] theorem Work.deviceEvent_calm (w : Work) (code : Nat) (p : List Byte) : (w.deviceEvent code p).calm = w.calm := Work.calm_of_still (Work.deviceEvent_still ..)
@[simp] theorem Work.postCompletion_calm (w : Work) (c : Nat) (d : Desc) (s : Status) (r : Nat) : (w.postCompletion c d s r).calm = w.calm := Work.calm_of_still (Work.postCompletion_still ..)
@[simp] theorem Work.complete_calm (w : Work) (c seq : Nat) (s : Status) (r : Nat) : (w.complete c seq s r).calm = w.calm := Work.calm_of_still (Work.complete_still ..)
@[simp] theorem Work.ownRecord_calm (w : Work) (c : Nat) (r : HaltRec) : (w.ownRecord c r).calm = w.calm := Work.calm_of_still (Work.ownRecord_still ..)
@[simp] theorem Work.stopWork_calm (w : Work) (c : Nat) : (w.stopWork c).calm = w.calm := Work.calm_of_still (Work.stopWork_still ..)
@[simp] theorem Work.haltDescs_calm (w : Work) (c reason : Nat) : (w.haltDescs c reason).calm = w.calm := Work.calm_of_still (Work.haltDescs_still ..)
@[simp] theorem Work.halt_calm (w : Work) (c : Nat) (r : HaltRec) : (w.halt c r).calm = w.calm := Work.calm_of_still (Work.halt_still ..)
@[simp] theorem Work.haltStream_calm (w : Work) (r : StreamRef) (e reason d : Nat) : (w.haltStream r e reason d).calm = w.calm := Work.calm_of_still (Work.haltStream_still ..)
@[simp] theorem Work.haltTile_calm (w : Work) (t : TileRef) (u reason d : Nat) : (w.haltTile t u reason d).calm = w.calm := Work.calm_of_still (Work.haltTile_still ..)
@[simp] theorem Work.haltAll_calm (w : Work) (r : HaltRec) : (w.haltAll r).calm = w.calm := Work.calm_of_still (Work.haltAll_still ..)
@[simp] theorem Work.haltNonUrgent_calm (w : Work) (r : HaltRec) : (w.haltNonUrgent r).calm = w.calm := Work.calm_of_still (Work.haltNonUrgent_still ..)
@[simp] theorem Work.poisonHalt_calm (w : Work) (c : Nat) (r : HaltRec) (p : Nat) : (w.poisonHalt c r p).calm = w.calm := Work.calm_of_still (Work.poisonHalt_still ..)
@[simp] theorem Work.recordFault_calm (w : Work) (reason : Nat) (src : FaultSource) (i a : Nat) : (w.recordFault reason src i a).calm = w.calm := Work.calm_of_still (Work.recordFault_still ..)
@[simp] theorem Work.deviceFault_calm (w : Work) (reason : Nat) (src : FaultSource) (i a : Nat) : (w.deviceFault reason src i a).calm = w.calm := Work.calm_of_still (Work.deviceFault_still ..)
@[simp] theorem Work.dispatchUrgent_calm (w : Work) (c : Nat) : (w.dispatchUrgent c).calm = w.calm := Work.calm_of_still (Work.dispatchUrgent_still ..)
@[simp] theorem Work.subTickNow_calm (w : Work) : w.subTickNow.calm = w.calm := Work.calm_of_still (Work.subTickNow_still ..)

/-- A change of the device that keeps its calm part. -/
theorem Work.upd_calm (w : Work) (f : Dev → Dev) (h : ∀ d, (f d).calm = d.calm) : (w.upd f).calm = w.calm := by
  unfold Work.calm
  rw [Work.upd_fz, Work.upd_base, Work.upd_wiped, Work.upd_d, h]

/-- Either branch. -/
theorem ite_calm (p : Prop) [Decidable p] (v w : Work) : (if p then v else w).calm = if p then v.calm else w.calm := apply_ite Work.calm p v w

@[simp] theorem Work.fresh_calm (w : Work) : (w.fresh).2.calm = w.calm := by
  unfold Work.fresh
  try dsimp only
  (repeat' split) <;> first | rfl | simp [Work.upd_calm, Work.foldl_calm, ite_calm, Dev.calm, Dev.quiet]

@[simp] theorem Work.holdUpdate_calm (w : Work) (k : Window) (t : Table) (row alpha : Nat) (e : Int) (accs : List Int) : (w.holdUpdate k t row alpha e accs).calm = w.calm := by
  unfold Work.holdUpdate
  try dsimp only
  (repeat' split) <;> first | rfl | simp [Work.upd_calm, Work.foldl_calm, ite_calm, Dev.calm, Dev.quiet]

@[simp] theorem Work.wrLe_calm (w : Work) (k n v : Nat) : (w.wrLe k n v).calm = w.calm := by
  unfold Work.wrLe
  try dsimp only
  (repeat' split) <;> first | rfl | simp [Work.upd_calm, Work.foldl_calm, ite_calm, Dev.calm, Dev.quiet]

@[simp] theorem Work.closeArea_calm (w : Work) (k : Window) : (w.closeArea k).calm = w.calm := by
  unfold Work.closeArea
  try dsimp only
  repeat' first
    | with_reducible rfl
    | simp [ite_calm]
    | ((with_reducible refine (Work.upd_calm _ _ ?_).trans ?_); · (intro _; rfl))
    | (with_reducible refine (Work.foldl_calm _ ?_ _ _).trans ?_)
    | split
    | intro _

@[simp] theorem Work.scrubHalt_calm (w : Work) (a : Nat) : (w.scrubHalt a).calm = w.calm := by
  unfold Work.scrubHalt
  try dsimp only
  repeat' first
    | with_reducible rfl
    | simp [ite_calm]
    | ((with_reducible refine (Work.upd_calm _ _ ?_).trans ?_); · (intro _; rfl))
    | (with_reducible refine (Work.foldl_calm _ ?_ _ _).trans ?_)
    | split
    | intro _

@[simp] theorem Work.wantRepair_calm (w : Work) (blocks : List (Nat × Nat)) : (w.wantRepair blocks).calm = w.calm := by
  unfold Work.wantRepair
  try dsimp only
  (repeat' split) <;> first | rfl | simp [Work.upd_calm, Work.foldl_calm, ite_calm, Dev.calm, Dev.quiet]

@[simp] theorem Work.poison_calm (w : Work) (stack a : Nat) : (w.poison stack a).calm = w.calm := by
  unfold Work.poison
  try dsimp only
  repeat' first
    | with_reducible rfl
    | simp [ite_calm]
    | ((with_reducible refine (Work.upd_calm _ _ ?_).trans ?_); · (intro _; rfl))
    | (with_reducible refine (Work.foldl_calm _ ?_ _ _).trans ?_)
    | split
    | intro _

@[simp] theorem Work.startDesc_calm (w : Work) (c seq : Nat) : (w.startDesc c seq).calm = w.calm := by
  unfold Work.startDesc
  try dsimp only
  (repeat' split) <;> first | rfl | simp [Work.upd_calm, Work.foldl_calm, ite_calm, Dev.calm, Dev.quiet]

@[simp] theorem Work.warnHot_calm (w : Work) (before now : Bool) (source : Nat) (l : List Nat) : (w.warnHot before now source l).calm = w.calm := by
  unfold Work.warnHot
  try dsimp only
  (repeat' split) <;> first | rfl | simp [Work.upd_calm, Work.foldl_calm, ite_calm, Dev.calm, Dev.quiet]

@[simp] theorem Work.updCfg_calm (w : Work) (f : CfgCtl → CfgCtl) : (w.updCfg f).calm = w.calm := by
  unfold Work.updCfg
  try dsimp only
  (repeat' split) <;> first | rfl | simp [Work.upd_calm, Work.foldl_calm, ite_calm, Dev.calm, Dev.quiet]

@[simp] theorem Work.armInvalid_calm (w : Work) (cause : Nat) : (w.armInvalid cause).calm = w.calm := by
  unfold Work.armInvalid
  try dsimp only
  (repeat' split) <;> first | rfl | simp [Work.upd_calm, Work.foldl_calm, ite_calm, Dev.calm, Dev.quiet]

@[simp] theorem Work.noteRoute_calm (w : Work) : (w.noteRoute).calm = w.calm := by
  unfold Work.noteRoute
  try dsimp only
  (repeat' split) <;> first | rfl | simp [Work.upd_calm, Work.foldl_calm, ite_calm, Dev.calm, Dev.quiet]

@[simp] theorem Work.arm_calm (w : Work) (machine : Bool) (target : Nat) : (w.arm machine target).calm = w.calm := by
  unfold Work.arm
  try dsimp only
  repeat' first
    | with_reducible rfl
    | simp [ite_calm]
    | (with_reducible refine (Work.upd_calm _ _ (fun _ => rfl)).trans ?_)
    | (with_reducible refine (Work.foldl_calm _ (fun _ _ => ?_) _ _).trans ?_)
    | split

@[simp] theorem Work.corrected_calm (w : Work) (stack a : Nat) : (w.corrected stack a).calm = w.calm := by
  unfold Work.corrected
  try dsimp only
  repeat' first
    | with_reducible rfl
    | simp [ite_calm]
    | ((with_reducible refine (Work.upd_calm _ _ ?_).trans ?_); · (intro _; rfl))
    | (with_reducible refine (Work.foldl_calm _ ?_ _ _).trans ?_)
    | split
    | intro _

@[simp] theorem Work.putElem_calm (w : Work) (key bits i code : Nat) : (w.putElem key bits i code).calm = w.calm := by
  unfold Work.putElem
  try dsimp only
  (repeat' split) <;> first | rfl | simp [Work.upd_calm, Work.foldl_calm, ite_calm, Dev.calm, Dev.quiet]

@[simp] theorem Work.enterRow_calm (w : Work) (c tile : Nat) (s : MatStream) (x : Stationary) (g : Int) : (w.enterRow c tile s x g).1.calm = w.calm := by
  unfold Work.enterRow
  try dsimp only
  (repeat' split) <;> first | rfl | simp [Work.upd_calm, Work.foldl_calm, ite_calm, Dev.calm, Dev.quiet]

@[simp] theorem Work.draw_calm (w : Work) : (w.draw).2.calm = w.calm := by
  unfold Work.draw
  try dsimp only
  (repeat' split) <;> first | rfl | simp [Work.upd_calm, Work.foldl_calm, ite_calm, Dev.calm, Dev.quiet]

@[simp] theorem Work.putMat_calm (w : Work) (tile i : Nat) (m : MatOp) : (w.putMat tile i m).calm = w.calm := by
  unfold Work.putMat
  try dsimp only
  (repeat' split) <;> first | rfl | simp [Work.upd_calm, Work.foldl_calm, ite_calm, Dev.calm, Dev.quiet]

@[simp] theorem Work.putEdges_calm (w : Work) (c block : Nat) (l : BlockLay) (i e0 : Nat) (es : List Edge) : (w.putEdges c block l i e0 es).calm = w.calm := by
  unfold Work.putEdges
  try dsimp only
  (repeat' split) <;> first | rfl | simp [Work.upd_calm, Work.foldl_calm, ite_calm, Dev.calm, Dev.quiet]

@[simp] theorem Work.setG_calm (w : Work) (tile r : Nat) (v : W64) : (w.setG tile r v).calm = w.calm := by
  unfold Work.setG
  try dsimp only
  (repeat' split) <;> first | rfl | simp [Work.upd_calm, Work.foldl_calm, ite_calm, Dev.calm, Dev.quiet]

@[simp] theorem Work.send_calm (w : Work) (link dest : Nat) (job : W32) (m : LinkMsg) : (w.send link dest job m).calm = w.calm := by
  unfold Work.send
  try dsimp only
  (repeat' split) <;> first | rfl | simp [Work.upd_calm, Work.foldl_calm, ite_calm, Dev.calm, Dev.quiet]

@[simp] theorem Work.updLink_calm (w : Work) (l : Nat) (f : Link → Link) : (w.updLink l f).calm = w.calm := by
  unfold Work.updLink
  try dsimp only
  (repeat' split) <;> first | rfl | simp [Work.upd_calm, Work.foldl_calm, ite_calm, Dev.calm, Dev.quiet]

@[simp] theorem Work.sendRouted_calm (w : Work) (c cls dest : Nat) (job : W32) (request : Bool) (m : LinkMsg) : (w.sendRouted c cls dest job request m).calm = w.calm := by
  unfold Work.sendRouted
  try dsimp only
  repeat' first
    | with_reducible rfl
    | simp [ite_calm]
    | (with_reducible refine (Work.upd_calm _ _ (fun _ => rfl)).trans ?_)
    | (with_reducible refine (Work.foldl_calm _ (fun _ _ => ?_) _ _).trans ?_)
    | split

@[simp] theorem Work.startCopy_calm (w : Work) (k : HaulCopy) : (w.startCopy k).calm = w.calm := by
  unfold Work.startCopy
  try dsimp only
  repeat' first
    | with_reducible rfl
    | simp [ite_calm]
    | ((with_reducible refine (Work.upd_calm _ _ ?_).trans ?_); · (intro _; rfl))
    | (with_reducible refine (Work.foldl_calm _ ?_ _ _).trans ?_)
    | split
    | intro _

@[simp] theorem Work.updObj_calm (w : Work) (h : Nat) (f : ResEntry → ResEntry) : (w.updObj h f).calm = w.calm := by
  unfold Work.updObj
  try dsimp only
  (repeat' split) <;> first | rfl | simp [Work.upd_calm, Work.foldl_calm, ite_calm, Dev.calm, Dev.quiet]

@[simp] theorem Work.begin_calm (w : Work) (h : Nat) (t : Transition) : (w.begin h t).calm = w.calm := by
  unfold Work.begin
  try dsimp only
  (repeat' split) <;> first | rfl | simp [Work.upd_calm, Work.foldl_calm, ite_calm, Dev.calm, Dev.quiet]

@[simp] theorem Work.haltIssuer_calm (w : Work) (i : Issuer) (reason detail : Nat) : (w.haltIssuer i reason detail).calm = w.calm := by
  unfold Work.haltIssuer
  try dsimp only
  (repeat' split) <;> first | rfl | simp [Work.upd_calm, Work.foldl_calm, ite_calm, Dev.calm, Dev.quiet]

@[simp] theorem Work.install_calm (w : Work) (i : Issuer) (h home : Nat) (src : HaulSrc) (len readers k : Nat) : (w.install i h home src len readers k).calm = w.calm := by
  unfold Work.install
  try dsimp only
  repeat' first
    | with_reducible rfl
    | simp [ite_calm]
    | ((with_reducible refine (Work.upd_calm _ _ ?_).trans ?_); · (intro _; rfl))
    | (with_reducible refine (Work.foldl_calm _ ?_ _ _).trans ?_)
    | split
    | intro _

@[simp] theorem Work.loadTile_calm (w : Work) (h : Nat) (ss : List Section) (t : Nat) : (w.loadTile h ss t).calm = w.calm := by
  unfold Work.loadTile
  try dsimp only
  (repeat' split) <;> first | rfl | simp [Work.upd_calm, Work.foldl_calm, ite_calm, Dev.calm, Dev.quiet]

@[simp] theorem Work.trainFailed_calm (w : Work) (l cause : Nat) : (w.trainFailed l cause).calm = w.calm := by
  unfold Work.trainFailed
  try dsimp only
  (repeat' split) <;> first | rfl | simp [Work.upd_calm, Work.foldl_calm, ite_calm, Dev.calm, Dev.quiet]

@[simp] theorem Work.finishTraining_calm (w : Work) (l : Nat) (r : TrainResult) : (w.finishTraining l r).calm = w.calm := by
  unfold Work.finishTraining
  try dsimp only
  (repeat' split) <;> first | rfl | simp [Work.upd_calm, Work.foldl_calm, ite_calm, Dev.calm, Dev.quiet]

@[simp] theorem Work.bootLink_calm (w : Work) (rs : List (Nat × TrainResult)) (l : Nat) : (w.bootLink rs l).calm = w.calm := by
  unfold Work.bootLink
  try dsimp only
  (repeat' split) <;> first | rfl | simp [Work.upd_calm, Work.foldl_calm, ite_calm, Dev.calm, Dev.quiet]

@[simp] theorem Work.bootPort_calm (w : Work) (p size rate width : Nat) : (w.bootPort p size rate width).calm = w.calm := by
  unfold Work.bootPort
  try dsimp only
  repeat' first
    | with_reducible rfl
    | simp [ite_calm]
    | ((with_reducible refine (Work.upd_calm _ _ ?_).trans ?_); · (intro _; rfl))
    | (with_reducible refine (Work.foldl_calm _ ?_ _ _).trans ?_)
    | split
    | intro _

@[simp] theorem Work.faultStacks_calm (w : Work) : (w.faultStacks).calm = w.calm := by
  unfold Work.faultStacks
  try dsimp only
  (repeat' split) <;> first | rfl | simp [Work.upd_calm, Work.foldl_calm, ite_calm, Dev.calm, Dev.quiet]

@[simp] theorem Work.advanceStream_calm (w : Work) (r : StreamRef) (q : Option Nat) : (w.advanceStream r q).calm = w.calm := by
  unfold Work.advanceStream
  try dsimp only
  (repeat' split) <;> first | rfl | simp [Work.upd_calm, Work.foldl_calm, ite_calm, Dev.calm, Dev.quiet]

@[simp] theorem Work.sendBelay_calm (w : Work) (l : Nat) (p : Belay) : (w.sendBelay l p).calm = w.calm := by
  unfold Work.sendBelay
  try dsimp only
  (repeat' split) <;> first | rfl | simp [Work.upd_calm, Work.foldl_calm, ite_calm, Dev.calm, Dev.quiet]

@[simp] theorem Work.forward_calm (w : Work) (p : Belay) : (w.forward p).calm = w.calm := by
  unfold Work.forward
  try dsimp only
  (repeat' split) <;> first | rfl | simp [Work.upd_calm, Work.foldl_calm, ite_calm, Dev.calm, Dev.quiet]

@[simp] theorem Work.checkSections_calm (w : Work) : (w.checkSections).calm = w.calm := by
  unfold Work.checkSections
  try dsimp only
  repeat' first
    | with_reducible rfl
    | simp [ite_calm]
    | (with_reducible refine (Work.upd_calm _ _ (fun _ => rfl)).trans ?_)
    | (with_reducible refine (Work.foldl_calm _ (fun _ _ => ?_) _ _).trans ?_)
    | split

@[simp] theorem Work.countPitchWait_calm (w : Work) (c : Nat) (j : Job) (cyc : Nat) : (w.countPitchWait c j cyc).calm = w.calm := by
  unfold Work.countPitchWait
  try dsimp only
  repeat' first
    | with_reducible rfl
    | simp [ite_calm]
    | ((with_reducible refine (Work.upd_calm _ _ ?_).trans ?_); · (intro _; rfl))
    | (with_reducible refine (Work.foldl_calm _ ?_ _ _).trans ?_)
    | split
    | intro _

@[simp] theorem Work.closeWaits_calm (w : Work) (c : Nat) : (w.closeWaits c).calm = w.calm := by
  unfold Work.closeWaits
  try dsimp only
  (repeat' split) <;> first | rfl | simp [Work.upd_calm, Work.foldl_calm, ite_calm, Dev.calm, Dev.quiet]

@[simp] theorem Work.countStretch_calm (w : Work) (b : Belay) : (w.countStretch b).calm = w.calm := by
  unfold Work.countStretch
  try dsimp only
  (repeat' split) <;> first | rfl | simp [Work.upd_calm, Work.foldl_calm, ite_calm, Dev.calm, Dev.quiet]

@[simp] theorem Work.releaseRearms_calm (w : Work) : (w.releaseRearms).calm = w.calm := by
  unfold Work.releaseRearms
  try dsimp only
  (repeat' split) <;> first | rfl | simp [Work.upd_calm, Work.foldl_calm, ite_calm, Dev.calm, Dev.quiet]

@[simp] theorem Work.stepFences_calm (w : Work) (flag : Bool) : (w.stepFences flag).calm = w.calm := by
  unfold Work.stepFences
  try dsimp only
  repeat' first
    | with_reducible rfl
    | simp [ite_calm]
    | ((with_reducible refine (Work.upd_calm _ _ ?_).trans ?_); · (intro _; rfl))
    | (with_reducible refine (Work.foldl_calm _ ?_ _ _).trans ?_)
    | split
    | intro _

@[simp] theorem Work.writeLogCount_calm (w : Work) : (w.writeLogCount).calm = w.calm := by
  unfold Work.writeLogCount
  try dsimp only
  (repeat' split) <;> first | rfl | simp [Work.upd_calm, Work.foldl_calm, ite_calm, Dev.calm, Dev.quiet]

@[simp] theorem Work.finishDescs_calm (w : Work) (ds : List (Nat × Nat)) : (w.finishDescs ds).calm = w.calm := by
  unfold Work.finishDescs
  try dsimp only
  (repeat' split) <;> first | rfl | simp [Work.upd_calm, Work.foldl_calm, ite_calm, Dev.calm, Dev.quiet]

@[simp] theorem Work.commitOne_calm (w : Work) (e : ResEntry) : (w.commitOne e).calm = w.calm := by
  unfold Work.commitOne
  try dsimp only
  (repeat' split) <;> first | rfl | simp [Work.upd_calm, Work.foldl_calm, ite_calm, Dev.calm, Dev.quiet]

@[simp] theorem Work.commitResidency_calm (w : Work) : (w.commitResidency).calm = w.calm := by
  unfold Work.commitResidency
  try dsimp only
  repeat' first
    | with_reducible rfl
    | simp [ite_calm]
    | ((with_reducible refine (Work.upd_calm _ _ ?_).trans ?_); · (intro _; rfl))
    | (with_reducible refine (Work.foldl_calm _ ?_ _ _).trans ?_)
    | split
    | intro _

@[simp] theorem Work.evict_calm (w : Work) (c : Nat) (e : ResEntry) : (w.evict c e).calm = w.calm := by
  unfold Work.evict
  try dsimp only
  (repeat' split) <;> first | rfl | simp [Work.upd_calm, Work.foldl_calm, ite_calm, Dev.calm, Dev.quiet]

@[simp] theorem Work.residencyPolicy_calm (w : Work) (c : Nat) : (w.residencyPolicy c).calm = w.calm := by
  unfold Work.residencyPolicy
  try dsimp only
  (repeat' split) <;> first | rfl | simp [Work.upd_calm, Work.foldl_calm, ite_calm, Dev.calm, Dev.quiet]

@[simp] theorem Work.countNarrow_calm (w : Work) (n : NarrowCount) : (w.countNarrow n).calm = w.calm := by
  unfold Work.countNarrow
  try dsimp only
  (repeat' split) <;> first | rfl | simp [Work.upd_calm, Work.foldl_calm, ite_calm, Dev.calm, Dev.quiet]

@[simp] theorem Work.storeRow_calm (w : Work) (home cls : Nat) (vs : List Val) : (w.storeRow home cls vs).calm = w.calm := by
  unfold Work.storeRow
  try dsimp only
  (repeat' split) <;> first | rfl | simp [Work.upd_calm, Work.foldl_calm, ite_calm, Dev.calm, Dev.quiet]

@[simp] theorem Work.copyRow_calm (w : Work) (m : RowMove) : (w.copyRow m).calm = w.calm := by
  unfold Work.copyRow
  try dsimp only
  (repeat' split) <;> first | rfl | simp [Work.upd_calm, Work.foldl_calm, ite_calm, Dev.calm, Dev.quiet]

@[simp] theorem Work.dropCharge_calm (w : Work) (e : RowEntry) : (w.dropCharge e).calm = w.calm := by
  unfold Work.dropCharge
  try dsimp only
  (repeat' split) <;> first | rfl | simp [Work.upd_calm, Work.foldl_calm, ite_calm, Dev.calm, Dev.quiet]

@[simp] theorem Work.writeEntry_calm (w : Work) (e : RowEntry) : (w.writeEntry e).calm = w.calm := by
  unfold Work.writeEntry
  try dsimp only
  (repeat' split) <;> first | rfl | simp [Work.upd_calm, Work.foldl_calm, ite_calm, Dev.calm, Dev.quiet]

@[simp] theorem Work.commitMove_calm (w : Work) (m : RowMove) : (w.commitMove m).calm = w.calm := by
  unfold Work.commitMove
  try dsimp only
  (repeat' split) <;> first | rfl | simp [Work.upd_calm, Work.foldl_calm, ite_calm, Dev.calm, Dev.quiet]

@[simp] theorem Work.startMove_calm (w : Work) (m : RowMove) : (w.startMove m).calm = w.calm := by
  unfold Work.startMove
  try dsimp only
  (repeat' split) <;> first | rfl | simp [Work.upd_calm, Work.foldl_calm, ite_calm, Dev.calm, Dev.quiet]

@[simp] theorem Work.writeInFlight_calm (w : Work) : (w.writeInFlight).calm = w.calm := by
  unfold Work.writeInFlight
  try dsimp only
  (repeat' split) <;> first | rfl | simp [Work.upd_calm, Work.foldl_calm, ite_calm, Dev.calm, Dev.quiet]

@[simp] theorem Work.stepRowMoves_calm (w : Work) : (w.stepRowMoves).calm = w.calm := by
  unfold Work.stepRowMoves
  try dsimp only
  repeat' first
    | with_reducible rfl
    | simp [ite_calm]
    | ((with_reducible refine (Work.upd_calm _ _ ?_).trans ?_); · (intro _; rfl))
    | (with_reducible refine (Work.foldl_calm _ ?_ _ _).trans ?_)
    | split
    | intro _

@[simp] theorem Work.askMove_calm (w : Work) (c start commit : Nat) (m : MoveAsk) : (w.askMove c start commit m).2.calm = w.calm := by
  unfold Work.askMove
  try dsimp only
  repeat' first
    | with_reducible rfl
    | simp [ite_calm]
    | ((with_reducible refine (Work.upd_calm _ _ ?_).trans ?_); · (intro _; rfl))
    | (with_reducible refine (Work.foldl_calm _ ?_ _ _).trans ?_)
    | split
    | intro _

@[simp] theorem Work.reserveHomes_calm (w : Work) (rows : List Nat) : (w.reserveHomes rows).calm = w.calm := by
  unfold Work.reserveHomes
  try dsimp only
  (repeat' split) <;> first | rfl | simp [Work.upd_calm, Work.foldl_calm, ite_calm, Dev.calm, Dev.quiet]

@[simp] theorem Work.submitPromotions_calm (w : Work) : (w.submitPromotions).calm = w.calm := by
  unfold Work.submitPromotions
  try dsimp only
  repeat' first
    | with_reducible rfl
    | simp [ite_calm]
    | ((with_reducible refine (Work.upd_calm _ _ ?_).trans ?_); · (intro _; rfl))
    | (with_reducible refine (Work.foldl_calm _ ?_ _ _).trans ?_)
    | split
    | intro _

@[simp] theorem Work.stepMoves_calm (w : Work) : (w.stepMoves).calm = w.calm := by
  unfold Work.stepMoves
  try dsimp only
  repeat' first
    | with_reducible rfl
    | simp [ite_calm]
    | (with_reducible refine (Work.upd_calm _ _ (fun _ => rfl)).trans ?_)
    | (with_reducible refine (Work.foldl_calm _ (fun _ _ => ?_) _ _).trans ?_)
    | split

@[simp] theorem Work.commitPermutes_calm (w : Work) (swapped : Bool) : (w.commitPermutes swapped).calm = w.calm := by
  unfold Work.commitPermutes
  try dsimp only
  repeat' first
    | with_reducible rfl
    | simp [ite_calm]
    | ((with_reducible refine (Work.upd_calm _ _ ?_).trans ?_); · (intro _; rfl))
    | (with_reducible refine (Work.foldl_calm _ ?_ _ _).trans ?_)
    | split
    | intro _

@[simp] theorem Work.governArm_calm (w : Work) (c base target : Nat) : (w.governArm c base target).calm = w.calm := by
  unfold Work.governArm
  try dsimp only
  repeat' first
    | with_reducible rfl
    | simp [ite_calm]
    | ((with_reducible refine (Work.upd_calm _ _ ?_).trans ?_); · (intro _; rfl))
    | (with_reducible refine (Work.foldl_calm _ ?_ _ _).trans ?_)
    | split
    | intro _

@[simp] theorem Work.retryGovernor_calm (w : Work) (stood : Bool) : (w.retryGovernor stood).calm = w.calm := by
  unfold Work.retryGovernor
  try dsimp only
  repeat' first
    | with_reducible rfl
    | simp [ite_calm]
    | ((with_reducible refine (Work.upd_calm _ _ ?_).trans ?_); · (intro _; rfl))
    | (with_reducible refine (Work.foldl_calm _ ?_ _ _).trans ?_)
    | split
    | intro _

@[simp] theorem Work.abortSwap_calm (w : Work) (r : CfgResult) (target : Nat) : (w.abortSwap r target).calm = w.calm := by
  unfold Work.abortSwap
  try dsimp only
  (repeat' split) <;> first | rfl | simp [Work.upd_calm, Work.foldl_calm, ite_calm, Dev.calm, Dev.quiet]

@[simp] theorem Work.clearOverrides_calm (w : Work) : (w.clearOverrides).calm = w.calm := by
  unfold Work.clearOverrides
  try dsimp only
  repeat' first
    | with_reducible rfl
    | simp [ite_calm]
    | (with_reducible refine (Work.upd_calm _ _ (fun _ => rfl)).trans ?_)
    | (with_reducible refine (Work.foldl_calm _ (fun _ _ => ?_) _ _).trans ?_)
    | split

@[simp] theorem Work.warnQuotas_calm (w : Work) (old : List Quota) : (w.warnQuotas old).calm = w.calm := by
  unfold Work.warnQuotas
  try dsimp only
  (repeat' split) <;> first | rfl | simp [Work.upd_calm, Work.foldl_calm, ite_calm, Dev.calm, Dev.quiet]

@[simp] theorem Work.swap_calm (w : Work) : (w.swap).calm = w.calm := by
  unfold Work.swap
  try dsimp only
  repeat' first
    | with_reducible rfl
    | simp [ite_calm]
    | ((with_reducible refine (Work.upd_calm _ _ ?_).trans ?_); · (intro _; rfl))
    | (with_reducible refine (Work.foldl_calm _ ?_ _ _).trans ?_)
    | split
    | intro _

@[simp] theorem Work.stepSwap_calm (w : Work) (flag busy : Bool) : (w.stepSwap flag busy).calm = w.calm := by
  unfold Work.stepSwap
  try dsimp only
  (repeat' split) <;> first | rfl | simp [Work.upd_calm, Work.foldl_calm, ite_calm, Dev.calm, Dev.quiet]

@[simp] theorem Work.stepSets_calm (w : Work) (flag busy : Bool) : (w.stepSets flag busy).calm = w.calm := by
  unfold Work.stepSets
  try dsimp only
  (repeat' split) <;> first | rfl | simp [Work.upd_calm, Work.foldl_calm, ite_calm, Dev.calm, Dev.quiet]

@[simp] theorem Work.writeRequests_calm (w : Work) (t : Nat) (b : List UrgentReq) : (w.writeRequests t b).calm = w.calm := by
  unfold Work.writeRequests
  try dsimp only
  (repeat' split) <;> first | rfl | simp [Work.upd_calm, Work.foldl_calm, ite_calm, Dev.calm, Dev.quiet]

@[simp] theorem Work.beginJob_calm (w : Work) (c : Nat) (j : Job) (d : Desc) : (w.beginJob c j d).calm = w.calm := by
  unfold Work.beginJob
  try dsimp only
  (repeat' split) <;> first | rfl | simp [Work.upd_calm, Work.foldl_calm, ite_calm, Dev.calm, Dev.quiet]

@[simp] theorem Work.endJob_calm (w : Work) (c : Nat) (j : Job) (byStop : Bool) : (w.endJob c j byStop).calm = w.calm := by
  unfold Work.endJob
  try dsimp only
  (repeat' split) <;> first | rfl | simp [Work.upd_calm, Work.foldl_calm, ite_calm, Dev.calm, Dev.quiet]

@[simp] theorem Work.nextPitch_calm (w : Work) (c : Nat) (j : Job) : (w.nextPitch c j).calm = w.calm := by
  unfold Work.nextPitch
  try dsimp only
  (repeat' split) <;> first | rfl | simp [Work.upd_calm, Work.foldl_calm, ite_calm, Dev.calm, Dev.quiet]

@[simp] theorem Work.tickJob_calm (w : Work) (c : Nat) : (w.tickJob c).calm = w.calm := by
  unfold Work.tickJob
  try dsimp only
  (repeat' split) <;> first | rfl | simp [Work.upd_calm, Work.foldl_calm, ite_calm, Dev.calm, Dev.quiet]

@[simp] theorem Work.finishIssuer_calm (w : Work) (i : Issuer) : (w.finishIssuer i).calm = w.calm := by
  unfold Work.finishIssuer
  try dsimp only
  (repeat' split) <;> first | rfl | simp [Work.upd_calm, Work.foldl_calm, ite_calm, Dev.calm, Dev.quiet]

@[simp] theorem Work.register_calm (w : Work) (i : Issuer) (h home len readers : Nat) (evictable : Bool) : (w.register i h home len readers evictable).calm = w.calm := by
  unfold Work.register
  try dsimp only
  repeat' first
    | with_reducible rfl
    | simp [ite_calm]
    | ((with_reducible refine (Work.upd_calm _ _ ?_).trans ?_); · (intro _; rfl))
    | (with_reducible refine (Work.foldl_calm _ ?_ _ _).trans ?_)
    | split
    | intro _

@[simp] theorem Work.stopJob_calm (w : Work) (c : Nat) (d : Desc) : (w.stopJob c d).calm = w.calm := by
  unfold Work.stopJob
  try dsimp only
  (repeat' split) <;> first | rfl | simp [Work.upd_calm, Work.foldl_calm, ite_calm, Dev.calm, Dev.quiet]

@[simp] theorem Work.linkDown_calm (w : Work) (l : Nat) (s : LinkState) : (w.linkDown l s).calm = w.calm := by
  unfold Work.linkDown
  try dsimp only
  repeat' first
    | with_reducible rfl
    | simp [ite_calm]
    | ((with_reducible refine (Work.upd_calm _ _ ?_).trans ?_); · (intro _; rfl))
    | (with_reducible refine (Work.foldl_calm _ ?_ _ _).trans ?_)
    | split
    | intro _

@[simp] theorem Work.sendPiece_calm (w : Work) (o : Coll) (dest first width : Nat) (ints : List Int) (bytes : List Byte) (last : Bool) : (w.sendPiece o dest first width ints bytes last).calm = w.calm := by
  unfold Work.sendPiece
  try dsimp only
  repeat' first
    | with_reducible rfl
    | simp [ite_calm]
    | (with_reducible refine (Work.upd_calm _ _ (fun _ => rfl)).trans ?_)
    | (with_reducible refine (Work.foldl_calm _ (fun _ _ => ?_) _ _).trans ?_)
    | split

@[simp] theorem Work.updColl_calm (w : Work) (id : Nat) (f : Coll → Coll) : (w.updColl id f).calm = w.calm := by
  unfold Work.updColl
  try dsimp only
  (repeat' split) <;> first | rfl | simp [Work.upd_calm, Work.foldl_calm, ite_calm, Dev.calm, Dev.quiet]

@[simp] theorem Work.stitchSaturate_calm (w : Work) (c n : Nat) : (w.stitchSaturate c n).calm = w.calm := by
  unfold Work.stitchSaturate
  try dsimp only
  (repeat' split) <;> first | rfl | simp [Work.upd_calm, Work.foldl_calm, ite_calm, Dev.calm, Dev.quiet]

@[simp] theorem Work.sendPayloads_calm (w : Work) (o : Coll) (dest : Nat) (ps : List (Nat × Nat × List Int × List Byte)) : (w.sendPayloads o dest ps).calm = w.calm := by
  unfold Work.sendPayloads
  try dsimp only
  (repeat' split) <;> first | rfl | simp [Work.upd_calm, Work.foldl_calm, ite_calm, Dev.calm, Dev.quiet]

@[simp] theorem Work.sendTrailer_calm (w : Work) (o : Coll) (t : Trailer) : (w.sendTrailer o t).calm = w.calm := by
  unfold Work.sendTrailer
  try dsimp only
  repeat' first
    | with_reducible rfl
    | simp [ite_calm]
    | (with_reducible refine (Work.upd_calm _ _ (fun _ => rfl)).trans ?_)
    | (with_reducible refine (Work.foldl_calm _ (fun _ _ => ?_) _ _).trans ?_)
    | split

@[simp] theorem Work.absorb_calm (w : Work) (o : Coll) (a : Arrival) : (w.absorb o a).calm = w.calm := by
  unfold Work.absorb
  try dsimp only
  (repeat' split) <;> first | rfl | simp [Work.upd_calm, Work.foldl_calm, ite_calm, Dev.calm, Dev.quiet]

@[simp] theorem Work.permuteArm_calm (w : Work) (c : Nat) (p : PermuteParams) : (w.permuteArm c p).1.calm = w.calm := by
  unfold Work.permuteArm
  try dsimp only
  repeat' first
    | with_reducible rfl
    | simp [ite_calm]
    | (with_reducible refine (Work.upd_calm _ _ (fun _ => rfl)).trans ?_)
    | (with_reducible refine (Work.foldl_calm _ (fun _ _ => ?_) _ _).trans ?_)
    | split

@[simp] theorem Work.capDown_calm (w : Work) (p : Nat) : (w.capDown p).calm = w.calm := by
  unfold Work.capDown
  try dsimp only
  repeat' first
    | with_reducible rfl
    | simp [ite_calm]
    | (with_reducible refine (Work.upd_calm _ _ (fun _ => rfl)).trans ?_)
    | (with_reducible refine (Work.foldl_calm _ (fun _ _ => ?_) _ _).trans ?_)
    | split

@[simp] theorem Work.armGo_calm (w : Work) (machine : Bool) : (w.armGo machine).calm = w.calm := by
  unfold Work.armGo
  try dsimp only
  repeat' first
    | with_reducible rfl
    | simp [ite_calm]
    | (with_reducible refine (Work.upd_calm _ _ (fun _ => rfl)).trans ?_)
    | (with_reducible refine (Work.foldl_calm _ (fun _ _ => ?_) _ _).trans ?_)
    | split

@[simp] theorem Work.disarm_calm (w : Work) : (w.disarm).calm = w.calm := by
  unfold Work.disarm
  try dsimp only
  (repeat' split) <;> first | rfl | simp [Work.upd_calm, Work.foldl_calm, ite_calm, Dev.calm, Dev.quiet]

@[simp] theorem Work.responderNonce_calm (w : Work) : (w.responderNonce).2.calm = w.calm := by
  unfold Work.responderNonce
  try dsimp only
  (repeat' split) <;> first | rfl | simp [Work.upd_calm, Work.foldl_calm, ite_calm, Dev.calm, Dev.quiet]

@[simp] theorem Work.dropLinks_calm (w : Work) (ls : List Nat) : (w.dropLinks ls).calm = w.calm := by
  unfold Work.dropLinks
  try dsimp only
  repeat' first
    | with_reducible rfl
    | simp [ite_calm]
    | (with_reducible refine (Work.upd_calm _ _ (fun _ => rfl)).trans ?_)
    | (with_reducible refine (Work.foldl_calm _ (fun _ _ => ?_) _ _).trans ?_)
    | split

@[simp] theorem Work.hostLost_calm (w : Work) : (w.hostLost).calm = w.calm := by
  unfold Work.hostLost
  try dsimp only
  repeat' first
    | with_reducible rfl
    | simp [ite_calm]
    | ((with_reducible refine (Work.upd_calm _ _ ?_).trans ?_); · (intro _; rfl))
    | (with_reducible refine (Work.foldl_calm _ ?_ _ _).trans ?_)
    | split
    | intro _

@[simp] theorem Work.noteConflict_calm (w : Work) (c : Nat) (from_ : CmdFrom) : (w.noteConflict c from_).calm = w.calm := by
  unfold Work.noteConflict
  try dsimp only
  (repeat' split) <;> first | rfl | simp [Work.upd_calm, Work.foldl_calm, ite_calm, Dev.calm, Dev.quiet]

@[simp] theorem Work.takeCmd_calm (w : Work) (c : Nat) (j : Job) (k : CmdDesc) (rs : List Resolved) : (w.takeCmd c j k rs).calm = w.calm := by
  unfold Work.takeCmd
  try dsimp only
  (repeat' split) <;> first | rfl | simp [Work.upd_calm, Work.foldl_calm, ite_calm, Dev.calm, Dev.quiet]

@[simp] theorem Work.tryStart_calm (w : Work) (c : Nat) (j : Job) (k : CmdDesc) : (w.tryStart c j k).2.calm = w.calm := by
  unfold Work.tryStart
  try dsimp only
  (repeat' split) <;> first | rfl | simp [Work.upd_calm, Work.foldl_calm, ite_calm, Dev.calm, Dev.quiet]

@[simp] theorem Work.plainCopy_calm (w : Work) (i : Issuer) (stage : Bool) (src : HaulSrc) (dst len : Nat) : (w.plainCopy i stage src dst len).calm = w.calm := by
  unfold Work.plainCopy
  try dsimp only
  (repeat' split) <;> first | rfl | simp [Work.upd_calm, Work.foldl_calm, ite_calm, Dev.calm, Dev.quiet]

@[simp] theorem Work.writeArenaValid_calm (w : Work) (c : Nat) (v : Bool) : (w.writeArenaValid c v).calm = w.calm := by
  unfold Work.writeArenaValid
  try dsimp only
  (repeat' split) <;> first | rfl | simp [Work.upd_calm, Work.foldl_calm, ite_calm, Dev.calm, Dev.quiet]

@[simp] theorem Work.dropFrom_calm (w : Work) (c step q : Nat) : (w.dropFrom c step q).calm = w.calm := by
  unfold Work.dropFrom
  try dsimp only
  (repeat' split) <;> first | rfl | simp [Work.upd_calm, Work.foldl_calm, ite_calm, Dev.calm, Dev.quiet]

@[simp] theorem Work.restart_calm (w : Work) (c : Nat) (r : Replay) : (w.restart c r).calm = w.calm := by
  unfold Work.restart
  try dsimp only
  (repeat' split) <;> first | rfl | simp [Work.upd_calm, Work.foldl_calm, ite_calm, Dev.calm, Dev.quiet]

@[simp] theorem Work.enableCtx_calm (w : Work) (c : Nat) : (w.enableCtx c).calm = w.calm := by
  unfold Work.enableCtx
  try dsimp only
  repeat' first
    | with_reducible rfl
    | simp [ite_calm]
    | ((with_reducible refine (Work.upd_calm _ _ ?_).trans ?_); · (intro _; rfl))
    | (with_reducible refine (Work.foldl_calm _ ?_ _ _).trans ?_)
    | split
    | intro _

@[simp] theorem Work.writeUrgent_calm (w : Work) (c : Nat) (v : Bool) : (w.writeUrgent c v).calm = w.calm := by
  unfold Work.writeUrgent
  try dsimp only
  (repeat' split) <;> first | rfl | simp [Work.upd_calm, Work.foldl_calm, ite_calm, Dev.calm, Dev.quiet]

@[simp] theorem Work.doorbellInvalid_calm (w : Work) (c off value : Nat) : (w.doorbellInvalid c off value).calm = w.calm := by
  unfold Work.doorbellInvalid
  try dsimp only
  (repeat' split) <;> first | rfl | simp [Work.upd_calm, Work.foldl_calm, ite_calm, Dev.calm, Dev.quiet]

@[simp] theorem Work.bellCmd_calm (w : Work) (c ring value : Nat) : (w.bellCmd c ring value).calm = w.calm := by
  unfold Work.bellCmd
  try dsimp only
  (repeat' split) <;> first | rfl | simp [Work.upd_calm, Work.foldl_calm, ite_calm, Dev.calm, Dev.quiet]

@[simp] theorem Work.bellHead_calm (w : Work) (c value : Nat) (event : Bool) : (w.bellHead c value event).calm = w.calm := by
  unfold Work.bellHead
  try dsimp only
  (repeat' split) <;> first | rfl | simp [Work.upd_calm, Work.foldl_calm, ite_calm, Dev.calm, Dev.quiet]

@[simp] theorem Work.fetchOne_calm (w : Work) (c ring : Nat) : (w.fetchOne c ring).calm = w.calm := by
  unfold Work.fetchOne
  try dsimp only
  (repeat' split) <;> first | rfl | simp [Work.upd_calm, Work.foldl_calm, ite_calm, Dev.calm, Dev.quiet]

@[simp] theorem Work.flitInvalid_calm (w : Work) (detail : Nat) : (w.flitInvalid detail).calm = w.calm := by
  unfold Work.flitInvalid
  try dsimp only
  repeat' first
    | with_reducible rfl
    | simp [ite_calm]
    | (with_reducible refine (Work.upd_calm _ _ (fun _ => rfl)).trans ?_)
    | (with_reducible refine (Work.foldl_calm _ (fun _ _ => ?_) _ _).trans ?_)
    | split

@[simp] theorem Work.releaseFence_calm (w : Work) (c id : Nat) : (w.releaseFence c id).calm = w.calm := by
  unfold Work.releaseFence
  try dsimp only
  (repeat' split) <;> first | rfl | simp [Work.upd_calm, Work.foldl_calm, ite_calm, Dev.calm, Dev.quiet]

@[simp] theorem Work.nak_calm (w : Work) (l seq : Nat) : (w.nak l seq).calm = w.calm := by
  unfold Work.nak
  try dsimp only
  repeat' first
    | with_reducible rfl
    | simp [ite_calm]
    | ((with_reducible refine (Work.upd_calm _ _ ?_).trans ?_); · (intro _; rfl))
    | (with_reducible refine (Work.foldl_calm _ ?_ _ _).trans ?_)
    | split
    | intro _

@[simp] theorem Work.badFlit_calm (w : Work) (l : Nat) : (w.badFlit l).calm = w.calm := by
  unfold Work.badFlit
  try dsimp only
  simp [Work.upd_calm, Dev.calm, Dev.quiet]

@[simp] theorem Work.servePeerRead_calm (w : Work) (f : Flit) (addr len reqTag : Nat) : (w.servePeerRead f addr len reqTag).calm = w.calm := by
  unfold Work.servePeerRead
  try dsimp only
  repeat' first
    | with_reducible rfl
    | simp [ite_calm]
    | (with_reducible refine (Work.upd_calm _ _ (fun _ => rfl)).trans ?_)
    | (with_reducible refine (Work.foldl_calm _ (fun _ _ => ?_) _ _).trans ?_)
    | split

@[simp] theorem Work.takeData_calm (w : Work) (l : Nat) (f : Flit) : (w.takeData l f).calm = w.calm := by
  unfold Work.takeData
  try dsimp only
  repeat' first
    | with_reducible rfl
    | simp [ite_calm]
    | (with_reducible refine (Work.upd_calm _ _ (fun _ => rfl)).trans ?_)
    | (with_reducible refine (Work.foldl_calm _ (fun _ _ => ?_) _ _).trans ?_)
    | split

@[simp] theorem Work.engineStop_calm (w : Work) (r : StreamRef) (engine cls : Nat) (e : TravStop) : (w.engineStop r engine cls e).calm = w.calm := by
  unfold Work.engineStop
  try dsimp only
  repeat' first
    | with_reducible rfl
    | simp [ite_calm]
    | (with_reducible refine (Work.upd_calm _ _ (fun _ => rfl)).trans ?_)
    | (with_reducible refine (Work.foldl_calm _ (fun _ _ => ?_) _ _).trans ?_)
    | split

@[simp] theorem Work.logRow_calm (w : Work) (c row : Nat) : (w.logRow c row).calm = w.calm := by
  unfold Work.logRow
  try dsimp only
  (repeat' split) <;> first | rfl | simp [Work.upd_calm, Work.foldl_calm, ite_calm, Dev.calm, Dev.quiet]

@[simp] theorem Work.logPosition_calm (w : Work) (c pos : Nat) (p : RowPlace) : (w.logPosition c pos p).calm = w.calm := by
  unfold Work.logPosition
  try dsimp only
  (repeat' split) <;> first | rfl | simp [Work.upd_calm, Work.foldl_calm, ite_calm, Dev.calm, Dev.quiet]

@[simp] theorem Work.sendFetch_calm (w : Work) (c : Nat) (t : Table) (tableAt op : Nat) (key : Nat) (p : RowPlace) : (w.sendFetch c t tableAt op key p).calm = w.calm := by
  unfold Work.sendFetch
  try dsimp only
  repeat' first
    | with_reducible rfl
    | simp [ite_calm]
    | (with_reducible refine (Work.upd_calm _ _ (fun _ => rfl)).trans ?_)
    | (with_reducible refine (Work.foldl_calm _ (fun _ _ => ?_) _ _).trans ?_)
    | split

@[simp] theorem Work.countOutput_calm (w : Work) (form : OutForm) (cls : Nat) (vs : List Val) : (w.countOutput form cls vs).calm = w.calm := by
  unfold Work.countOutput
  try dsimp only
  (repeat' split) <;> first | rfl | simp [Work.upd_calm, Work.foldl_calm, ite_calm, Dev.calm, Dev.quiet]

@[simp] theorem Work.updGather_calm (w : Work) (id : Nat) (f : GatherOp → GatherOp) : (w.updGather id f).calm = w.calm := by
  unfold Work.updGather
  try dsimp only
  (repeat' split) <;> first | rfl | simp [Work.upd_calm, Work.foldl_calm, ite_calm, Dev.calm, Dev.quiet]

@[simp] theorem Work.putOut_calm (w : Work) (o : GatherOp) (pos : Nat) (bs : List Byte) (t : Tally) : (w.putOut o pos bs t).calm = w.calm := by
  unfold Work.putOut
  try dsimp only
  (repeat' split) <;> first | rfl | simp [Work.upd_calm, Work.foldl_calm, ite_calm, Dev.calm, Dev.quiet]

@[simp] theorem Work.putZero_calm (w : Work) (o : GatherOp) (elems pos : Nat) : (w.putZero o elems pos).calm = w.calm := by
  unfold Work.putZero
  try dsimp only
  (repeat' split) <;> first | rfl | simp [Work.upd_calm, Work.foldl_calm, ite_calm, Dev.calm, Dev.quiet]

@[simp] theorem Work.updUnit_calm (w : Work) (u : Nat) (f : GatherUnit → GatherUnit) : (w.updUnit u f).calm = w.calm := by
  unfold Work.updUnit
  try dsimp only
  (repeat' split) <;> first | rfl | simp [Work.upd_calm, Work.foldl_calm, ite_calm, Dev.calm, Dev.quiet]

@[simp] theorem Work.touch_calm (w : Work) (u s : Nat) (old : List DedupEntry) (e : DedupEntry) : (w.touch u s old e).calm = w.calm := by
  unfold Work.touch
  try dsimp only
  (repeat' split) <;> first | rfl | simp [Work.upd_calm, Work.foldl_calm, ite_calm, Dev.calm, Dev.quiet]

@[simp] theorem Work.answered_calm (w : Work) (c : Nat) : (w.answered c).calm = w.calm := by
  unfold Work.answered
  try dsimp only
  (repeat' split) <;> first | rfl | simp [Work.upd_calm, Work.foldl_calm, ite_calm, Dev.calm, Dev.quiet]

@[simp] theorem Work.countFetch_calm (w : Work) (c : Nat) (t : Table) (key : Nat) : (w.countFetch c t key).calm = w.calm := by
  unfold Work.countFetch
  try dsimp only
  repeat' first
    | with_reducible rfl
    | simp [ite_calm]
    | ((with_reducible refine (Work.upd_calm _ _ ?_).trans ?_); · (intro _; rfl))
    | (with_reducible refine (Work.foldl_calm _ ?_ _ _).trans ?_)
    | split
    | intro _

@[simp] theorem Work.writeLayer_calm (w : Work) (a : Nat) (e : LayerEntry) : (w.writeLayer a e).calm = w.calm := by
  unfold Work.writeLayer
  try dsimp only
  (repeat' split) <;> first | rfl | simp [Work.upd_calm, Work.foldl_calm, ite_calm, Dev.calm, Dev.quiet]

@[simp] theorem Work.governLayer_calm (w : Work) (c step base : Nat) (machine : List Summary) (layer : Nat) : (w.governLayer c step base machine layer).calm = w.calm := by
  unfold Work.governLayer
  try dsimp only
  (repeat' split) <;> first | rfl | simp [Work.upd_calm, Work.foldl_calm, ite_calm, Dev.calm, Dev.quiet]

@[simp] theorem Work.govern_calm (w : Work) (c step base target : Nat) (machine : List Summary) : (w.govern c step base target machine).calm = w.calm := by
  unfold Work.govern
  try dsimp only
  (repeat' split) <;> first | rfl | simp [Work.upd_calm, Work.foldl_calm, ite_calm, Dev.calm, Dev.quiet]

@[simp] theorem Work.countCapacity_calm (w : Work) (k : HaulCopy) : (w.countCapacity k).calm = w.calm := by
  unfold Work.countCapacity
  try dsimp only
  (repeat' split) <;> first | rfl | simp [Work.upd_calm, Work.foldl_calm, ite_calm, Dev.calm, Dev.quiet]

@[simp] theorem Work.updQueue_calm (w : Work) (n : Nat) (f : HaulQueue → HaulQueue) : (w.updQueue n f).calm = w.calm := by
  unfold Work.updQueue
  try dsimp only
  (repeat' split) <;> first | rfl | simp [Work.upd_calm, Work.foldl_calm, ite_calm, Dev.calm, Dev.quiet]

@[simp] theorem Work.refreshContext_calm (w : Work) (p0 : RefreshPlan) (c margin : Nat) : (w.refreshContext p0 c margin).2.calm = w.calm := by
  unfold Work.refreshContext
  try dsimp only
  repeat' first
    | with_reducible rfl
    | simp [ite_calm]
    | ((with_reducible refine (Work.upd_calm _ _ ?_).trans ?_); · (intro _; rfl))
    | (with_reducible refine (Work.foldl_calm _ ?_ _ _).trans ?_)
    | split
    | intro _

@[simp] theorem Work.startMerge_calm (w : Work) (r : StreamRef) (p : MergeParams) : (w.startMerge r p).calm = w.calm := by
  unfold Work.startMerge
  try dsimp only
  (repeat' split) <;> first | rfl | simp [Work.upd_calm, Work.foldl_calm, ite_calm, Dev.calm, Dev.quiet]

@[simp] theorem Work.takeUp_calm (w : Work) (h : Nat) (e : ResEntry) (t : Transition) : (w.takeUp h e t).calm = w.calm := by
  unfold Work.takeUp
  try dsimp only
  (repeat' split) <;> first | rfl | simp [Work.upd_calm, Work.foldl_calm, ite_calm, Dev.calm, Dev.quiet]

@[simp] theorem Work.transition_calm (w : Work) (i : Issuer) (h action newHome : Nat) (src : HaulSrc) (k : Nat) : (w.transition i h action newHome src k).calm = w.calm := by
  unfold Work.transition
  try dsimp only
  (repeat' split) <;> first | rfl | simp [Work.upd_calm, Work.foldl_calm, ite_calm, Dev.calm, Dev.quiet]

@[simp] theorem Work.releaseOld_calm (w : Work) (h : Nat) : (w.releaseOld h).calm = w.calm := by
  unfold Work.releaseOld
  try dsimp only
  (repeat' split) <;> first | rfl | simp [Work.upd_calm, Work.foldl_calm, ite_calm, Dev.calm, Dev.quiet]

@[simp] theorem Work.endTransition_calm (w : Work) (c : Nat) (e : ResEntry) : (w.endTransition c e).calm = w.calm := by
  unfold Work.endTransition
  try dsimp only
  repeat' first
    | with_reducible rfl
    | simp [ite_calm]
    | ((with_reducible refine (Work.upd_calm _ _ ?_).trans ?_); · (intro _; rfl))
    | (with_reducible refine (Work.foldl_calm _ ?_ _ _).trans ?_)
    | split
    | intro _

@[simp] theorem Work.freeObjects_calm (w : Work) (c : Nat) : (w.freeObjects c).calm = w.calm := by
  unfold Work.freeObjects
  try dsimp only
  repeat' first
    | with_reducible rfl
    | simp [ite_calm]
    | ((with_reducible refine (Work.upd_calm _ _ ?_).trans ?_); · (intro _; rfl))
    | (with_reducible refine (Work.foldl_calm _ ?_ _ _).trans ?_)
    | split
    | intro _

@[simp] theorem Work.checkSection_calm (w : Work) (k : StreamRef) : (w.checkSection k).calm = w.calm := by
  unfold Work.checkSection
  try dsimp only
  (repeat' split) <;> first | rfl | simp [Work.upd_calm, Work.foldl_calm, ite_calm, Dev.calm, Dev.quiet]

@[simp] theorem Work.replaySection_calm (w : Work) (c : Nat) (r : Replay) (l : LayerState) (rung : Nat) (s : Int) (scale compute : Bool) (k : Int) : (w.replaySection c r l rung s scale compute k).calm = w.calm := by
  unfold Work.replaySection
  try dsimp only
  (repeat' split) <;> first | rfl | simp [Work.upd_calm, Work.foldl_calm, ite_calm, Dev.calm, Dev.quiet]

@[simp] theorem Work.openSection_calm (w : Work) (r : StreamRef) (layer : Nat) : (w.openSection r layer).calm = w.calm := by
  unfold Work.openSection
  try dsimp only
  (repeat' split) <;> first | rfl | simp [Work.upd_calm, Work.foldl_calm, ite_calm, Dev.calm, Dev.quiet]

@[simp] theorem Work.query_calm (w : Work) (i : Issuer) (h dst : Nat) : (w.query i h dst).calm = w.calm := by
  unfold Work.query
  try dsimp only
  (repeat' split) <;> first | rfl | simp [Work.upd_calm, Work.foldl_calm, ite_calm, Dev.calm, Dev.quiet]

@[simp] theorem Work.travStop_calm (w : Work) (r : StreamRef) (e : TravStop) : (w.travStop r e).calm = w.calm := by
  unfold Work.travStop
  try dsimp only
  (repeat' split) <;> first | rfl | simp [Work.upd_calm, Work.foldl_calm, ite_calm, Dev.calm, Dev.quiet]

@[simp] theorem Work.countBlock_calm (w : Work) (b : Block) (mapped : Bool) : (w.countBlock b mapped).calm = w.calm := by
  unfold Work.countBlock
  try dsimp only
  repeat' first
    | with_reducible rfl
    | simp [ite_calm]
    | ((with_reducible refine (Work.upd_calm _ _ ?_).trans ?_); · (intro _; rfl))
    | (with_reducible refine (Work.foldl_calm _ ?_ _ _).trans ?_)
    | split
    | intro _

@[simp] theorem Work.endTrav_calm (w : Work) (id : Nat) : (w.endTrav id).calm = w.calm := by
  unfold Work.endTrav
  try dsimp only
  (repeat' split) <;> first | rfl | simp [Work.upd_calm, Work.foldl_calm, ite_calm, Dev.calm, Dev.quiet]

@[simp] theorem Work.saturate_calm (w : Work) (c n : Nat) : (w.saturate c n).calm = w.calm := by
  unfold Work.saturate
  try dsimp only
  (repeat' split) <;> first | rfl | simp [Work.upd_calm, Work.foldl_calm, ite_calm, Dev.calm, Dev.quiet]

@[simp] theorem Work.addToSlot_calm (w : Work) (c a e row : Nat) (accs : List Int) : (w.addToSlot c a e row accs).calm = w.calm := by
  unfold Work.addToSlot
  try dsimp only
  (repeat' split) <;> first | rfl | simp [Work.upd_calm, Work.foldl_calm, ite_calm, Dev.calm, Dev.quiet]

@[simp] theorem Work.updScatter_calm (w : Work) (id : Nat) (f : ScatterOp → ScatterOp) : (w.updScatter id f).calm = w.calm := by
  unfold Work.updScatter
  try dsimp only
  (repeat' split) <;> first | rfl | simp [Work.upd_calm, Work.foldl_calm, ite_calm, Dev.calm, Dev.quiet]

@[simp] theorem Work.putDest_calm (w : Work) (o : ScatterOp) (d : Nat) (vs : List Val) (posn : List Nat) (denom : List Int) : (w.putDest o d vs posn denom).calm = w.calm := by
  unfold Work.putDest
  try dsimp only
  (repeat' split) <;> first | rfl | simp [Work.upd_calm, Work.foldl_calm, ite_calm, Dev.calm, Dev.quiet]

@[simp] theorem Work.writeDirect_calm (w : Work) (o : ScatterOp) (l : Line) : (w.writeDirect o l).calm = w.calm := by
  unfold Work.writeDirect
  try dsimp only
  (repeat' split) <;> first | rfl | simp [Work.upd_calm, Work.foldl_calm, ite_calm, Dev.calm, Dev.quiet]

@[simp] theorem Work.routePos_calm (w : Work) (o : ScatterOp) (dests draw : Nat) (k : KeyArray) (i : Nat) : (w.routePos o dests draw k i).calm = w.calm := by
  unfold Work.routePos
  try dsimp only
  repeat' first
    | with_reducible rfl
    | simp [ite_calm]
    | ((with_reducible refine (Work.upd_calm _ _ ?_).trans ?_); · (intro _; rfl))
    | (with_reducible refine (Work.foldl_calm _ ?_ _ _).trans ?_)
    | split
    | intro _

@[simp] theorem Work.scatterExp_calm (w : Work) (c : Nat) (p : ScatterParams) (vs : List Val) : (w.scatterExp c p vs).2.calm = w.calm := by
  unfold Work.scatterExp
  try dsimp only
  (repeat' split) <;> first | rfl | simp [Work.upd_calm, Work.foldl_calm, ite_calm, Dev.calm, Dev.quiet]

@[simp] theorem Work.putEmpty_calm (w : Work) (o : ScatterOp) (d : Nat) : (w.putEmpty o d).calm = w.calm := by
  unfold Work.putEmpty
  try dsimp only
  (repeat' split) <;> first | rfl | simp [Work.upd_calm, Work.foldl_calm, ite_calm, Dev.calm, Dev.quiet]

@[simp] theorem Work.finaliseRow_calm (w : Work) (o : ScatterOp) (d r : Nat) : (w.finaliseRow o d r).calm = w.calm := by
  unfold Work.finaliseRow
  try dsimp only
  (repeat' split) <;> first | rfl | simp [Work.upd_calm, Work.foldl_calm, ite_calm, Dev.calm, Dev.quiet]

@[simp] theorem Work.finaliseDest_calm (w : Work) (o : ScatterOp) (d : Nat) : (w.finaliseDest o d).calm = w.calm := by
  unfold Work.finaliseDest
  try dsimp only
  (repeat' split) <;> first | rfl | simp [Work.upd_calm, Work.foldl_calm, ite_calm, Dev.calm, Dev.quiet]

@[simp] theorem Work.finaliseScatter_calm (w : Work) (o : ScatterOp) : (w.finaliseScatter o).calm = w.calm := by
  unfold Work.finaliseScatter
  try dsimp only
  (repeat' split) <;> first | rfl | simp [Work.upd_calm, Work.foldl_calm, ite_calm, Dev.calm, Dev.quiet]

@[simp] theorem Work.serveLookup_calm (w : Work) (link jobTag table key reqTag : Nat) : (w.serveLookup link jobTag table key reqTag).calm = w.calm := by
  unfold Work.serveLookup
  try dsimp only
  (repeat' split) <;> first | rfl | simp [Work.upd_calm, Work.foldl_calm, ite_calm, Dev.calm, Dev.quiet]

@[simp] theorem Work.countPasses_calm (w : Work) (tile bits span cycles : Nat) (m : Masking) : (w.countPasses tile bits span cycles m).calm = w.calm := by
  unfold Work.countPasses
  try dsimp only
  (repeat' split) <;> first | rfl | simp [Work.upd_calm, Work.foldl_calm, ite_calm, Dev.calm, Dev.quiet]

@[simp] theorem Work.haltOwner_calm (w : Work) (t a : Nat) : (w.haltOwner t a).calm = w.calm := by
  unfold Work.haltOwner
  try dsimp only
  (repeat' split) <;> first | rfl | simp [Work.upd_calm, Work.foldl_calm, ite_calm, Dev.calm, Dev.quiet]

@[simp] theorem Work.fillChunk_calm (w : Work) (n : Nat) : (w.fillChunk n).calm = w.calm := by
  unfold Work.fillChunk
  try dsimp only
  (repeat' split) <;> first | rfl | simp [Work.upd_calm, Work.foldl_calm, ite_calm, Dev.calm, Dev.quiet]

@[simp] theorem Work.armStream_calm (w : Work) (n : Nat) (p : HaulStreamParams) : (w.armStream n p).calm = w.calm := by
  unfold Work.armStream
  try dsimp only
  (repeat' split) <;> first | rfl | simp [Work.upd_calm, Work.foldl_calm, ite_calm, Dev.calm, Dev.quiet]

@[simp] theorem Work.dmaWait_calm (w : Work) (c tile : Nat) : (w.dmaWait c tile).calm = w.calm := by
  unfold Work.dmaWait
  try dsimp only
  (repeat' split) <;> first | rfl | simp [Work.upd_calm, Work.foldl_calm, ite_calm, Dev.calm, Dev.quiet]

@[simp] theorem Work.pumpDma_calm (w : Work) (tile : Nat) : (w.pumpDma tile).calm = w.calm := by
  unfold Work.pumpDma
  try dsimp only
  (repeat' split) <;> first | rfl | simp [Work.upd_calm, Work.foldl_calm, ite_calm, Dev.calm, Dev.quiet]

@[simp] theorem Work.dmaStore_calm (w : Work) (tile : Nat) (o : DmaOp) (r b : Nat) (bs : List Byte) : (w.dmaStore tile o r b bs).calm = w.calm := by
  unfold Work.dmaStore
  try dsimp only
  (repeat' split) <;> first | rfl | simp [Work.upd_calm, Work.foldl_calm, ite_calm, Dev.calm, Dev.quiet]

@[simp] theorem Work.finishRequest_calm (w : Work) (c ns : Nat) (u : UrgentReq) : (w.finishRequest c ns u).calm = w.calm := by
  unfold Work.finishRequest
  try dsimp only
  (repeat' split) <;> first | rfl | simp [Work.upd_calm, Work.foldl_calm, ite_calm, Dev.calm, Dev.quiet]

@[simp] theorem Work.endUrgent_calm (w : Work) (c : Nat) : (w.endUrgent c).calm = w.calm := by
  unfold Work.endUrgent
  try dsimp only
  (repeat' split) <;> first | rfl | simp [Work.upd_calm, Work.foldl_calm, ite_calm, Dev.calm, Dev.quiet]

@[simp] theorem Work.takeRequest_calm (w : Work) (c ring : Nat) : (w.takeRequest c ring).calm = w.calm := by
  unfold Work.takeRequest
  try dsimp only
  (repeat' split) <;> first | rfl | simp [Work.upd_calm, Work.foldl_calm, ite_calm, Dev.calm, Dev.quiet]

@[simp] theorem Work.putLoose_calm (w : Work) (draw key : Nat) (bs : List Byte) : (w.putLoose draw key bs).calm = w.calm := by
  unfold Work.putLoose
  try dsimp only
  (repeat' split) <;> first | rfl | simp [Work.upd_calm, Work.foldl_calm, ite_calm, Dev.calm, Dev.quiet]

@[simp] theorem Work.moveRows_calm (w : Work) (tile : Nat) (p : VLsParams) (at_ : Nat → Nat) : (w.moveRows tile p at_).calm = w.calm := by
  unfold Work.moveRows
  try dsimp only
  (repeat' split) <;> first | rfl | simp [Work.upd_calm, Work.foldl_calm, ite_calm, Dev.calm, Dev.quiet]

/-- What a routed message keeps. -/
theorem Work.sendRouted_keeps {β : Type} (p : Work → β) (h1 : ∀ v c a b, p (Work.stall v c a b) = p v)
    (h2 : ∀ v l d j m, p (Work.send v l d j m) = p v) (h3 : ∀ v l f, p (Work.updLink v l f) = p v) (w : Work) (c cls dest : Nat)
    (job : W32) (r : Bool) (m : LinkMsg) : p (w.sendRouted c cls dest job r m) = p w := by
  unfold Work.sendRouted
  split
  · rfl
  · dsimp only
    rw [h3, h2]
    split <;> split <;> first
      | exact h1 ..
      | rfl

theorem Applying.update_calm (p : Applying) (t : Table) (row alpha : Nat) (e : Int) (accs : List Int) :
    (p.update t row alpha e accs).w.calm = p.w.calm := by
  unfold Applying.update
  split
  · split
    · exact Work.count_calm ..
    · dsimp only
      split
      · exact Work.storeRow_calm ..
      · exact (Work.count_calm ..).trans (Work.storeRow_calm ..)
  · exact Work.count_calm ..

theorem Applying.slot_calm (p : Applying) (k : Window) (t : Table) (alpha : Nat) (e : Int) (a : Nat) :
    (p.slot k t alpha e a).w.calm = p.w.calm := by
  unfold Applying.slot
  dsimp only
  split
  · rfl
  · split
    · exact Work.holdUpdate_calm ..
    · exact Applying.update_calm ..

/-- A fold of row updates that keeps the calm part keeps it. -/
theorem Applying.foldl_calm {α : Type} (g : Applying → α → Applying) (hg : ∀ p a, (g p a).w.calm = p.w.calm) (l : List α)
    (p : Applying) : (l.foldl g p).w.calm = p.w.calm := by
  induction l generalizing p with
  | nil => rfl
  | cons a l ih => rw [List.foldl_cons, ih, hg]

theorem Applying.window_calm (p : Applying) (k : Window) : (p.window k).w.calm = p.w.calm := by
  unfold Applying.window
  exact (Work.closeArea_calm ..).trans (Applying.foldl_calm _ (fun _ _ => Applying.slot_calm ..) _ _)

theorem Applying.held_calm (p : Applying) : p.held.w.calm = p.w.calm := by
  unfold Applying.held
  exact (Work.upd_calm _ _ (fun _ => rfl)).trans (Applying.foldl_calm _ (fun _ _ => Applying.update_calm ..) _ _)

@[simp] theorem Work.stepRowUpdates_calm (w : Work) : w.stepRowUpdates.calm = w.calm := by
  unfold Work.stepRowUpdates
  exact (Applying.foldl_calm _ Applying.window_calm _ _).trans (Applying.held_calm _)

end Sys2Proof.Machine
end

