-- ==== Sys2Proof/Laws/Element.lean ====
section
/-!
SUPPORT. What is read back at an element of a vector register after elements were written (R231, R245): the element last written
there, and what stood there where none was.
-/

namespace Sys2Proof.Machine

/-! ### Bytes and numbers -/

@[simp] theorem leBytes_length (k n : Nat) : (leBytes k n).length = k := by
  induction k generalizing n with
  | zero => rfl
  | succ k ih => simp [leBytes, ih]

theorem leNat_leBytes (k n : Nat) : leNat (leBytes k n) = n % 256 ^ k := by
  induction k generalizing n with
  | zero => simp [leBytes, leNat, Nat.mod_one]
  | succ k ih =>
    rw [leBytes, leNat, ih, BitVec.toNat_ofNat, show 256 ^ (k + 1) = 256 * 256 ^ k by rw [Nat.pow_succ, Nat.mul_comm], Nat.mod_mul]

theorem leNat_lt (bs : List Byte) : leNat bs < 256 ^ bs.length := by
  induction bs with
  | nil => simp [leNat]
  | cons b bs ih =>
    rw [leNat, List.length_cons, Nat.pow_succ]
    have := b.isLt
    omega

/-! ### Keys -/

/-- A key outside the bytes just written reads as before. -/
theorem Work.rd_wr_other (w : Work) (k j : Nat) (bs : List Byte) (h : j < k ∨ k + bs.length ≤ j) : (w.wr k bs).rd j = w.rd j := by
  unfold Work.rd
  rw [Work.wr_log, Memory.find_journal_other _ _ _ _ h]
  rfl

/-- The bytes just written read back. -/
theorem Work.rdN_wr_same (w : Work) (k : Nat) (bs : List Byte) : (w.wr k bs).rdN k bs.length = bs := by
  unfold Work.rdN
  apply List.ext_getElem
  · simp
  · intro i h1 h2
    rw [List.getElem_map, List.getElem_range]
    unfold Work.rd
    rw [Work.wr_log, Memory.find_journal_at _ _ _ _ h2, List.getElem?_eq_getElem h2]

/-- Bytes apart from those just written read as before. -/
theorem Work.rdN_wr_other (w : Work) (k j n : Nat) (bs : List Byte) (h : j + n ≤ k ∨ k + bs.length ≤ j) : (w.wr k bs).rdN j n = w.rdN j n := by
  unfold Work.rdN
  rw [List.map_inj_left]
  intro i hi
  rw [List.mem_range] at hi
  exact Work.rd_wr_other _ _ _ _ (by omega)

/-! ### One element of whole bytes -/

/-- An element of `n` bytes is those bytes' number. -/
theorem Work.elemAt_bytes (w : Work) (key n i : Nat) : w.elemAt key (8 * n) i = w.le (key + n * i) n := by
  have h1 : 8 * n * i / 8 = n * i := by rw [Nat.mul_assoc]; omega
  have h2 : 8 * n * i % 8 = 0 := by rw [Nat.mul_assoc]; omega
  have h3 : (0 + 8 * n + 7) / 8 = n := by omega
  unfold Work.elemAt
  dsimp only
  rw [h1, h2, h3, Nat.shiftRight_zero]
  have h := leNat_lt (w.rdN (key + n * i) n)
  have hl : (w.rdN (key + n * i) n).length = n := by simp [Work.rdN]
  rw [hl, show (256 : Nat) = 2 ^ 8 from rfl, ← Nat.pow_mul] at h
  exact Nat.mod_eq_of_lt h

/-- Writing an element of `n` bytes writes its code's bytes. -/
theorem Work.putElem_bytes (w : Work) (key n i code : Nat) :
    w.putElem key (8 * n) i code = w.wr (key + n * i) (leBytes n (code % 2 ^ (8 * n))) := by
  have h1 : 8 * n * i / 8 = n * i := by rw [Nat.mul_assoc]; omega
  have h2 : 8 * n * i % 8 = 0 := by rw [Nat.mul_assoc]; omega
  have h3 : (0 + 8 * n + 7) / 8 = n := by omega
  unfold Work.putElem
  dsimp only
  rw [h1, h2, h3, Nat.shiftRight_zero, Nat.pow_zero, Nat.mul_one, Nat.mul_one]
  have h := leNat_lt (w.rdN (key + n * i) n)
  have hl : (w.rdN (key + n * i) n).length = n := by simp [Work.rdN]
  rw [hl, show (256 : Nat) = 2 ^ 8 from rfl, ← Nat.pow_mul] at h
  have he : w.le (key + n * i) n % 2 ^ (8 * n) = w.le (key + n * i) n := Nat.mod_eq_of_lt h
  rw [he, Nat.sub_self, Nat.zero_add]
  rfl

/-- An element just written reads back. -/
theorem Work.elemAt_putElem_same (w : Work) (key n i code : Nat) :
    (w.putElem key (8 * n) i code).elemAt key (8 * n) i = code % 2 ^ (8 * n) := by
  rw [Work.elemAt_bytes, Work.putElem_bytes]
  unfold Work.le
  have e := Work.rdN_wr_same w (key + n * i) (leBytes n (code % 2 ^ (8 * n)))
  rw [leBytes_length] at e
  rw [e, leNat_leBytes, show (256 : Nat) = 2 ^ 8 from rfl, ← Nat.pow_mul, Nat.mod_mod]

/-- Another element reads as before. -/
theorem Work.elemAt_putElem_other (w : Work) (key n i j code : Nat) (h : j ≠ i) :
    (w.putElem key (8 * n) i code).elemAt key (8 * n) j = w.elemAt key (8 * n) j := by
  rw [Work.elemAt_bytes, Work.putElem_bytes, Work.elemAt_bytes]
  unfold Work.le
  rw [Work.rdN_wr_other]
  rw [leBytes_length]
  rcases Nat.lt_or_gt_of_ne h with h | h
  · left
    have : n * j + n ≤ n * i := by rw [← Nat.mul_succ]; exact Nat.mul_le_mul_left n h
    omega
  · right
    have : n * i + n ≤ n * j := by rw [← Nat.mul_succ]; exact Nat.mul_le_mul_left n h
    omega

/-! ### Many elements -/

/-- Elements written one after another, each where `v` answers a code. -/
def Work.putEach {α : Type} (w : Work) (key bits : Nat) (J : α → Nat) (v : α → Option Nat) (l : List α) : Work :=
  l.foldl (fun w e => match v e with | some c => w.putElem key bits (J e) c | none => w) w

/-- An element that none of them is reads as before. -/
theorem Work.putEach_other {α : Type} (key n : Nat) (J : α → Nat) (v : α → Option Nat) (x : Nat) (l : List α) (w : Work)
    (h : ∀ e, e ∈ l → v e ≠ none → J e ≠ x) : (w.putEach key (8 * n) J v l).elemAt key (8 * n) x = w.elemAt key (8 * n) x := by
  induction l generalizing w with
  | nil => rfl
  | cons e l ih =>
    unfold Work.putEach
    rw [List.foldl_cons]
    refine (ih _ (fun k hk => h k (List.mem_cons_of_mem _ hk))).trans ?_
    cases hv : v e with
    | none => rfl
    | some c => exact Work.elemAt_putElem_other _ _ _ _ _ _ (Ne.symm (h e List.mem_cons_self (by rw [hv]; simp)))

/-- An element written by exactly one of them reads as its code. -/
theorem Work.putEach_same {α : Type} (key n : Nat) (J : α → Nat) (v : α → Option Nat) (e : α) (c : Nat) (hv : v e = some c) (l : List α)
    (w : Work) (he : e ∈ l) (h : ∀ k, k ∈ l → J k = J e → k = e) :
    (w.putEach key (8 * n) J v l).elemAt key (8 * n) (J e) = c % 2 ^ (8 * n) := by
  induction l generalizing w with
  | nil => simp at he
  | cons k l ih =>
    by_cases hl : e ∈ l
    · exact ih _ hl (fun k hk => h k (List.mem_cons_of_mem _ hk))
    · have hk : e = k := by
        rcases List.mem_cons.mp he with h1 | h1
        · exact h1
        · exact absurd h1 hl
      subst hk
      refine (Work.putEach_other key n J v (J e) l (match v e with | some c => w.putElem key (8 * n) (J e) c | none => w) ?_).trans ?_
      · intro k hk _ hj
        exact hl (h k (List.mem_cons_of_mem _ hk) hj ▸ hk)
      · rw [hv]
        exact Work.elemAt_putElem_same ..

/-- What putting elements keeps: anything that one write keeps. -/
theorem Work.putEach_keeps {α β : Type} (p : Work → β) (hp : ∀ w k bs, p (Work.wr w k bs) = p w) (key bits : Nat) (J : α → Nat)
    (v : α → Option Nat) (l : List α) (w : Work) : p (w.putEach key bits J v l) = p w := by
  refine Work.foldl_keeps p _ (fun w e => ?_) l w
  split
  · exact hp ..
  · rfl

/-- A fold over a pair whose first parts go by themselves. -/
theorem Work.foldl_fst {α σ : Type} (f : Work × σ → α → Work × σ) (g : Work → α → Work) (h : ∀ a e, (f a e).1 = g a.1 e) (l : List α)
    (a : Work × σ) : (l.foldl f a).1 = l.foldl g a.1 := by
  induction l generalizing a with
  | nil => rfl
  | cons e l ih => rw [List.foldl_cons, List.foldl_cons, ih, h]

/-- The elements of an element-wise instruction whose codes do not depend on what it counts. -/
theorem Work.eachElem_eq {σ : Type} (w : Work) (tile bits outBits span dst : Nat) (m : Masking) (s : σ) (f : σ → Nat → Nat → Nat × σ)
    (g : Nat → Nat → Nat) (h : ∀ y p i, (f y p i).1 = g p i) :
    (w.eachElem tile bits outBits span dst m s f).1
      = w.putEach (vregAt tile dst 0) outBits (fun e : Nat × Nat => e.1 * regElems bits + e.2)
          (fun e => if (w.tile tile).selects bits m e.2 then some (g e.1 e.2) else if m.zero then some 0 else none)
          (positions span (coverage bits m)) := by
  unfold Work.eachElem Work.putEach
  dsimp only
  refine Work.foldl_fst _ _ (fun a e => ?_) _ _
  split
  · show a.1.putElem _ _ _ (f a.2 e.1 e.2).1 = a.1.putElem _ _ _ (g e.1 e.2)
    rw [h]
  · split <;> rfl

theorem mem_positions (span per p i : Nat) : (p, i) ∈ positions span per ↔ p < span ∧ i < per := by
  unfold positions
  simp only [List.mem_flatMap, List.mem_range, List.mem_map, Prod.mk.injEq]
  constructor
  · rintro ⟨a, ha, b, hb, rfl, rfl⟩
    exact ⟨ha, hb⟩
  · rintro ⟨ha, hb⟩
    exact ⟨p, ha, i, hb, rfl, rfl⟩

theorem coverage_le (bits : Nat) (m : Masking) : coverage bits m ≤ regElems bits := by
  unfold coverage
  split
  · exact Nat.min_le_right ..
  · exact Nat.le_refl _

/-- The element `i` of register `p` of an element-wise instruction's destination, of the same width as its sources (R245): its
result where selected, 0 where not and the masking is ZERO, else as before. -/
theorem Work.eachElem_elem {σ : Type} (w : Work) (tile n span dst : Nat) (m : Masking) (s : σ) (f : σ → Nat → Nat → Nat × σ)
    (g : Nat → Nat → Nat) (h : ∀ y p i, (f y p i).1 = g p i) (ob p i : Nat) (hp : p < span) (hi : i < coverage (8 * n) m) :
    (w.eachElem tile (8 * n) (8 * ob) span dst m s f).1.elemAt (vregAt tile dst 0) (8 * ob) (p * regElems (8 * n) + i)
      = if (w.tile tile).selects (8 * n) m i then g p i % 2 ^ (8 * ob)
        else if m.zero then 0 else w.elemAt (vregAt tile dst 0) (8 * ob) (p * regElems (8 * n) + i) := by
  rw [Work.eachElem_eq w tile (8 * n) (8 * ob) span dst m s f g h]
  have hc := coverage_le (8 * n) m
  have inj : ∀ k : Nat × Nat, k ∈ positions span (coverage (8 * n) m) →
      k.1 * regElems (8 * n) + k.2 = (p, i).1 * regElems (8 * n) + (p, i).2 → k = (p, i) := by
    rintro ⟨a, b⟩ hk e
    have hb := ((mem_positions _ _ _ _).mp hk).2
    have hi' : i < regElems (8 * n) := by omega
    have hb' : b < regElems (8 * n) := by omega
    have e : a * regElems (8 * n) + b = p * regElems (8 * n) + i := e
    have h1 : (a * regElems (8 * n) + b) % regElems (8 * n) = (p * regElems (8 * n) + i) % regElems (8 * n) := by rw [e]
    rw [Nat.mul_comm a, Nat.mul_comm p, Nat.mul_add_mod, Nat.mul_add_mod, Nat.mod_eq_of_lt hb', Nat.mod_eq_of_lt hi'] at h1
    subst h1
    have h2 : a * regElems (8 * n) = p * regElems (8 * n) := by omega
    have := Nat.eq_of_mul_eq_mul_right (by omega) h2
    rw [this]
  by_cases hs : (w.tile tile).selects (8 * n) m i = true
  · rw [if_pos hs]
    exact Work.putEach_same _ ob _ _ (p, i) (g p i) (by rw [if_pos hs]) _ w ((mem_positions _ _ _ _).mpr ⟨hp, hi⟩) inj
  · rw [if_neg hs]
    by_cases hz : m.zero = true
    · refine Eq.trans ?_ (if_pos hz).symm
      have := Work.putEach_same (vregAt tile dst 0) ob (fun e : Nat × Nat => e.1 * regElems (8 * n) + e.2)
        (fun e => if (w.tile tile).selects (8 * n) m e.2 then some (g e.1 e.2) else if m.zero then some 0 else none) (p, i) 0
        (by simp [hs, hz]) _ w ((mem_positions _ _ _ _).mpr ⟨hp, hi⟩) inj
      rw [Nat.zero_mod] at this
      exact this
    · refine Eq.trans ?_ (if_neg hz).symm
      refine Work.putEach_other _ ob _ _ _ _ w ?_
      intro k hk hne hj
      rw [inj k hk hj] at hne
      simp [hs, hz] at hne

end Sys2Proof.Machine
end

