-- ==== Sys2Proof/Laws/Exec.lean ====
section
/-!
SUPPORT. What any command can do to a state, said once: all but three commands run a meaning and change neither queue nor
fuses; the three are SEC_SVN_COMMIT, SEC_DEBUG_DISABLE and a private TAP instruction.
-/

namespace Sys2Proof.Machine

/-- Every command runs a meaning on the state, but for the three that burn a fuse or may be refused. -/
theorem exec_cases (c : Instr) (s : State) :
    (∃ f, exec c s = .next (s.exec f)) ∨ c = .secSvnCommit ∨ (∃ key, c = .secDebugDisable key) ∨ ∃ k, c = .tapPrivateInstruction k := by
  cases c <;> first
    | exact Or.inl ⟨_, rfl⟩
    | exact Or.inr (Or.inl rfl)
    | exact Or.inr (Or.inr (Or.inl ⟨_, rfl⟩))
    | exact Or.inr (Or.inr (Or.inr ⟨_, rfl⟩))

/-- SEC_SVN_COMMIT: where it burns, and where it changes nothing (R524). -/
theorem exec_secSvnCommit (s : State) :
    exec .secSvnCommit s = .next (if s.commits then
      { s.exec (fun w => w.deviceEvent 0x0063 (leBytes 1 w.d.sec.svnRunning)) with fuses := { s.fuses with svn := s.dev.sec.svnRunning } }
    else s) := rfl

/-- SEC_DEBUG_DISABLE: where it burns, and where it changes nothing (R532). -/
theorem exec_secDebugDisable (key : Nat) (s : State) :
    exec (.secDebugDisable key) s = .next (if s.dev.responds && key == 0xD15A then
      { s.exec (fun w => w.updSec Sec.relock) with fuses := { s.fuses with debugDisabled := true } }
    else s) := rfl

/-- A private TAP instruction: locked it changes nothing, open it is refused (R529). -/
theorem exec_tapPrivateInstruction (k : TapPrivate) (s : State) :
    exec (.tapPrivateInstruction k) s =
      if s.dev.sec.unlocked && s.dev.sec.level.getLsbD (tapBit k) then .refused .tapPrivateOpen else .next s := rfl

end Sys2Proof.Machine
end

