-- ==== Sys2Proof/Laws/Fault.lean ====
section
/-!
SUPPORT. What events, halts, device faults and links that go down do, said once for any part of the state.
-/

namespace Sys2Proof.Machine

/-- A command that only changes the device answers the state with that device. -/
theorem exec_next_dev {c : Instr} {s : State} {f : Work → Work} {v : Work} (h : exec c s = .next (s.exec f))
    (e : f s.work = v) (hl : v.log = []) (hw : v.wiped = []) : exec c s = .next { s with dev := v.d } := by
  rw [h, State.exec_eq, e, State.finish_eq s v hl hw]

/-- An active context is enabled and not halted. -/
theorem Ctx.active_enable {x : Ctx} (h : x.active = true) : x.enable = true ∧ x.halt.valid = false := by
  unfold Ctx.active at h; simp only [Bool.and_eq_true, Bool.not_eq_true'] at h; exact h.1

/-- An update that changes nothing at its place. -/
theorem updAt_same {α : Type} (l : List α) (i : Nat) (f : α → α) (h : ∀ x, l[i]? = some x → f x = x) : updAt l i f = l := by
  induction l generalizing i with
  | nil => rfl
  | cons x xs ih =>
    cases i with
    | zero => show f x :: xs = _; rw [h x rfl]
    | succ i => show x :: updAt xs i f = _; rw [ih i (fun y hy => h y hy)]

/-- A routed message goes out on its link. -/
theorem Work.sendRouted_out (w : Work) (c cls dest l : Nat) (job : W32) (q : Bool) (m : LinkMsg) (h : w.routeLink cls dest = some l) :
    (w.sendRouted c cls dest job q m).d.linkOut = w.d.linkOut ++ [{ link := l, dest := dest, jobTag := job, msg := m }] := by
  unfold Work.sendRouted; rw [h]; dsimp only
  split <;> split <;> rfl

/-- Two stores that follow one another are one store of their bytes. -/
theorem journal_append (bs cs : List Byte) : ∀ (k : Nat) (l : List Host.Cell), journal (k + bs.length) cs (journal k bs l) = journal k
    (bs ++ cs) l := by
  induction bs with
  | nil => intro k l; rfl
  | cons b bs ih => intro k l; rw [List.cons_append, journal, journal, ← ih (k + 1) ((k, b) :: l), List.length_cons, Nat.add_right_comm]; rfl

/-- What an event entry leaves as it is. -/
theorem Work.writeEvent_keeps {β : Type} (p : Work → β) (h1 : ∀ v c f, p (Work.updCtx v c f) = p v) (h2 : ∀ v c a b, p
    (Work.countCtx v c a b) = p v) (h3 : ∀ v k bs, p (Work.wr v k bs) = p v)
   (h4 : ∀ v a b, p (Work.cacheIova v a b) = p v) (h5 : ∀ v a b, p (Work.msix v a b) = p v) (w : Work) (c : Nat) (dev : Bool)
    (e : HeldEvent) : p (w.writeEvent c dev e) = p w := by
  unfold Work.writeEvent; dsimp only; split
  · rw [h1, h2]
  · split
    · rw [h5, h1, h2, h3, h4]
    · rw [h1, h2, h3, h4]

/-- What a posted event leaves as it is. -/
theorem Work.postEvent_keeps {β : Type} (p : Work → β) (h1 : ∀ v c f, p (Work.updCtx v c f) = p v) (h2 : ∀ v c a b, p
    (Work.countCtx v c a b) = p v) (h3 : ∀ v k bs, p (Work.wr v k bs) = p v)
   (h4 : ∀ v a b, p (Work.cacheIova v a b) = p v) (h5 : ∀ v a b, p (Work.msix v a b) = p v) (w : Work) (c code : Nat) (b : List Byte) : p
    (w.postEvent c code b) = p w := by
  unfold Work.postEvent; split
  · exact Work.writeEvent_keeps p h1 h2 h3 h4 h5 ..
  · rfl

/-- What a device event leaves as it is. -/
theorem Work.deviceEvent_keeps {β : Type} (p : Work → β) (h1 : ∀ v c f, p (Work.updCtx v c f) = p v) (h2 : ∀ v c a b, p
    (Work.countCtx v c a b) = p v) (h3 : ∀ v k bs, p (Work.wr v k bs) = p v)
   (h4 : ∀ v a b, p (Work.cacheIova v a b) = p v) (h5 : ∀ v a b, p (Work.msix v a b) = p v) (h6 : ∀ v f, p
    (Work.upd v fun d => { d with heldEvents := f }) = p v) (w : Work) (code : Nat) (b : List Byte) : p (w.deviceEvent code b) = p w := by
  unfold Work.deviceEvent; dsimp only; split
  · exact Work.writeEvent_keeps p h1 h2 h3 h4 h5 ..
  · exact h6 w _

/-- What a halt leaves as it is. -/
theorem Work.halt_keeps_all {β : Type} (p : Work → β) (h1 : ∀ v c f, p (Work.updCtx v c f) = p v) (h2 : ∀ v c a b, p
    (Work.countCtx v c a b) = p v) (h3 : ∀ v k bs, p (Work.wr v k bs) = p v)
   (h4 : ∀ v a b, p (Work.cacheIova v a b) = p v) (h5 : ∀ v a b, p (Work.msix v a b) = p v) (h6 : ∀ v t f, p (Work.updTile v t f) = p v)
    (h7 : ∀ v c, p (Work.dropOps v c) = p v)
   (h8 : ∀ v, p (Work.upd v fun d => { d with machineStopped := true }) = p v) (w : Work) (c : Nat) (r : HaltRec) : p (w.halt c r) = p w := by
  have a0 : p (w.ownRecord c (w.haltRec c r)) = p w := by
    unfold Work.ownRecord; split
    · rfl
    · split
      · exact h1 ..
      · exact h6 ..
  have a1 : ∀ v : Work, p (v.stopWork c) = p v := by
    intro v
    unfold Work.stopWork; dsimp only
    rw [h1, h7]
    exact Work.foldl_keeps p (fun (w : Work) t => w.updTile t Tile.halted) (fun _ _ => h6 ..) _ _
  have a2 : ∀ (v : Work) n, p (v.haltDescs c n) = p v := by
    intro v n; unfold Work.haltDescs
    refine Work.foldl_keeps p _ (fun v d => ?_) _ _
    unfold Work.complete; split
    · rfl
    · unfold Work.postCompletion; dsimp only
      split
      · rw [h5, h1, h2, h3, h4, h1]
      · rw [h1, h2, h3, h4, h1]
  have a3 : ∀ (v : Work) n b, p (v.postEvent c n b) = p v := fun v n b => Work.postEvent_keeps p h1 h2 h3 h4 h5 v c n b
  unfold Work.halt; dsimp only
  split
  · rfl
  · split
    · exact a0
    · split
      · split
        · rw [h8, a1, a2, a3, h1]; exact a0
        · rw [a1, a2, a3, h1]; exact a0
      · rw [a1, a2, a3, h1]; exact a0

/-- The record of a halt in a stream, in an enabled context that is not halted. -/
theorem Work.haltStream_rec (w : Work) (r : StreamRef) (e reason d : Nat) (h : (w.ctx r.ctx).enable = true) (hv :
    (w.ctx r.ctx).halt.valid = false) :
   ((w.haltStream r e reason d).ctx r.ctx).halt.valid = true ∧ ((w.haltStream r e reason d).ctx r.ctx).halt.reason = reason ∧
    ((w.haltStream r e reason d).ctx r.ctx).halt.detail = d := by
  unfold Work.haltStream
  rw [Work.halt_rec _ _ _ h hv]; exact ⟨rfl, rfl, rfl⟩

/-- Halting the contexts of a list that meet a condition: each that meets it takes the record, each that does not keeps its own. -/
theorem Work.foldl_haltIf_rec (r : HaltRec) (q : Work → Nat → Bool) (hq : ∀ v c a, c ≠ a → q (v.halt a r) c = q v c) : ∀ (cs : List Nat)
    (w : Work) (c : Nat), cs.Nodup → c ∈ cs →
   (w.ctx c).enable = true → (w.ctx c).halt.valid = false →
   let v := cs.foldl (fun w c => if q w c then w.halt c r else w) w
   (q w c = true → (v.ctx c).halt.valid = true ∧ (v.ctx c).halt.reason = r.reason ∧ (v.ctx c).halt.detail = r.detail) ∧ (q w c = false →
    (v.ctx c).halt = (w.ctx c).halt) := by
  intro cs
  have keep : ∀ (cs : List Nat) (w : Work) (c : Nat), c ∉ cs → ((cs.foldl (fun w c => if q w c then w.halt c r else w) w).ctx c).halt =
    (w.ctx c).halt := by
    intro cs
    induction cs with
    | nil => intro w c _; rfl
    | cons a as ih =>
      intro w c hc
      rw [List.mem_cons, not_or] at hc
      rw [List.foldl_cons, ih _ _ hc.2]
      split
      · exact Work.halt_keeps _ _ _ _ (.inr hc.1)
      · rfl
  induction cs with
  | nil => intro w c _ h; exact absurd h (List.not_mem_nil)
  | cons a as ih =>
    intro w c hn hm he hv
    rw [List.nodup_cons] at hn
    by_cases hca : c = a
    · subst hca
      dsimp only
      rw [List.foldl_cons, keep as _ c hn.1]
      constructor
      · intro h
        rw [if_pos h, Work.halt_rec _ _ _ he hv]
        exact ⟨rfl, rfl, rfl⟩
      · intro h
        rw [if_neg (by rw [h]; decide)]
    · have hm' : c ∈ as := by
        rcases List.mem_cons.mp hm with h | h
        · exact absurd h hca
        · exact h
      dsimp only
      rw [List.foldl_cons]
      split
      · have e1 := Work.halt_keeps w a c r (.inr hca)
        obtain ⟨i1, i2⟩ := ih (w.halt a r) c hn.2 hm' (by rw [Work.halt_enable]; exact he) (by rw [e1]; exact hv)
        rw [hq w c a hca] at i1 i2
        exact ⟨i1, fun h => (i2 h).trans e1⟩
      · exact ih w c hn.2 hm' he hv

/-- A device fault halts every enabled context that is not halted (R489). -/
theorem Work.deviceFault_rec (w : Work) (reason : Nat) (src : FaultSource) (i a c : Nat) (hc : c < 16) (he : (w.ctx c).enable = true)
    (hv : (w.ctx c).halt.valid = false) :
   ((w.deviceFault reason src i a).ctx c).halt.valid = true ∧ ((w.deviceFault reason src i a).ctx c).halt.reason = reason ∧
    ((w.deviceFault reason src i a).ctx c).halt.detail = src.code * 2 ^ 16 + i * 2 ^ 24 := by
  unfold Work.deviceFault
  obtain ⟨y, hy⟩ : ∃ y, y = (w.recordFault reason src i a).deviceEvent 0x0050
    (leBytes 1 reason ++ leBytes 1 src.code ++ leBytes 1 i ++ leBytes 5 0 ++ leBytes 8 a) := ⟨_, rfl⟩
  have hr : (w.recordFault reason src i a).ctx c = w.ctx c := by
    unfold Work.recordFault; split <;> rfl
  have hl : (y.ctx c).lasting = (w.ctx c).lasting := by rw [hy, Work.deviceEvent_lasting, hr]
  have := Work.haltAll_rec y c (machineRec reason (src.code * 2 ^ 16 + i * 2 ^ 24)) hc (by rw [Ctx.enable_of_lasting hl]; exact he)
    (by rw [Ctx.halt_of_lasting hl]; exact hv)
  dsimp only
  rw [← hy]
  unfold Work.haltAll at this
  rw [this]
  exact ⟨rfl, rfl, rfl⟩

/-- What a link that goes down leaves as it is, but for its own state (R463). -/
theorem Work.linkDown_still (w : Work) (l : Nat) (s : LinkState) : (w.linkDown l s).still = (w.updLink l fun k => k.down s).still := by
  unfold Work.linkDown
  dsimp only
  split
  · refine Work.foldl_still _ (fun v a => ?_) _ _
    have : ∀ b : Bool, (if b = true then v.halt a (machineRec 97 l) else v).still = v.still := by
      intro b; split
      · exact Work.halt_still ..
      · rfl
    exact this _
  · rfl

end Sys2Proof.Machine
end

