-- ==== Sys2Proof/Laws/Issue.lean ====
section
/-!
SUPPORT. What issuing an instruction at the address of a running tile core comes to: done, waiting or halted.
-/

namespace Sys2Proof.Machine

/-- What it takes for a tile core to execute at an address. -/
theorem Work.executing_some {w : Work} {t : TileRef} {c : Nat} (h : w.executing t = some c) : w.owner t.tile = some c ∧
    (w.ctx c).active = true ∧ (w.tile t.tile).run = .running ∧ (w.tile t.tile).pc = t.pc := by
  unfold Work.executing at h
  split at h
  · cases h
  · rename_i k hk
    split at h
    · rename_i ha; injection h with h; rw [← h]; exact ⟨hk, ha⟩
    · cases h

/-- An instruction that halts its context. -/
theorem State.issue_halts {s : State} {t : TileRef} {c : Nat} {f : Nat → Work → Issued} {u r d : Nat} (h : s.work.executing t = some c)
    (hp : t.pc < (s.work.tile t.tile).imageLen) (hf : f c s.work = .halt u r d) :
   s.work.issue t f = s.work.halt c (tileRec t u (s.work.tile t.tile).loops.length r d) := by
  unfold Work.issue; rw [h]; dsimp only; rw [if_neg (by omega), hf]; dsimp only
  unfold Work.haltTile; rw [(Work.executing_some h).1]

/-- An instruction that waits: one stalled cycle is counted. -/
theorem State.issue_waits {s : State} {t : TileRef} {c : Nat} {f : Nat → Work → Issued} {a b : Nat} (h : s.work.executing t = some c)
    (hp : t.pc < (s.work.tile t.tile).imageLen) (hf : f c s.work = .wait a b) :
   s.work.issue t f = s.work.stall c a b := by
  unfold Work.issue; rw [h]; dsimp only; rw [if_neg (by omega), hf]

/-- An instruction that is done: the tile core goes on. -/
theorem State.issue_done {s : State} {t : TileRef} {c : Nat} {f : Nat → Work → Issued} {v : Work} (h : s.work.executing t = some c)
    (hp : t.pc < (s.work.tile t.tile).imageLen) (hf : f c s.work = .done v) :
   s.work.issue t f = (v.updTile t.tile fun k => k.advance t.pc t.next).count Ctr.tileCoreInstructions 1 := by
  unfold Work.issue; rw [h]; dsimp only; rw [if_neg (by omega), hf]

/-- A vector instruction that is taken up takes a place of the queue. -/
theorem State.issueVector_done {s : State} {t : TileRef} {c : Nat} {f : Nat → Work → Issued} {v : Work} (h : s.work.takes t c) (hq :
    (s.work.tile t.tile).vecQueue < 8) (hf : f c s.work = .done v) :
   s.work.issueVector t f = (((v.updTile t.tile fun k => { k with vecQueue := k.vecQueue + 1 }).updTile t.tile fun k => k.advance t.pc t.next).count Ctr.tileCoreInstructions 1) := by
  unfold Work.issueVector
  exact State.issue_done h.1 h.2.1 (by rw [if_neg (by omega), hf])

/-- A command whose instruction halts answers a state with that halt. -/
theorem exec_issue_halts {i : Instr} {s : State} {t : TileRef} {c u r d : Nat} {f : Nat → Work → Issued} (he : exec i s = .next
    (s.exec fun w => w.issue t f)) (h : s.work.executing t = some c) (hp : t.pc < (s.work.tile t.tile).imageLen)
    (hf : f c s.work = .halt u r d) :
   ∃ x, exec i s = .next x ∧ (x.work.ctx c).halt.valid = true ∧ (x.work.ctx c).halt.reason = r ∧ (x.work.ctx c).halt.detail = d := by
  obtain ⟨h1, h2⟩ := Ctx.active_enable (Work.executing_some h).2.1
  obtain ⟨x, h1, h2, h3⟩ := exec_halts (c := i) (s := s) (v := s.work) (k := c) (r := tileRec t u
    (s.work.tile t.tile).loops.length r d) he (State.issue_halts h hp hf) rfl h1 h2
  exact ⟨x, h1, by rw [h2]; rfl, by rw [h2]; rfl, by rw [h2]; rfl⟩

/-- A command whose instruction waits answers the state with one stalled cycle counted. -/
theorem exec_issue_waits {i : Instr} {s : State} {t : TileRef} {c a b : Nat} {f : Nat → Work → Issued} (he : exec i s = .next
    (s.exec fun w => w.issue t f)) (h : s.work.executing t = some c) (hp : t.pc < (s.work.tile t.tile).imageLen) (hf : f c s.work = .wait a b) :
   exec i s = .next { s with dev := { s.dev with counters := ctrAdd s.dev.counters (ctrKey a c b) 1 } } :=
  exec_next_dev (v := s.work.stall c a b) he (State.issue_waits h hp hf) rfl rfl

/-- One array instruction in the queue. -/
theorem Work.pumpMat_one (w : Work) (c n : Nat) (m : MatOp) (hm : (w.tile n).mat = [m]) : w.pumpMat c n = (w.matStep c n 0).1 := by
  unfold Work.pumpMat; rw [hm]; rfl

/-- An empty queue of the array. -/
theorem Work.pumpMat_none (w : Work) (c n : Nat) (hm : (w.tile n).mat = []) : w.pumpMat c n = w := by
  unfold Work.pumpMat; rw [hm]; rfl

/-- A tile with an empty queue. -/
theorem Work.pumpTile_none (w : Work) (n : Nat) (hm : (w.tile n).mat = []) : w.pumpTile n = w := by
  unfold Work.pumpTile; split
  · rfl
  · split
    · exact Work.pumpMat_none _ _ _ hm
    · rfl

end Sys2Proof.Machine
end

