-- ==== Sys2Proof/WellFormed.lean ====
section
/-!
DEFINITION. WellFormed: what every command that a sender can send satisfies, by the widths of its operands. A number
names a resource of the part as far as its field reaches: a context is 0 to 15 (R431), a tile 0 to 63, a link 0 to 35, a
command ring 0 to 3 (R439). What lies inside these bounds and is still wrong is the device's to refuse or halt.
-/

namespace Sys2Proof

/-- A context number (R431). -/
def wfCtx (c : Nat) : Bool := decide (c < 16)

/-- A tile number (R20). -/
def wfTile (t : TileRef) : Bool := decide (t.tile < 64) && decide (t.pc < 65536)

/-- A link number (R460). -/
def wfLink (l : Nat) : Bool := decide (l < 36)

/-- A command ring of a context (R439). -/
def wfRing (c r : Nat) : Bool := wfCtx c && decide (r < 4)

/-- A stream's own reference: its context, its number 0 to 63, and a 32-bit key (R384, R393). -/
def wfRef (r : StreamRef) : Bool := wfCtx r.ctx && decide (r.stream < 64) && decide (r.keyStep < 2 ^ 32) && decide (r.keyQ < 2 ^ 32)

/-- The issuer of a haul action. -/
def wfHaul : HaulFrom → Bool
  | .stream r => wfRef r
  | .host c r => wfRing c r

/-- The issuer of a fence or a SETREGION. -/
def wfFrom : CmdFrom → Bool
  | .stream r => wfRef r
  | .tile t => wfTile t

/-- The operand widths of a command. -/
def Instr.wf : Instr → Bool
  | .doneReport l _ => wfLink l
  | .tickAnnouncement l _ => wfLink l
  | .sample r _ => wfRef r
  | .gather r _ => wfRef r
  | .scatter r _ => wfRef r
  | .rowMove r _ => wfRef r
  | .merge r _ => wfRef r
  | .servedLookup l _ _ _ _ => wfLink l
  | .servedContribution l _ _ _ _ _ _ _ => wfLink l
  | .load t _ => wfTile t
  | .loadComplete t => decide (t < 64)
  | .stream t _ => wfTile t
  | .streamComplete t => decide (t < 64)
  | .vectorArithmetic t .. => wfTile t
  | .vectorTranscendental t .. => wfTile t
  | .vectorInteger t .. => wfTile t
  | .vectorCompare t .. => wfTile t
  | .vectorSelect t .. => wfTile t
  | .vectorConversion t .. => wfTile t
  | .vectorReduction t .. => wfTile t
  | .sumx t .. => wfTile t
  | .updateRem t .. => wfTile t
  | .vloadVstore t _ => wfTile t
  | .vgatherVscatter t _ => wfTile t
  | .shuffle t .. => wfTile t
  | .vextractVinsert t .. => wfTile t
  | .maskLogic t _ d => wfTile t && decide (d < 8)
  | .maskQuery t _ m g => wfTile t && decide (m < 8) && decide (g < 32)
  | .vectorInstructionComplete t => decide (t < 64)
  | .scalarInstruction t _ => wfTile t
  | .dataMemoryAccess t _ => wfTile t
  | .loop t .. => wfTile t
  | .loopIndex t g l => wfTile t && decide (g < 32) && decide (l < 4)
  | .pitchEnd t => wfTile t
  | .stop t => wfTile t
  | .trap t o => wfTile t && decide (o < 65536)
  | .seq f q => wfFrom f && decide (q < 2 ^ 32)
  | .setregion f s _ => wfFrom f && decide (s < 64)
  | .tileDma t _ => wfTile t
  | .tileDmaComplete t => decide (t < 64)
  | .gbin t _ => wfTile t
  | .gstage t _ => wfTile t
  | .gemit t _ => wfTile t
  | .gsh t _ => wfTile t
  | .gradial t _ => wfTile t
  | .gcouple t _ => wfTile t
  | .gcoupleBwd t _ => wfTile t
  | .gshBwd t _ => wfTile t
  | .gradialBwd t _ => wfTile t
  | .gshBwd2 t _ => wfTile t
  | .governorUpdate c _ _ _ _ => wfCtx c
  | .replayOpen r _ => wfRef r
  | .replayCheck r => wfRef r
  | .replayDecision c _ _ _ => wfCtx c
  | .reduceScatter r _ => wfRef r
  | .allGather r _ => wfRef r
  | .allToAll r _ => wfRef r
  | .allreduceSmall r _ => wfRef r
  | .permute r _ => wfRef r
  | .collectiveDataArrival l _ => wfLink l
  | .register h .. => wfHaul h
  | .install h .. => wfHaul h
  | .move h .. => wfHaul h
  | .replace h .. => wfHaul h
  | .release h .. => wfHaul h
  | .stage h .. => wfHaul h
  | .copy h .. => wfHaul h
  | .residencyQuery h .. => wfHaul h
  | .streamRearm r .. => wfRef r
  | .streamChunkFill q _ => decide (q < 64)
  | .streamEnd q => decide (q < 64)
  | .loadJob c r => wfRing c r
  | .startJob c r => wfRing c r
  | .stopJob c r => wfRing c r
  | .unloadJob c r => wfRing c r
  | .nop c r => wfRing c r
  | .sync c r => wfRing c r
  | .urgentRequest c r => wfRing c r
  | .commandStart c => wfFrom c.from_ && decide (c.uses.length ≤ 8) && decide (c.engine < 8)
  | .commandComplete c _ => wfCtx c
  | .fence f q _ _ => wfFrom f && decide (q < 2 ^ 32)
  | .fenceRelease c _ => wfCtx c
  | .dbCmdTail c r v => wfRing c r && decide (v < 65536)
  | .dbCplHead c v => wfCtx c && decide (v < 65536)
  | .dbEvtHead c v => wfCtx c && decide (v < 4096)
  | .descriptorFetch c r => wfRing c r
  | .coalesceTimer c => wfCtx c
  | .ctxEnableSet c => wfCtx c
  | .ctxEnableClear c => wfCtx c
  | .ctxClear c => wfCtx c
  | .ctxUrgent f c _ => wfCtx f && wfCtx c
  | .ctxTileMask f c _ => wfCtx f && wfCtx c
  | .ctxArenaValid f c _ => wfCtx f && wfCtx c
  | .ctxUrgentLatClear c => wfCtx c
  | .vfFlr v => decide (0 < v) && wfCtx v
  | .atsInvalidation f _ _ => wfCtx f
  | .linkTrain l => wfLink l
  | .linkTrainingDone l _ => wfLink l
  | .linkDisable l _ => wfLink l
  | .flitReceive l _ _ _ => wfLink l
  | .nakReceive l s => wfLink l && decide (s < 4096)
  | .laneLossOfLock l n => wfLink l && decide (n < 5)
  | .ackTimeout l => wfLink l
  | .hbmScrub s _ _ _ => decide (s < 12)
  | .pwrLinkGroupEn v => decide (v < 64)
  | .domainPowerDone d => decide (d < 54)
  | .capacityLinkDown p => decide (p < 2)
  | .i3cDynamicAddress a => decide (a < 128)
  | .ctxCntSelect c _ _ => wfCtx c
  | .hbmInterfaceFault s => decide (s < 12)
  | .msixVectorUnmask f v => wfCtx f && decide (v < 2)
  | .shFieldWrite f _ _ _ => wfCtx f
  | .registerWrite f _ _ _ => wfCtx f
  | .registerReadCapture f _ _ => wfCtx f
  | .idDeviceNumberWrite f _ => wfCtx f
  | .pitchRunSet => true
  | .pitchRunClear => true
  | .anchorDecisionPoint => true
  | .tickFire => true
  | .overrunAnnouncement => true
  | .graceEnd => true
  | .tickLostTimeout => true
  | .subTick => true
  | .urgentExecutionEnd => true
  | .subpitchOverrun => true
  | .cfgArmGo .. => true
  | .cfgDisarm => true
  | .sampleComplete .. => true
  | .traverseReadReturn .. => true
  | .gatherFetchReturn .. => true
  | .gatherComplete .. => true
  | .scatterFinalise .. => true
  | .scatterComplete .. => true
  | .servedAck .. => true
  | .rowMoveCopyDone .. => true
  | .hotsetRefresh => true
  | .mergeComplete .. => true
  | .trailerReturn .. => true
  | .collectiveTimeout .. => true
  | .haulCopyDone .. => true
  | .oldHomeRelease .. => true
  | .pfFlr => true
  | .hostLinkLoss => true
  | .sramScrub .. => true
  | .evtFaultClear => true
  | .moduleReset .. => true
  | .secFlashGo .. => true
  | .flashWriteComplete .. => true
  | .secSvnCommit => true
  | .secUnlockGo .. => true
  | .secDebugRelock => true
  | .secDebugDisable .. => true
  | .getVersion => true
  | .getCapabilities => true
  | .negotiateAlgorithms => true
  | .getDigests => true
  | .getCertificate .. => true
  | .challenge .. => true
  | .getMeasurements .. => true
  | .bypass => true
  | .idcode => true
  | .samplePreload => true
  | .extest => true
  | .extestPulse => true
  | .extestTrain => true
  | .clamp => true
  | .pwrEnAssert => true
  | .pwrEnDeassert => true
  | .inputUndervoltage .. => true
  | .pwrTilePairEn .. => true
  | .pwrHbmSleepSet => true
  | .pwrHbmSleepClear => true
  | .idleGateTimer => true
  | .powerWindow .. => true
  | .clampTrigger .. => true
  | .clampHoldExpiry => true
  | .clampPersistFault => true
  | .thermalTrip .. => true
  | .refclkLoss .. => true
  | .leakDet => true
  | .mctpPldmRequest .. => true
  | .cntSelect .. => true
  | .modResetNAssert .. => true
  | .hostLinkUp .. => true
  | .hostCorrectableError => true
  | .pldmSensorUpdate .. => true
  | .clampTriggerClear .. => true
  | .tapReset => true
  | .tapPrivateInstruction .. => true
  | .spdmUnsupportedRequest .. => true

end Sys2Proof
end

