-- ==== Sys2Proof/Tests/Slice0.lean ====
section
/-!
SUPPORT. The package's own tests: an ill-formed command for each check of WellFormed, states and operands that meet what the
statements assume, clause by clause, and steps on small states with results worked out from spec/.
-/

set_option Elab.async false

namespace Sys2Proof.Tests

open Sys2Proof.Machine

/-! ### Small states -/

/-- A state with its device changed. -/
def dev (f : Dev → Dev) (s : State) : State := { s with dev := f s.dev }

/-- A state with one context changed. -/
def onC (c : Nat) (f : Ctx → Ctx) (s : State) : State := dev (fun d => { d with ctxs := updAt d.ctxs c f }) s

/-- A state with one tile changed. -/
def onT (t : Nat) (f : Tile → Tile) (s : State) : State := dev (fun d => { d with tiles := updAt d.tiles t f }) s

/-- A state with one link changed. -/
def onL (l : Nat) (f : Link → Link) (s : State) : State := dev (fun d => { d with links := updAt d.links l f }) s

/-- A state with its pitch block changed. -/
def onP (f : Pitch → Pitch) (s : State) : State := dev (fun d => { d with pitch := f d.pitch }) s

/-- A state with bytes stored from a key upward. -/
def put (k : Nat) (bs : List Byte) (s : State) : State := { s with mem := Memory.apply s.mem (journal k bs []) }

/-- A state with a little-endian number stored in `n` bytes. -/
def putLe (k n v : Nat) (s : State) : State := put k (leBytes n v) s

/-- A context that runs work. -/
def busy (x : Ctx) : Ctx := { x with enable := true, state := .running, cpl := { x.cpl with size := 6 }, evt := { x.evt with size := 6 } }

/-- Context 0 running on the shipped part. -/
def s0 : State := onC 0 busy State.reset

/-- A pitch that runs. -/
def sp : State := onP (fun p => { p with run := true, ticking := true, tickCount := 8 }) s0

/-- A stream of context 0. -/
def r0 : StreamRef := { ctx := 0, stream := 0, section_ := 0, offset := 0, cmdAddr := 0, keyStep := 0, keyQ := 0 }

/-- A descriptor of ring 0 of a context. -/
def desc0 (op : Nat) : Desc :=
  { ring := 0, head := 1, opcode := op, interrupt := false, fence := false, tag := 5, operands := List.replicate 48 0, seq := 0,
    started := false, fetchedAt := 0 }

/-- A BELAY payload of a kind with some flags. -/
def belay (kind flags : Nat) : Belay :=
  { kind := kind, flags := flags, accLatency := 0, tick := 9, length := 500000, grace := 50, subdiv := 5, stretch := 0 }

/-! ### What the statements assume -/

/-- What each clause of StepTakesFrontCommand assumes is met. -/
theorem witness_step_takes_front_command :
    ∃ (c : Instr) (rest : List Instr) (s : State), s.pending = c :: rest :=
  ⟨Instr.getVersion, [], { State.reset with pending := [.getVersion] }, rfl⟩

/-- What each clause of EmptyQueuePassesOneNanosecond assumes is met. -/
theorem witness_empty_queue_passes_one_nanosecond :
    ∃ (s : State), s.pending = [] :=
  ⟨State.reset, rfl⟩

/-- What each clause of CommandsKeepQueue assumes is met. -/
theorem witness_commands_keep_queue :
    ∃ (c : Instr) (s t : State), exec c s = .next t :=
  ⟨Instr.linkTrain 0, { State.reset with pending := [.getVersion] }, _, rfl⟩

/-- What each clause of StepsKeepMemoryCanonical assumes is met. -/
theorem witness_steps_keep_memory_canonical :
    ∃ (s t : State), Memory.wf s.mem = true ∧ step s = .next t :=
  ⟨State.reset, _, ⟨by decide, rfl⟩⟩

/-- What each clause of StepsKeepFuses assumes is met. -/
theorem witness_steps_keep_fuses :
    ∃ (s t : State), step s = .next t :=
  ⟨State.reset, _, rfl⟩

/-- An urgent request of entry 0. -/
def req0 : UrgentReq := { desc := desc0 0x30, entry := 0, argument := 0, inAddr := 0, inLen := 0, resLen := 0, resSrc := 0, resDst := 0 }

/-- A job with one urgent entry, at address 16. -/
def job0 : Job :=
  { handle := 1, tag := 7, urgent := false, machine := false, tileMask := 1, firstStep := 0, stepCount := 4, step := 0, stepsDone := 0,
    pitchInStep := 0, pitchesPerStep := 1, keyBases := [], required := false, reqLen := 0, reqGrace := 0, reqSubdiv := 0, reqTiles := 0,
    reqShared := 0, reqHbm := 0, reqCapacity := 0, reqHot := 0, censusBase := 0, censusCount := 0, queues := 0, entries := [16],
    streams := [], started := true, stopStep := none, startDesc := none }

/-- A running pitch with an urgent context 0. -/
def su : State := onC 0 (fun x => { x with urgent := true, job := some job0, waiting := [req0] }) sp

/-- What each clause of PitchRunCompletes assumes is met. -/
theorem witness_pitch_run_completes :
    (∃ (s : State), s.dev.pitch.run = false ∧ s.work.treeCause = none)
    ∧ (∃ (s : State), s.dev.pitch.run = false ∧ s.work.treeCause ≠ none)
    ∧ (∃ (s : State), s.dev.pitch.run = true) :=
  ⟨⟨s0, by decide +kernel⟩,
   ⟨onP (fun p => { p with childLinks := 1 }) s0, by decide +kernel⟩,
   ⟨sp, by decide +kernel⟩⟩

/-- What each clause of AnnouncementsComplete assumes is met. -/
theorem witness_announcements_complete :
    (∃ (s : State), s.dev.pitch.run = true ∧ s.dev.pitch.role.generates = true ∧ s.dev.pitch.announced = none)
    ∧ (∃ (s : State), s.dev.pitch.run = true ∧ s.dev.pitch.role.generates = true ∧ s.dev.pitch.held = true ∧ s.dev.pitch.announced = none) :=
  ⟨⟨sp, by decide +kernel⟩,
   ⟨onP (fun p => { p with held := true }) sp, by decide +kernel⟩⟩

/-- What each clause of BelayMessagesComplete assumes is met. -/
theorem witness_belay_messages_complete :
    (∃ (link : Nat) (p : Belay) (s : State), s.dev.pitch.run = true ∧ p.kind = 1 ∧ s.dev.pitch.childLinks.getLsbD link = true
      ∧ p.tick = s.work.tick + 1)
    ∧ (∃ (link : Nat) (p : Belay) (s : State), s.dev.pitch.run = true ∧ p.kind = 0 ∧ s.dev.pitch.role = .follower
      ∧ s.dev.pitch.parentLink = link) :=
  ⟨⟨35, belay 1 3, onP (fun p => { p with role := .anchor, childLinks := 1 <<< 35 }) sp, by decide +kernel⟩,
   ⟨3, belay 0 0, onP (fun p => { p with role := .follower, parentLink := 3 }) sp, by decide +kernel⟩⟩

/-- What each clause of PitchHaltsComplete assumes is met. -/
theorem witness_pitch_halts_complete :
    (∃ (s : State), s.dev.pitch.run = true ∧ s.dev.pitch.role = .follower ∧ s.dev.pitch.ticking = true ∧ s.dev.pitch.announced = none
      ∧ (s.work.link s.dev.pitch.parentLink).state = .up)
    ∧ (∃ (s : State) (c : Nat), s.work.urgentCtx = some c ∧ (s.work.ctx c).executing ≠ [] ∧ (s.work.ctx c).halt.valid = false) :=
  ⟨⟨onL 3 (fun l => { l with state := .up }) (onP (fun p => { p with role := .follower, parentLink := 3 }) sp), by decide +kernel⟩,
   ⟨onC 0 (fun x => { x with executing := [req0] }) su, 0, by decide +kernel⟩⟩

/-- What each clause of UrgentDispatchCompletes assumes is met. -/
theorem witness_urgent_dispatch_completes :
    (∃ (s : State) (c pc : Nat) (j : Job) (u : UrgentReq) (us : List UrgentReq), s.dev.pitch.run = true
      ∧ (s.dev.pitch.role.generates = true ∨ s.dev.pitch.ticking = true) ∧ s.work.urgentCtx = some c ∧ (s.work.ctx c).active = true
      ∧ (s.work.ctx c).executing = [] ∧ urgentBatchOf (s.work.ctx c) = u :: us ∧ (s.work.ctx c).job = some j
      ∧ j.entries[u.entry]? = some pc)
    ∧ (∃ (s : State) (c : Nat), s.work.urgentCtx = some c ∧ (s.work.ctx c).executing ≠ [] ∧ s.work.tilesIdle c = true
      ∧ (s.work.ctx c).active = true ∧ (s.work.ctx c).lateDispatch = false) :=
  ⟨⟨su, 0, 16, job0, req0, [], by decide +kernel⟩,
   ⟨onC 0 (fun x => { x with executing := [req0] }) su, 0, by decide +kernel⟩⟩

/-- What each clause of TicksComplete assumes is met. -/
theorem witness_ticks_complete :
    (∃ (s : State) (b : Belay), s.dev.pitch.run = true ∧ s.dev.pitch.announced = some b ∧ bitOf b.flags 1 = false)
    ∧ (∃ (s : State) (b : Belay), s.dev.pitch.run = true ∧ s.dev.pitch.announced = some b ∧ bitOf b.flags 1 = true) :=
  ⟨⟨onP (fun p => { p with announced := some (belay 0 1) }) sp, belay 0 1, by decide +kernel⟩,
   ⟨onP (fun p => { p with announced := some (belay 0 2) }) sp, belay 0 2, by decide +kernel⟩⟩

/-- What each clause of ArmAndDisarmComplete assumes is met. -/
theorem witness_arm_and_disarm_complete :
    (∃ (m : Bool) (s : State), s.dev.responds = true ∧ s.dev.cfg.armed = none ∧ s.work.armCause m s.dev.cfg.armTick.toNat = 0
      ∧ s.work.armTables = none)
    ∧ (∃ (m : Bool) (s : State), s.dev.responds = true ∧ s.dev.cfg.armed = none ∧ s.work.armCause m s.dev.cfg.armTick.toNat ≠ 0)
    ∧ (∃ (m : Bool) (s : State), s.dev.responds = true ∧ s.dev.cfg.armed ≠ none)
    ∧ (∃ (s : State), s.dev.responds = true ∧ s.dev.cfg.armed ≠ none ∧ s.work.cancelClosed = false)
    ∧ (∃ (s : State), s.dev.responds = true ∧ s.dev.cfg.armed ≠ none ∧ s.work.cancelClosed = true) :=
  ⟨⟨true, dev (fun d => { d with cfg := { d.cfg with armTick := 16 } }) sp, by decide +kernel⟩,
   ⟨false, dev (fun d => { d with cfg := { d.cfg with armTick := 8 } }) sp, by decide +kernel⟩,
   ⟨true, dev (fun d => { d with cfg := { d.cfg with armed := some .device } }) sp, by decide +kernel⟩,
   ⟨dev (fun d => { d with cfg := { d.cfg with armed := some .device } }) sp, by decide +kernel⟩,
   ⟨onP (fun p => { p with announced := some (belay 0 1) }) (dev (fun d => { d with cfg := { d.cfg with armed := some .machine, target := 9 } }) sp), by decide +kernel⟩⟩

/-- What each clause of ShadowWriteCompletes assumes is met. -/
theorem witness_shadow_write_completes :
    (∃ (off v : Nat) (s : State), s.dev.responds = true ∧ s.dev.cfg.armed = none ∧ off % 4 = 0 ∧ shadowed off = true
      ∧ s.dev.shadow.base (off / 8 * 8) = none)
    ∧ (∃ (v : Nat) (s : State), s.dev.responds = true ∧ s.dev.cfg.armed = none)
    ∧ (∃ (lo hi : Nat) (s : State), s.dev.responds = true ∧ s.dev.cfg.armed = none ∧ lo < 2 ^ 32 ∧ hi < 2 ^ 32)
    ∧ (∃ (off size v : Nat) (s : State), s.dev.responds = true ∧ s.dev.cfg.armed ≠ none ∧ accessOk off size = true ∧ shadowed off = true) :=
  ⟨⟨0x020004, 0x3205, s0, by decide +kernel⟩,
   ⟨7, s0, by decide +kernel⟩,
   ⟨2 ^ 32 - 1, 3, s0, by decide +kernel⟩,
   ⟨0x040014, 4, 9, dev (fun d => { d with cfg := { d.cfg with armed := some .device } }) sp, by decide +kernel⟩⟩

/-- What each clause of RegisterAccessCompletes assumes is met. -/
theorem witness_register_access_completes :
    (∃ (c r v : Nat) (s : State), s.dev.responds = true ∧ c < s.dev.ctxs.length ∧ c < 16 ∧ r < 4 ∧ (s.work.ctx c).state = .disabled)
    ∧ (∃ (v : Nat) (s : State), s.dev.responds = true)
    ∧ (∃ (v : Nat) (s : State), s.dev.responds = true)
    ∧ (∃ (off : Nat) (s : State), s.dev.responds = true ∧ off < 0x1000000 ∧ off % 4 = 0 ∧ s.dev.regIo.words = [] ∧ captured off = [])
    ∧ (∃ (s : State), s.dev.responds = true ∧ s.dev.regIo.words = []) :=
  ⟨⟨15, 3, 8, s0, by decide +kernel⟩,
   ⟨9, s0, by decide +kernel⟩,
   ⟨9, s0, by decide +kernel⟩,
   ⟨0xFFFFFC, s0, by decide +kernel⟩,
   ⟨s0, by decide +kernel⟩⟩

/-- What each clause of SelectionsComplete assumes is met. -/
theorem witness_selections_complete :
    (∃ (v : Nat) (s : State), s.dev.responds = true ∧ s.dev.pitch.run = false
      ∧ (∀ l, l ∈ s.dev.links → l.state ≠ .training ∧ l.state ≠ .up))
    ∧ (∃ (fn v : Nat) (s : State), (s.dev.pitch.run = true ∨ ∃ l, l ∈ s.dev.links ∧ (l.state = .training ∨ l.state = .up)))
    ∧ (∃ (v : W32) (s : State), s.dev.responds = true)
    ∧ (∃ (c id i : Nat) (s : State), s.dev.responds = true ∧ c < s.dev.ctxs.length) :=
  ⟨⟨5, s0, by decide +kernel⟩,
   ⟨0, 5, sp, by decide +kernel⟩,
   ⟨0, s0, by decide +kernel⟩,
   ⟨15, 1, 2, s0, by decide +kernel⟩⟩

/-- The store of tile 0, where the tests keep tables; context 0 may read and write it. -/
def tb : Nat := 0x110000000000

/-- A graph of one node without edges at `tb`, and the seed 0 after it (R74, R81). -/
def sg : State := putLe tb 16 (0x47524446 + 2 ^ 32 + 2 ^ 64) (putLe (tb + 16) 16 (1 + tb * 2 ^ 64 + 0x1000 * 2 ^ 64) s0)

/-- One uniform hop over that graph. -/
def samp : SampleParams :=
  { graph := tb, seeds := tb + 0x2000, seedCount := 1, hops := [{ method := .uniform, fanOut := 1, weights := false }], randomSeed := 1,
    step := 0, walks := 0, walkLength := 0, returnBias := 0, outBias := 0, output := tb + 0x4000, capacity := 4096, maxUnique := 4,
    scratch := sharedBase, scratchSize := 128 }

/-- That operation in flight. -/
def travOp : TravOp := { id := 3, ref := r0, params := samp, returned := [], returns := 0 }

/-- Its block (R82, R86): the seed alone. -/
def block1 : Block :=
  { Block.empty with nodes := [(0, 0)], hops := [{ HopOut.start [0] 1 with segs := [0, 0] }], seeds := 1, lookups := 2 }

/-- The sampling operation in flight, its graph in memory. -/
def st : State := dev (fun d => { d with trav := [travOp] }) sg

/-- A tensor that names no layer. -/
def tag0 : TensorTag := { tensor := 0, layer := none, grad := false, instanceNo := 0, indexBase := 0 }

/-- A table descriptor at `a` (R103): kind, class, elements, rows, base, stride. -/
def putTable (a kind cls elems rows base stride : Nat) (s : State) : State :=
  put a (leBytes 4 0x4C425446 ++ leBytes 2 1 ++ leBytes 1 kind ++ leBytes 1 0 ++ leBytes 2 0 ++ leBytes 1 cls ++ leBytes 1 0 ++ leBytes 4 elems
    ++ leBytes 8 rows ++ leBytes 8 base ++ leBytes 4 stride) s

/-- A gather of one 32-bit key. -/
def gath : GatherParams :=
  { table := tb, source := .list32, keys := tb + 0x100, count := 1, hop := 0, bf16 := false, output := .at (tb + 0x200), stride := 64, outputSize := 64,
    dropMask := tb + 0x300, maskSize := 64, spread := [], tag := tag0 }

/-- A table of four rows of four FP32 elements, and the key 2. -/
def sgt : State := putTable tb 0 0 4 4 (tb + 0x1000) 64 (putLe (tb + 0x100) 4 2 s0)

/-- That gather in flight, its position taken in. -/
def gop : GatherOp :=
  { id := 1, ref := r0, params := gath, todo := [], seen := [], masked := [], form := { fmt := .fp32, scale := 0, ref := 0 }, tally := Tally.empty }

/-- Its deduplication entry, still fetching. -/
def gent : DedupEntry :=
  { key := 2, op := 1, table := 0, first := none, invalid := false, outstanding := true, peer := false, tags := 1, tally := Tally.empty, waiting := [0] }

/-- The gather in flight with its fetch outstanding on unit 1. -/
def sgf : State := dev (fun d => { d with gathers := [gop], units := updAt d.units 1 fun _ => { sets := [(7, [gent])], localTags := 1, peerTags := 0 } }) sgt

/-- A topology of one rope of two devices (R467, R468), with link 0 up between them. -/
def sm : State :=
  dev (fun d => { d with active := { d.active with topology := tb + 0x10000 } })
    (onL 0 (fun l => { l with state := .up, peerId := 1 })
      (putLe (tb + 0x10040) 1 0x11 (put (tb + 0x10000) (leBytes 4 0x4F504F54 ++ leBytes 4 1 ++ leBytes 2 2 ++ [2, 1, 1, 1]) s0)))

/-- What each clause of SampleStarts assumes is met. -/
theorem witness_sample_starts :
    (∃ (r : StreamRef) (p : SampleParams) (s : State), (s.work.ctx r.ctx).active = true ∧ s.work.sampleFault r.ctx p = none)
    ∧ (∃ (r : StreamRef) (p : SampleParams) (s : State), (s.work.ctx r.ctx).active = true
      ∧ ((s.dev.active.quotas[r.ctx]?).getD Quota.zero).traverse = 0) :=
  ⟨⟨r0, samp, sg, by decide +kernel⟩,
   ⟨r0, samp, dev (fun d => { d with active := { d.active with quotas := [] } }) s0, by decide +kernel⟩⟩

/-- What each clause of SampleCompletes assumes is met. -/
theorem witness_sample_completes :
    (∃ (op : Nat) (o : TravOp) (b : Block) (s : State), Memory.wf s.mem = true ∧ (s.dev.trav.find? fun k => k.id == op) = some o
      ∧ ({ w := s.work, c := o.ref.ctx, p := o.params, g := parseGraph (s.work.ldN o.ref.ctx o.params.graph 128), ret := o.returned } : Trav).run = .ok b
      ∧ b.nodes.length ≤ o.params.maxUnique ∧ (b.bytes o.params s.dev.deviceNumber).length ≤ o.params.capacity
      ∧ s.work.accessFault o.ref.ctx o.params.output (b.bytes o.params s.dev.deviceNumber).length true = none)
    ∧ (∃ (op : Nat) (o : TravOp) (b : Block) (s : State), (s.dev.trav.find? fun k => k.id == op) = some o
      ∧ (s.work.ctx o.ref.ctx).enable = true ∧ (s.work.ctx o.ref.ctx).halt.valid = false
      ∧ ({ w := s.work, c := o.ref.ctx, p := o.params, g := parseGraph (s.work.ldN o.ref.ctx o.params.graph 128), ret := o.returned } : Trav).run = .ok b
      ∧ (o.params.maxUnique < b.nodes.length ∨ o.params.capacity < (b.bytes o.params s.dev.deviceNumber).length)) :=
  ⟨⟨3, travOp, block1, st, by and_intros <;> first | decide +kernel | rfl⟩,
   ⟨3, { travOp with params := { samp with capacity := 64 } }, block1, dev (fun d => { d with trav := [{ travOp with params := { samp with capacity := 64 } }] }) sg, by and_intros <;> first | decide +kernel | rfl⟩⟩

/-- What each clause of TraverseReturnCompletes assumes is met. -/
theorem witness_traverse_return_completes :
    (∃ (op a : Nat) (k : SourceKind) (bs : List Byte) (o : TravOp) (s : State), (s.dev.trav.find? fun k => k.id == op) = some o
      ∧ k ≠ .peer)
    ∧ (∃ (op a : Nat) (bs : List Byte) (o : TravOp) (s : State), (s.dev.trav.find? fun k => k.id == op) = some o)
    ∧ (∃ (op a d : Nat) (k : SourceKind) (o : TravOp) (s : State), (s.dev.trav.find? fun k => k.id == op) = some o
      ∧ (s.work.ctx o.ref.ctx).enable = true ∧ (s.work.ctx o.ref.ctx).halt.valid = false) :=
  ⟨⟨3, 0, .local_, [], travOp, st, by decide +kernel⟩,
   ⟨3, 0, [1], travOp, st, by decide +kernel⟩,
   ⟨3, 0, 7, .peer, travOp, st, by decide +kernel⟩⟩

/-- What each clause of GatherStarts assumes is met. -/
theorem witness_gather_starts :
    (∃ (r : StreamRef) (p : GatherParams) (reason d : Nat) (s : State), (s.work.ctx r.ctx).active = true
      ∧ s.work.gatherFault r.ctx p = some (reason, d))
    ∧ (∃ (r : StreamRef) (p : GatherParams) (s : State), (s.work.ctx r.ctx).active = true ∧ s.work.gatherFault r.ctx p = none
      ∧ s.work.poisonIn p.table 64 = none ∧ 8 ≤ s.dev.gathers.length)
    ∧ (∃ (r : StreamRef) (p : GatherParams) (s : State), (s.work.ctx r.ctx).active = true ∧ s.work.gatherFault r.ctx p = none
      ∧ s.work.poisonIn p.table 64 = none ∧ s.dev.gathers.length < 8)
    ∧ (∃ (r : StreamRef) (p : GatherParams) (s : State), (s.work.ctx r.ctx).active = true ∧ s.work.gatherFault r.ctx p = none
      ∧ s.work.poisonIn p.table 64 = none ∧ s.dev.gathers = [] ∧ (s.work.keyArray p.source p.keys p.count p.hop).count = 0) :=
  ⟨⟨r0, gath, 0x22, 0, s0, by decide +kernel⟩,
   ⟨r0, gath, dev (fun d => { d with gathers := List.replicate 8 gop }) sgt, by decide +kernel⟩,
   ⟨r0, gath, dev (fun d => { d with gathers := List.replicate 7 gop }) sgt, by decide +kernel⟩,
   ⟨r0, { gath with source := .nodeTable, keys := tb + 0x2000 }, putLe (tb + 0x2000) 4 0x4B4C4253 sgt, by decide +kernel⟩⟩

/-- What each clause of GatherProceeds assumes is met. -/
theorem witness_gather_proceeds :
    (∃ (op u key cls : Nat) (peer : Option PeerRow) (o : GatherOp) (e : DedupEntry) (vs : List Val) (s : State), Memory.wf s.mem = true
      ∧ u < s.dev.units.length ∧ s.work.gatherOp op = some o
      ∧ (((s.work.unit u).sets.flatMap fun x => x.2).find? fun e => e.op == op && e.key == key && e.outstanding) = some e
      ∧ s.work.fetched o.ref.ctx (s.work.table o.params.table) e.key peer = .row cls vs
      ∧ (∀ g, g ∈ s.dev.gathers → ∀ x, x ∈ g.todo → x.2 = []))
    ∧ (∃ (op : Nat) (o : GatherOp) (s : State), Memory.wf s.mem = true ∧ s.work.gatherOp op = some o ∧ s.work.fetching op = []
      ∧ (∀ g, g ∈ s.dev.gathers → ∀ x, x ∈ g.todo → x.2 = []) ∧ fmtInt o.form.fmt = false ∧ o.tally.hist.length = 16
      ∧ o.params.tag.tensor < (s.work.ctx o.ref.ctx).censusTable.2)
    ∧ (∃ (link jobTag table key req l : Nat) (s : State), (s.work.link link).state = .up ∧ s.work.tagged jobTag = none
      ∧ s.work.routeLink 2 (s.work.link link).peerId = some l) :=
  ⟨⟨1, 1, 2, 0, none, gop, gent, List.replicate 4 (f32.decode 0), sgf, by and_intros <;> first | decide +kernel | rfl⟩,
   ⟨1, gop, onC 0 (fun x => { x with job := some { job0 with censusCount := 1 } }) (dev (fun d => { d with gathers := [gop] }) sgt), by and_intros <;> first | decide +kernel | rfl⟩,
   ⟨0, 9, 0, 0, 0, 0, sm, by decide +kernel⟩⟩

/-- A SUM of one 32-bit key into rows of two FP32 elements at scale 2^0 (R132). -/
def scat : ScatterParams :=
  { kind := .sum, source := .list32, keys := tb + 0x100, count := 1, hop := 0, contrib := .at (sharedBase + 0x400), contribStride := 16, contribBf16 := false,
    elems := 2, heads := 0, dropMask := 0, target := .output 1 (.at (tb + 0x300)) false 64, exponent := .fixed 0, threshold := 256, spread := [],
    region := sharedBase, regionSize := 64, stamp := 5, argmax := 0, scores := 0, maxima := 0, denominators := 0, gradients := 0, tag := tag0 }

/-- An object of context 0 in HBM or the shared store. -/
def obj (handle home len : Nat) : ResEntry :=
  { handle := handle, home := home, newHome := 0, length := len, state := .resident, evictable := false, deferred := none, readers := 0,
    owner := 0, charged := 0, newCharged := 0, commitTick := 0, releasing := 0, relCharged := 0, host := false, descs := [], copied := false, resolvedAt := 0 }

/-- The accumulation region an object in the shared store; the key is 0. -/
def ss : State := dev (fun d => { d with residency := [obj 1 sharedBase 0x10000] }) s0

/-- That scatter in flight. -/
def scop : ScatterOp :=
  { id := 1, ref := r0, params := scat, form := { fmt := .fp32, scale := 0, ref := 0 }, exponent := 0, stamp := 5, acks := 0, splits := [],
    written := [], denoms := [], tally := Tally.empty, finalised := false }

/-- A state with one scatter in flight. -/
def withScatter (o : ScatterOp) (s : State) : State := dev (fun d => { d with scatters := [o] }) s

/-- Two devices, a job of context 0 and an update area in the shared store (R154). -/
def sarea : State :=
  onC 0 (fun x => { x with job := some job0 }) (dev (fun d => { d with residency := [obj 1 sharedBase 0x10000] })
    (putTable tb 0 0 2 4 (tb + 0x1000) 64 (put sharedBase (leBytes 4 0x41545055 ++ leBytes 4 1 ++ leBytes 4 2 ++ leBytes 4 4) sm)))

/-- A row map at `tb` of two rows (R163, R165), the first free. -/
def srm : State :=
  dev (fun d => { d with active := { d.active with rowMap := tb } })
    (putLe (tb + 44) 4 (0x00080100) (putLe (tb + 32) 8 (tb + 0x8000) (putLe tb 16 (0x504D5752 + 2 ^ 32 + 2 * 2 ^ 64) sp)))

/-- A row move list at `tb + 0x1000`: populate row 0 at HBM address 0 (R175). -/
def smv : State :=
  putLe (tb + 0x1040) 24 (0x0001 * 2 ^ 128 + 4 * 2 ^ 160) (put (tb + 0x1000) (leBytes 4 0x564F4D52 ++ leBytes 4 1 ++ leBytes 8 1 ++ leBytes 8 9 ++ leBytes 8 10) srm)

/-- A row move that has begun. -/
def move0 : RowMove :=
  { ctx := 0, index := 1, action := 0, newHome := 0, newClass := 0, managed := false, elems := 4, start := 7, commit := 9, began := true,
    copied := false, hot := false }

/-- A sparse tensor of one row at `tb` whose column indices are given (R187). -/
def putSparse (cols : List Nat) (s : State) : State :=
  put (tb + 0x800) (cols.flatMap (leBytes 4)) (putLe (tb + 0x408) 8 cols.length
    (put tb (leBytes 4 0x52534253 ++ leBytes 4 1 ++ leBytes 4 1 ++ leBytes 4 4 ++ leBytes 8 (tb + 0x400) ++ leBytes 8 (tb + 0x800)) s))

/-- The merge of that tensor with itself (R193). -/
def mrg : MergeParams := { union := false, x := tb, y := tb, pairs := none, threshold := 256, output := tb + 0xC00, capacity := 4096 }

/-- Its one work item over `n` entries. -/
def item0 (n : Nat) : MergeItem :=
  { pair := 0, first := 0, bound := n, xRow := 0, yRow := 0, xLo := 0, xHi := n, yLo := 0, yHi := n, keyLo := 0, keyHi := none, piece := false,
    valid := true, unit_ := 0 }

/-- That merge in flight. -/
def mop (n : Nat) : MergeOp := { id := 1, ref := r0, params := mrg, items := [item0 n] }

/-- A state with a merge in flight. -/
def withMerge (o : MergeOp) (s : State) : State := dev (fun d => { d with merges := [o] }) s

/-- What each clause of ScatterStarts assumes is met. -/
theorem witness_scatter_starts :
    (∃ (r : StreamRef) (p : ScatterParams) (reason d : Nat) (s : State), (s.work.ctx r.ctx).active = true
      ∧ s.work.scatterFault r.ctx p = some (reason, d))
    ∧ (∃ (r : StreamRef) (p : ScatterParams) (s : State), (s.work.ctx r.ctx).active = true ∧ s.work.scatterFault r.ctx p = none
      ∧ 8 ≤ s.dev.scatters.length)
    ∧ (∃ (r : StreamRef) (p : ScatterParams) (s : State), (s.work.ctx r.ctx).active = true ∧ s.work.scatterFault r.ctx p = none
      ∧ s.dev.scatters.length < 8)
    ∧ (∃ (r : StreamRef) (p : ScatterParams) (e : Int) (d stride key : Nat) (place : Placement) (b16 : Bool) (s : State),
      Memory.wf s.mem = true ∧ (s.work.ctx r.ctx).active = true ∧ s.work.scatterFault r.ctx p = none ∧ s.dev.scatters = []
      ∧ s.dev.lines = [] ∧ (s.work.ctx r.ctx).replay = none ∧ p.kind = .sum ∧ (p.source = .list32 ∨ p.source = .list64)
      ∧ p.target = .output d place b16 stride ∧ p.exponent = .fixed e ∧ (s.work.keyArray p.source p.keys p.count p.hop).count = 1
      ∧ s.work.keyAt r.ctx (s.work.keyArray p.source p.keys p.count p.hop) 0 = key ∧ s.work.sortKey r.ctx p d key 0 = .valid
      ∧ s.work.contribStop p 0 = none ∧ s.work.poisonIn (regionAt p key) (8 + 8 * p.elems) = none
      ∧ s.work.le (regionAt p key) 4 ≠ p.stamp % 2 ^ 32) :=
  ⟨⟨r0, { scat with elems := 0 }, 0x22, 0x100, ss, by decide +kernel⟩,
   ⟨r0, scat, dev (fun d => { d with scatters := List.replicate 8 scop }) ss, by decide +kernel⟩,
   ⟨r0, scat, dev (fun d => { d with scatters := List.replicate 7 scop }) ss, by decide +kernel⟩,
   ⟨r0, scat, 0, 1, 64, 0, .at (tb + 0x300), false, ss, by and_intros <;> first | decide +kernel | rfl⟩⟩

/-- What each clause of ScatterProceeds assumes is met. -/
theorem witness_scatter_proceeds :
    (∃ (op : Nat) (o : ScatterOp) (s : State), s.work.scatterOp op = some o ∧ o.finalised = false)
    ∧ (∃ (op d stride : Nat) (place : Placement) (b16 : Bool) (o : ScatterOp) (s : State), Memory.wf s.mem = true
      ∧ s.work.scatterOp op = some o ∧ o.finalised = false ∧ o.params.kind = .sum
      ∧ (o.params.source = .list32 ∨ o.params.source = .list64) ∧ o.params.target = .output d place b16 stride ∧ d = 1 ∧ o.written = []
      ∧ s.work.le (regionAt o.params 0) 4 = o.stamp)
    ∧ (∃ (op : Nat) (o : ScatterOp) (s : State), s.work.scatterOp op = some o ∧ o.acks ≠ 0)
    ∧ (∃ (op tbl area alpha : Nat) (o : ScatterOp) (s : State), s.work.scatterOp op = some o ∧ o.acks = 0 ∧ o.finalised = true
      ∧ o.params.target = .rowUpdate tbl area alpha)
    ∧ (∃ (op u : Nat) (o : ScatterOp) (s : State), s.work.scatterOp op = some o ∧ o.acks ≠ 0 ∧ u < 16)
    ∧ (∃ (link jobTag table area alpha row l : Nat) (e : Int) (accs : List Int) (s : State), (s.work.link link).state = .up
      ∧ s.work.tagged jobTag = none ∧ s.work.routeLink 2 (s.work.link link).peerId = some l)
    ∧ (∃ (link jobTag table area alpha row l c : Nat) (e : Int) (accs : List Int) (s : State), (s.work.link link).state = .up
      ∧ s.work.tagged jobTag = some c ∧ s.work.accessFault c table 64 false = none ∧ s.work.accessFault c area 64 true = none
      ∧ (s.work.table table).ok = true ∧ s.work.areaOk area (s.work.table table) = true ∧ (s.work.table table).elems = accs.length
      ∧ (s.work.table table).kind ≠ 3 ∧ (s.work.table table).rows ≤ row ∧ s.work.routeLink 2 (s.work.link link).peerId = some l) :=
  ⟨⟨1, scop, withScatter scop ss, by decide +kernel⟩,
   ⟨1, 1, 64, .at (tb + 0x300), false, scop, withScatter scop (putLe sharedBase 4 5 ss), by decide +kernel⟩,
   ⟨1, { scop with acks := 1 }, withScatter { scop with acks := 1 } ss, by decide +kernel⟩,
   ⟨1, tb, sharedBase, 0, { scop with finalised := true, params := { scat with target := .rowUpdate tb sharedBase 0 } }, withScatter { scop with finalised := true, params := { scat with target := .rowUpdate tb sharedBase 0 } } ss, by decide +kernel⟩,
   ⟨1, 15, { scop with acks := 1 }, withScatter { scop with acks := 1 } ss, by decide +kernel⟩,
   ⟨0, 9, 0, 0, 0, 0, 0, 0, [], sm, by decide +kernel⟩,
   ⟨0, 7, tb, sharedBase, 0, 4, 0, 0, 0, [1, 2], sarea, by decide +kernel⟩⟩

/-- What each clause of RowCommandsComplete assumes is met. -/
theorem witness_row_commands_complete :
    (∃ (r : StreamRef) (list reason d : Nat) (s : State), (s.work.ctx r.ctx).active = true
      ∧ s.work.rowMoveFault r.ctx list = some (reason, d))
    ∧ (∃ (r : StreamRef) (list : Nat) (s : State), (s.work.ctx r.ctx).active = true ∧ s.work.rowMoveFault r.ctx list = none
      ∧ s.work.le (list + 8) 4 = 1
      ∧ s.work.moveResult r.ctx (s.work.le (list + 16) 8) (s.work.le (list + 24) 8) (s.work.moveAsk list 0) = 0)
    ∧ (∃ (m : RowMove) (s : State), Memory.wf s.mem = true
      ∧ (s.dev.rowMoves.find? fun k => k.index == m.index && k.action == 0 && k.began && !k.copied) = some m
      ∧ s.work.poisonIn (s.work.rowEntry m.index).home (storedLen (s.work.rowEntry m.index).cls (s.work.rowEntry m.index).elems) = none
      ∧ (s.work.rowEntry m.index).cls = m.newClass)
    ∧ (∃ (s : State), s.work.mapBase ≠ 0 ∧ s.work.mapHeaderOk = true ∧ bitOf (s.work.le (s.work.mapBase + 45) 1) 0 = true
      ∧ s.work.le (s.work.mapBase + 46) 2 ≠ 0 ∧ s.work.tick % s.work.le (s.work.mapBase + 46) 2 = 0 ∧ s.work.popLog.1 ≠ 0) :=
  ⟨⟨r0, 1, 0x22, 1, s0, by decide +kernel⟩,
   ⟨r0, tb + 0x1000, smv, by decide +kernel⟩,
   ⟨move0, dev (fun d => { d with rowMoves := [move0] }) srm, by decide +kernel⟩,
   ⟨srm, by decide +kernel⟩⟩

/-- What each clause of MergeStarts assumes is met. -/
theorem witness_merge_starts :
    (∃ (r : StreamRef) (p : MergeParams) (reason d : Nat) (s : State), (s.work.ctx r.ctx).active = true
      ∧ s.work.mergeFault r.ctx p = some (reason, d))
    ∧ (∃ (r : StreamRef) (p : MergeParams) (s : State), (s.work.ctx r.ctx).active = true ∧ s.work.mergeFault r.ctx p = none
      ∧ 4 ≤ s.dev.merges.length)
    ∧ (∃ (r : StreamRef) (p : MergeParams) (s : State), (s.work.ctx r.ctx).active = true ∧ s.work.mergeFault r.ctx p = none
      ∧ s.dev.merges.length < 4)
    ∧ (∃ (r : StreamRef) (p : MergeParams) (s : State), (s.work.ctx r.ctx).active = true ∧ s.work.mergeFault r.ctx p = none
      ∧ s.dev.merges.length < 4 ∧ s.work.mergeFalls p = false ∧ keysBroken (s.work.mergeItems p) = false
      ∧ entryOffset (s.work.mergeItems p).length + 16 * ((s.work.mergeItems p).map fun i => i.bound).sum ≤ p.capacity) :=
  ⟨⟨r0, mrg, 0x22, 0, s0, by decide +kernel⟩,
   ⟨r0, mrg, dev (fun d => { d with merges := List.replicate 4 (mop 0) }) (putSparse [2] s0), by decide +kernel⟩,
   ⟨r0, mrg, dev (fun d => { d with merges := List.replicate 3 (mop 0) }) (putSparse [2] s0), by decide +kernel⟩,
   ⟨r0, mrg, putSparse [2] s0, by decide +kernel⟩⟩

/-- What each clause of MergeCompletes assumes is met. -/
theorem witness_merge_completes :
    (∃ (op : Nat) (o : MergeOp) (s : State), (s.dev.merges.find? fun o => o.id == op) = some o
      ∧ (o.items.any fun i => (s.work.mergeItem o.params (s.work.sparse o.params.x) (s.work.sparse o.params.y) i).broken) = true
      ∧ (s.work.ctx o.ref.ctx).enable = true ∧ (s.work.ctx o.ref.ctx).halt.valid = false)
    ∧ (∃ (op : Nat) (o : MergeOp) (s : State), (s.dev.merges.find? fun o => o.id == op) = some o
      ∧ (o.items.any fun i => (s.work.mergeItem o.params (s.work.sparse o.params.x) (s.work.sparse o.params.y) i).broken) = false)
    ∧ (∃ (op : Nat) (o : MergeOp) (i : MergeItem) (m : Merged) (s : State), Memory.wf s.mem = true
      ∧ (s.dev.merges.find? fun o => o.id == op) = some o ∧ o.items = [i]
      ∧ s.work.mergeItem o.params (s.work.sparse o.params.x) (s.work.sparse o.params.y) i = m ∧ m.broken = false ∧ m.entries = [])
    ∧ (∃ (op : Nat) (o : MergeOp) (i : MergeItem) (m : Merged) (s : State), Memory.wf s.mem = true
      ∧ (s.dev.merges.find? fun o => o.id == op) = some o ∧ o.items = [i]
      ∧ s.work.mergeItem o.params (s.work.sparse o.params.x) (s.work.sparse o.params.y) i = m ∧ m.broken = false) :=
  ⟨⟨1, mop 2, withMerge (mop 2) (putSparse [2, 1] s0), by decide +kernel⟩,
   ⟨1, mop 1, withMerge (mop 1) (putSparse [2] s0), by decide +kernel⟩,
   ⟨1, mop 0, item0 0, (putSparse [] s0).work.mergeItem mrg ((putSparse [] s0).work.sparse tb) ((putSparse [] s0).work.sparse tb) (item0 0), withMerge (mop 0) (putSparse [] s0), by decide +kernel⟩,
   ⟨1, mop 1, item0 1, { broken := false, entries := [(2, 0, 0)], range := 0, group := 0 }, withMerge (mop 1) (putSparse [2] s0), by decide +kernel⟩⟩

/-- An instruction at address 8 of tile 0. -/
def t0 : TileRef := { tile := 0, pc := 8, next := 16 }

/-- Tile 0 of context 0 running at that address, in a job with one census record at `tb`. -/
def sx : State :=
  onC 0 (fun x => { x with job := some { job0 with censusBase := tb, censusCount := 1 } }) (onT 0 (fun k => { k with run := .running, pc := 8, imageLen := 1024 }) s0)

/-- A LOAD of one column of one BF16 element (R210). -/
def ld0 : LoadParams := { fmt := .bf16, k := 1, n := 1, transposed := false, regs := [0], store := none, part := 0, scales := none }

/-- A STREAM of one BF16 row from the tile store to the tile store (R214). -/
def str0 : StreamParams :=
  { slot := 0, mode := .multiply, fmt := .bf16, rows := 1, source := .store 0 256, scales := none, target := .store 4096 256, accumulate := false,
    result := .fp32, rnd := .rne, theta := 0, bits := .none, srcLayer := none, tag := tag0 }

/-- The output form of FP32. -/
def f32form : OutForm := { fmt := .fp32, scale := 0, ref := 0 }

/-- That LOAD in the queue. -/
def mload : MatOp := .load { ref := t0, params := ld0, slot := some 1 }

/-- That STREAM, all entered, with an integer result. -/
def mstream : MatStream := { ref := t0, params := str0, entered := 1, form := { fmt := .int32, scale := 0, ref := 0 }, tally := Tally.empty }

/-- A stationary operand of one BF16 one. -/
def stat1 : Stationary := { fmt := .bf16, k := 1, n := 1, vals := [[0x3F80]], scales := [] }

/-- No mask. -/
def nomask : Masking := { mask := none, granule := .element, zero := false }

/-- A conversion from FP32 to INT8 (R235). -/
def conv0 : ConvParams := { src := .fp32, dst := .int8, rnd := .rtz, dstReg := 1, srcReg := 2, scaleReg := 0, span := 1, srcLayer := none }

/-- A tile DMA instruction of one row of 512 bytes within tile 0, its regions named (R252). -/
def dma0 : DmaParams :=
  { src := .addr tb, dst := .addr (tb + 0x10000), length := 512, count := 1, srcStride := 512, dstStride := 512,
    uses := [{ slot := 1, write := false }, { slot := 2, write := true }], peerData := .data [] }

/-- Tile 0 with the regions of that instruction set. -/
def sdma : State :=
  onT 0 (fun k => { k with regions := updAt (updAt k.regions 1 fun _ => { base := 0, length := 4096, space := 4, access := 1 }) 2 fun _ =>
    { base := 0x10000, length := 4096, space := 4, access := 2 } }) sx

/-- That instruction in progress, its request issued. -/
def dop : DmaOp := { ref := t0, params := dma0, src := tb, dst := tb + 0x10000, peer := false, issued := 1, completed := 0, draw := 0 }

/-- What each clause of LoadsComplete assumes is met. -/
theorem witness_loads_complete :
    (∃ (t : TileRef) (p : LoadParams) (c r : Nat) (s : State), s.work.executing t = some c ∧ t.pc < (s.work.tile t.tile).imageLen
      ∧ loadBad p = some r)
    ∧ (∃ (t : TileRef) (p : LoadParams) (c : Nat) (s : State), s.work.executing t = some c ∧ t.pc < (s.work.tile t.tile).imageLen
      ∧ loadBad p = none ∧ loadStoreFault p = none ∧ 4 ≤ (s.work.tile t.tile).mat.length)
    ∧ (∃ (t : TileRef) (p : LoadParams) (c : Nat) (s : State), s.work.executing t = some c ∧ t.pc < (s.work.tile t.tile).imageLen
      ∧ t.tile < s.dev.tiles.length ∧ loadBad p = none ∧ loadStoreFault p = none ∧ (s.work.tile t.tile).mat = [])
    ∧ (∃ (n slot : Nat) (l : MatLoad) (s : State), n < s.dev.tiles.length ∧ (s.work.tile n).mat = [.load l] ∧ l.slot = some slot) :=
  ⟨⟨t0, { ld0 with k := 0 }, 0, 0, sx, by decide +kernel⟩,
   ⟨t0, ld0, 0, onT 0 (fun k => { k with mat := List.replicate 4 mload }) sx, by decide +kernel⟩,
   ⟨t0, ld0, 0, sx, by decide +kernel⟩,
   ⟨0, 1, { ref := t0, params := ld0, slot := some 1 }, onT 0 (fun k => { k with mat := [mload] }) sx, by decide +kernel⟩⟩

/-- What each clause of StreamsComplete assumes is met. -/
theorem witness_streams_complete :
    (∃ (t : TileRef) (p : StreamParams) (form : OutForm) (c : Nat) (s : State), s.work.executing t = some c
      ∧ t.pc < (s.work.tile t.tile).imageLen ∧ s.work.outForm c p.result p.tag = some form ∧ streamBad p form.fmt = true)
    ∧ (∃ (t : TileRef) (p : StreamParams) (form : OutForm) (c : Nat) (s : State), s.work.executing t = some c
      ∧ t.pc < (s.work.tile t.tile).imageLen ∧ s.work.outForm c p.result p.tag = some form ∧ streamBad p form.fmt = false
      ∧ 4 ≤ (s.work.tile t.tile).mat.length)
    ∧ (∃ (t : TileRef) (p : StreamParams) (form : OutForm) (x : Stationary) (b st b' st' c : Nat) (g : Int) (s : State),
      Memory.wf s.mem = true ∧ s.work.executing t = some c ∧ t.pc < (s.work.tile t.tile).imageLen ∧ t.tile < s.dev.tiles.length
      ∧ s.work.outForm c p.result p.tag = some form ∧ streamBad p form.fmt = false ∧ (s.work.tile t.tile).mat = []
      ∧ (s.work.tile t.tile).slots[p.slot]? = some (some x) ∧ x.n = 1 ∧ p.rows = 1 ∧ p.source = .store b st ∧ p.target = .store b' st'
      ∧ p.accumulate = false ∧ p.bits = .none
      ∧ s.work.streamStart t.tile { ref := t, params := p, entered := 0, form := form, tally := Tally.empty } x = none
      ∧ s.work.poisonIn (tileStoreAddr t.tile b) (streamRowLen p.fmt) = none ∧ s.work.readScale c p.srcLayer = some g)
    ∧ (∃ (n c : Nat) (k : MatStream) (s : State), n < s.dev.tiles.length ∧ (s.work.tile n).mat = [.stream k] ∧ k.entered = k.params.rows
      ∧ s.work.owner n = some c ∧ fmtInt k.form.fmt = true) :=
  ⟨⟨t0, { str0 with rows := 0 }, f32form, 0, sx, by decide +kernel⟩,
   ⟨t0, str0, f32form, 0, onT 0 (fun k => { k with mat := List.replicate 4 mload }) sx, by decide +kernel⟩,
   ⟨t0, str0, f32form, stat1, 0, 256, 4096, 256, 0, 0, onT 0 (fun k => { k with slots := [some stat1, none] }) sx, by decide +kernel⟩,
   ⟨0, 0, mstream, onT 0 (fun k => { k with mat := [.stream mstream] }) sx, by decide +kernel⟩⟩

/-- What each clause of VectorElementsComplete assumes is met. -/
theorem witness_vector_elements_complete :
    (∃ (t : TileRef) (op : FOp) (f : Fmt) (rnd : Rnd) (span dst c : Nat) (x y z : VSrc) (m : Masking) (tag : TensorTag) (form : OutForm) (s : State),
      Memory.wf s.mem = true ∧ s.work.takes t c ∧ (s.work.tile t.tile).vecQueue < 8 ∧ arithFmt f = true ∧ rnd ≠ .rtz
      ∧ s.work.outForm c f tag = some form ∧ fmtInt form.fmt = false ∧ fmtBits form.fmt % 8 = 0 ∧ s.work.censusBelow c tag
      ∧ spanBad span (([x, y, z].take (fpArity op)).flatMap srcReg) m = none
      ∧ pastRegs dst (outSpan (fmtBits f) (fmtBits form.fmt) span) = false
      ∧ s.work.vecHeld t.tile ((dst, outSpan (fmtBits f) (fmtBits form.fmt) span) :: (([x, y, z].take (fpArity op)).flatMap srcReg).map fun r => (r, span)) (maskOf m) = false)
    ∧ (∃ (t : TileRef) (op : TOp) (f : Fmt) (span dst c : Nat) (x : VSrc) (m : Masking) (tag : TensorTag) (form : OutForm) (s : State),
      Memory.wf s.mem = true ∧ s.work.takes t c ∧ (s.work.tile t.tile).vecQueue < 8 ∧ arithFmt f = true
      ∧ s.work.outForm c f tag = some form ∧ fmtInt form.fmt = false ∧ fmtBits form.fmt % 8 = 0 ∧ s.work.censusBelow c tag
      ∧ spanBad span (srcReg x) m = none ∧ pastRegs dst (outSpan (fmtBits f) (fmtBits form.fmt) span) = false
      ∧ s.work.vecHeld t.tile ((dst, outSpan (fmtBits f) (fmtBits form.fmt) span) :: (srcReg x).map fun r => (r, span)) (maskOf m) = false)
    ∧ (∃ (t : TileRef) (op : IOp) (f : Fmt) (span dst c : Nat) (x y : VSrc) (m : Masking) (s : State), Memory.wf s.mem = true
      ∧ s.work.takes t c ∧ (s.work.tile t.tile).vecQueue < 8 ∧ (f = .int8 ∨ f = .int16 ∨ f = .int32)
      ∧ spanBad span (dst :: srcReg x ++ srcReg y) m = none
      ∧ s.work.vecHeld t.tile ((dst :: srcReg x ++ srcReg y).map fun r => (r, span)) (maskOf m) = false)
    ∧ (∃ (t : TileRef) (f : Fmt) (span dst c k : Nat) (x y : VSrc) (g : Granule) (s : State), Memory.wf s.mem = true ∧ s.work.takes t c
      ∧ (s.work.tile t.tile).vecQueue < 8 ∧ fmtMx f = false ∧ f ≠ .int64
      ∧ spanBad span (dst :: srcReg x ++ srcReg y) { mask := some k, granule := g, zero := false } = none
      ∧ s.work.vecHeld t.tile ((dst :: srcReg x ++ srcReg y).map fun r => (r, span)) [k] = false) :=
  ⟨⟨t0, .fma, .bf16, .sr, 2, 30, 0, .v 0, .v 30, .g 5, nomask, tag0, { f32form with fmt := .bf16 }, sx, by unfold Work.takes Work.censusBelow; decide +kernel⟩,
   ⟨t0, .exp, .fp32, 8, 24, 0, .v 24, nomask, tag0, f32form, sx, by unfold Work.takes Work.censusBelow; decide +kernel⟩,
   ⟨t0, .add, .int8, 8, 24, 0, .v 0, .g 31, { mask := some 7, granule := .lane, zero := true }, sx, by unfold Work.takes; decide +kernel⟩,
   ⟨t0, .fp32, 1, 0, 0, 7, .v 31, .g 0, .element, sx, by unfold Work.takes; decide +kernel⟩⟩

/-- What each clause of VectorMasksComplete assumes is met. -/
theorem witness_vector_masks_complete :
    (∃ (t : TileRef) (op : COp) (f : Fmt) (dst c : Nat) (x y : VSrc) (m : Masking) (s : State), s.work.takes t c
      ∧ (s.work.tile t.tile).vecQueue < 8 ∧ spanBad 1 (srcReg x ++ srcReg y) m = none ∧ fmtMx f = false ∧ f ≠ .int64 ∧ dst < 8
      ∧ (fmtBits f < 32 → m.granule = .element)
      ∧ s.work.vecHeld t.tile ((srcReg x ++ srcReg y).map fun r => (r, 1)) (dst :: maskOf m) = false)
    ∧ (∃ (t : TileRef) (op : MaskOp) (dst c : Nat) (v : BitVec 4096) (s : State), s.work.takes t c
      ∧ ((maskFoot op dst).any fun m => decide (8 ≤ m)) = false ∧ s.work.vecHeld t.tile [] (maskFoot op dst) = false
      ∧ s.work.maskGives t.tile op dst v)
    ∧ (∃ (t : TileRef) (piece g dst c : Nat) (s : State), s.work.takes t c ∧ dst < 8 ∧ piece < 64
      ∧ s.work.vecHeld t.tile [] [dst] = false)
    ∧ (∃ (t : TileRef) (a dst c : Nat) (s : State), Memory.wf s.mem = true ∧ s.work.takes t c ∧ dst < 8 ∧ storeFault a 512 = none
      ∧ s.work.vecHeld t.tile [] [dst] = false)
    ∧ (∃ (t : TileRef) (op : MaskQ) (m g c : Nat) (s : State), s.work.takes t c ∧ m < 8 ∧ s.work.vecHeld t.tile [] [m] = false) :=
  ⟨⟨t0, .lt, .fp16, 7, 0, .v 31, .g 0, nomask, sx, by unfold Work.takes; decide +kernel⟩,
   ⟨t0, .setAll, 7, 0, BitVec.allOnes 4096, sx, by unfold Work.takes; and_intros <;> first | decide +kernel | rfl⟩,
   ⟨t0, 63, 31, 7, 0, sx, by unfold Work.takes; decide +kernel⟩,
   ⟨t0, tileStoreSize - 512, 7, 0, sx, by unfold Work.takes; decide +kernel⟩,
   ⟨t0, .count, 7, 31, 0, sx, by unfold Work.takes; decide +kernel⟩⟩

/-- What each clause of VectorPlacesComplete assumes is met. -/
theorem witness_vector_places_complete :
    (∃ (t : TileRef) (width v e g c : Nat) (s : State), s.work.takes t c ∧ v < 32 ∧ (width = 8 ∨ width = 16 ∨ width = 32)
      ∧ e < regElems width ∧ s.work.vecHeld t.tile [(v, 1)] [] = false)
    ∧ (∃ (t : TileRef) (width v e g c : Nat) (s : State), Memory.wf s.mem = true ∧ s.work.takes t c ∧ v < 32
      ∧ (width = 8 ∨ width = 16 ∨ width = 32) ∧ e < regElems width ∧ s.work.vecHeld t.tile [(v, 1)] [] = false)
    ∧ (∃ (n : Nat) (s : State), n < s.dev.tiles.length) :=
  ⟨⟨t0, 8, 31, 16383, 31, 0, sx, by unfold Work.takes; decide +kernel⟩,
   ⟨t0, 32, 31, 4095, 31, 0, sx, by unfold Work.takes; decide +kernel⟩,
   ⟨63, sx, by decide +kernel⟩⟩

/-- What each clause of VectorMovesComplete assumes is met. -/
theorem witness_vector_moves_complete :
    (∃ (t : TileRef) (p : VLsParams) (base stride c : Nat) (s : State), Memory.wf s.mem = true ∧ s.work.takes t c
      ∧ (s.work.tile t.tile).vecQueue < 8 ∧ p.place = .store base stride ∧ p.rows = 1 ∧ 0 < p.rowBytes ∧ p.rowBytes ≤ vregSize
      ∧ p.reg < 32 ∧ stride % 16 = 0 ∧ storeFault base p.rowBytes = none
      ∧ (p.store = false → s.work.vecPoison t.tile base p.rowBytes = none)
      ∧ s.work.heldByArray t.tile { Foot.none with regs := [(p.reg, 1)], store := [(base, p.rowBytes)] } = false)
    ∧ (∃ (t : TileRef) (p : VGsParams) (off n c : Nat) (s : State), Memory.wf s.mem = true ∧ s.work.takes t c
      ∧ (s.work.tile t.tile).vecQueue < 8 ∧ p.count = 1 ∧ p.reg < 32 ∧ p.indexReg < 32 ∧ n = (if p.wide then 4 else 2)
      ∧ off = p.base + s.work.elemAt (vregAt t.tile p.indexReg 0) 32 0 ∧ storeFault off n = none
      ∧ (p.scatter = false → s.work.vecPoison t.tile off n = none)
      ∧ s.work.heldByArray t.tile { Foot.none with regs := [(p.reg, 1), (p.indexReg, 1)], store := [(off, n)] } = false)
    ∧ (∃ (t : TileRef) (op : ShuffleOp) (f : Fmt) (span dst src c : Nat) (m : Masking) (index : List (Nat × Nat)) (s : State),
      Memory.wf s.mem = true ∧ s.work.takes t c ∧ (s.work.tile t.tile).vecQueue < 8 ∧ fmtMx f = false ∧ f ≠ .int64
      ∧ index = (match op with | .shuffle x => [(x, ceilDiv (span * regElems (fmtBits f)) 4096)] | _ => [])
      ∧ spanBad span [dst, src] m = none ∧ (∀ x, x ∈ index → pastRegs x.1 x.2 = false)
      ∧ s.work.vecHeld t.tile ((dst, span) :: (src, span) :: index) (maskOf m) = false) :=
  ⟨⟨t0, { store := false, reg := 31, rows := 1, rowBytes := 16384, place := .store 0 16 }, 0, 16, 0, sx, by unfold Work.takes; decide +kernel⟩,
   ⟨t0, { scatter := false, wide := false, reg := 31, indexReg := 0, base := tileStoreSize - 2, count := 1 }, tileStoreSize - 2, 2, 0, sx, by unfold Work.takes; decide +kernel⟩,
   ⟨t0, .shuffle 30, .bf16, 1, 29, 28, 0, nomask, [(30, 2)], sx, by unfold Work.takes; decide +kernel⟩⟩

/-- What each clause of VectorSumsComplete assumes is met. -/
theorem witness_vector_sums_complete :
    (∃ (t : TileRef) (p : ConvParams) (m : Masking) (tag : TensorTag) (form : OutForm) (g : Int) (c : Nat) (s : State),
      Memory.wf s.mem = true ∧ s.work.takes t c ∧ (s.work.tile t.tile).vecQueue < 8 ∧ s.work.outForm c p.dst tag = some form
      ∧ s.work.readScale c p.srcLayer = some g ∧ (form.fmt = .int8 ∨ form.fmt = .int32) ∧ fmtBits p.src % 8 = 0
      ∧ convBad p form.fmt m = none
      ∧ s.work.vecHeld t.tile ((p.dstReg, outSpan (fmtBits p.src) (fmtBits form.fmt) p.span) :: (p.srcReg, p.span) :: (if fmtMx p.src then [(p.scaleReg, 1)] else [])) (maskOf m) = false)
    ∧ (∃ (t : TileRef) (op : ROp) (f : Fmt) (r src span c : Nat) (m : Masking) (tag : TensorTag) (form : OutForm) (s : State),
      s.work.takes t c ∧ (s.work.tile t.tile).vecQueue < 8 ∧ (op = .sum ∨ op = .max ∨ op = .min) ∧ arithFmt f = true
      ∧ s.work.outForm c (if op = .sum then .fp32 else f) tag = some form
      ∧ (tag.tensor < (s.work.ctx c).censusTable.2 ∨ fmtInt form.fmt = true) ∧ spanBad span [src] m = none ∧ r < 32
      ∧ s.work.vecHeld t.tile [(src, span)] (maskOf m) = false)
    ∧ (∃ (t : TileRef) (f : Fmt) (r src span c k : Nat) (m : Masking) (tag : TensorTag) (form : OutForm) (s : State), s.work.takes t c
      ∧ (s.work.tile t.tile).vecQueue < 8 ∧ s.work.outForm c .int32 tag = some form
      ∧ (tag.tensor < (s.work.ctx c).censusTable.2 ∨ fmtInt form.fmt = true) ∧ m.mask = some k ∧ spanBad span [] m = none ∧ r < 32
      ∧ s.work.vecHeld t.tile [] [k] = false)
    ∧ (∃ (t : TileRef) (f : Fmt) (e : Int) (r src span c : Nat) (m : Masking) (tag : TensorTag) (form : OutForm) (s : State),
      s.work.takes t c ∧ (s.work.tile t.tile).vecQueue < 8 ∧ arithFmt f = true ∧ -128 ≤ e ∧ e ≤ 127
      ∧ s.work.outForm c .fp32 tag = some form ∧ (tag.tensor < (s.work.ctx c).censusTable.2 ∨ fmtInt form.fmt = true)
      ∧ spanBad span [src] m = none ∧ r < 32 ∧ s.work.vecHeld t.tile [(src, span)] (maskOf m) = false) :=
  ⟨⟨t0, conv0, nomask, tag0, { f32form with fmt := .int8 }, 0, 0, sx, by unfold Work.takes; decide +kernel⟩,
   ⟨t0, .sum, .bf16, 31, 24, 8, 0, nomask, tag0, f32form, sx, by unfold Work.takes; decide +kernel⟩,
   ⟨t0, .fp32, 31, 0, 8, 0, 7, { nomask with mask := some 7 }, tag0, { f32form with fmt := .int32 }, sx, by unfold Work.takes; decide +kernel⟩,
   ⟨t0, .fp32, -128, 31, 24, 8, 0, nomask, tag0, f32form, sx, by unfold Work.takes; decide +kernel⟩⟩

/-- What each clause of UpdateRemCompletes assumes is met. -/
theorem witness_update_rem_completes :
    ∃ (t : TileRef) (h wr rr ur c : Nat) (m : Masking) (tag : TensorTag) (form : OutForm) (s : State), Memory.wf s.mem = true
      ∧ s.work.takes t c ∧ (s.work.tile t.tile).vecQueue < 8 ∧ s.work.outForm c .bf16 tag = some form ∧ s.work.censusBelow c tag
      ∧ spanBad 1 [wr, rr, ur] m = none ∧ h < 2 ∧ (m.mask.isSome = true → m.granule = .element) ∧ wr ≠ rr
      ∧ s.work.vecHeld t.tile [(wr, 1), (rr, 1), (ur, 1)] (maskOf m) = false :=
  ⟨t0, 1, 29, 30, 31, 0, nomask, tag0, { f32form with fmt := .bf16 }, sx, by unfold Work.takes Work.censusBelow; decide +kernel⟩

/-- What each clause of ScalarArithmeticCompletes assumes is met. -/
theorem witness_scalar_arithmetic_completes :
    (∃ (t : TileRef) (rd c : Nat) (v : W64) (s : State), s.work.takes t c)
    ∧ (∃ (t : TileRef) (op : IOp) (rd ra rb c : Nat) (s : State), s.work.takes t c)
    ∧ (∃ (t : TileRef) (rd ra rb c : Nat) (s : State), s.work.takes t c ∧ (s.work.tile t.tile).greg rb = 0)
    ∧ (∃ (t : TileRef) (rd ra rb c : Nat) (a b : W64) (s : State), s.work.takes t c ∧ (s.work.tile t.tile).greg ra = a
      ∧ (s.work.tile t.tile).greg rb = b ∧ b ≠ 0)
    ∧ (∃ (t : TileRef) (op : FOp) (rd ra rb rc c : Nat) (s : State), s.work.takes t c)
    ∧ (∃ (t : TileRef) (op : TOp) (rd ra c : Nat) (s : State), s.work.takes t c) :=
  ⟨⟨t0, 31, 0, 5, sx, by unfold Work.takes; decide +kernel⟩,
   ⟨t0, .shl, 31, 1, 2, 0, sx, by unfold Work.takes; decide +kernel⟩,
   ⟨t0, 31, 1, 0, 0, sx, by unfold Work.takes; decide +kernel⟩,
   ⟨t0, 31, 1, 2, 0, 0, 3, onT 0 (fun k => k.setG 2 3) sx, by unfold Work.takes; decide +kernel⟩,
   ⟨t0, .sqrt, 31, 1, 2, 3, 0, sx, by unfold Work.takes; decide +kernel⟩,
   ⟨t0, .exp, 31, 1, 0, sx, by unfold Work.takes; decide +kernel⟩⟩

/-- What each clause of ScalarControlCompletes assumes is met. -/
theorem witness_scalar_control_completes :
    (∃ (t : TileRef) (op : BrOp) (ra rb target c : Nat) (s : State), s.work.takes t c)
    ∧ (∃ (t : TileRef) (rd target c : Nat) (s : State), s.work.takes t c)
    ∧ (∃ (t : TileRef) (ra c : Nat) (s : State), s.work.takes t c)
    ∧ (∃ (t : TileRef) (rd c : Nat) (s : State), s.work.takes t c)
    ∧ (∃ (t : TileRef) (n base slot slots b z m c : Nat) (s : State), s.work.takes t c ∧ n < 4
      ∧ ((s.work.tile t.tile).greg base).toNat = b ∧ ((s.work.tile t.tile).greg slot).toNat = z
      ∧ ((s.work.tile t.tile).greg slots).toNat = m ∧ b % 64 = 0 ∧ z % 64 = 0 ∧ 64 ≤ z ∧ z ≤ 4096 ∧ 1 ≤ m ∧ m ≤ 65536
      ∧ b + z * m ≤ tileStoreSize)
    ∧ (∃ (t : TileRef) (c : Nat) (s : State), s.work.takes t c)
    ∧ (∃ (t : TileRef) (op : ScalarOp) (c : Nat) (s : State), s.work.executing t = some c ∧ (s.work.tile t.tile).imageLen ≤ t.pc) :=
  ⟨⟨t0, .eq, 1, 2, 64, 0, sx, by unfold Work.takes; decide +kernel⟩,
   ⟨t0, 31, 64, 0, sx, by unfold Work.takes; decide +kernel⟩,
   ⟨t0, 1, 0, sx, by unfold Work.takes; decide +kernel⟩,
   ⟨t0, 1, 0, sx, by unfold Work.takes; decide +kernel⟩,
   ⟨t0, 3, 1, 2, 3, 0, 64, 65536, 0, onT 0 (fun k => (k.setG 2 64).setG 3 65536) sx, by unfold Work.takes; decide +kernel⟩,
   ⟨t0, 0, sx, by unfold Work.takes; decide +kernel⟩,
   ⟨t0, .illegal, 0, onT 0 (fun k => { k with imageLen := 8 }) sx, by decide +kernel⟩⟩

/-- What each clause of LoopsComplete assumes is met. -/
theorem witness_loops_complete :
    (∃ (t : TileRef) (n : LoopCount) (v last after c : Nat) (s : State), s.work.takes t c ∧ (s.work.tile t.tile).loopCount n = some v
      ∧ (last ≤ t.pc ∨ (s.work.tile t.tile).imageLen ≤ last))
    ∧ (∃ (t : TileRef) (n : LoopCount) (last after c : Nat) (s : State), s.work.takes t c ∧ (s.work.tile t.tile).loopCount n = some 0
      ∧ t.pc < last ∧ last < (s.work.tile t.tile).imageLen)
    ∧ (∃ (t : TileRef) (n : LoopCount) (v last after c : Nat) (s : State), s.work.takes t c ∧ (s.work.tile t.tile).loopCount n = some v
      ∧ 1 ≤ v ∧ t.pc < last ∧ last < (s.work.tile t.tile).imageLen ∧ 4 ≤ (s.work.tile t.tile).loops.length)
    ∧ (∃ (t : TileRef) (n : LoopCount) (v last after c : Nat) (s : State), s.work.takes t c ∧ (s.work.tile t.tile).loopCount n = some v
      ∧ 1 ≤ v ∧ t.pc < last ∧ last < (s.work.tile t.tile).imageLen ∧ (s.work.tile t.tile).loops.length < 4)
    ∧ (∃ (t : TileRef) (g level c : Nat) (s : State), s.work.takes t c) :=
  ⟨⟨t0, .imm 3, 3, 8, 0, 0, sx, by unfold Work.takes; decide +kernel⟩,
   ⟨t0, .imm 0, 16, 24, 0, sx, by unfold Work.takes; decide +kernel⟩,
   ⟨t0, .imm 1, 1, 16, 24, 0, onT 0 (fun k => { k with loops := List.replicate 4 { first := 0, last := 24, remaining := 1, iteration := 0 } }) sx, by unfold Work.takes; decide +kernel⟩,
   ⟨t0, .imm 1, 1, 1023, 24, 0, onT 0 (fun k => { k with loops := List.replicate 3 { first := 0, last := 24, remaining := 1, iteration := 0 } }) sx, by unfold Work.takes; decide +kernel⟩,
   ⟨t0, 31, 3, 0, sx, by unfold Work.takes; decide +kernel⟩⟩

/-- What each clause of TileProgramEnds assumes is met. -/
theorem witness_tile_program_ends :
    (∃ (t : TileRef) (p : DmemParams) (c : Nat) (s : State), s.work.takes t c ∧ (p.size = 1 ∨ p.size = 2 ∨ p.size = 4 ∨ p.size = 8)
      ∧ (p.addr % p.size ≠ 0 ∨ 131072 < p.addr + p.size))
    ∧ (∃ (t : TileRef) (p : DmemParams) (c : Nat) (s : State), Memory.wf s.mem = true ∧ s.work.takes t c
      ∧ (p.size = 1 ∨ p.size = 2 ∨ p.size = 4 ∨ p.size = 8) ∧ p.addr % p.size = 0 ∧ p.addr + p.size ≤ 131072 ∧ p.store = true)
    ∧ (∃ (t : TileRef) (p : DmemParams) (c : Nat) (s : State), s.work.takes t c ∧ (p.size = 1 ∨ p.size = 2 ∨ p.size = 4 ∨ p.size = 8)
      ∧ p.addr % p.size = 0 ∧ p.addr + p.size ≤ 131072 ∧ p.store = false ∧ (s.work.tile t.tile).dmaWrites p.addr p.size = true)
    ∧ (∃ (t : TileRef) (p : DmemParams) (c : Nat) (s : State), s.work.takes t c ∧ (p.size = 1 ∨ p.size = 2 ∨ p.size = 4 ∨ p.size = 8)
      ∧ p.addr % p.size = 0 ∧ p.addr + p.size ≤ 131072 ∧ p.store = false ∧ (s.work.tile t.tile).dmaWrites p.addr p.size = false)
    ∧ (∃ (t : TileRef) (c : Nat) (s : State), s.work.takes t c ∧ (s.work.ctx c).urgent = false ∧ (s.work.tile t.tile).drained = false)
    ∧ (∃ (t : TileRef) (c : Nat) (s : State), s.work.takes t c ∧ (s.work.ctx c).urgent = false ∧ (s.work.tile t.tile).drained = true)
    ∧ (∃ (t : TileRef) (c : Nat) (s : State), s.work.takes t c ∧ (s.work.ctx c).urgent = true)
    ∧ (∃ (t : TileRef) (c : Nat) (s : State), s.work.takes t c)
    ∧ (∃ (t : TileRef) (operand c : Nat) (s : State), s.work.takes t c) :=
  ⟨⟨t0, { store := true, reg := 1, addr := 131068, size := 8, signed := false }, 0, sx, by unfold Work.takes; decide +kernel⟩,
   ⟨t0, { store := true, reg := 1, addr := 131064, size := 8, signed := false }, 0, sx, by unfold Work.takes; decide +kernel⟩,
   ⟨t0, { store := false, reg := 1, addr := 131064, size := 8, signed := false }, 0, onT 0 (fun k => { k with dma := [{ dop with params := { dma0 with dst := .dataMem 130560 } }] }) sx, by unfold Work.takes; decide +kernel⟩,
   ⟨t0, { store := false, reg := 1, addr := 0, size := 1, signed := true }, 0, sx, by unfold Work.takes; decide +kernel⟩,
   ⟨t0, 0, onT 0 (fun k => { k with mat := [mload] }) sx, by unfold Work.takes; decide +kernel⟩,
   ⟨t0, 0, sx, by unfold Work.takes; decide +kernel⟩,
   ⟨t0, 0, onC 0 (fun x => { x with urgent := true }) sx, by unfold Work.takes; decide +kernel⟩,
   ⟨t0, 0, sx, by unfold Work.takes; decide +kernel⟩,
   ⟨t0, 65535, 0, sx, by unfold Work.takes; decide +kernel⟩⟩

/-- What each clause of TileDmaCompletes assumes is met. -/
theorem witness_tile_dma_completes :
    (∃ (t : TileRef) (p : DmaParams) (c : Nat) (s : State), s.work.takes t c
      ∧ (dmaBad p = true ∨ (s.work.tile t.tile).ringBad p p.src false = true ∨ (s.work.tile t.tile).ringBad p p.dst true = true))
    ∧ (∃ (t : TileRef) (p : DmaParams) (c r d : Nat) (s : State), s.work.takes t c ∧ dmaBad p = false ∧ dmaRings p = []
      ∧ s.work.resolveAll c (some t.tile) (s.work.tile t.tile).regions p.uses = .error (r, d))
    ∧ (∃ (t : TileRef) (p : DmaParams) (rs : List Resolved) (c src dst n : Nat) (s : State), s.work.takes t c ∧ dmaBad p = false
      ∧ dmaRings p = [] ∧ (s.work.tile t.tile).dma = [] ∧ (s.work.tile t.tile).mat = []
      ∧ s.work.resolveAll c (some t.tile) (s.work.tile t.tile).regions p.uses = .ok rs
      ∧ s.work.dmaSide c t.tile rs p p.src p.srcStride false = .ok (src, false)
      ∧ s.work.dmaSide c t.tile rs p p.dst p.dstStride true = .ok (dst, false) ∧ s.work.dmaSourceFault c p src = .ok n)
    ∧ (∃ (n c i b m key : Nat) (o : DmaOp) (s : State), Memory.wf s.mem = true ∧ n < s.dev.tiles.length ∧ s.work.owner n = some c
      ∧ (s.work.tile n).dma = [o] ∧ dmaRings o.params = [] ∧ o.peer = false ∧ o.completed < o.issued ∧ o.issued ≤ o.total
      ∧ o.params.length ≤ o.params.dstStride ∧ o.completed / o.perRow = i ∧ o.completed % o.perRow * 512 = b
      ∧ min 512 (o.params.length - b) = m ∧ o.dst + i * o.params.dstStride + b = key
      ∧ s.work.poisonIn (o.src + i * o.params.srcStride + b) m = none) :=
  ⟨⟨t0, { dma0 with length := 0 }, 0, sx, by unfold Work.takes; decide +kernel⟩,
   ⟨t0, dma0, 0, 0x26, 1, sx, by unfold Work.takes; and_intros <;> first | decide +kernel | rfl⟩,
   ⟨t0, dma0, [{ lo := tb, len := 4096, write := false, handle := none, ring := none }, { lo := tb + 0x10000, len := 4096, write := true, handle := none, ring := none }], 0, tb, tb + 0x10000, 0, sdma, by unfold Work.takes; and_intros <;> first | decide +kernel | rfl⟩,
   ⟨0, 0, 0, 0, 512, tb + 0x10000, dop, onT 0 (fun k => { k with dma := [dop] }) sx, by decide +kernel⟩⟩

/-- What a check gave, where it gave something. -/
def got {ε α : Type} (d : α) : Except ε α → α
  | .ok x => x
  | .error _ => d

/-- A check that gave something gave that. -/
theorem ok_got {ε α : Type} {d : α} {e : Except ε α} (h : e.isOk = true) : e = .ok (got d e) := by
  cases e with
  | ok x => rfl
  | error y => cases h

/-- An engine stream of two commands, both within the pitch (R386, R394). -/
def es0 : EStream :=
  { number := 0, section_ := 0, engine := 1, queue := 0, count := 2, bounds := [2], issuable := 2, next := 0, lastQ := 0, doneCycle := 0,
    regions := List.replicate 64 Region.none }

/-- A running job with that stream, whose pitch takes the keys 0 to 99. -/
def job1 : Job := { job0 with keyBases := [0, 100], streams := [es0], queues := 1, censusBase := tb, censusCount := 1 }

/-- Tile 0 at an instruction of that job. -/
def sj : State := onC 0 (fun x => { x with job := some job1 }) sx

/-- A region of tile 0's store. -/
def reg0 : Region := { base := 0, length := 64, space := 4, access := 3 }

/-- A command of tile 0. -/
def cmdT : CmdDesc :=
  { from_ := .tile t0, engine := 7, q := 0, uses := [{ slot := 0, write := false }], later := 0, chain := false, namesTile := [], namesLinks := [],
    namesPorts := [], namesGather := [], heads := [] }

/-- A command of stream 0. -/
def cmdS : CmdDesc := { cmdT with from_ := .stream r0, engine := 1, uses := [] }

/-- A command in the scoreboard. -/
def inflight : Cmd := { id := 1, desc := cmdT, step := 0, regions := [], started := true, dueTick := 0 }

/-- A fence of stream 0 over the device at key 5. -/
def fence0 : Fence := { id := 2, from_ := .stream r0, tick := 0, step := 0, q := 5, scope := .device, regions := [] }

/-- Tile 0 with that region in slot 0. -/
def sreg : State := onT 0 (fun k => { k with regions := updAt k.regions 0 fun _ => reg0 }) sj

/-- Rows of tile 0's store that stand 4096 bytes apart from `n` on. -/
def rows0 (n : Nat) : TileSrc := .store (4096 * n) 4096

/-- Spherical harmonics of degree 1 at two displacements (R270). -/
def gsh0 : GshParams :=
  { disp := rows0 1, count := 2, degree := 1, orthonormal := true, bf16 := false, out := rows0 16, gradIn := rows0 32, vec := rows0 48, tag := tag0 }

/-- Two Bessel functions within a cutoff of 2 (R272). -/
def grad0 : GradialParams :=
  { disp := rows0 1, count := 2, family := .bessel, env := .none, n := 2, rc := 0x40000000, gamma := 0, bf16 := false, out := rows0 16, gradIn := rows0 32,
    tag := tag0 }

/-- One path of one channel over one edge (R274). -/
def gcp0 : GcoupleParams :=
  { paths := 0x800, pathCount := 1, edges := 1, bf16In := false, x := rows0 1, xLen := 1, y := rows0 2, yLen := 1, w := rows0 3, wLen := 1, out := rows0 4,
    outLen := 1, bf16Out := false, gX := rows0 5, gY := rows0 6, gW := rows0 7, tag := tag0, tagY := tag0, tagW := tag0 }

/-- Its path table in tile 0's store. -/
def sg1 : State := putLe (tb + 0x80C) 2 1 sj

/-- A cubic cell of side 8 and cutoff 8 at offset 4096, with two home atoms 1 apart in its one bin (R262, R263). -/
def scell : State :=
  putLe (tb + 0x3004) 4 2 (put (tb + 0x4000) (leBytes 12 0 ++ leBytes 4 1 ++ leBytes 16 0 ++ leBytes 8 0 ++ leBytes 4 0x3F800000 ++ leBytes 4 3)
    (put (tb + 0x1000)
      (leBytes 4 0x4C4C4543 ++ leBytes 4 1 ++ leBytes 4 0x41000000 ++ leBytes 4 0
        ++ leBytes 16 0x41000000 ++ leBytes 16 0x41000000 ++ leBytes 4 0x41000000
        ++ leBytes 16 0x3E000000 ++ leBytes 16 0x3E000000 ++ leBytes 4 0x3E000000) sj))

/-- GBIN of two atoms of that cell. -/
def gbin0 : GbinParams := { cell := 0x1000, atoms := 0x2000, count := 2, list := 0x4000, starts := 0x3000 }

/-- GSTAGE of the two atoms binned. -/
def gst0 : GstageParams := { bin := gbin0, first := 0, size := 2, opReg := 0, rows := 0x5000, cands := 0x6000, thetaReg := 5 }

/-- GEMIT of that group, with the candidates' bits at offset 0x7000. -/
def gem0 : GemitParams := { stage := gst0, candCount := 2, bits := 0x7000, block := tb + 0x10000, capacity := 4096 }

/-- Candidate 1 near atom 0. -/
def semit : State := putLe (tb + 0x7008) 8 1 (putLe (tb + 0x6008) 4 1 scell)

/-- A cell of nothing. -/
def cell0 : Cell := { periodic := [], images := 0, rc := .nan, h := [], g := [], spacing := [], bins := [], reach := [] }

/-- A group of nothing. -/
def stage0 : Stage := { cell := cell0, group := [], cands := [], list := [] }

/-- What each clause of RegionsAndKeysComplete assumes is met. -/
theorem witness_regions_and_keys_complete :
    (∃ (t : TileRef) (slot c : Nat) (region : Region) (j : Job) (s : State), s.work.takes t c ∧ s.work.runningJob c = some j
      ∧ regionBad region true = true)
    ∧ (∃ (r : StreamRef) (slot : Nat) (region : Region) (j : Job) (e : EStream) (s : State), s.work.dispatchable r = some (j, e)
      ∧ regionBad region false = true)
    ∧ (∃ (t : TileRef) (slot c : Nat) (region : Region) (j : Job) (s : State), s.work.takes t c ∧ s.work.runningJob c = some j
      ∧ regionBad region true = false
      ∧ ((s.work.ctx c).cmds.any fun k => sameOrigin k.desc.from_ (.tile t) && k.desc.uses.any fun u => u.slot == slot) = true)
    ∧ (∃ (t : TileRef) (slot c : Nat) (region : Region) (j : Job) (s : State), s.work.takes t c ∧ s.work.runningJob c = some j
      ∧ regionBad region true = false
      ∧ ((s.work.ctx c).cmds.any fun k => sameOrigin k.desc.from_ (.tile t) && k.desc.uses.any fun u => u.slot == slot) = false)
    ∧ (∃ (r : StreamRef) (slot : Nat) (region : Region) (j : Job) (e : EStream) (s : State), s.work.dispatchable r = some (j, e)
      ∧ regionBad region false = false
      ∧ ((s.work.ctx r.ctx).cmds.any fun k => sameOrigin k.desc.from_ (.stream r) && k.desc.uses.any fun u => u.slot == slot) = false)
    ∧ (∃ (t : TileRef) (q c : Nat) (j : Job) (s : State), s.work.takes t c ∧ s.work.runningJob c = some j
      ∧ (q < (s.work.tile t.tile).curQ ∨ q < j.low ∨ j.high ≤ q))
    ∧ (∃ (t : TileRef) (q c : Nat) (j : Job) (s : State), s.work.takes t c ∧ s.work.runningJob c = some j ∧ (s.work.tile t.tile).curQ ≤ q
      ∧ j.low ≤ q ∧ q < j.high)
    ∧ (∃ (r : StreamRef) (q : Nat) (j : Job) (e : EStream) (s : State), s.work.dispatchable r = some (j, e)
      ∧ (q < e.lastQ ∨ q < j.low ∨ j.high ≤ q))
    ∧ (∃ (r : StreamRef) (q : Nat) (j : Job) (e : EStream) (s : State), s.work.dispatchable r = some (j, e) ∧ e.lastQ ≤ q ∧ j.low ≤ q
      ∧ q < j.high) :=
  ⟨⟨t0, 0, 0, { reg0 with length := 32 }, job1, sj, by unfold Work.takes; decide +kernel⟩,
   ⟨r0, 0, { reg0 with space := 6 }, job1, es0, sj, by decide +kernel⟩,
   ⟨t0, 0, 0, reg0, job1, onC 0 (fun x => { x with cmds := [inflight] }) sj, by unfold Work.takes; decide +kernel⟩,
   ⟨t0, 63, 0, reg0, job1, onC 0 (fun x => { x with cmds := [inflight] }) sj, by unfold Work.takes; decide +kernel⟩,
   ⟨r0, 63, { reg0 with space := 1 }, job1, es0, onC 0 (fun x => { x with cmds := [inflight] }) sj, by decide +kernel⟩,
   ⟨t0, 100, 0, job1, sj, by unfold Work.takes; decide +kernel⟩,
   ⟨t0, 99, 0, job1, sj, by unfold Work.takes; decide +kernel⟩,
   ⟨r0, 100, job1, es0, sj, by decide +kernel⟩,
   ⟨r0, 99, job1, es0, sj, by decide +kernel⟩⟩

/-- What each clause of CommandsAndFencesComplete assumes is met. -/
theorem witness_commands_and_fences_complete :
    (∃ (k : CmdDesc) (r : StreamRef) (j : Job) (e : EStream) (n : Nat) (s : State), k.from_ = .stream r
      ∧ s.work.dispatchable r = some (j, e) ∧ s.work.absent k = some n)
    ∧ (∃ (k : CmdDesc) (r : StreamRef) (j : Job) (e : EStream) (h : Nat) (s : State), k.from_ = .stream r
      ∧ s.work.dispatchable r = some (j, e) ∧ s.work.absent k = none ∧ s.work.keyHalt r.ctx j k.from_ k.q = some h)
    ∧ (∃ (k : CmdDesc) (t : TileRef) (j : Job) (l : List Resolved) (c cause : Nat) (s : State), k.from_ = .tile t
      ∧ s.work.executing t = some c ∧ s.work.runningJob c = some j ∧ s.work.absent k = none
      ∧ s.work.keyHalt c j k.from_ (s.work.tile t.tile).curQ = none
      ∧ s.work.resolveAll c (some t.tile) (s.work.tile t.tile).regions k.uses = .ok l
      ∧ s.work.holding c j k.from_ (s.work.tile t.tile).curQ k.heads l = some cause)
    ∧ (∃ (k : CmdDesc) (t : TileRef) (j : Job) (l : List Resolved) (c : Nat) (s : State), k.from_ = .tile t ∧ s.work.executing t = some c
      ∧ s.work.runningJob c = some j ∧ s.work.absent k = none ∧ s.work.keyHalt c j k.from_ (s.work.tile t.tile).curQ = none
      ∧ s.work.resolveAll c (some t.tile) (s.work.tile t.tile).regions k.uses = .ok l
      ∧ s.work.holding c j k.from_ (s.work.tile t.tile).curQ k.heads l = none
      ∧ s.work.conflicting c { k with engine := 7, q := (s.work.tile t.tile).curQ } l = [] ∧ s.work.permuteHeld c l = false)
    ∧ (∃ (k : CmdDesc) (r : StreamRef) (j : Job) (e : EStream) (l : List Resolved) (s : State), k.from_ = .stream r
      ∧ s.work.dispatchable r = some (j, e) ∧ s.work.absent k = none ∧ s.work.keyHalt r.ctx j k.from_ k.q = none
      ∧ ((s.work.ctx r.ctx).cmds.filter fun m => (tileOf m.desc.from_).isNone).length < 256
      ∧ s.work.resolveAll r.ctx none (s.work.slotsOf j k.from_) k.uses = .ok l ∧ s.work.holding r.ctx j k.from_ k.q k.heads l = none
      ∧ s.work.conflicting r.ctx { k with engine := e.engine } l = [] ∧ s.work.permuteHeld r.ctx l = false)
    ∧ (∃ (c id : Nat) (k : Cmd) (s : State), c < s.dev.ctxs.length ∧ ((s.work.ctx c).cmds.find? fun k => k.id == id) = some k
      ∧ s.work.underWay k.desc.from_ = false)
    ∧ (∃ (c id : Nat) (k : Cmd) (s : State), ((s.work.ctx c).cmds.find? fun k => k.id == id) = some k
      ∧ s.work.underWay k.desc.from_ = true)
    ∧ (∃ (r : StreamRef) (q : Nat) (heads : List (Nat × Nat)) (j : Job) (e : EStream) (s : State), s.work.dispatchable r = some (j, e)
      ∧ (j.urgent = true ∨ (s.work.ctx r.ctx).replay.isSome = true))
    ∧ (∃ (r : StreamRef) (q : Nat) (heads : List (Nat × Nat)) (scope : FenceScope) (j : Job) (e : EStream) (l : List Resolved) (s : State),
      s.work.dispatchable r = some (j, e) ∧ (scope = .machine → j.urgent = false ∧ (s.work.ctx r.ctx).replay = none)
      ∧ s.work.keyHalt r.ctx j (.stream r) q = none
      ∧ (match scope with | .region slots => s.work.fenceRegions r.ctx (.stream r) (s.work.slotsOf j (.stream r)) slots | _ => .ok []) = .ok l
      ∧ s.work.holding r.ctx j (.stream r) q heads l = none)
    ∧ (∃ (t : TileRef) (q c : Nat) (heads : List (Nat × Nat)) (scope : FenceScope) (j : Job) (l : List Resolved) (s : State),
      s.work.takes t c ∧ s.work.runningJob c = some j ∧ (scope = .machine → j.urgent = false ∧ (s.work.ctx c).replay = none)
      ∧ s.work.keyHalt c j (.tile t) (s.work.tile t.tile).curQ = none
      ∧ (match scope with | .region slots => s.work.fenceRegions c (.tile t) (s.work.slotsOf j (.tile t)) slots | _ => .ok []) = .ok l
      ∧ s.work.holding c j (.tile t) (s.work.tile t.tile).curQ heads l = none)
    ∧ (∃ (c id : Nat) (f : Fence) (s : State), ((s.work.ctx c).fences.find? fun f => f.id == id) = some f ∧ f.scope ≠ .machine
      ∧ (s.work.ctx c).cmds.any f.awaits = true)
    ∧ (∃ (c id : Nat) (f : Fence) (s : State), c < s.dev.ctxs.length ∧ ((s.work.ctx c).fences.find? fun f => f.id == id) = some f
      ∧ f.scope ≠ .machine ∧ (s.work.ctx c).cmds.any f.awaits = false) :=
  ⟨⟨{ cmdS with namesLinks := [36] }, r0, job1, es0, 36, sj, by decide +kernel⟩,
   ⟨{ cmdS with q := 100 }, r0, job1, es0, 0x28, sj, by decide +kernel⟩,
   ⟨cmdT, t0, { job1 with streams := [] }, [{ lo := tb, len := 64, write := false, handle := none, ring := none }], 0, Ctr.stallFence, onT 0 (fun k => { k with curQ := 6 }) (onC 0 (fun x => { x with job := some { job1 with streams := [] }, fences := [fence0] }) sreg), by
      try unfold Work.takes
      and_intros <;> first | decide +kernel | exact ok_got (by decide +kernel) | rfl⟩,
   ⟨cmdT, t0, { job1 with streams := [] }, [{ lo := tb, len := 64, write := false, handle := none, ring := none }], 0, onC 0 (fun x => { x with job := some { job1 with streams := [] } }) sreg, by
      try unfold Work.takes
      and_intros <;> first | decide +kernel | exact ok_got (by decide +kernel) | rfl⟩,
   ⟨cmdS, r0, job1, es0, [], sj, by
      try unfold Work.takes
      and_intros <;> first | decide +kernel | exact ok_got (by decide +kernel) | rfl⟩,
   ⟨0, 1, inflight, onC 0 (fun x => { x with cmds := [inflight] }) sj, by decide +kernel⟩,
   ⟨0, 1, inflight, onT 0 (fun k => { k with mat := [mload] }) (onC 0 (fun x => { x with cmds := [inflight] }) sj), by decide +kernel⟩,
   ⟨r0, 0, [], { job1 with urgent := true }, es0, onC 0 (fun x => { x with job := some { job1 with urgent := true } }) sj, by decide +kernel⟩,
   ⟨r0, 0, [], .machine, job1, es0, [], sj, by
      try unfold Work.takes
      and_intros <;> first | decide +kernel | exact ok_got (by decide +kernel) | rfl⟩,
   ⟨t0, 0, 0, [], .device, { job1 with streams := [] }, [], onC 0 (fun x => { x with job := some { job1 with streams := [] } }) sj, by
      try unfold Work.takes
      and_intros <;> first | decide +kernel | exact ok_got (by decide +kernel) | rfl⟩,
   ⟨0, 2, fence0, onC 0 (fun x => { x with cmds := [inflight], fences := [fence0] }) sj, by decide +kernel⟩,
   ⟨0, 2, fence0, onC 0 (fun x => { x with fences := [fence0] }) sj, by decide +kernel⟩⟩

/-- What each clause of GeometryRowsComplete assumes is met. -/
theorem witness_geometry_rows_complete :
    (∃ (t : TileRef) (p : GshParams) (form : OutForm) (c : Nat) (s : State), Memory.wf s.mem = true ∧ s.work.takes t c
      ∧ s.work.geoForm c p.bf16 p.tag = .ok form ∧ p.degree ≤ 6
      ∧ (let disp := rows32 p.disp 3 p.count;
        let out : GeoRows := { src := p.out, len := formBytes form * harmonics p.degree, rows := p.count, out := true };
        s.work.rowsFree t.tile [disp, out]
      ∧ s.work.censusApart c t.tile p.tag out))
    ∧ (∃ (t : TileRef) (p : GshParams) (form : OutForm) (c : Nat) (s : State), s.work.takes t c ∧ 6 < p.degree
      ∧ s.work.geoForm c p.bf16 p.tag = .ok form)
    ∧ (∃ (t : TileRef) (p : GradialParams) (form : OutForm) (c : Nat) (s : State), Memory.wf s.mem = true ∧ s.work.takes t c
      ∧ s.work.geoForm c p.bf16 p.tag = .ok form ∧ radialBad p = false
      ∧ (let disp := rows32 p.disp 4 p.count;
        let out : GeoRows := { src := p.out, len := formBytes form * p.n, rows := p.count, out := true };
        s.work.rowsFree t.tile [disp, out]
      ∧ s.work.censusApart c t.tile p.tag out))
    ∧ (∃ (t : TileRef) (p : GradialParams) (form : OutForm) (c : Nat) (s : State), s.work.takes t c ∧ radialBad p = true
      ∧ s.work.geoForm c p.bf16 p.tag = .ok form)
    ∧ (∃ (t : TileRef) (p : GcoupleParams) (form : OutForm) (ps : List Path) (c : Nat) (s : State), Memory.wf s.mem = true
      ∧ s.work.takes t c ∧ s.work.geoForm c p.bf16Out p.tag = .ok form ∧ s.work.pathTable t.tile p = .ok ps
      ∧ (let f := coupleIn p;
        let x := coupleRows p p.x p.xLen f;
        let y := coupleRows p p.y p.yLen f;
        let wt := weightRows p ps;
        let out : GeoRows := { src := p.out, len := formBytes form * p.outLen, rows := p.edges, out := true };
        s.work.rowsFree t.tile [x, y, wt, out]
      ∧ s.work.censusApart c t.tile p.tag out))
    ∧ (∃ (t : TileRef) (p : GcoupleParams) (form : OutForm) (d c : Nat) (s : State), s.work.takes t c
      ∧ s.work.geoForm c p.bf16Out p.tag = .ok form ∧ s.work.pathTable t.tile p = .error (0x13, d))
    ∧ (∃ (t : TileRef) (p : GshParams) (second : Bool) (form : OutForm) (c : Nat) (s : State), Memory.wf s.mem = true ∧ s.work.takes t c
      ∧ s.work.geoForm c false p.tag = .ok form ∧ p.degree ≤ 6
      ∧ (let n := harmonics p.degree;
        let disp := rows32 p.disp 3 p.count;
        let grad : GeoRows := { src := p.gradIn, len := (if p.bf16 then 2 else 4) * n, rows := p.count, out := false };
        let vec := rows32 p.vec 3 p.count;
        let out : GeoRows := { src := p.out, len := 3 * formBytes form, rows := p.count, out := true };
        s.work.rowsFree t.tile ([disp, grad] ++ (if second then [vec] else []) ++ [out])
      ∧ s.work.censusApart c t.tile p.tag out))
    ∧ (∃ (t : TileRef) (p : GradialParams) (form : OutForm) (c : Nat) (s : State), Memory.wf s.mem = true ∧ s.work.takes t c
      ∧ s.work.geoForm c false p.tag = .ok form ∧ radialBad p = false
      ∧ (let disp := rows32 p.disp 4 p.count;
        let grad : GeoRows := { src := p.gradIn, len := (if p.bf16 then 2 else 4) * p.n, rows := p.count, out := false };
        let out : GeoRows := { src := p.out, len := 3 * formBytes form, rows := p.count, out := true };
        s.work.rowsFree t.tile [disp, grad, out]
      ∧ s.work.censusApart c t.tile p.tag out)) :=
  ⟨⟨t0, gsh0, f32form, 0, sj, by
      unfold Work.takes
      and_intros <;> first | decide +kernel | exact ok_got (by decide +kernel) | rfl | skip
      simp [rows32, coupleRows, weightRows, gsh0, grad0, gcp0, rows0]⟩,
   ⟨t0, { gsh0 with degree := 7 }, f32form, 0, sj, by
      try unfold Work.takes
      and_intros <;> first | decide +kernel | exact ok_got (by decide +kernel) | rfl⟩,
   ⟨t0, grad0, f32form, 0, sj, by
      unfold Work.takes
      and_intros <;> first | decide +kernel | exact ok_got (by decide +kernel) | rfl | skip
      simp [rows32, coupleRows, weightRows, gsh0, grad0, gcp0, rows0]⟩,
   ⟨t0, { grad0 with n := 65 }, f32form, 0, sj, by
      try unfold Work.takes
      and_intros <;> first | decide +kernel | exact ok_got (by decide +kernel) | rfl⟩,
   ⟨t0, gcp0, f32form, got [] (sg1.work.pathTable 0 gcp0), 0, sg1, by
      unfold Work.takes
      and_intros <;> first | decide +kernel | exact ok_got (by decide +kernel) | rfl | skip
      simp [rows32, coupleRows, weightRows, gsh0, grad0, gcp0, rows0]⟩,
   ⟨t0, gcp0, f32form, 0, 0, sj, by
      try unfold Work.takes
      and_intros <;> first | decide +kernel | exact ok_got (by decide +kernel) | rfl⟩,
   ⟨t0, gsh0, true, f32form, 0, sj, by
      unfold Work.takes
      and_intros <;> first | decide +kernel | exact ok_got (by decide +kernel) | rfl | skip
      simp [rows32, coupleRows, weightRows, gsh0, grad0, gcp0, rows0]⟩,
   ⟨t0, grad0, f32form, 0, sj, by
      unfold Work.takes
      and_intros <;> first | decide +kernel | exact ok_got (by decide +kernel) | rfl | skip
      simp [rows32, coupleRows, weightRows, gsh0, grad0, gcp0, rows0]⟩⟩

/-- What each clause of CouplingGradientsComplete assumes is met. -/
theorem witness_coupling_gradients_complete :
    ∃ (t : TileRef) (p : GcoupleParams) (fx fy fw : OutForm) (ps : List Path) (c : Nat) (s : State), Memory.wf s.mem = true
      ∧ s.work.takes t c ∧ s.work.geoForm c p.bf16Out p.tag = .ok fx ∧ s.work.geoForm c p.bf16Out p.tagY = .ok fy
      ∧ s.work.geoForm c p.bf16Out p.tagW = .ok fw ∧ s.work.pathTable t.tile p = .ok ps
      ∧ (let gx := (coupleOuts p ps fx fy fw).1;
        let gy := (coupleOuts p ps fx fy fw).2.1;
        let gw := (coupleOuts p ps fx fy fw).2.2;
        let g := coupleBwdGo ps p.wLen p.xLen p.yLen (s.work.coupleEdge t.tile p ps) p.edges;
        s.work.rowsFree t.tile (coupleIns p ps ++ [gx, gy, gw])
      ∧ (∀ tag, tag = p.tag ∨ tag = p.tagY ∨ tag = p.tagW → ∀ o, o = gx ∨ o = gy ∨ o = gw → s.work.censusApart c t.tile tag o)
      ∧ s.work.rowsApart t.tile gx gy ∧ s.work.rowsApart t.tile gx gw ∧ s.work.rowsApart t.tile gy gw) :=
  ⟨t0, gcp0, f32form, f32form, f32form, got [] (sg1.work.pathTable 0 gcp0), 0, sg1, by
      unfold Work.takes
      and_intros <;> first | decide +kernel | exact ok_got (by decide +kernel) | rfl | skip
      · simp [coupleIns, coupleOuts, coupleRows, weightRows, gcp0, rows0]
      · intro tag ht o ho
        obtain rfl : tag = tag0 := by rcases ht with h | h | h <;> exact h
        rcases ho with rfl | rfl | rfl <;> unfold Work.censusApart <;> decide +kernel
      all_goals
        intro r q (hr : r < 1) (hq : q < 1)
        obtain rfl : r = 0 := by omega
        obtain rfl : q = 0 := by omega
        decide +kernel⟩

/-- What each clause of RadiusGraphsComplete assumes is met. -/
theorem witness_radius_graphs_complete :
    (∃ (t : TileRef) (p : GbinParams) (c r : Nat) (s : State), s.work.takes t c ∧ p.count ≤ 2 ^ 24 ∧ (s.work.tile t.tile).mat = []
      ∧ s.work.storeRanges t.tile [(p.cell, 128, true), (p.atoms, 16 * p.count, true)] = none
      ∧ s.work.cell (tileStoreAddr t.tile p.cell) = .error r)
    ∧ (∃ (t : TileRef) (p : GbinParams) (x : Cell) (c : Nat) (s : State), Memory.wf s.mem = true ∧ s.work.takes t c ∧ p.count ≤ 2 ^ 24
      ∧ (s.work.tile t.tile).mat = [] ∧ s.work.storeRanges t.tile [(p.cell, 128, true), (p.atoms, 16 * p.count, true)] = none
      ∧ s.work.cell (tileStoreAddr t.tile p.cell) = .ok x
      ∧ (let atoms := (List.range p.count).filterMap fun i => s.work.binAtom x (tileStoreAddr t.tile p.atoms) i;
        let list := ((sortBy (fun a b => decide (a.bin < b.bin)) atoms).map atomEntry).flatten;
        let starts := ((List.range (x.total + 1)).map fun b => leBytes 4 (atoms.filter fun a => decide (a.bin < b)).length).flatten;
        s.work.storeRanges t.tile [(p.list, 32 * atoms.length, false), (p.starts, 4 * (x.total + 1), false)] = none))
    ∧ (∃ (t : TileRef) (p : GstageParams) (x : Stage) (c : Nat) (s : State), Memory.wf s.mem = true ∧ s.work.takes t c
      ∧ (s.work.tile t.tile).mat = [] ∧ s.work.stage t.tile p = .ok x
      ∧ s.work.storeRanges t.tile [(p.rows, 16 * x.cands.length, false), (p.cands, 8 * x.cands.length, false)] = none
      ∧ (let cands := x.cands.flatMap fun a => leBytes 4 a.1.idx ++ (a.2.flatMap fun k => leBytes 1 (ofSigned 8 k)) ++ leBytes 1 0;
        p.rows + 16 * x.cands.length ≤ p.cands ∨ p.cands + cands.length ≤ p.rows))
    ∧ (∃ (t : TileRef) (p : GemitParams) (x : Stage) (c : Nat) (s : State), s.work.takes t c ∧ s.work.stage t.tile p.stage = .ok x
      ∧ s.work.storeRanges t.tile [(p.stage.cands, 8 * p.candCount, true), (p.bits, 8 * p.candCount, true)] = none
      ∧ s.work.le (localKey c p.block) 4 ≠ 0x48444152 ∧ 128 ≤ p.capacity ∧ p.capacity ≤ 2 ^ 32 - 64
      ∧ s.work.accessFault c p.block p.capacity true = none
      ∧ (let segs := x.group.mapIdx fun n i => (i.idx, s.work.segment t.tile p x n i);
        let homes := (x.list.filter fun a => a.home).length;
        let edges := (segs.map fun k => k.2.1.length).sum;
        (∀ k, k ∈ segs → k.2.1.length ≤ 4096)
      ∧ edgeRoom p.capacity homes < edges))
    ∧ (∃ (t : TileRef) (p : GemitParams) (x : Stage) (c : Nat) (s : State), Memory.wf s.mem = true ∧ s.work.takes t c
      ∧ (s.work.tile t.tile).mat = [] ∧ (s.work.tile t.tile).dmaTags < 512 ∧ s.work.stage t.tile p.stage = .ok x
      ∧ s.work.storeRanges t.tile [(p.stage.cands, 8 * p.candCount, true), (p.bits, 8 * p.candCount, true)] = none
      ∧ s.work.le (localKey c p.block) 4 ≠ 0x48444152 ∧ 128 ≤ p.capacity ∧ p.capacity ≤ 2 ^ 32 - 64 ∧ p.block + 64 ≤ hostWindowBase
      ∧ s.work.accessFault c p.block p.capacity true = none
      ∧ (let segs := x.group.mapIdx fun n i => (i.idx, s.work.segment t.tile p x n i);
        let homes := (x.list.filter fun a => a.home).length;
        let edges := (segs.map fun k => k.2.1.length).sum;
        let lay := blockLay p.capacity homes;
        let head := blockHeader x.cell.images (decide (x.list.length < p.stage.bin.count)) p.stage.bin.count segs.length edges p.capacity lay;
        (∀ k, k ∈ segs → k.2.1.length ≤ 4096)
      ∧ edges ≤ edgeRoom p.capacity homes ∧ segs.length ≤ homes)) :=
  ⟨⟨t0, gbin0, 0, 0x10, sj, by
      try unfold Work.takes
      and_intros <;> first | decide +kernel | exact ok_got (by decide +kernel) | rfl⟩,
   ⟨t0, gbin0, got cell0 (scell.work.cell (tb + 0x1000)), 0, scell, by
      try unfold Work.takes
      and_intros <;> first | decide +kernel | exact ok_got (by decide +kernel) | rfl⟩,
   ⟨t0, gst0, got stage0 (scell.work.stage 0 gst0), 0, scell, by
      try unfold Work.takes
      and_intros <;> first | decide +kernel | exact ok_got (by decide +kernel) | rfl⟩,
   ⟨t0, { gem0 with capacity := 128 }, got stage0 (semit.work.stage 0 gst0), 0, semit, by
      try unfold Work.takes
      and_intros <;> first | decide +kernel | exact ok_got (by decide +kernel) | rfl⟩,
   ⟨t0, gem0, got stage0 (semit.work.stage 0 gst0), 0, semit, by
      try unfold Work.takes
      and_intros <;> first | decide +kernel | exact ok_got (by decide +kernel) | rfl⟩⟩

/-- A format table at HBM address 4096 with one entry, of which context 0 has `n` (R294, R295). -/
def putFormat (n flags : Nat) (s : State) : State :=
  dev (fun d => { d with active := { d.active with format := 4096 }, shadow := { d.shadow with format := 4096 } })
    (put 0x1080 [0, 0, 3, BitVec.ofNat 8 flags]
      (put 4096 (leBytes 4 0x54414D46 ++ leBytes 2 1 ++ leBytes 2 1 ++ leBytes 8 0 ++ leBytes 2 0x0101 ++ leBytes 2 1 ++ leBytes 4 1 ++ leBytes 4 1
        ++ leBytes 2 1 ++ leBytes 2 1 ++ leBytes 32 0 ++ leBytes 4 (n * 65536)) s))

/-- Layer 0 of context 0 in that table. -/
def sl : State := putFormat 1 1 sp

/-- Its entry. -/
def entry0 : LayerEntry :=
  { addr := 0x1080, rung := 0, minRung := 0, maxRung := 3, flags := 1, warm := 0, scale := 0, scatterE := 0, maxExp := 0, ref := 0, stepsAt := 0,
    silent := 0, decision := 0 }

/-- An open replay section of layer 0 (R301). -/
def rep0 : Replay :=
  { layer := 0, ref := r0, checkRef := r0, nexts := [], tilePcs := [(0, 8, 0)], attempt := 0, scale := true, compute := false, maxExp := 0, windows := [],
    checking := true }

/-- A state in which context 0 has a replay section open. -/
def withReplay (k : Replay) (s : State) : State := onC 0 (fun x => { x with replay := some k }) s

/-- A state whose device does not respond yet. -/
def sBoot : State := State.reset.withSec fun x => { x with ready := false }

/-- A state without PWR_GOOD. -/
def sOff : State := State.reset.withPwr fun p => { p with good := false, powered := false }

/-- What each clause of PowerDomainsComplete assumes is met. -/
theorem witness_power_domains_complete :
    (∃ (v : W32) (n : Nat) (s : State), s.dev.responds = false)
    ∧ (∃ (v : W32) (t : Nat) (s : State), s.dev.responds = true ∧ t < 64 ∧ (s.work.owner t).isSome = true
      ∧ s.dev.pwr.tilePairEn.getLsbD (t / 2) = true ∧ (v &&& s.fuses.pairs).getLsbD (t / 2) = false)
    ∧ (∃ (v : W32) (s : State), s.dev.responds = true
      ∧ (∀ t, t < 64 → s.dev.pwr.tilePairEn.getLsbD (t / 2) = true → (v &&& s.fuses.pairs).getLsbD (t / 2) = false → s.work.owner t = none))
    ∧ (∃ (v l : Nat) (s : State), s.dev.responds = true ∧ l < 36 ∧ ((s.work.link l).state = .training ∨ (s.work.link l).state = .up)
      ∧ s.dev.pwr.linkGroupEn.getLsbD (l / 6) = true ∧ (BitVec.ofNat 6 v &&& BitVec.ofNat 6 s.fuses.groups).getLsbD (l / 6) = false)
    ∧ (∃ (v : Nat) (s : State), s.dev.responds = true
      ∧ (∀ l, l < 36 → s.dev.pwr.linkGroupEn.getLsbD (l / 6) = true → (BitVec.ofNat 6 v &&& BitVec.ofNat 6 s.fuses.groups).getLsbD (l / 6) = false → (s.work.link l).state ≠ .training ∧ (s.work.link l).state ≠ .up))
    ∧ (∃ (s : State), s.dev.responds = true ∧ s.dev.pwr.hbmSleep = false
      ∧ ((contexts.any fun c => (s.work.ctx c).enable) = true ∨ s.dev.pwr.enableWait ≠ [] ∨ s.dev.pitch.run = true))
    ∧ (∃ (s : State), s.dev.responds = true ∧ s.dev.pwr.hbmSleep = false ∧ (contexts.any fun c => (s.work.ctx c).enable) = false
      ∧ s.dev.pwr.enableWait = [] ∧ s.dev.pitch.run = false ∧ s.dev.pwr.tripLatched = true)
    ∧ (∃ (s : State), s.dev.responds = true ∧ s.dev.pwr.hbmSleep = false ∧ (contexts.any fun c => (s.work.ctx c).enable) = false
      ∧ s.dev.pwr.enableWait = [] ∧ s.dev.pitch.run = false ∧ s.dev.pwr.tripLatched = false)
    ∧ (∃ (s : State), s.dev.responds = true ∧ s.dev.pwr.hbmSleep = true)
    ∧ (∃ (d : Nat) (s : State), (s.dev.pwr.switching.find? fun k => k.domain == d) = none)
    ∧ (∃ (d : Nat) (k : Switch) (s : State), (s.dev.pwr.switching.find? fun k => k.domain == d) = some k ∧ s.dev.pwr.enableWait = []
      ∧ k.on = false)
    ∧ (∃ (d : Nat) (k : Switch) (s : State), Memory.wf s.mem = true ∧ (s.dev.pwr.switching.find? fun k => k.domain == d) = some k
      ∧ s.dev.pwr.enableWait = [] ∧ k.on = true ∧ s.fuses.lacks k.domain = false ∧ s.dev.tiles.length = 64)
    ∧ (∃ (s : State), s.dev.pwr.idleTimer = false)
    ∧ (∃ (s : State), s.dev.pwr.idleTimer = true) :=
  ⟨⟨0, 0, sBoot, by decide +kernel⟩,
   ⟨0, 63, s0, by decide +kernel⟩,
   ⟨0xFFFFFFFF, s0, by decide +kernel⟩,
   ⟨0, 35, onL 35 (fun l => { l with state := .training }) (State.reset.withPwr fun p => { p with linkGroupEn := 63 }), by decide +kernel⟩,
   ⟨63, State.reset, by decide +kernel⟩,
   ⟨s0, by decide +kernel⟩,
   ⟨State.reset.withPwr fun p => { p with tripLatched := true }, by decide +kernel⟩,
   ⟨State.reset, by decide +kernel⟩,
   ⟨State.reset.withPwr fun p => { p with hbmSleep := true }, by decide +kernel⟩,
   ⟨53, State.reset, by decide +kernel⟩,
   ⟨43, { domain := 43, on := false }, State.reset.withPwr fun p => { p with switching := [{ domain := 43, on := false }] }, by decide +kernel⟩,
   ⟨31, { domain := 31, on := true }, State.reset.withPwr fun p => { p with switching := [{ domain := 31, on := true }] }, by decide +kernel⟩,
   ⟨State.reset, by decide +kernel⟩,
   ⟨State.reset.withPwr fun p => { p with idleTimer := true }, by decide +kernel⟩⟩

/-- What each clause of PowerLimitsComplete assumes is met. -/
theorem witness_power_limits_complete :
    (∃ (s : State), s.dev.pwr.powered = true)
    ∧ (∃ (s : State), s.dev.pwr.powered = false)
    ∧ (∃ (s : State), s.dev.pwr.powered = false)
    ∧ (∃ (mv : Nat) (s : State), s.dev.pwr.powered = true ∧ mv < 40000)
    ∧ (∃ (mv : Nat) (s : State), s.dev.pwr.powered = true ∧ 40000 ≤ mv ∧ mv < 44000)
    ∧ (∃ (mv : Nat) (s : State), (s.dev.pwr.powered = false ∨ 44000 ≤ mv))
    ∧ (∃ (r : PowerReadings) (s : State), s.dev.pwr.good = false)
    ∧ (∃ (r : PowerReadings) (s : State), s.dev.pwr.good = true ∧ s.dev.sec.fwVerified = false)
    ∧ (∃ (r : PowerReadings) (s : State), s.dev.pwr.good = true ∧ s.dev.sec.fwVerified = true)
    ∧ (∃ (k : ClampTrigger) (s : State), s.dev.pwr.good = false)
    ∧ (∃ (k : ClampTrigger) (s : State), s.dev.pwr.good = true)
    ∧ (∃ (k : ClampTrigger) (s : State), s.dev.pwr.clampTriggers.contains k = true)
    ∧ (∃ (k : ClampTrigger) (s : State), s.dev.pwr.clampTriggers.contains k = false)
    ∧ (∃ (s : State), s.dev.pwr.clampTriggers = [])
    ∧ (∃ (s : State), s.dev.pwr.clampTriggers ≠ [])
    ∧ (∃ (s : State), (s.dev.pwr.clampTriggers.contains .power = true ∨ s.dev.pwr.clampTriggers.contains .current = true))
    ∧ (∃ (s : State), s.dev.pwr.clampTriggers.contains .power = false ∧ s.dev.pwr.clampTriggers.contains .current = false)
    ∧ (∃ (n : Nat) (s : State), s.dev.pwr.good = true ∧ s.dev.links.length = 36)
    ∧ (∃ (n : Nat) (s : State), n < 3 ∧ s.dev.links.length = 36)
    ∧ (∃ (p c : Nat) (e : ResEntry) (s : State), p < 2 ∧ s.fuses.capPorts.getLsbD p = true ∧ c < 16 ∧ (s.work.ctx c).enable = true
      ∧ (s.work.ctx c).halt.valid = false ∧ e ∈ s.dev.residency ∧ e.owner = c ∧ e.state ≠ .free ∧ s.fuses.space e.home = .cap p) :=
  ⟨⟨State.reset, by decide +kernel⟩,
   ⟨sOff, by decide +kernel⟩,
   ⟨sOff, by decide +kernel⟩,
   ⟨39999, State.reset, by decide +kernel⟩,
   ⟨40000, State.reset, by decide +kernel⟩,
   ⟨44000, State.reset, by decide +kernel⟩,
   ⟨PowerReadings.zero, sOff, by decide +kernel⟩,
   ⟨PowerReadings.zero, State.reset.withSec fun x => { x with fwVerified := false }, by decide +kernel⟩,
   ⟨PowerReadings.zero, State.reset, by decide +kernel⟩,
   ⟨.power, sOff, by decide +kernel⟩,
   ⟨.brake, State.reset, by decide +kernel⟩,
   ⟨.hbm, State.reset.withPwr fun p => { p with clampTriggers := [.hbm] }, by decide +kernel⟩,
   ⟨.hbm, State.reset, by decide +kernel⟩,
   ⟨State.reset, by decide +kernel⟩,
   ⟨State.reset.withPwr fun p => { p with clampTriggers := [.hbm] }, by decide +kernel⟩,
   ⟨State.reset.withPwr fun p => { p with clampTriggers := [.current] }, by decide +kernel⟩,
   ⟨State.reset.withPwr fun p => { p with clampTriggers := [.hbm] }, by decide +kernel⟩,
   ⟨13, State.reset, by decide +kernel⟩,
   ⟨2, State.reset, by decide +kernel⟩,
   ⟨1, 0, obj 1 cap1Base 4096, dev (fun d => { d with residency := [obj 1 cap1Base 4096] }) s0, by decide +kernel⟩⟩

/-- What each clause of SidebandCompletes assumes is met. -/
theorem witness_sideband_completes :
    (∃ (q : PldmReq) (a : Nat) (r : PowerReadings) (s : State), s.dev.pwr.good = false)
    ∧ (∃ (q : PldmReq) (s : State), s.dev.pwr.good = true)
    ∧ (∃ (id v : Nat) (s : State), s.dev.side.sensor id = some v)
    ∧ (∃ (a : Nat) (s : State), s.dev.pwr.good = true)
    ∧ (∃ (r : PowerReadings) (s : State), s.dev.pwr.good = true)
    ∧ (∃ (i : Instr) (t : TapInstr) (s : State), s.dev.links.length = 36
      ∧ (i, t) ∈ [(Instr.extest, TapInstr.extest), (.extestPulse, .extestPulse), (.extestTrain, .extestTrain), (.clamp, .clamp)])
    ∧ (∃ (k : TapPrivate) (s : State), (s.dev.sec.unlocked = false ∨ s.dev.sec.level.getLsbD (tapBit k) = false)) :=
  ⟨⟨.fru, 0, PowerReadings.zero, sOff, by decide +kernel⟩,
   ⟨.effecter, State.reset, by decide +kernel⟩,
   ⟨19, 2500, State.reset, by decide +kernel⟩,
   ⟨127, State.reset, by decide +kernel⟩,
   ⟨PowerReadings.zero, State.reset, by decide +kernel⟩,
   ⟨Instr.clamp, TapInstr.clamp, State.reset, by and_intros <;> first | decide +kernel | simp⟩,
   ⟨.scan, State.reset, by decide +kernel⟩⟩

/-- What each clause of GovernorCompletes assumes is met. -/
theorem witness_governor_completes :
    (∃ (c step base target : Nat) (m : List Summary) (s : State), (s.work.ctx c).active = false)
    ∧ (∃ (c step base target : Nat) (m : List Summary) (s : State),
      (s.dev.active.format = 0 ∨ base = s.dev.active.format ∨ bitOf (s.work.le (s.dev.active.format + 17) 1) 0 = false))
    ∧ (∃ (c step base target : Nat) (m : List Summary) (e : LayerEntry) (s : State), Memory.wf s.mem = true ∧ (s.work.ctx c).active = true
      ∧ s.dev.active.format ≠ 0 ∧ base ≠ s.dev.active.format ∧ bitOf (s.work.le (s.dev.active.format + 17) 1) 0 = true
      ∧ s.dev.shadow.format = base ∧ (s.work.formatRange s.dev.active.format c).2 = 1 ∧ s.work.layerEntry c 0 = some e
      ∧ bitOf e.flags 0 = true ∧ s.dev.cfg.armed = some .machine ∧ s.dev.cfg.target = target
      ∧ base + (e.addr - s.dev.active.format) + 20 ≤ 2 ^ 50)
    ∧ (∃ (c step base target : Nat) (m : List Summary) (s : State), Memory.wf s.mem = true ∧ (s.work.ctx c).active = true
      ∧ s.dev.active.format ≠ 0 ∧ base ≠ s.dev.active.format ∧ bitOf (s.work.le (s.dev.active.format + 17) 1) 0 = true
      ∧ s.dev.shadow.format ≠ base ∧ s.dev.cfg.armed = none
      ∧ (let bytes := s.work.rdN s.dev.active.format (128 + 32 * s.work.le (s.dev.active.format + 6) 2);
        let w := (s.work.wr base bytes).upd fun d => { d with shadow := { d.shadow with format := base } };
        ((s.work.wr base bytes).formatRange s.dev.active.format c).2 = 0
      ∧ w.armCause true target = 0 ∧ w.armTables = none)) :=
  ⟨⟨0, 1, 8192, 10, [], State.reset, by decide +kernel⟩,
   ⟨0, 1, 4096, 10, [], sl, by decide +kernel⟩,
   ⟨0, 1, 8192, 10, [], entry0, dev (fun d => { d with shadow := { d.shadow with format := 8192 }, cfg := { d.cfg with armed := some .machine, target := 10 } }) sl, by and_intros <;> first | decide +kernel | rfl⟩,
   ⟨0, 1, 8192, 10, [], putFormat 0 1 sp, by and_intros <;> first | decide +kernel | rfl⟩⟩

/-- What each clause of ReplayCompletes assumes is met. -/
theorem witness_replay_completes :
    (∃ (r : StreamRef) (layer : Nat) (s : State), (s.work.ctx r.ctx).active = true ∧ (s.work.ctx r.ctx).replay.isSome = true)
    ∧ (∃ (r : StreamRef) (layer : Nat) (s : State), (s.work.ctx r.ctx).active = true ∧ (s.work.ctx r.ctx).replay = none
      ∧ s.work.layerEntry r.ctx layer = none)
    ∧ (∃ (r : StreamRef) (layer : Nat) (s : State), (s.work.ctx r.ctx).active = true ∧ (s.work.ctx r.ctx).replay = none
      ∧ (s.work.layerEntry r.ctx layer).isSome = true)
    ∧ (∃ (r : StreamRef) (s : State), (s.work.ctx r.ctx).active = true ∧ (s.work.ctx r.ctx).replay = none)
    ∧ (∃ (r : StreamRef) (p : Replay) (s : State), (s.work.ctx r.ctx).active = true ∧ (s.work.ctx r.ctx).replay = some p
      ∧ s.work.sectionBusy r.ctx p r = true)
    ∧ (∃ (r : StreamRef) (p : Replay) (s : State), (s.work.ctx r.ctx).active = true ∧ (s.work.ctx r.ctx).replay = some p
      ∧ s.work.sectionBusy r.ctx p r = false)
    ∧ (∃ (c : Nat) (sc cp : Bool) (k : Int) (s : State), (s.work.ctx c).active = true
      ∧ ((s.work.ctx c).replay = none ∨ (∃ p, (s.work.ctx c).replay = some p ∧ p.checking = false)))
    ∧ (∃ (c : Nat) (k : Int) (p : Replay) (s : State), (s.work.ctx c).active = true ∧ (s.work.ctx c).replay = some p ∧ p.checking = true
      ∧ p.scale = false ∧ p.compute = false)
    ∧ (∃ (c : Nat) (sc cp : Bool) (k : Int) (p : Replay) (e : LayerEntry) (s : State), (s.work.ctx c).active = true
      ∧ (s.work.ctx c).replay = some p ∧ p.checking = true ∧ (p.scale = true ∨ p.compute = true) ∧ s.work.layerEntry c p.layer = some e
      ∧ p.checkRef.ctx = c ∧ s.work.le (s.dev.active.format + 16) 1 ≤ ((s.work.ctx c).layerState p.layer).used)
    ∧ (∃ (c : Nat) (k : Int) (p : Replay) (e : LayerEntry) (s : State), Memory.wf s.mem = true ∧ (s.work.ctx c).active = true
      ∧ (s.work.ctx c).replay = some p ∧ p.checking = true ∧ (p.scale = true ∨ p.compute = true) ∧ s.work.layerEntry c p.layer = some e
      ∧ s.work.exhausted ((s.work.ctx c).layerState p.layer) e (s.work.rungOf c p.layer e).1 p.scale p.compute = false
      ∧ (p.tilePcs.map fun t => t.1).Nodup ∧ (∀ t, t ∈ p.tilePcs → t.1 < s.dev.tiles.length)) :=
  ⟨⟨r0, 0, withReplay rep0 sl, by decide +kernel⟩,
   ⟨r0, 1, sl, by decide +kernel⟩,
   ⟨r0, 0, sl, by decide +kernel⟩,
   ⟨r0, sl, by decide +kernel⟩,
   ⟨r0, rep0, onT 0 (fun k => { k with vecQueue := 1 }) (withReplay rep0 sl), by decide +kernel⟩,
   ⟨r0, rep0, withReplay rep0 sl, by decide +kernel⟩,
   ⟨0, true, true, 0, sl, ⟨by decide +kernel, Or.inl rfl⟩⟩,
   ⟨0, 0, { rep0 with scale := false }, withReplay { rep0 with scale := false } sl, by decide +kernel⟩,
   ⟨0, true, false, 0, rep0, entry0, withReplay rep0 (onC 0 (fun x => { x with layers := [{ layer := 0, override := none, scaleOverride := none, raises := 0, used := 1, usedLast := 0 }] }) sl), by decide +kernel⟩,
   ⟨0, 0, rep0, entry0, withReplay rep0 sl, by decide +kernel⟩⟩

/-- A shard map at `tb + 0x20000`: tensor 7 of four elements over devices 0 and 1, tensor 8 of four elements on device 0 alone (R316, R317). -/
def putShards (s : State) : State :=
  put (tb + 0x20000)
    (leBytes 4 0x50414D53 ++ leBytes 4 1 ++ leBytes 4 2 ++ leBytes 52 0
      ++ leBytes 8 4 ++ leBytes 8 0 ++ leBytes 4 0x100 ++ leBytes 2 2 ++ [0, 0] ++ leBytes 2 7 ++ leBytes 6 0
      ++ leBytes 8 4 ++ leBytes 8 0 ++ leBytes 4 0x110 ++ leBytes 2 1 ++ [0, 0] ++ leBytes 2 8 ++ leBytes 6 0
      ++ leBytes 128 0 ++ leBytes 8 0 ++ leBytes 8 1 ++ leBytes 8 0) s

/-- Two devices and that map. -/
def sh : State := dev (fun d => { d with active := { d.active with shardMap := tb + 0x20000 } }) (putShards (onC 0 (fun x => { x with job := some job0 }) sm))

/-- What a collective of entry `e` names. -/
def com0 (e : Nat) : CollCommon := { entry := e, sequence := 0, span := 0, timeoutNs := 10000 }

/-- An exact reduction of one array. -/
def red (e : Nat) : ReduceParams :=
  { common := com0 e, exact := true, layer := none, sources := [tb], sourceBf16 := false, contributors := 2, output := tb + 0x1000, int64Out := true,
    outputSize := 64, compression := .none, feedback := 0, tag := tag0 }

/-- An ALL_GATHER. -/
def ag (e : Nat) : AllGatherParams := { common := com0 e, elemBytes := 4, source := tb, dest := tb + 0x1000, destSize := 64 }

/-- An ALL_TO_ALL. -/
def a2a : AllToAllParams :=
  { common := com0 0, elemBytes := 4, counts := tb, send := tb + 0x400, recv := tb + 0x1000, recvCapacity := 64, recvCounts := tb + 0x2000 }

/-- An ALLREDUCE_SMALL of one word. -/
def small (e : Nat) : SmallParams := { common := com0 e, words := 1, source := tb, maxMap := tb + 0x400, dest := tb + 0x1000 }

/-- A PERMUTE at tick 16. -/
def perm : PermuteParams := { common := com0 0, elemBytes := 4, source := tb, dest := tb + 0x1000, commitTick := 16 }

/-- A shadow shard map that gives all of tensor 7 to device 1, to commit at tick 16 (R340). -/
def shp : State :=
  dev (fun d => { d with shadow := { d.shadow with shardMap := tb + 0x21000 }, cfg := { d.cfg with armed := some .machine, target := 16 } })
    (put (tb + 0x21000)
      (leBytes 8 0 ++ leBytes 4 1 ++ leBytes 52 0 ++ leBytes 8 4 ++ leBytes 8 0 ++ leBytes 4 0x60 ++ leBytes 2 1 ++ [0, 0] ++ leBytes 2 7 ++ leBytes 6 0
        ++ leBytes 8 1) sh)

/-- A collective of context 0. -/
def coll0 (s : State) (k : CollKind) : Coll := s.work.named r0 k

/-- A state with one collective in flight. -/
def withColl (o : Coll) (s : State) : State := dev (fun d => { d with colls := [o] }) s

/-- A message of device 1 for a collective. -/
def arr0 (o : Coll) : Arrival :=
  { sender := 1, also := [], jobTag := o.jobTag.toNat, tensor := o.tensor, sequence := 0, step := o.step, attempt := o.attempt, paramsHash := o.params,
    first := 0, width := 4, ints := [1], bytes := [], last := true }

/-- A trailer of two contributions. -/
def trl : Trailer := { contributions := 2, maxExp := 0, scale := false, compute := false }

/-! The hypotheses that a collective begins (R318), met. -/

theorem begins_ring : (sh).work.mayBegin r0 (.reduce { red 0 with exact := false, int64Out := false }) := by
  unfold Work.mayBegin; and_intros <;> first | decide +kernel | exact ⟨_, ok_got (d := 0) (by decide +kernel)⟩

theorem begins_red : (sh).work.mayBegin r0 (.reduce (red 0)) := by
  unfold Work.mayBegin; and_intros <;> first | decide +kernel | exact ⟨_, ok_got (d := 0) (by decide +kernel)⟩

theorem begins_layer : (putFormat 1 4 sh).work.mayBegin r0 (.reduce { red 0 with layer := some 0 }) := by
  unfold Work.mayBegin; and_intros <;> first | decide +kernel | exact ⟨_, ok_got (d := 0) (by decide +kernel)⟩

theorem begins_gather : (sh).work.mayBegin r0 (.allGather (ag 0)) := by
  unfold Work.mayBegin; and_intros <;> first | decide +kernel | exact ⟨_, ok_got (d := 0) (by decide +kernel)⟩

theorem begins_all : (sh).work.mayBegin r0 (.allToAll a2a) := by
  unfold Work.mayBegin; and_intros <;> first | decide +kernel | exact ⟨_, ok_got (d := 0) (by decide +kernel)⟩

theorem begins_small : (sh).work.mayBegin r0 (.small (small 0)) := by
  unfold Work.mayBegin; and_intros <;> first | decide +kernel | exact ⟨_, ok_got (d := 0) (by decide +kernel)⟩

theorem begins_alone : (sh).work.mayBegin r0 (.small (small 1)) := by
  unfold Work.mayBegin; and_intros <;> first | decide +kernel | exact ⟨_, ok_got (d := 0) (by decide +kernel)⟩

theorem begins_permute : (shp).work.mayBegin r0 (.permute perm) := by
  unfold Work.mayBegin; and_intros <;> first | decide +kernel | exact ⟨_, ok_got (d := 0) (by decide +kernel)⟩

/-- What each clause of CollectivesStart assumes is met. -/
theorem witness_collectives_start :
    (∃ (r : StreamRef) (k : CollKind) (s : State), (s.work.ctx r.ctx).active = false)
    ∧ (∃ (r : StreamRef) (k : CollKind) (reason d : Nat) (s : State), (s.work.ctx r.ctx).active = true
      ∧ s.work.collHalt r.ctx k = some (reason, d))
    ∧ (∃ (r : StreamRef) (k : CollKind) (reason d : Nat) (s : State), (s.work.ctx r.ctx).active = true ∧ s.work.collHalt r.ctx k = none
      ∧ s.work.collFault (s.work.named r k) (s.work.namedEntry k) (s.work.newEntry k (s.work.namedEntry k)) = some (reason, d))
    ∧ (∃ (r : StreamRef) (k : CollKind) (n : Nat) (s : State), (s.work.ctx r.ctx).active = true ∧ s.work.collHalt r.ctx k = none
      ∧ s.work.collFault (s.work.named r k) (s.work.namedEntry k) (s.work.newEntry k (s.work.namedEntry k)) = none
      ∧ ((s.work.collRanges (s.work.named r k)).1.findSome? fun q => if q.2 = 0 then none else s.work.poisonIn q.1 q.2) = none
      ∧ s.work.verifyAll (s.work.collRanges (s.work.named r k)).1 = .ok n ∧ 64 ≤ (s.dev.colls.filter fun o => !o.finished).length)
    ∧ (∃ (r : StreamRef) (p : ReduceParams) (s : State), s.work.mayBegin r (.reduce p) ∧ p.exact = false
      ∧ s.work.awaited (s.work.named r (.reduce p)) ≠ [])
    ∧ (∃ (r : StreamRef) (p : ReduceParams) (s : State), s.work.mayBegin r (.reduce p) ∧ p.exact = true
      ∧ s.work.historyE r.ctx p.layer = none ∧ (s.work.named r (.reduce p)).shards.length ≠ 1)
    ∧ (∃ (r : StreamRef) (p : ReduceParams) (e : Int) (s : State), s.work.mayBegin r (.reduce p) ∧ p.exact = true ∧ p.compression = .none
      ∧ s.work.historyE r.ctx p.layer = some e ∧ (s.work.named r (.reduce p)).shards.length ≠ 1)
    ∧ (∃ (r : StreamRef) (p : AllGatherParams) (s : State), Memory.wf s.mem = true ∧ s.work.mayBegin r (.allGather p))
    ∧ (∃ (r : StreamRef) (p : AllToAllParams) (s : State), s.work.mayBegin r (.allToAll p)
      ∧ s.work.awaited (s.work.named r (.allToAll p)) ≠ [])
    ∧ (∃ (r : StreamRef) (p : SmallParams) (s : State), s.work.mayBegin r (.small p) ∧ s.work.awaited (s.work.named r (.small p)) ≠ [])
    ∧ (∃ (r : StreamRef) (p : SmallParams) (s : State), Memory.wf s.mem = true ∧ s.work.mayBegin r (.small p)
      ∧ s.work.awaited (s.work.named r (.small p)) = [])
    ∧ (∃ (r : StreamRef) (p : PermuteParams) (s : State), s.work.mayBegin r (.permute p) ∧ s.dev.cfg.armed = some .machine
      ∧ s.dev.cfg.target = p.commitTick ∧ (∀ x, x ∈ (s.work.named r (.permute p)).newShards → x.device ≠ s.dev.deviceNumber)) :=
  ⟨⟨r0, .small (small 0), State.reset, by decide +kernel⟩,
   ⟨r0, .small (small 0), 0x63, 0, s0, by decide +kernel⟩,
   ⟨r0, .small (small 0), 0x68, 1, onL 0 (fun l => { l with state := .down }) sh, by decide +kernel⟩,
   ⟨r0, .small (small 0), 0, dev (fun d => { d with colls := List.replicate 64 (sh.work.named r0 (.small (small 0))) }) sh, by and_intros <;> first | decide +kernel | rfl⟩,
   ⟨r0, { red 0 with exact := false, int64Out := false }, sh, ⟨begins_ring, by decide +kernel⟩⟩,
   ⟨r0, red 0, sh, ⟨begins_red, by decide +kernel⟩⟩,
   ⟨r0, { red 0 with layer := some 0 }, -28, putFormat 1 4 sh, ⟨begins_layer, by decide +kernel⟩⟩,
   ⟨r0, ag 0, sh, ⟨by decide +kernel, begins_gather⟩⟩,
   ⟨r0, a2a, sh, ⟨begins_all, by decide +kernel⟩⟩,
   ⟨r0, small 0, sh, ⟨begins_small, by decide +kernel⟩⟩,
   ⟨r0, small 1, sh, ⟨by decide +kernel, begins_alone, by decide +kernel⟩⟩,
   ⟨r0, perm, shp, ⟨begins_permute, by decide +kernel⟩⟩⟩

/-- What each clause of CollectivesProceed assumes is met. -/
theorem witness_collectives_proceed :
    (∃ (l : Nat) (a : Arrival) (s : State), (s.work.link l).state ≠ .up)
    ∧ (∃ (l : Nat) (a : Arrival) (s : State), (s.work.link l).state = .up ∧ (∀ o, o ∈ s.dev.colls → collMatches o a = false)
      ∧ s.work.staleArrival a = true)
    ∧ (∃ (l : Nat) (a : Arrival) (s : State), (s.work.link l).state = .up ∧ (∀ o, o ∈ s.dev.colls → collMatches o a = false)
      ∧ s.work.staleArrival a = false)
    ∧ (∃ (l : Nat) (a : Arrival) (o : Coll) (s : State), (s.work.link l).state = .up
      ∧ (s.dev.colls.find? fun o => collMatches o a) = some o ∧ a.sender ∉ o.heard ∧ a.paramsHash ≠ o.params
      ∧ (s.work.ctx o.ref.ctx).active = true)
    ∧ (∃ (l : Nat) (a : Arrival) (o : Coll) (p : ReduceParams) (s : State), (s.work.link l).state = .up
      ∧ (s.dev.colls.find? fun o => collMatches o a) = some o ∧ a.paramsHash = o.params ∧ o.kind = .reduce p ∧ p.exact = true
      ∧ o.preRound = false ∧ o.trailer = none ∧ s.work.onward o a = none ∧ (s.dev.colls.map fun o => o.id).Nodup)
    ∧ (∃ (l : Nat) (a : Arrival) (o : Coll) (p : AllGatherParams) (s : State), Memory.wf s.mem = true ∧ (s.work.link l).state = .up
      ∧ (s.dev.colls.find? fun o => collMatches o a) = some o ∧ a.paramsHash = o.params ∧ o.kind = .allGather p
      ∧ (s.dev.colls.map fun o => o.id).Nodup)
    ∧ (∃ (op : Nat) (t : Trailer) (s : State), s.work.coll op = none)
    ∧ (∃ (op : Nat) (t : Trailer) (o : Coll) (p : ReduceParams) (s : State), s.work.coll op = some o ∧ o.kind = .reduce p ∧ p.exact = true
      ∧ o.trailer = none ∧ o.preRound = false ∧ t.contributions ≠ p.contributors ∧ (s.work.ctx o.ref.ctx).active = true)
    ∧ (∃ (op : Nat) (t : Trailer) (o : Coll) (p : ReduceParams) (s : State), s.work.coll op = some o ∧ o.kind = .reduce p ∧ p.exact = true
      ∧ o.trailer = none ∧ o.preRound = false ∧ t.contributions = p.contributors ∧ o.finished = false ∧ s.work.awaited o ≠ []
      ∧ o.ref.ctx < s.dev.ctxs.length)
    ∧ (∃ (op : Nat) (t : Trailer) (o : Coll) (p : ReduceParams) (s : State), Memory.wf s.mem = true ∧ s.work.coll op = some o
      ∧ o.kind = .reduce p ∧ p.exact = true ∧ p.int64Out = true ∧ o.trailer = none ∧ o.preRound = false ∧ t.contributions = p.contributors
      ∧ o.finished = false ∧ s.work.awaited o = [])
    ∧ (∃ (op : Nat) (o : Coll) (s : State), s.work.coll op = some o ∧ (s.work.awaited o = [] ∨ o.finished = true))
    ∧ (∃ (op d : Nat) (ds : List Nat) (o : Coll) (s : State), s.work.coll op = some o ∧ s.work.awaited o = d :: ds ∧ o.finished = false
      ∧ (s.work.ctx o.ref.ctx).active = true) :=
  ⟨⟨0, arr0 (coll0 sh (.reduce (red 0))), State.reset, by decide +kernel⟩,
   ⟨0, { arr0 (coll0 sh (.reduce (red 0))) with attempt := 0 }, withReplay { rep0 with attempt := 1 } sh, by decide +kernel⟩,
   ⟨0, arr0 (coll0 sh (.reduce (red 0))), sh, by decide +kernel⟩,
   ⟨0, { arr0 (coll0 sh (.reduce (red 0))) with paramsHash := 1 }, coll0 sh (.reduce (red 0)), withColl (coll0 sh (.reduce (red 0))) sh, by decide +kernel⟩,
   ⟨0, arr0 (coll0 sh (.reduce (red 0))), coll0 sh (.reduce (red 0)), red 0, withColl (coll0 sh (.reduce (red 0))) sh, by decide +kernel⟩,
   ⟨0, arr0 (coll0 sh (.allGather (ag 0))), coll0 sh (.allGather (ag 0)), ag 0, withColl (coll0 sh (.allGather (ag 0))) sh, by decide +kernel⟩,
   ⟨0, trl, s0, by decide +kernel⟩,
   ⟨0, { trl with contributions := 1 }, { coll0 sh (.reduce (red 0)) with id := 0 }, red 0, withColl { coll0 sh (.reduce (red 0)) with id := 0 } sh, by decide +kernel⟩,
   ⟨0, trl, { coll0 sh (.reduce (red 0)) with id := 0 }, red 0, withColl { coll0 sh (.reduce (red 0)) with id := 0 } sh, by decide +kernel⟩,
   ⟨0, trl, { coll0 sh (.reduce (red 1)) with id := 0, acc := [1, 2, 3, 4] }, red 1, withColl { coll0 sh (.reduce (red 1)) with id := 0, acc := [1, 2, 3, 4] } sh, by decide +kernel⟩,
   ⟨0, { coll0 sh (.small (small 1)) with id := 0 }, withColl { coll0 sh (.small (small 1)) with id := 0 } sh, by decide +kernel⟩,
   ⟨0, 1, [], { coll0 sh (.small (small 0)) with id := 0 }, withColl { coll0 sh (.small (small 0)) with id := 0 } sh, by decide +kernel⟩⟩

/-- A descriptor of ring 0 of context 0 waiting first in its ring. -/
def waiting (d : Desc) (s : State) : State := onC 0 (fun x => { x with fetched := [d] }) s

/-- REGISTER of handle 1 at 0x100000 (R355, R361). -/
def descReg : Desc :=
  { desc0 0x20 with operands := leBytes 4 0 ++ leBytes 4 1 ++ leBytes 8 0x100000 ++ leBytes 8 0 ++ leBytes 8 4096 ++ List.replicate 16 0 }

/-- A resident object of context 0 in HBM. -/
def hb : ResEntry := obj 1 0x100000 4096

/-- A state that holds one object. -/
def withObj (e : ResEntry) (s : State) : State := dev (fun d => { d with residency := [e] }) s

/-- A copy of 64 bytes in flight. -/
def copy0 : HaulCopy :=
  { id := 1, ctx := 0, source := .loc tb, dest := 0x1000, length := 64, handle := none, queue := none, ref := some r0, stage := false, host := false,
    desc := none, dueTick := 0 }

/-- A state with that copy. -/
def scopy : State := dev (fun d => { d with copies := [copy0] }) s0

/-- The parameters of a haul stream of two chunks into one window (R369). -/
def hsp : HaulStreamParams := { weights := false, stage := false, source := .loc tb, chunkLength := 4096, chunkCount := 2, windows := [tb + 0x8000] }

/-- Queue 3 of context 0, with those parameters. -/
def hq : HaulQueue :=
  { number := 3, ctx := 0, priority := 0, limit := 1, params := some hsp, source := .loc tb, chunks := 2, next := 0, window := 0, filling := false,
    pending := none }

/-- A state whose haul stream 0 has a queue. -/
def withQueue (q : HaulQueue) (s : State) : State :=
  dev (fun d => { d with queues := [q] }) (onC 0 (fun x => { x with job := some { job1 with streams := [{ es0 with engine := 5, queue := 3 }] } }) s)

/-- What each clause of HaulActionsComplete assumes is met. -/
theorem witness_haul_actions_complete :
    (∃ (h : HaulFrom) (a b len n k : Nat) (src : HaulSrc) (ev : Bool) (s : State), (∀ x, s.work.issuer h x = none))
    ∧ (∃ (r : StreamRef) (i : Instr) (a b len n k : Nat) (src : HaulSrc) (ev : Bool) (s : State), (s.work.ctx r.ctx).active = true
      ∧ (s.work.ctx r.ctx).replay = none ∧ s.work.haulAllowed r.ctx = false
      ∧ i ∈ [Instr.register (.stream r) a b len n ev, .install (.stream r) a b src len n k, .move (.stream r) a b k, .replace (.stream r) a b src k, .release (.stream r) a k, .stage (.stream r) src b len, .copy (.stream r) src b len, .residencyQuery (.stream r) a b])
    ∧ (∃ (r : StreamRef) (i : Instr) (a b len n k : Nat) (src : HaulSrc) (s : State), (s.work.ctx r.ctx).active = true
      ∧ (s.work.ctx r.ctx).replay.isSome = true
      ∧ i ∈ [Instr.install (.stream r) a b src len n k, .move (.stream r) a b k, .replace (.stream r) a b src k, .release (.stream r) a k])
    ∧ (∃ (r : StreamRef) (handle home len readers : Nat) (ev : Bool) (s : State), (s.work.ctx r.ctx).active = true
      ∧ s.work.haulAllowed r.ctx = true ∧ ownsHandle r.ctx handle = true ∧ badNumbers home len 0 true false = false
      ∧ s.work.homeFault r.ctx handle home len (s.work.obj handle).isSome = none)
    ∧ (∃ (c ring : Nat) (d : Desc) (s : State) (a b len n : Nat) (ev : Bool), s.work.ready c ring 0x20 false = some d ∧ d.field 0 1 = 0
      ∧ s.work.haulAllowed c = true ∧ ownsHandle c (d.field 4 2) = true ∧ badNumbers (d.field 8 8) (d.field 24 8) 0 true false = false
      ∧ s.work.homeFault c (d.field 4 2) (d.field 8 8) (d.field 24 8) (s.work.obj (d.field 4 2)).isSome = none)
    ∧ (∃ (r : StreamRef) (handle home len readers reason detail : Nat) (ev : Bool) (s : State), (s.work.ctx r.ctx).active = true
      ∧ s.work.haulAllowed r.ctx = true ∧ ownsHandle r.ctx handle = true ∧ badNumbers home len 0 true false = false
      ∧ s.work.homeFault r.ctx handle home len (s.work.obj handle).isSome = some (reason, detail))
    ∧ (∃ (r : StreamRef) (handle home len readers k : Nat) (src : HaulSrc) (s : State), (s.work.ctx r.ctx).active = true
      ∧ (s.work.ctx r.ctx).replay = none ∧ s.work.haulAllowed r.ctx = true ∧ ownsHandle r.ctx handle = true
      ∧ badNumbers home len k true true = false ∧ s.work.obj handle = none ∧ s.work.homeFault r.ctx handle home len false = none
      ∧ s.work.sourceFault r.ctx src len = none ∧ s.work.capTagFault r.ctx home = none ∧ (s.work.localSource src).isSome = true)
    ∧ (∃ (r : StreamRef) (handle home k : Nat) (e : ResEntry) (s : State), (s.work.ctx r.ctx).active = true
      ∧ (s.work.ctx r.ctx).replay = none ∧ s.work.haulAllowed r.ctx = true ∧ badNumbers home 0 k false true = false
      ∧ s.work.obj handle = some e ∧ e.state = .resident ∧ (e.owner == r.ctx || e.readers.getLsbD r.ctx) = true
      ∧ s.work.homeFault r.ctx handle home e.length false = none ∧ s.work.capTagFault r.ctx home = none)
    ∧ (∃ (r : StreamRef) (handle home k : Nat) (src : HaulSrc) (e : ResEntry) (s : State), (s.work.ctx r.ctx).active = true
      ∧ (s.work.ctx r.ctx).replay = none ∧ s.work.haulAllowed r.ctx = true ∧ badNumbers home 0 k false true = false
      ∧ s.work.obj handle = some e ∧ e.state = .resident ∧ e.owner = r.ctx ∧ s.work.homeFault r.ctx handle home e.length false = none
      ∧ s.work.sourceFault r.ctx src e.length = none ∧ s.work.capTagFault r.ctx home = none ∧ (s.work.localSource src).isSome = true)
    ∧ (∃ (r : StreamRef) (handle k : Nat) (e : ResEntry) (s : State), (s.work.ctx r.ctx).active = true ∧ (s.work.ctx r.ctx).replay = none
      ∧ s.work.haulAllowed r.ctx = true ∧ badNumbers 0 0 k false true = false ∧ s.work.obj handle = some e ∧ e.state = .resident
      ∧ e.owner = r.ctx)
    ∧ (∃ (r : StreamRef) (i : Instr) (handle home k : Nat) (src : HaulSrc) (s : State), (s.work.ctx r.ctx).active = true
      ∧ (s.work.ctx r.ctx).replay = none ∧ s.work.haulAllowed r.ctx = true ∧ badNumbers home 0 k false true = false
      ∧ s.work.obj handle = none ∧ i ∈ [Instr.move (.stream r) handle home k, .replace (.stream r) handle home src k])
    ∧ (∃ (r : StreamRef) (handle home k : Nat) (e : ResEntry) (s : State), (s.work.ctx r.ctx).active = true
      ∧ (s.work.ctx r.ctx).replay = none ∧ s.work.haulAllowed r.ctx = true ∧ badNumbers home 0 k false true = false
      ∧ s.work.obj handle = some e ∧ e.owner = r.ctx ∧ s.work.meet e 2 home = .conflicts)
    ∧ (∃ (r : StreamRef) (handle home k : Nat) (e : ResEntry) (pp : Bool) (s : State), (s.work.ctx r.ctx).active = true
      ∧ (s.work.ctx r.ctx).replay = none ∧ s.work.haulAllowed r.ctx = true ∧ badNumbers home 0 k false true = false
      ∧ s.work.obj handle = some e ∧ e.owner = r.ctx ∧ s.work.meet e 2 home = .defers pp
      ∧ s.work.homeFault r.ctx handle home e.length false = none ∧ s.work.capTagFault r.ctx home = none)
    ∧ (∃ (r : StreamRef) (src : HaulSrc) (dest len : Nat) (s : State), (s.work.ctx r.ctx).active = true ∧ s.work.haulAllowed r.ctx = true
      ∧ (s.work.localSource src).isSome = true)
    ∧ (∃ (r : StreamRef) (handle dest : Nat) (s : State), Memory.wf s.mem = true ∧ (s.work.ctx r.ctx).active = true
      ∧ s.work.haulAllowed r.ctx = true ∧ s.work.accessFault r.ctx dest 48 true = none) :=
  ⟨⟨(.stream r0), 0, 0, 0, 0, 0, .loc 0, false, State.reset, fun _ => rfl⟩,
   ⟨r0, .stage (.stream r0) (.loc 0) 0 0, 0, 0, 0, 0, 0, .loc 0, false, dev (fun d => { d with active := { d.active with quotas := [] } }) s0, by decide +kernel⟩,
   ⟨r0, .release (.stream r0) 0 0, 0, 0, 0, 0, 0, .loc 0, withReplay rep0 s0, by decide +kernel⟩,
   ⟨r0, 1, 0x100000, 4096, 1, true, s0, by decide +kernel⟩,
   ⟨0, 0, descReg, waiting descReg s0, 0, 0, 0, 0, false, by decide +kernel⟩,
   ⟨r0, 1, 0x100000, 4096, 1, 0x46, 1, true, withObj hb s0, by decide +kernel⟩,
   ⟨r0, 1, 0x100000, 4096, 1, 1, .loc tb, s0, by decide +kernel⟩,
   ⟨r0, 1, sharedBase, 1, hb, withObj hb s0, by decide +kernel⟩,
   ⟨r0, 1, sharedBase, 1, .loc tb, hb, withObj hb s0, by decide +kernel⟩,
   ⟨r0, 1, 1, hb, withObj hb s0, by decide +kernel⟩,
   ⟨r0, .move (.stream r0) 1 sharedBase 1, 1, sharedBase, 1, .loc 0, s0, by decide +kernel⟩,
   ⟨r0, 1, 0x200000, 1, { hb with state := .releasing }, withObj { hb with state := .releasing } s0, by decide +kernel⟩,
   ⟨r0, 1, 0x200000, 1, { hb with state := .moving, newHome := sharedBase }, false, withObj { hb with state := .moving, newHome := sharedBase } s0, by decide +kernel⟩,
   ⟨r0, .loc tb, 0x300000, 64, s0, by decide +kernel⟩,
   ⟨r0, 1, tb, s0, by decide +kernel⟩⟩

/-- What each clause of HaulProceeds assumes is met. -/
theorem witness_haul_proceeds :
    (∃ (n : Nat) (p : Option PeerData) (s : State), (s.dev.copies.find? fun k => k.id == n) = none)
    ∧ (∃ (n a : Nat) (k : HaulCopy) (s : State), (s.dev.copies.find? fun k => k.id == n) = some k ∧ (s.work.ctx k.ctx).active = true)
    ∧ (∃ (n a b : Nat) (k : HaulCopy) (s : State), Memory.wf s.mem = true ∧ (s.dev.copies.find? fun k => k.id == n) = some k
      ∧ s.work.localSource k.source = some a ∧ s.work.copyFault k = .ok b ∧ k.desc = none)
    ∧ (∃ (h : Nat) (s : State),
      (∀ e, e ∈ s.dev.residency → e.handle = h → e.releasing ≠ 0 → s.work.heldByCmd e.releasing e.length = false))
    ∧ (∃ (r : StreamRef) (src : HaulSrc) (count : Option Nat) (q : HaulQueue) (s : State), (s.work.ctx r.ctx).active = true
      ∧ ((s.work.ctx r.ctx).queueOf r.stream).bind s.work.queue = some q ∧ q.params.isSome = true ∧ q.pending = none
      ∧ (∀ n, count = some n → 1 ≤ n ∧ n ≤ 65535))
    ∧ (∃ (r : StreamRef) (src : HaulSrc) (count : Option Nat) (q : HaulQueue) (s : State), (s.work.ctx r.ctx).active = true
      ∧ ((s.work.ctx r.ctx).queueOf r.stream).bind s.work.queue = some q ∧ (q.params = none ∨ q.pending.isSome = true))
    ∧ (∃ (n : Nat) (q : HaulQueue) (p : HaulStreamParams) (s : State), s.work.queue n = some q ∧ (s.work.ctx q.ctx).active = true
      ∧ q.params = some p ∧ (q.filling = true ∨ q.chunks ≤ q.next))
    ∧ (∃ (n : Nat) (q : HaulQueue) (p : HaulStreamParams) (s : State), s.work.queue n = some q ∧ (s.work.ctx q.ctx).active = true
      ∧ q.params = some p ∧ q.filling = false ∧ q.next < q.chunks
      ∧ s.work.windowRead q.ctx ((p.windows[q.window]?).getD 0) p.chunkLength = true)
    ∧ (∃ (n : Nat) (q : HaulQueue) (p : HaulStreamParams) (s : State), s.work.queue n = some q ∧ (s.work.ctx q.ctx).active = true
      ∧ q.params = some p ∧ q.filling = false ∧ q.next < q.chunks
      ∧ s.work.windowRead q.ctx ((p.windows[q.window]?).getD 0) p.chunkLength = false
      ∧ s.work.plainFault q.ctx p.stage (chunkSource q.source (q.next * p.chunkLength)) ((p.windows[q.window]?).getD 0) p.chunkLength = none
      ∧ (s.work.localSource (chunkSource q.source (q.next * p.chunkLength))).isSome = true)
    ∧ (∃ (n : Nat) (q : HaulQueue) (p : HaulStreamParams) (s : State), s.work.queue n = some q ∧ (s.work.ctx q.ctx).active = true
      ∧ s.work.haulAllowed q.ctx = true ∧ HaulStreamParams.ok p = false)
    ∧ (∃ (n : Nat) (q : HaulQueue) (s : State), s.work.queue n = some q
      ∧ (q.filling = true ∨ q.next < q.chunks ∨ q.pending = none ∨ (∃ r, q.pending = some r ∧ r.released = false)))
    ∧ (∃ (n : Nat) (q : HaulQueue) (r : Rearm) (s : State), s.work.queue n = some q ∧ q.filling = false ∧ q.chunks ≤ q.next
      ∧ q.pending = some r ∧ r.released = true) :=
  ⟨⟨1, none, s0, by decide +kernel⟩,
   ⟨1, 0, copy0, scopy, by decide +kernel⟩,
   ⟨1, tb, 0, copy0, scopy, by and_intros <;> first | decide +kernel | rfl⟩,
   ⟨1, withObj { hb with releasing := 0x300000 } s0, by decide +kernel⟩,
   ⟨r0, .loc 0x400000, some 65535, hq, withQueue hq s0, by
     and_intros <;> first | decide +kernel | (intro n h; cases h; decide)⟩,
   ⟨r0, .loc 0, none, { hq with pending := some { source := .loc 0, count := none, released := false } }, withQueue { hq with pending := some { source := .loc 0, count := none, released := false } } s0, by decide +kernel⟩,
   ⟨3, { hq with next := 2 }, hsp, withQueue { hq with next := 2 } s0, by decide +kernel⟩,
   ⟨3, hq, hsp, withQueue hq (onC 0 (fun x => { x with cmds := [{ inflight with regions := [{ lo := tb + 0x8FFF, len := 1, write := false, handle := none, ring := none }] }] }) s0), by decide +kernel⟩,
   ⟨3, hq, hsp, withQueue hq s0, by decide +kernel⟩,
   ⟨3, hq, { hsp with windows := [] }, withQueue hq s0, by decide +kernel⟩,
   ⟨3, hq, withQueue hq s0, ⟨by decide +kernel, Or.inr (Or.inl (by decide))⟩⟩,
   ⟨3, { hq with next := 2, pending := some { source := .loc 0, count := none, released := true } }, { source := .loc 0, count := none, released := true }, withQueue { hq with next := 2, pending := some { source := .loc 0, count := none, released := true } } s0, by decide +kernel⟩⟩

/-- A job image of one section, the entry points of an urgent job (R383, R384, R387). -/
def img : List Byte :=
  let body := leBytes 4 1 ++ leBytes 4 16
  let hdr :=
    leBytes 4 0x4D494C47 ++ leBytes 2 2 ++ leBytes 2 0x0302 ++ leBytes 4 0 ++ leBytes 2 1 ++ leBytes 2 1 ++ leBytes 8 140 ++ leBytes 8 64 ++ leBytes 24 0
      ++ leBytes 4 1
  hdr ++ leBytes 4 (crc32c hdr) ++ leBytes 8 0x0A ++ leBytes 8 128 ++ leBytes 8 8 ++ leBytes 8 136 ++ leBytes 32 0 ++ body ++ leBytes 4 (crc32c body)

/-- Context 0 enabled without a job, a LOAD_JOB of handle 1 first in its ring, the image in place. -/
def sload : State :=
  waiting { desc0 0x10 with operands := leBytes 48 1 } (withObj hb (put 0x100000 img (onC 0 (fun x => { x with state := .idle }) s0)))

/-- A state of context 0 with a loaded job. -/
def sloaded : State := onC 0 (fun x => { x with state := .loaded, job := some job0 }) s0

/-- A flit of device 1 to device 0 (R308). -/
def flit0 : Flit :=
  { cls := 0, sub := 0, urgent := false, type_ := 0, seq := 0, ack := 0, dest := 0, source := 1, creditClass := 0, creditSub := 0, credits := 0, jobTag := 0,
    length := 0, payload := [], read := none }

/-- A training that no lane passes. -/
def train0 : TrainResult :=
  { passing := [], peerAnswers := false, peerV2 := false, peerV1 := false, latencyNs10 := 0, peerId := 0, peerLink := 0, peer9300 := false }

/-- A state of the shipped part whose link 0 is changed. -/
def lk (f : Link → Link) : State := onL 0 f State.reset

/-- Context 0 with one NOP in host memory at its ring 0 (R437). -/
def sring : State := onC 0 (fun x => { x with cmd := updAt x.cmd 0 fun r => { r with size := 6, tail := 1 } }) (dev (fun d => { d with hif := { d.hif with speed := 5 } }) s0)

/-- That image passes every check of LOAD_JOB (R389). -/
theorem test_image_loads : sload.work.loadFault 0 hb.home hb.length = none := by decide +kernel

/-- The job of `sloaded` passes the checks of a start (R389). -/
theorem test_start_checks : sloaded.work.startCause 0 job0 = 0 ∧ sloaded.work.censusOutside 0 job0 = none := by decide +kernel

/-- What each clause of JobDescriptorsComplete assumes is met. -/
theorem witness_job_descriptors_complete :
    (∃ (c ring op : Nat) (serial : Bool) (i : Instr) (s : State), s.work.ready c ring op serial = none
      ∧ (i, op, serial) ∈ [(Instr.nop c ring, 0x00, false), (.sync c ring, 0x01, true), (.loadJob c ring, 0x10, true), (.startJob c ring, 0x11, true), (.stopJob c ring, 0x12, true), (.unloadJob c ring, 0x13, true), (.urgentRequest c ring, 0x30, false)])
    ∧ (∃ (c ring : Nat) (d : Desc) (s : State), Memory.wf s.mem = true ∧ s.work.waits c ring 0x00 false d)
    ∧ (∃ (c ring : Nat) (d : Desc) (s : State), Memory.wf s.mem = true ∧ s.work.waits c ring 0x01 true d)
    ∧ (∃ (c ring op : Nat) (serial : Bool) (d : Desc) (i : Instr) (s : State), Memory.wf s.mem = true ∧ s.work.waits c ring op serial d
      ∧ ((i = .startJob c ring ∧ op = 0x11 ∧ serial = true ∧ ((s.work.ctx c).job = none ∨ (s.work.ctx c).state ≠ .loaded ∨ ∃ j, (s.work.ctx c).job = some j ∧ j.startDesc.isSome = true)) ∨ (i = .stopJob c ring ∧ op = 0x12 ∧ serial = true ∧ ((s.work.ctx c).job = none ∨ (s.work.ctx c).state ≠ .running)) ∨ (i = .unloadJob c ring ∧ op = 0x13 ∧ serial = true ∧ ((s.work.ctx c).state = .running ∨ ∃ j, (s.work.ctx c).job = some j ∧ j.startDesc.isSome = true)) ∨ (i = .urgentRequest c ring ∧ op = 0x30 ∧ serial = false ∧ (s.work.ctx c).state ≠ .running)))
    ∧ (∃ (c ring : Nat) (d : Desc) (s : State), s.work.waits c ring 0x10 true d ∧ (s.work.ctx c).job.isSome = true)
    ∧ (∃ (c ring : Nat) (d : Desc) (s : State), s.work.waits c ring 0x10 true d ∧ (s.work.ctx c).job = none
      ∧ (∀ e, e ∈ s.dev.residency → e.handle = d.field 0 2 → e.state = .resident → e.owner = c → s.fuses.space e.home ≠ .hbm))
    ∧ (∃ (c ring : Nat) (d : Desc) (e : ResEntry) (s : State), s.work.waits c ring 0x10 true d ∧ (s.work.ctx c).job = none
      ∧ (s.dev.residency.find? fun e => e.handle == d.field 0 2 && decide (e.state = .resident) && e.owner == c && decide (s.fuses.space e.home = .hbm)) = some e
      ∧ s.work.poisonIn e.home e.length = none)
    ∧ (∃ (c ring : Nat) (d : Desc) (j : Job) (s : State), s.work.waits c ring 0x11 true d ∧ (s.work.ctx c).job = some j
      ∧ (s.work.ctx c).state = .loaded ∧ j.startDesc = none)
    ∧ (∃ (c ring : Nat) (d : Desc) (j : Job) (s : State), Memory.wf s.mem = true ∧ s.work.waits c ring 0x12 true d
      ∧ (s.work.ctx c).job = some j ∧ (s.work.ctx c).state = .running)
    ∧ (∃ (c ring : Nat) (d : Desc) (s : State), Memory.wf s.mem = true ∧ s.work.waits c ring 0x13 true d ∧ (s.work.ctx c).state ≠ .running
      ∧ (∀ j, (s.work.ctx c).job = some j → j.startDesc = none))
    ∧ (∃ (c ring : Nat) (d : Desc) (s : State), s.work.waits c ring 0x30 false d ∧ (s.work.ctx c).state = .running) :=
  ⟨⟨0, 0, 0x00, false, .nop 0 0, State.reset, by decide +kernel⟩,
   ⟨0, 0, desc0 0, waiting (desc0 0) s0, by unfold Work.waits; decide +kernel⟩,
   ⟨0, 0, desc0 1, waiting (desc0 1) s0, by unfold Work.waits; decide +kernel⟩,
   ⟨0, 0, 0x12, true, desc0 0x12, .stopJob 0 0, waiting (desc0 0x12) s0, ⟨by decide +kernel, by unfold Work.waits; decide +kernel,
     Or.inr (Or.inl ⟨rfl, rfl, rfl, Or.inl (by decide +kernel)⟩)⟩⟩,
   ⟨0, 0, desc0 0x10, waiting (desc0 0x10) sloaded, by unfold Work.waits; decide +kernel⟩,
   ⟨0, 0, desc0 0x10, waiting (desc0 0x10) s0, by unfold Work.waits; decide +kernel⟩,
   ⟨0, 0, { desc0 0x10 with operands := leBytes 48 1 }, hb, sload, by unfold Work.waits; decide +kernel⟩,
   ⟨0, 0, desc0 0x11, job0, waiting (desc0 0x11) sloaded, by unfold Work.waits; decide +kernel⟩,
   ⟨0, 0, desc0 0x12, job0, waiting (desc0 0x12) (onC 0 (fun x => { x with state := .running }) sloaded), by unfold Work.waits; decide +kernel⟩,
   ⟨0, 0, desc0 0x13, waiting (desc0 0x13) sloaded, ⟨by decide +kernel, by unfold Work.waits; decide +kernel, by decide +kernel,
     fun j h => by cases (show some job0 = some j from h); rfl⟩⟩,
   ⟨0, 0, desc0 0x30, waiting (desc0 0x30) s0, by unfold Work.waits; decide +kernel⟩⟩

/-- What each clause of ContextSetupCompletes assumes is met. -/
theorem witness_context_setup_completes :
    (∃ (c a b : Nat) (v : Bool) (i : Instr) (s : State), s.dev.responds = false
      ∧ i ∈ [Instr.dbCmdTail c a b, .dbCplHead c b, .dbEvtHead c b, .ctxEnableSet c, .ctxEnableClear c, .ctxClear c, .ctxUrgent 0 c v, .ctxTileMask 0 c b, .ctxArenaValid 0 c v, .ctxUrgentLatClear c])
    ∧ (∃ (fn c b : Nat) (v : Bool) (i : Instr) (s : State), fn ≠ 0
      ∧ i ∈ [Instr.ctxUrgent fn c v, .ctxTileMask fn c b, .ctxArenaValid fn c v])
    ∧ (∃ (c ring v : Nat) (i : Instr) (s : State), (s.work.ctx c).enable = false
      ∧ i ∈ [Instr.dbCmdTail c ring v, .dbCplHead c v, .dbEvtHead c v])
    ∧ (∃ (c ring v : Nat) (s : State), s.dev.responds = true ∧ (s.work.ctx c).enable = true ∧ ((s.work.ctx c).ring ring).size ≠ 0
      ∧ v % 65536 < 2 ^ ((s.work.ctx c).ring ring).size)
    ∧ (∃ (c v : Nat) (s : State), s.dev.responds = true ∧ (s.work.ctx c).enable = true ∧ v % 65536 < 2 ^ (s.work.ctx c).cpl.size)
    ∧ (∃ (c v : Nat) (s : State), s.dev.responds = true ∧ (s.work.ctx c).enable = true ∧ v % 4096 < 2 ^ (s.work.ctx c).evt.size)
    ∧ (∃ (c ring v off value : Nat) (i : Instr) (s : State), Memory.wf s.mem = true ∧ s.dev.responds = true ∧ (s.work.ctx c).enable = true
      ∧ c < s.dev.ctxs.length
      ∧ ((i = .dbCmdTail c ring v ∧ off = 8 * ring ∧ value = v % 65536 ∧ (((s.work.ctx c).ring ring).size = 0 ∨ 2 ^ ((s.work.ctx c).ring ring).size ≤ value)) ∨ (i = .dbCplHead c v ∧ off = 0x20 ∧ value = v % 65536 ∧ 2 ^ (s.work.ctx c).cpl.size ≤ value) ∨ (i = .dbEvtHead c v ∧ off = 0x28 ∧ value = v % 4096 ∧ 2 ^ (s.work.ctx c).evt.size ≤ value)))
    ∧ (∃ (c ring : Nat) (s : State), (¬ s.work.mayFetch c ring ∨ (s.work.ctx c).fetchCount ((s.work.ctx c).ring ring) = 0))
    ∧ (∃ (c ring : Nat) (s : State), s.work.mayFetch c ring ∧ c < s.dev.ctxs.length ∧ ring < (s.work.ctx c).cmd.length
      ∧ ((s.work.ctx c).ring ring).head < 2 ^ ((s.work.ctx c).ring ring).size)
    ∧ (∃ (c ring : Nat) (s : State), s.work.mayFetch c ring ∧ c < s.dev.ctxs.length ∧ (s.work.ctx c).halt.valid = false
      ∧ (s.work.ctx c).fetchCount ((s.work.ctx c).ring ring) = 1 ∧ (s.work.ctx c).opcodeBad c (s.work.nextDesc c ring) = false)
    ∧ (∃ (c : Nat) (s : State), ((s.work.ctx c).enable = true ∨ s.dev.pwr.hbmSleep = true ∨ s.dev.pwr.faultHeld = true))
    ∧ (∃ (c : Nat) (s : State), s.dev.responds = true ∧ (s.work.ctx c).enable = false ∧ s.dev.pwr.hbmSleep = false
      ∧ s.dev.pwr.faultHeld = false)
    ∧ (∃ (c : Nat) (s : State), s.dev.responds = true
      ∧ ((s.work.ctx c).enable = false ∨ (s.work.ctx c).state = .loaded ∨ (s.work.ctx c).state = .running))
    ∧ (∃ (c : Nat) (s : State), s.dev.responds = true ∧ c < s.dev.ctxs.length ∧ (s.work.ctx c).enable = true
      ∧ (s.work.ctx c).state ≠ .loaded ∧ (s.work.ctx c).state ≠ .running)
    ∧ (∃ (c : Nat) (s : State), ((s.work.ctx c).halt.valid = false ∨ s.dev.pwr.faultHeld = true))
    ∧ (∃ (c : Nat) (s : State), s.dev.responds = true ∧ c < s.dev.ctxs.length ∧ (s.work.ctx c).halt.valid = true
      ∧ s.dev.pwr.faultHeld = false)
    ∧ (∃ (c : Nat) (v : Bool) (s : State), s.dev.responds = true)
    ∧ (∃ (c m : Nat) (s : State), s.dev.responds = true ∧ s.work.tileCause c (BitVec.ofNat 64 m) ≠ 0)
    ∧ (∃ (c m : Nat) (s : State), s.dev.responds = true ∧ Memory.wf s.mem = true ∧ c < s.dev.ctxs.length ∧ 64 ≤ s.dev.tiles.length
      ∧ s.work.tileCause c (BitVec.ofNat 64 m) = 0)
    ∧ (∃ (c : Nat) (v : Bool) (s : State), ((s.work.ctx c).state = .loaded ∨ (s.work.ctx c).state = .running ∨ s.dev.pwr.hbmSleep = true))
    ∧ (∃ (c : Nat) (v : Bool) (s : State), s.dev.responds = true ∧ ((s.work.ctx c).state = .disabled ∨ (s.work.ctx c).state = .idle)
      ∧ s.dev.pwr.hbmSleep = false)
    ∧ (∃ (c : Nat) (s : State), s.dev.responds = true) :=
  ⟨⟨0, 0, 0, true, .ctxEnableSet 0, sBoot, by decide +kernel⟩,
   ⟨1, 0, 0, true, .ctxUrgent 1 0 true, State.reset, by decide +kernel⟩,
   ⟨0, 0, 0, .dbCmdTail 0 0 0, State.reset, by decide +kernel⟩,
   ⟨0, 0, 63, onC 0 (fun x => { x with cmd := updAt x.cmd 0 fun r => { r with size := 6 } }) s0, by decide +kernel⟩,
   ⟨0, 63, s0, by decide +kernel⟩,
   ⟨0, 63, s0, by decide +kernel⟩,
   ⟨0, 0, 64, 0x20, 64, .dbCplHead 0 64, s0, ⟨by decide +kernel, by decide +kernel, by decide +kernel, by decide +kernel, Or.inr (Or.inl (by decide +kernel))⟩⟩,
   ⟨0, 0, State.reset, Or.inr (by decide +kernel)⟩,
   ⟨0, 0, sring, by unfold Work.mayFetch; decide +kernel⟩,
   ⟨0, 0, sring, by unfold Work.mayFetch; decide +kernel⟩,
   ⟨0, s0, by decide +kernel⟩,
   ⟨0, State.reset, by decide +kernel⟩,
   ⟨0, State.reset, by decide +kernel⟩,
   ⟨0, onC 0 (fun x => { x with state := .idle }) s0, by decide +kernel⟩,
   ⟨0, State.reset, by decide +kernel⟩,
   ⟨0, onC 0 (fun x => { x with halt := { x.halt with valid := true } }) s0, by decide +kernel⟩,
   ⟨0, false, State.reset, by decide +kernel⟩,
   ⟨0, 1, s0, by decide +kernel⟩,
   ⟨0, 1, State.reset, by decide +kernel⟩,
   ⟨0, true, s0, by decide +kernel⟩,
   ⟨0, true, State.reset, by decide +kernel⟩,
   ⟨0, State.reset, by decide +kernel⟩⟩

/-- What each clause of HostPortCompletes assumes is met. -/
theorem witness_host_port_completes :
    (∃ (s : State), s.dev.pitch.run = false ∧ s.work.jobActive = false)
    ∧ (∃ (s : State), (s.dev.pitch.run = true ∨ s.work.jobActive = true))
    ∧ (∃ (c : Nat) (s : State), c < s.dev.ctxs.length ∧ Memory.wf s.mem = true)
    ∧ (∃ (s : State), s.dev.ctxs.length = 16) :=
  ⟨⟨State.reset, by decide +kernel⟩,
   ⟨s0, by decide +kernel⟩,
   ⟨15, State.reset, by decide +kernel⟩,
   ⟨State.reset, by decide +kernel⟩⟩

/-- What each clause of LinksComplete assumes is met. -/
theorem witness_links_complete :
    (∃ (l : Nat) (s : State), (s.fuses.links.getLsbD l = false ∨ (s.work.link l).disable = true ∨ (s.work.link l).state = .training))
    ∧ (∃ (l : Nat) (s : State), s.fuses.links.getLsbD l = true ∧ (s.work.link l).disable = false
      ∧ ((s.work.link l).state = .down ∨ (s.work.link l).state = .failed))
    ∧ (∃ (l lane seq : Nat) (i : Instr) (after : LinkState) (hold : Bool) (s : State), l < s.dev.links.length
      ∧ (s.work.link l).state = .up
      ∧ ((i = .linkTrain l ∧ after = .training ∧ hold = false ∧ s.fuses.links.getLsbD l = true ∧ (s.work.link l).disable = false) ∨ (i = .linkDisable l true ∧ after = .down ∧ hold = true ∧ s.fuses.links.getLsbD l = true) ∨ (i = .laneLossOfLock l lane ∧ after = .down ∧ hold = (s.work.link l).disable ∧ (s.work.link l).lanes.getLsbD lane = true) ∨ (i = .ackTimeout l ∧ after = .down ∧ hold = (s.work.link l).disable ∧ (s.work.link l).retry ≠ []) ∨ (i = .nakReceive l seq ∧ after = .down ∧ hold = (s.work.link l).disable ∧ (s.work.link l).nakSeq = some seq ∧ 7 ≤ (s.work.link l).nakRuns)))
    ∧ (∃ (l lane : Nat) (s : State), ((s.work.link l).state ≠ .up ∨ (s.work.link l).lanes.getLsbD lane = false))
    ∧ (∃ (l : Nat) (s : State), ((s.work.link l).state ≠ .up ∨ (s.work.link l).retry = []))
    ∧ (∃ (l : Nat) (v : Bool) (s : State), s.fuses.links.getLsbD l = false)
    ∧ (∃ (l : Nat) (v : Bool) (s : State), s.fuses.links.getLsbD l = true ∧ (v = false ∨ (s.work.link l).state ≠ .up))
    ∧ (∃ (l : Nat) (r : TrainResult) (s : State), (s.work.link l).state ≠ .training)
    ∧ (∃ (l : Nat) (r : TrainResult) (s : State), l < s.dev.links.length ∧ (s.work.link l).state = .training)
    ∧ (∃ (l n seq : Nat) (f : Flit) (ok : Bool) (i : Instr) (s : State), (s.work.link l).state ≠ .up
      ∧ i ∈ [Instr.flitReceive l f n ok, .nakReceive l seq])
    ∧ (∃ (l n : Nat) (f : Flit) (s : State), (s.work.link l).state = .up)
    ∧ (∃ (l n : Nat) (f : Flit) (s : State), (s.work.link l).state = .up ∧ f.type_ = 0 ∧ f.seq ≠ (s.work.link l).expectSeq)
    ∧ (∃ (l n : Nat) (f : Flit) (s : State), (s.work.link l).state = .up ∧ f.cls < 5
      ∧ ((f.type_ = 0 ∧ f.seq = (s.work.link l).expectSeq ∧ f.dest = s.dev.deviceNumber ∧ f.read = none) ∨ f.type_ = 1 ∨ f.type_ = 4))
    ∧ (∃ (l seq : Nat) (s : State), l < s.dev.links.length ∧ (s.work.link l).state = .up
      ∧ ((s.work.link l).nakSeq ≠ some seq ∨ (s.work.link l).nakRuns < 7)) :=
  ⟨⟨0, lk fun l => { l with disable := true }, by decide +kernel⟩,
   ⟨35, State.reset, by decide +kernel⟩,
   ⟨0, 0, 3, .nakReceive 0 3, .down, false, lk fun l => { l with state := .up, nakSeq := some 3, nakRuns := 7 }, by decide +kernel⟩,
   ⟨0, 0, State.reset, by decide +kernel⟩,
   ⟨0, State.reset, by decide +kernel⟩,
   ⟨0, true, { sBoot with fuses := { sBoot.fuses with links := 0 } }, by decide +kernel⟩,
   ⟨0, true, State.reset, by decide +kernel⟩,
   ⟨0, train0, State.reset, by decide +kernel⟩,
   ⟨35, train0, onL 35 (fun l => { l with state := .training }) State.reset, by decide +kernel⟩,
   ⟨0, 0, 0, flit0, true, .flitReceive 0 flit0 0 true, State.reset, by decide +kernel⟩,
   ⟨0, 0, flit0, lk fun l => { l with state := .up }, by decide +kernel⟩,
   ⟨0, 0, { flit0 with seq := 1 }, lk fun l => { l with state := .up }, by decide +kernel⟩,
   ⟨0, 0, { flit0 with cls := 4 }, lk fun l => { l with state := .up }, by decide +kernel⟩,
   ⟨0, 3, lk fun l => { l with state := .up }, by decide +kernel⟩⟩

/-- What every check of an image answers. -/
def good : Verdict := { readable := true, keysMatch := true, ecdsaOk := true, lmsOk := true, digestOk := true }

/-- A boot of the shipped part in which everything answers. -/
def env0 : BootEnv :=
  { factory := good, firmware := good, maxTemp := 40, hbmTrained := 63, capSize0 := 0, capSize1 := 0, capRate0 := 0, capRate1 := 0, capWidth0 := 0,
    capWidth1 := 0, hostSpeed := 5, hostWidth := 16, refPresent := 127, linkResults := [] }

/-- A state with its security block changed. -/
def sc (f : Sec → Sec) : State := State.reset.withSec f

/-- A flash write of the settings under way. -/
def sflash : State := sc fun x => { x with flashState := .busy, flashActive := 3, flashData := [] }

/-- What each clause of IntegrityCompletes assumes is met. -/
theorem witness_integrity_completes :
    (∃ (n a : Nat) (last : Bool) (r : EccResult) (s : State), (s.dev.memRegs.trained.getLsbD n = false ∨ s.dev.pwr.hbmSleep = true))
    ∧ (∃ (n a : Nat) (last : Bool) (s : State), s.dev.memRegs.trained.getLsbD n = true ∧ s.dev.pwr.hbmSleep = false)
    ∧ (∃ (n a : Nat) (s : State), s.dev.memRegs.trained.getLsbD n = true ∧ s.dev.pwr.hbmSleep = false)
    ∧ (∃ (n a : Nat) (last : Bool) (s : State), s.dev.memRegs.trained.getLsbD n = true ∧ s.dev.pwr.hbmSleep = false)
    ∧ (∃ (k : SramKind) (last : Bool) (r : EccResult) (s : State), r ≠ .uncorrectable)
    ∧ (∃ (t off : Nat) (last : Bool) (s : State), s.work.owner t = none)
    ∧ (∃ (t off c : Nat) (last : Bool) (s : State), s.work.owner t = some c ∧ (s.work.ctx c).enable = true
      ∧ (s.work.ctx c).halt.valid = false)
    ∧ (∃ (n : Nat) (last : Bool) (i : Instr) (reason detail source : Nat) (s : State),
      ((i = .sramScrub (.control n) last .uncorrectable ∧ reason = 0x49 ∧ source = 4 ∧ detail = 0x40000 + n * 2 ^ 24) ∨ (i = .hbmInterfaceFault n ∧ reason = 0x4A ∧ source = 0 ∧ detail = n * 2 ^ 24 ∧ s.fuses.hbmStacks.getLsbD n = true)))
    ∧ (∃ (n : Nat) (s : State), s.fuses.hbmStacks.getLsbD n = false)
    ∧ (∃ (s : State), (s.dev.sec.ready = true ∨ s.dev.sec.recovery = true))
    ∧ (∃ (s : State), s.dev.sec.ready = false ∧ s.dev.sec.recovery = false)
    ∧ (∃ (p : Nat) (s : State), s.fuses.capPorts.getLsbD p = false)
    ∧ (∃ (p : Nat) (s : State), s.fuses.capPorts.getLsbD p = true) :=
  ⟨⟨0, 0, false, .clean, dev (fun d => { d with memRegs := { d.memRegs with trained := 0 } }) State.reset, by decide +kernel⟩,
   ⟨0, 0, false, State.reset, by decide +kernel⟩,
   ⟨0, 0, State.reset, by decide +kernel⟩,
   ⟨0, 0, false, State.reset, by decide +kernel⟩,
   ⟨.control 0, false, .clean, State.reset, by decide +kernel⟩,
   ⟨0, 0, false, onC 0 (fun x => { x with tileMask := 0 }) State.reset, by decide +kernel⟩,
   ⟨0, 0, 0, false, onC 0 (fun x => { x with tileMask := 1 }) s0, by decide +kernel⟩,
   ⟨5, false, .hbmInterfaceFault 5, 0x4A, 5 * 2 ^ 24, 0, State.reset, by decide +kernel⟩,
   ⟨0, { State.reset with fuses := { State.reset.fuses with hbmStacks := 0 } }, by decide +kernel⟩,
   ⟨State.reset, by decide +kernel⟩,
   ⟨sBoot, by decide +kernel⟩,
   ⟨0, { State.reset with fuses := { State.reset.fuses with capPorts := 0 } }, by decide +kernel⟩,
   ⟨1, State.reset, by decide +kernel⟩⟩

/-- What each clause of SecurityCompletes assumes is met. -/
theorem witness_security_completes :
    (∃ (e : BootEnv) (s : State), s.dev.pwr.good = false)
    ∧ (∃ (e : BootEnv) (s : State), s.dev.pwr.good = true ∧ 85 ≤ e.maxTemp)
    ∧ (∃ (e : BootEnv) (cause : Nat) (s : State), s.dev.pwr.good = true ∧ e.maxTemp < 85
      ∧ (if verdictOk e.factory then s.dev.sec.cutFlash.fwHeader.cause s.fuses e.firmware else some 10) = some cause)
    ∧ (∃ (e : BootEnv) (s : State), s.dev.pwr.good = true ∧ e.maxTemp < 85 ∧ Memory.wf s.mem = true
      ∧ (if verdictOk e.factory then s.dev.sec.cutFlash.fwHeader.cause s.fuses e.firmware else some 10) = none)
    ∧ (∃ (f : Bool) (v : Verdict) (s : State), s.dev.sec.ready = false ∧ s.dev.sec.recovery = false)
    ∧ (∃ (f : Bool) (v : Verdict) (c : Nat) (s : State), (s.dev.sec.ready = true ∨ s.dev.sec.recovery = true)
      ∧ s.work.flashCause f v = some c)
    ∧ (∃ (f : Bool) (v : Verdict) (s : State), (s.dev.sec.ready = true ∨ s.dev.sec.recovery = true) ∧ s.work.flashCause f v = none)
    ∧ (∃ (ok : Bool) (s : State), s.dev.sec.flashState ≠ .busy)
    ∧ (∃ (target at_ len : Nat) (s : State), s.dev.sec.flashState = .busy ∧ s.dev.sec.flashActive = target ∧ Memory.wf s.mem = true
      ∧ ((target = 1 ∧ at_ = 0x01000000 ∧ len = roundUp s.dev.sec.flashData.length 65536) ∨ (target = 2 ∧ at_ = 0x00100000 ∧ len = roundUp s.dev.sec.flashData.length 65536) ∨ (target = 3 ∧ at_ = 0x00100000 ∧ len = 0x00100000 ∧ s.dev.sec.flashData = [])))
    ∧ (∃ (s : State), s.dev.sec.flashState = .busy)
    ∧ (∃ (s : State), s.commits = false)
    ∧ (∃ (s : State), s.commits = true)
    ∧ (∃ (v : Verdict) (key : Nat) (s : State), s.dev.responds = false)
    ∧ (∃ (v : Verdict) (s : State), s.dev.responds = true)
    ∧ (∃ (s : State), s.dev.responds = true)
    ∧ (∃ (key : Nat) (s : State), key ≠ 0xD15A)
    ∧ (∃ (t : List Byte) (v : Verdict) (s : State), s.fuses.debugDisabled = true)
    ∧ (∃ (slot off len : Nat) (n : List Byte) (sign : Bool) (i : Instr) (s : State), s.dev.responds = false
      ∧ i ∈ [Instr.getVersion, .getCapabilities, .negotiateAlgorithms, .getDigests, .getCertificate slot off len, .challenge slot n, .getMeasurements slot sign n, .spdmUnsupportedRequest slot])
    ∧ (∃ (slot off len : Nat) (n : List Byte) (sign : Bool) (i : Instr) (s : State), s.dev.responds = true ∧ s.dev.sec.spdmAlgs = false
      ∧ i ∈ [Instr.getDigests, .getCertificate slot off len, .challenge slot n, .getMeasurements slot sign n])
    ∧ (∃ (code : Nat) (s : State), s.dev.responds = true)
    ∧ (∃ (slot off len : Nat) (n : List Byte) (s : State), s.dev.responds = true ∧ s.dev.sec.spdmAlgs = true)
    ∧ (∃ (index : Nat) (n : List Byte) (s : State), s.dev.responds = true ∧ s.dev.sec.spdmAlgs = true) :=
  ⟨⟨env0, sOff, by decide +kernel⟩,
   ⟨{ env0 with maxTemp := 85 }, State.reset, by decide +kernel⟩,
   ⟨{ env0 with firmware := { good with digestOk := false } }, 3, State.reset, by decide +kernel⟩,
   ⟨env0, State.reset, by decide +kernel⟩,
   ⟨true, good, sBoot, by decide +kernel⟩,
   ⟨false, good, 12, State.reset, by decide +kernel⟩,
   ⟨false, good, sc fun x => { x with flashTarget := 3, flashLen := 1 }, by decide +kernel⟩,
   ⟨true, State.reset, by decide +kernel⟩,
   ⟨3, 0x00100000, 0x00100000, sflash, by decide +kernel⟩,
   ⟨sflash, by decide +kernel⟩,
   ⟨State.reset, by decide +kernel⟩,
   ⟨sc fun x => { x with svnRunning := 62 }, by decide +kernel⟩,
   ⟨good, 0, sBoot, by decide +kernel⟩,
   ⟨good, State.reset, by decide +kernel⟩,
   ⟨State.reset, by decide +kernel⟩,
   ⟨0, State.reset, by decide +kernel⟩,
   ⟨[], good, { State.reset with fuses := { State.reset.fuses with debugDisabled := true } }, by decide +kernel⟩,
   ⟨0, 0, 0, [], false, .getVersion, sBoot, by decide +kernel⟩,
   ⟨0, 0, 0, [], false, .getDigests, State.reset, by decide +kernel⟩,
   ⟨0, State.reset, by decide +kernel⟩,
   ⟨0, 0, 0, [], sc fun x => { x with spdmAlgs := true }, by decide +kernel⟩,
   ⟨254, [], sc fun x => { x with spdmAlgs := true }, by decide +kernel⟩⟩

/-! ### Commands that WellFormed refuses, one for each check, and the largest operands it takes -/

/-- One ill-formed command for each operand bound: none is accepted. -/
theorem test_ill_formed_refused :
    [Instr.ctxClear 16, .load { t0 with tile := 64 } ld0, .load { t0 with pc := 65536 } ld0, .linkTrain 36, .nop 16 0, .nop 0 4,
      .rowMove { r0 with ctx := 16 } 0, .rowMove { r0 with stream := 64 } 0, .rowMove { r0 with keyStep := 2 ^ 32 } 0,
      .rowMove { r0 with keyQ := 2 ^ 32 } 0, .release (.host 16 0) 0 1, .release (.stream { r0 with ctx := 16 }) 0 1,
      .seq (.tile { t0 with tile := 64 }) 0, .seq (.stream { r0 with ctx := 16 }) 0, .loadComplete 64, .streamComplete 64, .maskLogic t0 .setAll 8,
      .maskQuery t0 .first 8 0, .maskQuery t0 .first 0 32, .vectorInstructionComplete 64, .loopIndex t0 32 0, .loopIndex t0 0 4, .trap t0 65536,
      .seq (.tile t0) (2 ^ 32), .setregion (.tile t0) 64 reg0, .tileDmaComplete 64, .streamChunkFill 64 none, .streamEnd 64,
      .commandStart { cmdT with engine := 8 }, .commandStart { cmdT with uses := List.replicate 9 { slot := 0, write := false } },
      .commandComplete 16 0, .fence (.tile t0) (2 ^ 32) [] .device, .fenceRelease 16 0, .dbCmdTail 0 0 65536, .dbCplHead 0 65536,
      .dbEvtHead 0 4096, .vfFlr 0, .vfFlr 16, .nakReceive 0 4096, .laneLossOfLock 0 5, .hbmScrub 12 0 false .clean, .pwrLinkGroupEn 64,
      .domainPowerDone 54, .capacityLinkDown 2, .i3cDynamicAddress 128, .hbmInterfaceFault 12, .msixVectorUnmask 0 2, .ctxUrgent 16 0 true,
      .ctxTileMask 0 16 0].all (fun c => !c.wf) = true := by decide +kernel

/-- The largest operands of the same bounds are accepted. -/
theorem test_largest_operands_accepted :
    [Instr.ctxClear 15, .load { t0 with tile := 63, pc := 65535 } ld0, .linkTrain 35, .nop 15 3, .loadComplete 63, .maskQuery t0 .first 7 31,
      .loopIndex t0 31 3, .trap t0 65535, .setregion (.tile t0) 63 reg0, .dbCmdTail 15 3 65535, .dbEvtHead 15 4095, .vfFlr 15, .nakReceive 35 4095,
      .laneLossOfLock 35 4, .pwrLinkGroupEn 63, .domainPowerDone 53, .capacityLinkDown 1, .msixVectorUnmask 15 1].all Instr.wf = true := by
  decide +kernel

/-- The opcode table gives no row bits, so no word spells a command. -/
theorem test_no_word_spells_a_command : decodeTableWord 32 0 = none := by decide

/-! ### Small steps, with results from the spec -/

/-- Whether an outcome is a next state with a property. -/
def after (o : Host.Outcome State Fault Refusal) (p : State → Bool) : Bool :=
  match o with
  | .next t => p t
  | _ => false

/-- The CRC-32C of the digits 1 to 9 is the polynomial's published check value. -/
theorem test_crc32c : crc32c [49, 50, 51, 52, 53, 54, 55, 56, 57] = 0xE3069283 := by decide +kernel

/-- Halves of the last place of BF16 round to the even neighbour. -/
theorem test_bf16_ties : (bf16.encode .rne (f32.decode 0x3F808000)).code = 0x3F80 ∧ (bf16.encode .rne (f32.decode 0x3F818000)).code = 0x3F82 := by
  decide +kernel

/-- Numbers stand in memory with the least significant byte first (R8). -/
theorem test_little_endian : (putLe 0x100 4 0x11223344 State.reset).work.le 0x100 1 = 0x44 := by decide +kernel

/-- TRAP halts with 0x05 and its operand as detail (R258). -/
theorem test_trap : after (exec (.trap t0 0x1234) sx) (fun t => decide ((t.work.ctx 0).halt.reason = 5 ∧ (t.work.ctx 0).halt.detail = 0x1234)) = true := by
  decide +kernel

/-- Tile 0 with four loop levels. -/
def sdeep : State := onT 0 (fun k => { k with loops := List.replicate 4 { first := 16, last := 64, remaining := 2, iteration := 0 } }) sx

/-- A fifth level halts with 0x04 at the address of the LOOP (R255). -/
theorem test_fifth_level :
    after (exec (.loop t0 (.imm 3) 32 40) sdeep) (fun t => decide ((t.work.ctx 0).halt.reason = 4 ∧ (t.work.ctx 0).halt.address = 8)) = true := by
  decide +kernel

/-- A count of 0 pushes nothing and does not halt (R255). -/
theorem test_empty_loop :
    after (exec (.loop t0 (.imm 0) 32 40) sdeep) (fun t => !(t.work.ctx 0).halt.valid && decide ((t.work.tile 0).pc = 40)) = true := by decide +kernel

/-- TICK_FIRE takes the tick that was announced and starts its pitch at cycle 0 (R41, R49). -/
theorem test_tick_counts : after (exec .tickFire (onP (fun p => { p with announced := some { belay 0 0 with tick := 9 } }) sp))
      (fun t => decide (t.dev.pitch.tickCount = 9 ∧ t.dev.pitch.cycle = 0)) = true := by decide +kernel

/-- A set LINK_DISABLE brings a link down (LINK registers of chapter 17). -/
theorem test_link_disable : after (exec (.linkDisable 0 true) (lk fun l => { l with state := .up })) (fun t => decide ((t.work.link 0).state = .down)) = true := by
  decide +kernel

/-- The debug-disable fuse burns with the key 0xD15A and with no other (R532). -/
theorem test_debug_disable :
    after (exec (.secDebugDisable 0xD15A) State.reset) (fun t => t.fuses.debugDisabled) = true
    ∧ after (exec (.secDebugDisable 0xD15B) State.reset) (fun t => !t.fuses.debugDisabled) = true := by decide +kernel

/-- An integer sum of the tile core wraps at 64 bits (R247). -/
theorem test_sum_wraps :
    after (exec (.scalarInstruction t0 (.int .add 3 1 2)) (onT 0 (fun k => { k with g := updAt (updAt k.g 1 fun _ => 0xFFFFFFFFFFFFFFFF) 2 fun _ => 2 }) sx))
      (fun t => decide ((t.work.tile 0).greg 3 = 1)) = true := by decide +kernel

/-- No instruction writes g0 (R247). -/
theorem test_g0 : after (exec (.scalarInstruction t0 (.imm 0 7)) sx) (fun t => decide ((t.work.tile 0).greg 0 = 0)) = true := by decide +kernel

end Sys2Proof.Tests
end

section
/-!
PROOFS. Scalar control on the tile core (R216, R247 to R254): changes of one tile, what an instruction that is done, jumps or goes
elsewhere comes to, and execution beyond the loaded image.
-/

namespace Sys2Proof.Machine

/-! ### Changes in place -/

/-- Two changes of one element are one change. -/
theorem updAt_updAt {α : Type} (l : List α) (i : Nat) (f g : α → α) : updAt (updAt l i f) i g = updAt l i fun x => g (f x) := by
  induction l generalizing i with
  | nil => rfl
  | cons x xs ih =>
    cases i with
    | zero => rfl
    | succ i => exact congrArg (x :: ·) (ih i)

/-- Two changes of one tile are one change. -/
theorem Work.updTile_updTile (w : Work) (t : Nat) (f g : Tile → Tile) : (w.updTile t f).updTile t g = w.updTile t fun k => g (f k) :=
  congrArg (fun ts => w.upd fun d => { d with tiles := ts }) (updAt_updAt w.d.tiles t f g)

/-- An element of a list of which several different elements were changed alike. -/
theorem foldl_updAt_getElem? {α : Type} (f : α → α) (ns : List Nat) (hn : ns.Nodup) (l : List α) (j : Nat) :
    (ns.foldl (fun l n => updAt l n f) l)[j]? = if j ∈ ns then l[j]?.map f else l[j]? := by
  induction ns generalizing l with
  | nil => simp
  | cons n ns ih =>
    obtain ⟨hnot, hn⟩ := List.nodup_cons.mp hn
    rw [List.foldl_cons, ih hn, updAt_getElem?]
    by_cases hj : j = n
    · subst hj; simp [hnot]
    · simp [hj]

/-! ### Instructions of the tile core -/

/-- A taken branch at the address of a running tile core (R254). -/
theorem State.issue_jump {s : State} {t : TileRef} {c a : Nat} {f : Nat → Work → Issued} {v : Work} (h : s.work.executing t = some c)
    (hp : t.pc < (s.work.tile t.tile).imageLen) (hf : f c s.work = .jump v a) :
    s.work.issue t f = (v.updTile t.tile fun k => { k with pc := a, loops := branchLoops a k.loops }).count Ctr.tileCoreInstructions 1 := by
  unfold Work.issue; rw [h]; dsimp only; rw [if_neg (by omega), hf]

/-- An instruction that goes on elsewhere with the loop levels as they stand (R254). -/
theorem State.issue_go {s : State} {t : TileRef} {c a : Nat} {f : Nat → Work → Issued} {v : Work} (h : s.work.executing t = some c)
    (hp : t.pc < (s.work.tile t.tile).imageLen) (hf : f c s.work = .go v a) :
    s.work.issue t f = (v.updTile t.tile fun k => { k with pc := a }).count Ctr.tileCoreInstructions 1 := by
  unfold Work.issue; rw [h]; dsimp only; rw [if_neg (by omega), hf]

/-- Execution at or beyond the loaded image halts the context (R250). -/
theorem State.issue_beyond {s : State} {t : TileRef} {c : Nat} (f : Nat → Work → Issued) (h : s.work.executing t = some c)
    (hp : (s.work.tile t.tile).imageLen ≤ t.pc) :
    s.work.issue t f = s.work.halt c (tileRec t 0 (s.work.tile t.tile).loops.length 0x01 0) := by
  unfold Work.issue; rw [h]; dsimp only; rw [if_pos hp]
  unfold Work.haltTile; rw [(Work.executing_some h).1]

/-- A command that comes to one change of the tile and the count of its instruction answers `State.ran`. -/
theorem exec_issue_ran {i : Instr} {s : State} {t : TileRef} {f : Nat → Work → Issued} {g : Tile → Tile}
    (he : exec i s = .next (s.exec fun w => w.issue t f))
    (e : s.work.issue t f = (s.work.updTile t.tile g).count Ctr.tileCoreInstructions 1) : exec i s = .next (s.ran t.tile g) :=
  exec_next_dev he e rfl rfl

/-- A scalar instruction is taken up as every instruction of the tile core is. -/
theorem exec_scalar (t : TileRef) (op : ScalarOp) (s : State) :
    exec (.scalarInstruction t op) s = .next (s.exec fun w => w.issue t fun _ w => w.scalar t op) := rfl

/-- A scalar instruction that changes its tile by `g` and is done. -/
theorem exec_scalar_done {t : TileRef} {op : ScalarOp} {c : Nat} {s : State} {g : Tile → Tile} (h : s.work.takes t c)
    (hf : s.work.scalar t op = .done (s.work.updTile t.tile g)) :
    exec (.scalarInstruction t op) s = .next (s.ran t.tile fun k => (g k).advance t.pc t.next) := by
  obtain ⟨hx, hp, -⟩ := h
  refine exec_issue_ran (exec_scalar t op s) ?_
  rw [State.issue_done hx hp hf, Work.updTile_updTile]

/-- A branch, taken or not (R254). -/
theorem exec_branch {t : TileRef} {c : Nat} {s : State} (op : BrOp) (ra rb target : Nat) (h : s.work.takes t c) :
    exec (.scalarInstruction t (.branch op ra rb target)) s = .next (s.ran t.tile fun x =>
      if branchTaken op ((s.work.tile t.tile).greg ra) ((s.work.tile t.tile).greg rb) then
        { x with pc := target, loops := branchLoops target x.loops }
      else x.advance t.pc t.next) := by
  obtain ⟨hx, hp, -⟩ := h
  refine exec_issue_ran (exec_scalar t _ s) ?_
  by_cases hb : branchTaken op ((s.work.tile t.tile).greg ra) ((s.work.tile t.tile).greg rb) = true
  · rw [State.issue_jump hx hp (if_pos hb)]
    simp only [if_pos hb]
  · rw [State.issue_done hx hp (if_neg hb)]
    simp only [if_neg hb]

/-- CALL (R254). -/
theorem exec_call {t : TileRef} {c : Nat} {s : State} (rd target : Nat) (h : s.work.takes t c) :
    exec (.scalarInstruction t (.call rd target)) s
      = .next (s.ran t.tile fun k => { k.setG rd (BitVec.ofNat 64 t.next) with pc := target }) := by
  obtain ⟨hx, hp, -⟩ := h
  refine exec_issue_ran (exec_scalar t _ s) ?_
  rw [State.issue_go hx hp rfl, Work.setG, Work.updTile_updTile]

/-- RET (R254). -/
theorem exec_ret {t : TileRef} {c : Nat} {s : State} (ra : Nat) (h : s.work.takes t c) :
    exec (.scalarInstruction t (.ret ra)) s
      = .next (s.ran t.tile fun k => { k with pc := ((s.work.tile t.tile).greg ra).toNat }) := by
  obtain ⟨hx, hp, -⟩ := h
  exact exec_issue_ran (exec_scalar t _ s) (State.issue_go hx hp rfl)

/-- A tile-store range within the store has no fault. -/
theorem storeFault_none {off len : Nat} (h : off + len ≤ tileStoreSize) : storeFault off len = none := if_pos h

/-- A ring whose registers hold values within R216 is set. -/
theorem Work.setRing_done {w : Work} {t : TileRef} {n base slot slots b z m : Nat} (hn : n < 4)
    (hb : ((w.tile t.tile).greg base).toNat = b) (hz : ((w.tile t.tile).greg slot).toNat = z)
    (hm : ((w.tile t.tile).greg slots).toNat = m) (hb64 : b % 64 = 0) (hz64 : z % 64 = 0) (hlo : 64 ≤ z) (hhi : z ≤ 4096)
    (hm1 : 1 ≤ m) (hm2 : m ≤ 65536) (hfit : b + z * m ≤ tileStoreSize) :
    w.setRing t n base slot slots = .done (w.updTile t.tile fun k =>
      k.updRing n fun _ => { base := b, slotSize := z, slots := m, produced := 0, consumed := 0 }) := by
  unfold Work.setRing
  dsimp only
  rw [hb, hz, hm, if_neg (by omega), storeFault_none hfit]

/-- A scalar instruction at or beyond the loaded image halts its context with ILLEGAL_INSTRUCTION (R250). -/
theorem exec_scalar_beyond {t : TileRef} {c : Nat} {s : State} (op : ScalarOp) (h : s.work.executing t = some c)
    (hp : (s.work.tile t.tile).imageLen ≤ t.pc) :
    ∃ u, exec (.scalarInstruction t op) s = .next u ∧ (u.work.ctx c).halt.valid = true ∧ (u.work.ctx c).halt.reason = 0x01 := by
  obtain ⟨he, hv⟩ := Ctx.active_enable (Work.executing_some h).2.1
  obtain ⟨u, hu, hr, -⟩ := exec_halts (exec_scalar t op s) (State.issue_beyond _ h hp) rfl he hv
  exact ⟨u, hu, by rw [hr]; rfl, by rw [hr]; rfl⟩

/-- Settles O36: each instruction by its one change of the tile, the halts by the record that they leave. -/
theorem scalarControlCompletes : Obligations.ScalarControlCompletes := by
  unfold Obligations.ScalarControlCompletes
  refine ⟨?_, ?_, ?_, ?_, ?_, ?_, ?_⟩
  · intro t op ra rb target c s h
    exact exec_branch op ra rb target h
  · intro t rd target c s h
    exact exec_call rd target h
  · intro t ra c s h
    exact exec_ret ra h
  · intro t rd c s h
    exact ⟨exec_scalar_done h rfl, exec_scalar_done h rfl, exec_scalar_done h rfl⟩
  · intro t n base slot slots b z m c s h hn hb hz hm hb64 hz64 hlo hhi hm1 hm2 hfit
    exact exec_scalar_done h (Work.setRing_done hn hb hz hm hb64 hz64 hlo hhi hm1 hm2 hfit)
  · intro t c s h
    obtain ⟨hx, hp, -⟩ := h
    obtain ⟨u, hu, hvalid, hreason, -⟩ := exec_issue_halts (exec_scalar t .illegal s) hx hp rfl
    exact ⟨u, hu, hvalid, hreason⟩
  · intro t op c s h hp
    exact exec_scalar_beyond op h hp

end Sys2Proof.Machine
end

section
/-!
PROOFS. The pitch commands (R47 to R53): what an announcement, a done-report and a tick announcement change and leave unchanged, and
the halts of a lost tick and a sub-pitch overrun.
-/

namespace Sys2Proof.Machine

/-- A command whose meaning ends in `v` answers the state that `v` leaves, and that state alone. -/
theorem exec_finish {c : Instr} {s : State} {f : Work → Work} {v : Work} (h : exec c s = .next (s.exec f)) (e : f s.work = v) :
    exec c s = .next (s.finish v) := by
  rw [h, State.exec_eq, e]

/-! ### Announcements and done-reports -/

/-- What no announcement and no done-report changes: contexts, tiles, storage, the tick count and the children's reports. -/
def Work.reportFrame (w : Work) : List Ctx × List Tile × List Host.Cell × List (Nat × Nat) × W64 × List ChildReport :=
  (w.d.ctxs, w.d.tiles, w.log, w.wiped, w.d.pitch.tickCount, w.d.pitch.reports)

/-- The state left by a meaning that keeps the report frame of one that wrote nothing. -/
theorem State.finish_reportFrame {s : State} {v u : Work} (h : v.reportFrame = u.reportFrame) (hl : u.log = []) (hw : u.wiped = []) :
    (s.finish v).dev.ctxs = u.d.ctxs ∧ (s.finish v).dev.tiles = u.d.tiles ∧ (s.finish v).mem = s.mem
      ∧ (s.finish v).dev.pitch.tickCount = u.d.pitch.tickCount ∧ (s.finish v).dev.pitch.reports = u.d.pitch.reports := by
  simp only [Work.reportFrame, Prod.mk.injEq] at h
  obtain ⟨hc, ht, hlog, hwiped, htick, hrep⟩ := h
  refine ⟨?_, ?_, ?_, ?_, ?_⟩
  · rw [State.finish_ctxs, hc]
  · rw [State.finish_tiles, ht]
  · exact State.finish_mem s v (hlog.trans hl) (hwiped.trans hw)
  · rw [State.finish_pitch, htick]
  · rw [State.finish_pitch, hrep]

/-- What a BELAY message keeps: all that the message queue, a flit counter and a link's record do not touch (R464, R482). -/
theorem Work.sendBelay_keeps {β : Type} (p : Work → β)
    (hout : ∀ (v : Work) (o : List LinkOut), p (v.upd fun d => { d with linkOut := o }) = p v)
    (hcount : ∀ v id i n, p (Work.countInst v id i n) = p v) (hlink : ∀ v l f, p (Work.updLink v l f) = p v)
    (w : Work) (l : Nat) (b : Belay) : p (w.sendBelay l b) = p w := by
  unfold Work.sendBelay Work.send
  rw [hlink, hcount]
  exact hout w _

/-- The forwarding of an announcement changes nothing of the pitch (R474). -/
theorem Work.forward_pitch (w : Work) (b : Belay) : (w.forward b).d.pitch = w.d.pitch :=
  Work.forward_keeps (fun v => v.d.pitch)
    (Work.sendBelay_keeps (fun v => v.d.pitch) (fun _ _ => rfl) (fun _ _ _ _ => rfl) (fun _ _ _ => rfl)) w b

/-- A BELAY message keeps the report frame. -/
theorem Work.sendBelay_reportFrame (w : Work) (l : Nat) (b : Belay) : (w.sendBelay l b).reportFrame = w.reportFrame :=
  Work.sendBelay_keeps Work.reportFrame (fun _ _ => rfl) (fun _ _ _ _ => rfl) (fun _ _ _ => rfl) w l b

/-- A generator's announcement keeps the report frame (R48). -/
theorem Work.announce_reportFrame (w : Work) (stretch : Nat) (overrun : Bool) :
    (w.announce stretch overrun).reportFrame = w.reportFrame := by
  unfold Work.announce
  dsimp only
  rw [Work.forward_keeps Work.reportFrame Work.sendBelay_reportFrame]
  rfl

/-- A done-report, or a held tick's announcement, keeps the report frame (R47, R50). -/
theorem Work.tryReport_reportFrame (w : Work) : w.tryReport.reportFrame = w.reportFrame :=
  Work.tryReport_keeps Work.reportFrame Work.sendBelay_reportFrame (fun _ _ _ _ _ _ => rfl) w

/-- Bits 0 and 1 of an announcement's flags: swap and overrun (R474). -/
theorem bitOf_announceFlags : ∀ swap overrun fence : Bool,
    let flags := (if swap then 1 else 0) + (if overrun then 2 else 0) + (if fence then 4 else 0)
    bitOf flags 0 = swap ∧ bitOf flags 1 = overrun := by
  decide

/-- What a generator announces: the next count, for L after now, an overrun as such and never with a swap (R48, R50, R51). -/
theorem Work.announce_announced (w : Work) (stretch : Nat) (overrun : Bool) :
    ∃ b, (w.announce stretch overrun).d.pitch.announced = some b ∧ b.tick = w.tick + 1 ∧ bitOf b.flags 1 = overrun
      ∧ (overrun = true → bitOf b.flags 0 = false) ∧ b.stretch = stretch ∧ b.length = w.d.active.pitchLen
      ∧ (w.announce stretch overrun).d.pitch.announceAt = w.d.pitch.timerNs + w.d.pitch.margin := by
  unfold Work.announce
  dsimp only
  rw [Work.forward_pitch]
  refine ⟨_, rfl, rfl, (bitOf_announceFlags ..).2, fun ho => ?_, rfl, rfl, rfl⟩
  rw [(bitOf_announceFlags ..).1, ho]
  rfl

/-- ANCHOR_DECISION_POINT where a tick generator may still announce (R48, R50). -/
theorem exec_anchorDecisionPoint {s : State} (hrun : s.dev.pitch.run = true) (hgen : s.dev.pitch.role.generates = true)
    (hann : s.dev.pitch.announced = none) :
    exec .anchorDecisionPoint s = .next (s.finish (if s.work.canAnnounce then s.work.announce 0 false
      else s.work.upd fun d => { d with pitch := { d.pitch with held := true } })) := by
  refine exec_finish rfl ?_
  simp only [State.work_d, hrun, hgen, hann, Bool.not_true, Option.isSome_none, Bool.or_self, Bool.false_eq_true, if_false]

/-- OVERRUN_ANNOUNCEMENT while a tick generator holds its tick (R51). -/
theorem exec_overrunAnnouncement {s : State} (hrun : s.dev.pitch.run = true) (hgen : s.dev.pitch.role.generates = true)
    (hheld : s.dev.pitch.held = true) (hann : s.dev.pitch.announced = none) :
    exec .overrunAnnouncement s = .next (s.finish (s.work.announce s.work.graceNs true)) := by
  refine exec_finish rfl ?_
  simp only [State.work_d, hrun, hgen, hheld, hann, Bool.not_true, Option.isSome_none, Bool.or_self, Bool.false_eq_true, if_false]

/-- Settles O8: by what an announcement says and by the frame that it keeps. -/
theorem announcementsComplete : Obligations.AnnouncementsComplete := by
  unfold Obligations.AnnouncementsComplete
  refine ⟨?_, ?_⟩
  · intro s hrun hgen hann
    refine ⟨_, exec_anchorDecisionPoint hrun hgen hann, ?_⟩
    by_cases hcan : s.work.canAnnounce = true
    · rw [if_pos hcan]
      obtain ⟨hctxs, htiles, hmem, htick, -⟩ :=
        State.finish_reportFrame (s := s) (Work.announce_reportFrame s.work 0 false) rfl rfl
      obtain ⟨b, hb, hnext, hover, -, hstretch, hlen, hat⟩ := Work.announce_announced s.work 0 false
      refine ⟨hctxs, htiles, hmem, htick, fun _ => ⟨b, ?_, hnext, hover, hstretch, hlen, ?_⟩, fun hno => ?_⟩
      · rw [State.finish_pitch, hb]
      · rw [State.finish_pitch, hat]; rfl
      · exact absurd hcan (by simp [hno])
    · rw [if_neg hcan, State.finish_eq s _ rfl rfl]
      exact ⟨rfl, rfl, rfl, rfl, fun hyes => absurd hyes hcan, fun _ => rfl⟩
  · intro s hrun hgen hheld hann
    obtain ⟨hctxs, htiles, hmem, htick, -⟩ :=
      State.finish_reportFrame (s := s) (Work.announce_reportFrame s.work s.work.graceNs true) rfl rfl
    obtain ⟨b, hb, hnext, hover, hswap, hstretch, -⟩ := Work.announce_announced s.work s.work.graceNs true
    refine ⟨_, exec_overrunAnnouncement hrun hgen hheld hann, hctxs, htiles, hmem, htick, b, ?_, hnext, hover, hswap rfl, hstretch⟩
    rw [State.finish_pitch, hb]

/-! ### Messages received -/

/-- A child's report noted under its link, in place of an earlier one (R47). -/
def Work.noteReport (w : Work) (link : Nat) (p : Belay) : Work :=
  w.upd fun d =>
    { d with
      pitch :=
        { d.pitch with
          reports := (d.pitch.reports.filter fun e => e.link != link)
            ++ [{ link := link, swapReady := bitOf p.flags 0, fenceClear := bitOf p.flags 1 }] } }

/-- A report taken keeps the report frame of the report noted. -/
theorem Work.takeReport_reportFrame (w : Work) (link : Nat) (p : Belay) :
    (w.takeReport link p).reportFrame = (w.noteReport link p).reportFrame :=
  Work.tryReport_reportFrame (w.noteReport link p)

/-- DONE_REPORT on a child link, for the pitch that closes (R475). -/
theorem exec_doneReport {link : Nat} {p : Belay} {s : State} (hrun : s.dev.pitch.run = true) (hkind : p.kind = 1)
    (hchild : s.dev.pitch.childLinks.getLsbD link = true) (htick : p.tick = s.work.tick + 1) :
    exec (.doneReport link p) s = .next (s.finish (s.work.takeReport link p)) := by
  refine exec_finish rfl ?_
  simp only [State.work_d, hrun, hkind, hchild, htick, Bool.not_true, bne_self_eq_false, Bool.or_self, Bool.false_eq_true, if_false]

/-- A device after the check of an announcement: halted where it disagrees (R49). -/
def Work.checked (w : Work) (p : Belay) : Work := if w.mismatch p then w.haltNonUrgent (machineRec 0xC4 0) else w

/-- The check of an announcement changes nothing of the still part. -/
theorem Work.checked_still (w : Work) (p : Belay) : (w.checked p).still = w.still := by
  unfold Work.checked
  split
  · exact Work.haltNonUrgent_still ..
  · rfl

/-- The pitch after an announcement is taken: the tick it names falls due by its latency before the end of L (R48). -/
theorem Work.takeAnnouncement_pitch (w : Work) (p : Belay) :
    (w.takeAnnouncement p).d.pitch = { w.d.pitch with
      announced := some p, announceAt := w.d.pitch.timerNs + (w.d.pitch.margin * 10 - p.accLatency) / 10 } := by
  have hpitch : (w.checked p).d.pitch = w.d.pitch := Work.still_pitch (Work.checked_still w p)
  unfold Work.takeAnnouncement
  dsimp only
  rw [Work.forward_pitch, ← Work.checked]
  generalize w.checked p = v at hpitch
  split <;> simp only [Work.upd_d, Work.countInst_d, hpitch]

/-- What a tick announcement keeps is what its check keeps (R49, R474). -/
theorem Work.takeAnnouncement_keeps {β : Type} (q : Work → β) (hsend : ∀ v l b, q (Work.sendBelay v l b) = q v)
    (hcount : ∀ v id i n, q (Work.countInst v id i n) = q v) (hpitch : ∀ (v : Work) (f : Pitch → Pitch), q (v.updPitch f) = q v)
    (w : Work) (p : Belay) : q (w.takeAnnouncement p) = q (w.checked p) := by
  unfold Work.takeAnnouncement
  dsimp only
  rw [Work.forward_keeps q hsend, ← Work.checked]
  generalize w.checked p = v
  refine (hpitch _ fun x => { x with announced := some p, announceAt := x.timerNs + (v.d.pitch.margin * 10 - p.accLatency) / 10 }).trans ?_
  split
  · exact hcount ..
  · rfl

/-- What a tick announcement changes only by the halts of its check: configuration sets, contexts, tiles and storage. -/
def Work.announceFrame (w : Work) : Fuses × CfgSet × CfgSet × List Ctx × List Tile × List Host.Cell × List (Nat × Nat) :=
  (w.fz, w.d.active, w.d.shadow, w.d.ctxs, w.d.tiles, w.log, w.wiped)

/-- A tick announcement keeps of that what its check keeps. -/
theorem Work.takeAnnouncement_announceFrame (w : Work) (p : Belay) :
    (w.takeAnnouncement p).announceFrame = (w.checked p).announceFrame :=
  Work.takeAnnouncement_keeps Work.announceFrame
    (Work.sendBelay_keeps _ (fun _ _ => rfl) (fun _ _ _ _ => rfl) (fun _ _ _ => rfl)) (fun _ _ _ _ => rfl) (fun _ _ => rfl) w p

/-- TICK_ANNOUNCEMENT on a follower's parent link (R475). -/
theorem exec_tickAnnouncement {link : Nat} {p : Belay} {s : State} (hrun : s.dev.pitch.run = true) (hkind : p.kind = 0)
    (hrole : s.dev.pitch.role = .follower) (hparent : s.dev.pitch.parentLink = link) :
    exec (.tickAnnouncement link p) s = .next (s.finish (s.work.takeAnnouncement p)) := by
  refine exec_finish rfl ?_
  simp only [State.work_d, hrun, hkind, hrole, hparent, Bool.not_true, bne_self_eq_false, ne_eq, not_true_eq_false, decide_false,
    Bool.or_self, Bool.false_eq_true, if_false]

/-- Settles O9: a report by the frame that the device's own report keeps, an announcement by its pitch and by its halts. -/
theorem belayMessagesComplete : Obligations.BelayMessagesComplete := by
  unfold Obligations.BelayMessagesComplete
  refine ⟨?_, ?_⟩
  · intro link p s hrun hkind hchild htick
    exact ⟨_, exec_doneReport hrun hkind hchild htick,
      State.finish_reportFrame (u := s.work.noteReport link p) (Work.takeReport_reportFrame s.work link p) rfl rfl⟩
  · intro link p s hrun hkind hrole hparent
    have hframe := Work.takeAnnouncement_announceFrame s.work p
    simp only [Work.announceFrame, Prod.mk.injEq] at hframe
    obtain ⟨hfz, hactive, hshadow, hctxs, htiles, hlog, hwiped⟩ := hframe
    have hstill := Work.checked_still s.work p
    refine ⟨_, exec_tickAnnouncement hrun hkind hrole hparent, ?_, ?_, ?_, fun hok => ?_, fun hbad c hc he hu hv => ?_⟩
    · rw [State.finish_pitch, Work.takeAnnouncement_pitch]; rfl
    · rw [State.finish_active, hactive, Work.still_active hstill]; rfl
    · rw [State.finish_shadow, hshadow, Work.still_shadow hstill]; rfl
    · have hid : s.work.checked p = s.work := if_neg (by simp [hok])
      rw [hid] at hctxs htiles hlog hwiped
      exact ⟨by rw [State.finish_ctxs, hctxs]; rfl, by rw [State.finish_tiles, htiles]; rfl, State.finish_mem s _ hlog hwiped⟩
    · have hhalted : s.work.checked p = s.work.haltNonUrgent (machineRec 0xC4 0) := if_pos hbad
      have hctx : (s.work.takeAnnouncement p).ctx c = (s.work.checked p).ctx c := by simp only [Work.ctx, hctxs, hfz]
      rw [State.finish_ctx _ _ _ (hfz.trans (Work.still_fz hstill)), hctx, hhalted, Work.haltNonUrgent_rec _ _ _ hc he hu hv]
      exact ⟨rfl, rfl⟩

/-! ### Halts of the pitch -/

/-- The urgent context is urgent and enabled (R453). -/
theorem Work.urgentCtx_some {w : Work} {c : Nat} (h : w.urgentCtx = some c) : (w.ctx c).urgent = true ∧ (w.ctx c).enable = true :=
  (Bool.and_eq_true _ _).mp (List.find?_some (p := fun c => (w.ctx c).urgent && (w.ctx c).enable) h)

/-- TICK_LOST_TIMEOUT on a follower without an announcement, its parent link up (R53). -/
theorem exec_tickLostTimeout {s : State} (hrun : s.dev.pitch.run = true) (hrole : s.dev.pitch.role = .follower)
    (htick : s.dev.pitch.ticking = true) (hann : s.dev.pitch.announced = none)
    (hup : (s.work.link s.dev.pitch.parentLink).state = .up) :
    exec .tickLostTimeout s = .next (s.finish (s.work.haltAll (machineRec 0xC3 0))) := by
  refine exec_finish rfl ?_
  simp only [State.work_d, hrun, hrole, htick, hann, hup, Role.generates, Bool.not_true, Option.isSome_none, ne_eq, not_true_eq_false,
    decide_false, Bool.or_self, Bool.false_eq_true, if_false]

/-- SUBPITCH_OVERRUN while a batch executes (R63). -/
theorem exec_subpitchOverrun {s : State} {c : Nat} (hc : s.work.urgentCtx = some c) (hx : (s.work.ctx c).executing ≠ []) :
    exec .subpitchOverrun s = .next (s.finish (s.work.halt c (machineRec 0xC2 0))) := by
  refine exec_finish rfl ?_
  simp only [hc, if_neg hx]

/-- Settles O10: by the record of a halt and by what a halt leaves as it is. -/
theorem pitchHaltsComplete : Obligations.PitchHaltsComplete := by
  unfold Obligations.PitchHaltsComplete
  refine ⟨?_, ?_⟩
  · intro s hrun hrole htick hann hup
    have hstill := Work.haltAll_still s.work (machineRec 0xC3 0)
    refine ⟨_, exec_tickLostTimeout hrun hrole htick hann hup, ?_, ?_, fun c hc he hv => ?_⟩
    · rw [State.finish_pitch, Work.still_pitch hstill]; rfl
    · rw [State.finish_links, Work.still_links hstill]; rfl
    · rw [State.finish_ctx _ _ _ (Work.still_fz hstill), Work.haltAll_rec _ _ _ hc he hv]
      exact ⟨rfl, rfl⟩
  · intro s c hc hx hv
    have hstill := Work.halt_still s.work c (machineRec 0xC2 0)
    have hctx := fun k => State.finish_ctx s _ k (Work.still_fz hstill)
    have hrec := Work.halt_rec s.work c (machineRec 0xC2 0) (Work.urgentCtx_some hc).2 hv
    refine ⟨_, exec_subpitchOverrun hc hx, ?_, ?_, ?_, ?_, fun k hk => ?_⟩
    · rw [State.finish_pitch, Work.still_pitch hstill]; rfl
    · rw [State.finish_links, Work.still_links hstill]; rfl
    · rw [hctx, hrec]; rfl
    · rw [hctx, hrec]; rfl
    · rw [hctx, Work.halt_keeps _ _ _ _ (Or.inr hk)]

end Sys2Proof.Machine
end

section
/-!
PROOFS. The urgent dispatch and its end (R62, R454, R455).
-/

namespace Sys2Proof.Machine

/-! ### Starting a batch -/

/-- Tiles given the records of a batch and started at an entry address (R454). -/
def Work.startTiles (w : Work) (ts : List Nat) (b : List UrgentReq) (pc : Nat) : Work :=
  ts.foldl (fun w t => (w.writeRequests t b).updTile t fun k => k.startUrgent pc b.length) w

/-- Starting tiles changes no other part of the device. -/
theorem Work.startTiles_d (ts : List Nat) (b : List UrgentReq) (pc : Nat) (w : Work) :
    (w.startTiles ts b pc).d
      = { w.d with tiles := ts.foldl (fun l t => updAt l t fun k => k.startUrgent pc b.length) w.d.tiles } := by
  unfold Work.startTiles
  induction ts generalizing w with
  | nil => rfl
  | cons t ts ih => rw [List.foldl_cons, ih]; rfl

/-- Starting tiles changes nothing of the still part. -/
theorem Work.startTiles_still (w : Work) (ts : List Nat) (b : List UrgentReq) (pc : Nat) : (w.startTiles ts b pc).still = w.still :=
  Work.foldl_still (fun w t => (w.writeRequests t b).updTile t fun k => k.startUrgent pc b.length) (fun _ _ => rfl) ts w

/-- Starting tiles changes no context. -/
theorem Work.startTiles_ctx (w : Work) (ts : List Nat) (b : List UrgentReq) (pc c : Nat) : (w.startTiles ts b pc).ctx c = w.ctx c := by
  simp only [Work.ctx, Work.startTiles_d, Work.still_fz (Work.startTiles_still w ts b pc)]

/-- A tile of the device that a batch starts. -/
theorem Work.startTiles_tile_mem {w : Work} {ts : List Nat} (b : List UrgentReq) (pc : Nat) {n : Nat} (hd : ts.Nodup) (hn : n ∈ ts)
    (hlen : n < w.d.tiles.length) : (w.startTiles ts b pc).tile n = (w.tile n).startUrgent pc b.length := by
  simp only [Work.tile, Work.startTiles_d, foldl_updAt_getElem? _ ts hd, if_pos hn, List.getElem?_eq_getElem hlen, Option.map_some,
    Option.getD_some]

/-- A tile that a batch does not start. -/
theorem Work.startTiles_tile_not_mem {w : Work} {ts : List Nat} (b : List UrgentReq) (pc : Nat) {n : Nat} (hd : ts.Nodup) (hn : n ∉ ts) :
    (w.startTiles ts b pc).tile n = w.tile n := by
  simp only [Work.tile, Work.startTiles_d, foldl_updAt_getElem? _ ts hd, if_neg hn]

/-- The tiles of a context are listed once each. -/
theorem Ctx.tiles_nodup (x : Ctx) : x.tiles.Nodup := List.nodup_range.filter _

/-- A context whose batch `b` has begun to execute at a time (R454). -/
def Ctx.dispatched (x : Ctx) (b : List UrgentReq) (now : Nat) : Ctx :=
  { x with
    waiting := x.waiting.filter fun v => !(b.any fun e => e.desc.seq == v.desc.seq)
    executing := b, dispatchedAt := now, lateDispatch := false }

/-- A working state in which a batch has been dispatched to the tiles of context `c` (R454). -/
def Work.dispatched (w : Work) (c : Nat) (b : List UrgentReq) (pc : Nat) : Work :=
  ((w.startTiles (w.ctx c).tiles b pc).countCtx c Ctr.urgentBatches 1).updCtx c fun x => x.dispatched b w.d.nowNs

/-- The dispatch of a batch whose entry the context's job has (R454). -/
theorem Work.dispatchUrgent_batch {w : Work} {c pc : Nat} {j : Job} {u : UrgentReq} {us : List UrgentReq}
    (hb : urgentBatchOf (w.ctx c) = u :: us) (hj : (w.ctx c).job = some j) (he : j.entries[u.entry]? = some pc) :
    w.dispatchUrgent c = w.dispatched c (u :: us) pc := by
  have hnow : (w.startTiles (w.ctx c).tiles (u :: us) pc).d.nowNs = w.d.nowNs := by rw [Work.startTiles_d]
  unfold Work.dispatchUrgent Work.dispatched
  simp only [hb, hj, he]
  rw [← hnow]
  rfl

/-- The dispatching context afterwards. -/
theorem Work.dispatched_ctx_same {w : Work} {c : Nat} (b : List UrgentReq) (pc : Nat) (hc : c < w.d.ctxs.length) :
    (w.dispatched c b pc).ctx c = (w.ctx c).dispatched b w.d.nowNs := by
  unfold Work.dispatched
  rw [Work.updCtx_ctx_same _ _ _ (by simpa only [Work.countCtx_d, Work.startTiles_d] using hc)]
  exact congrArg (fun x => Ctx.dispatched x b w.d.nowNs) (Work.startTiles_ctx ..)

/-- Every other context afterwards. -/
theorem Work.dispatched_ctx_other {w : Work} {c k : Nat} (b : List UrgentReq) (pc : Nat) (hk : k ≠ c) :
    (w.dispatched c b pc).ctx k = w.ctx k := by
  unfold Work.dispatched
  rw [Work.updCtx_ctx_other _ _ _ _ hk]
  exact Work.startTiles_ctx ..

/-- The tiles afterwards are as the start left them. -/
theorem Work.dispatched_tile (w : Work) (c : Nat) (b : List UrgentReq) (pc n : Nat) :
    (w.dispatched c b pc).tile n = (w.startTiles (w.ctx c).tiles b pc).tile n := by
  simp only [Work.dispatched, Work.tile, Work.updCtx_d, Work.countCtx_d]

/-- A dispatch changes nothing of the still part. -/
theorem Work.dispatched_still (w : Work) (c : Nat) (b : List UrgentReq) (pc : Nat) : (w.dispatched c b pc).still = w.still := by
  rw [Work.dispatched, Work.updCtx_still, Work.countCtx_still, Work.startTiles_still]

/-! ### The commands -/

/-- SUB_TICK with the urgent context idle: a dispatch (R62). -/
theorem exec_subTick {s : State} {c : Nat} (hrun : s.dev.pitch.run = true)
    (hgo : s.dev.pitch.role.generates = true ∨ s.dev.pitch.ticking = true) (hc : s.work.urgentCtx = some c)
    (ha : (s.work.ctx c).active = true) (hx : (s.work.ctx c).executing = []) :
    exec .subTick s = .next (s.finish (s.work.dispatchUrgent c)) := by
  have hstart : ¬ (!s.dev.pitch.run || (!s.dev.pitch.role.generates && !s.dev.pitch.ticking)) = true := by
    rcases hgo with h | h <;> simp [hrun, h]
  have hnow : s.work.subTickNow = s.work.dispatchUrgent c := by
    unfold Work.subTickNow
    simp only [hc, ha, hx, Bool.not_true, Bool.false_eq_true, if_false, if_true]
  refine exec_finish rfl ?_
  simp only [State.work_d, if_neg hstart, hnow]

/-- URGENT_EXECUTION_END once every tile has stopped and drained (R455). -/
theorem exec_urgentExecutionEnd {s : State} {c : Nat} (hc : s.work.urgentCtx = some c) (hx : (s.work.ctx c).executing ≠ [])
    (hidle : s.work.tilesIdle c = true) (ha : (s.work.ctx c).active = true) :
    exec .urgentExecutionEnd s = .next (s.finish (s.work.endUrgent c)) := by
  have hend : ¬ ((s.work.ctx c).executing = [] ∨ (!s.work.tilesIdle c) = true ∨ (!(s.work.ctx c).active) = true) := by
    simp [hx, hidle, ha]
  refine exec_finish rfl ?_
  simp only [hc, if_neg hend]

/-- A context told that nothing executes executes nothing, whether the device has it or not. -/
theorem Work.executing_cleared (w : Work) (c : Nat) : ((w.updCtx c fun x => { x with executing := [] }).ctx c).executing = [] := by
  rcases Nat.lt_or_ge c w.d.ctxs.length with h | h
  · rw [Work.updCtx_ctx_same _ _ _ h]
  · rw [Work.ctx, List.getElem?_eq_none (by rw [Work.updCtx_length]; exact h)]
    rfl

/-- After an urgent execution in which no dispatch fell due nothing executes (R455). -/
theorem Work.endUrgent_executing {w : Work} {c : Nat} (hlate : (w.ctx c).lateDispatch = false) :
    ((w.endUrgent c).ctx c).executing = [] := by
  unfold Work.endUrgent
  simp only [hlate, Bool.false_eq_true, if_false]
  exact Work.executing_cleared ..

/-- Settles O11: the dispatch by its tiles and contexts, the end by the context that it clears. -/
theorem urgentDispatchCompletes : Obligations.UrgentDispatchCompletes := by
  unfold Obligations.UrgentDispatchCompletes
  refine ⟨?_, ?_⟩
  · intro s c pc j u us hrun hgo hc ha hx hb hj he
    have hlen : c < s.work.d.ctxs.length := Work.ctx_exists _ _ (Work.urgentCtx_some hc).2
    have hstill := Work.dispatched_still s.work c (u :: us) pc
    have hctx := fun k => State.finish_ctx s (s.work.dispatched c (u :: us) pc) k (Work.still_fz hstill)
    have hd := Ctx.tiles_nodup (s.work.ctx c)
    refine ⟨s.finish (s.work.dispatched c (u :: us) pc), ?_, ?_, ?_, ?_, fun k hk => ?_, fun n hn ht => ?_, fun n hn => ?_⟩
    · rw [exec_subTick hrun hgo hc ha hx, Work.dispatchUrgent_batch hb hj he]
    · rw [State.finish_pitch, Work.still_pitch hstill]; rfl
    · rw [hctx, Work.dispatched_ctx_same _ _ hlen]; rfl
    · rw [hctx, Work.dispatched_ctx_same _ _ hlen]; rfl
    · rw [hctx, Work.dispatched_ctx_other _ _ hk]
    · rw [State.finish_tile, Work.dispatched_tile, Work.startTiles_tile_mem _ _ hd hn ht]
      exact ⟨rfl, rfl, rfl, rfl⟩
    · rw [State.finish_tile, Work.dispatched_tile, Work.startTiles_tile_not_mem _ _ hd hn]
  · intro s c hc hx hidle ha hlate
    have hcalm := Work.endUrgent_calm s.work c
    refine ⟨_, exec_urgentExecutionEnd hc hx hidle ha, ?_, ?_⟩
    · rw [State.finish_pitch, Work.calm_pitch hcalm]; rfl
    · rw [State.finish_ctx _ _ _ (Work.calm_fz hcalm), Work.endUrgent_executing hlate]

end Sys2Proof.Machine
end

section
/-!
PROOFS. Arming and disarming a configuration swap (R66, R67).
-/

namespace Sys2Proof.Machine

/-- CFG_ARM_GO on a device whose registers respond. -/
theorem exec_cfgArmGo {s : State} (m : Bool) (hr : s.dev.responds = true) :
    exec (.cfgArmGo m) s = .next (s.finish (s.work.armGo m)) := by
  refine exec_finish rfl ?_
  simp only [State.work_d, hr, if_true]

/-- CFG_DISARM on a device whose registers respond. -/
theorem exec_cfgDisarm {s : State} (hr : s.dev.responds = true) : exec .cfgDisarm s = .next (s.finish s.work.disarm) := by
  refine exec_finish rfl ?_
  simp only [State.work_d, hr, if_true]

/-- A meaning that wrote nothing and ends in a change of the CFG block's control fields: the state it leaves. -/
theorem State.finish_updCfg (s : State) (v : Work) (f : CfgCtl → CfgCtl) (hl : v.log = []) (hw : v.wiped = []) :
    s.finish (v.updCfg f) = { s with dev := { v.d with cfg := f v.d.cfg } } :=
  State.finish_eq s _ hl hw

/-- The note of an armed topology table's route changes nothing but LINK_ROUTE_CAUSE and its link (R469). -/
theorem Work.noteRoute_keeps {β : Type} (p : Work → β)
    (h : ∀ (v : Work) (a b : Nat), p (v.upd fun d => { d with routeCause := a, routeLink := b }) = p v) (w : Work) :
    p w.noteRoute = p w := by
  unfold Work.noteRoute
  dsimp only
  split
  · rfl
  · exact h ..

/-- With nothing armed, an arm is tried for CFG_ARM_TICK (R66). -/
theorem Work.armGo_unarmed {w : Work} (m : Bool) (h : w.d.cfg.armed = none) : w.armGo m = w.arm m w.d.cfg.armTick.toNat := by
  simp only [Work.armGo, h, Option.isSome_none, Bool.false_eq_true, if_false]

/-- With a swap armed, only ARM_WHILE_ARMED is set (R67). -/
theorem Work.armGo_armed {w : Work} (m : Bool) (h : w.d.cfg.armed ≠ none) :
    w.armGo m = w.updCfg fun c => { c with armWhileArmed := true } := if_pos (Option.isSome_iff_ne_none.mpr h)

/-- An arm whose control checks fail (R66, R73). -/
theorem Work.arm_invalid {w : Work} {m : Bool} {target : Nat} (h : w.armCause m target ≠ 0) :
    w.arm m target = w.armInvalid (w.armCause m target) := if_pos h

/-- An arm whose checks pass stands (R66). -/
theorem Work.arm_valid {w : Work} {m : Bool} {target : Nat} (h : w.armCause m target = 0) (ht : w.armTables = none) :
    w.arm m target = w.noteRoute.updCfg fun c =>
      { c with armed := some (if m then .machine else .device), target := target, invalidCause := 0 } := by
  simp only [Work.arm, h, ht, ne_eq, not_true_eq_false, if_false]

/-- A disarm of an armed swap, in its window or late (R67). -/
theorem Work.disarm_armed {w : Work} (h : w.d.cfg.armed ≠ none) :
    w.disarm = w.updCfg fun c =>
      if w.cancelClosed then { c with disarmLate := true } else { c with armed := none, result := .disarmed } := by
  unfold Work.disarm
  rw [if_neg (by simpa using h)]
  split <;> rfl

/-- What the note of a route leaves as it is: the CFG block, the sets, contexts, tiles, the pitch and storage. -/
def Work.armFrame (w : Work) : CfgCtl × CfgSet × CfgSet × List Ctx × List Tile × Pitch × List Host.Cell × List (Nat × Nat) :=
  (w.d.cfg, w.d.active, w.d.shadow, w.d.ctxs, w.d.tiles, w.d.pitch, w.log, w.wiped)

/-- Settles O13: each outcome by the one change of the control fields that it makes. -/
theorem armAndDisarmComplete : Obligations.ArmAndDisarmComplete := by
  unfold Obligations.ArmAndDisarmComplete
  refine ⟨?_, ?_, ?_, ?_, ?_⟩
  · intro m s hr hnone hcause htables
    have hframe := Work.noteRoute_keeps Work.armFrame (fun _ _ _ => rfl) s.work
    simp only [Work.armFrame, Prod.mk.injEq] at hframe
    obtain ⟨hcfg, hactive, hshadow, hctxs, htiles, hpitch, hlog, hwiped⟩ := hframe
    refine ⟨_, exec_cfgArmGo m hr, ?_⟩
    rw [Work.armGo_unarmed m hnone, State.work_d, Work.arm_valid hcause htables, State.finish_updCfg s _ _ hlog hwiped]
    exact ⟨congrArg (fun c : CfgCtl => { c with
        armed := some (if m then .machine else .device), target := s.dev.cfg.armTick.toNat, invalidCause := 0 }) hcfg,
      hactive, hshadow, rfl, hctxs, htiles, hpitch⟩
  · intro m s hr hnone hcause
    rw [exec_cfgArmGo m hr, Work.armGo_unarmed m hnone, State.work_d, Work.arm_invalid hcause]
    exact congrArg _ (State.finish_updCfg s _ _ rfl rfl)
  · intro m s hr harmed
    rw [exec_cfgArmGo m hr, Work.armGo_armed m harmed, State.finish_updCfg s _ _ rfl rfl]
    rfl
  · intro s hr harmed hopen
    rw [exec_cfgDisarm hr, Work.disarm_armed harmed, State.finish_updCfg s _ _ rfl rfl, hopen]
    rfl
  · intro s hr harmed hclosed
    rw [exec_cfgDisarm hr, Work.disarm_armed harmed, State.finish_updCfg s _ _ rfl rfl, hclosed]
    rfl

end Sys2Proof.Machine
end

section
/-!
PROOFS. The start of a sampling operation (R81, R371) and the return of its reads (R100, R361).
-/

namespace Sys2Proof.Machine

/-! ### SAMPLE -/

/-- SAMPLE of an active context whose checks pass: the operation is taken up under a fresh number (R81). -/
theorem exec_sample_taken {r : StreamRef} {p : SampleParams} {s : State} (ha : (s.work.ctx r.ctx).active = true)
    (h : s.work.sampleFault r.ctx p = none) :
    exec (.sample r p) s = .next { s with dev := { s.dev with
      nextId := s.dev.nextId + 1
      trav := s.dev.trav ++ [{ id := s.dev.nextId, ref := r, params := p, returned := [], returns := 0 }] } } := by
  refine exec_next_dev (v := s.work.fresh.2.upd fun d => { d with
    trav := d.trav ++ [{ id := s.work.fresh.1, ref := r, params := p, returned := [], returns := 0 }] }) rfl ?_ rfl rfl
  simp only [ha, h, Bool.not_true, Bool.false_eq_true, if_false]

/-- SAMPLE of an active context with a failing check: the stop of that check (R81). -/
theorem exec_sample_stops {r : StreamRef} {p : SampleParams} {e : TravStop} {s : State} (ha : (s.work.ctx r.ctx).active = true)
    (h : s.work.sampleFault r.ctx p = some e) : exec (.sample r p) s = .next (s.finish (s.work.travStop r e)) := by
  refine exec_finish rfl ?_
  simp only [ha, h, Bool.not_true, Bool.false_eq_true, if_false]

/-- A traverse quota of 0 is the first check of SAMPLE, and it stops with QUOTA_EXCEEDED (R371). -/
theorem Work.sampleFault_noQuota {w : Work} {c : Nat} (p : SampleParams)
    (h : ((w.d.active.quotas[c]?).getD Quota.zero).traverse = 0) : w.sampleFault c p = some (.halt 0x43 4) := if_pos h

/-- Settles O17: what is taken up where no check fails, and the record of the halt where the quota is 0. -/
theorem sampleStarts : Obligations.SampleStarts := by
  unfold Obligations.SampleStarts
  refine ⟨?_, ?_⟩
  · intro r p s hactive hok
    exact exec_sample_taken hactive hok
  · intro r p s hactive hquota
    obtain ⟨he, hv⟩ := Ctx.active_enable hactive
    have hstill := Work.haltStream_still s.work r 0 0x43 4
    obtain ⟨hvalid, hreason, hdetail⟩ := Work.haltStream_rec s.work r 0 0x43 4 he hv
    have hctx := State.finish_ctx s _ r.ctx (Work.still_fz hstill)
    have hexec : exec (.sample r p) s = .next (s.finish (s.work.haltStream r 0 0x43 4)) :=
      exec_sample_stops hactive (Work.sampleFault_noQuota p hquota)
    refine ⟨_, hexec, ?_, ?_, ?_, ?_, ?_⟩
    · rw [hctx, hvalid]
    · rw [hctx, hreason]
    · rw [hctx, hdetail]
    · rw [State.finish_active, Work.still_active hstill]; rfl
    · rw [State.finish_pitch, Work.still_pitch hstill]; rfl

/-! ### TRAVERSE_READ_RETURN -/

/-- What an answered request keeps: all that a link's record does not touch (R463). -/
theorem Work.answered_keeps {β : Type} (p : Work → β) (h : ∀ v l f, p (Work.updLink v l f) = p v) (w : Work) (c : Nat) :
    p (w.answered c) = p w := by
  unfold Work.answered
  split
  · rfl
  · exact h ..

/-- A read of a context come back: from a peer, one outstanding request less (R463). -/
def Work.readBack (w : Work) (kind : SourceKind) (c : Nat) : Work := if decide (kind = .peer) then w.answered c else w

/-- A read come back keeps what an answered request keeps. -/
theorem Work.readBack_keeps {β : Type} (p : Work → β) (h : ∀ v l f, p (Work.updLink v l f) = p v) (w : Work) (kind : SourceKind)
    (c : Nat) : p (w.readBack kind c) = p w := by
  unfold Work.readBack
  split
  · exact Work.answered_keeps p h w c
  · rfl

/-- An operation with one more return, a peer's data kept for it (R100). -/
def TravOp.take (k : TravOp) (kind : SourceKind) (a : Nat) (bs : List Byte) : TravOp :=
  { k with returns := k.returns + 1, returned := if decide (kind = .peer) then cellsOf a bs ++ k.returned else k.returned }

/-- Data that return for an operation in flight are taken by it alone (R100). -/
theorem exec_traverseReadReturn_data {op : Nat} {o : TravOp} {s : State} (kind : SourceKind) (a : Nat) (bs : List Byte)
    (h : (s.dev.trav.find? fun k => k.id == op) = some o) :
    exec (.traverseReadReturn op kind a (.data bs)) s = .next (s.finish ((s.work.readBack kind o.ref.ctx).upd fun d =>
      { d with trav := d.trav.map fun k => if k.id = op then k.take kind a bs else k })) := by
  refine exec_finish rfl ?_
  rw [State.work_d, h]
  rfl

/-- A denial for an operation in flight halts its stream with OBJECT_ACCESS_DENIED (R361). -/
theorem exec_traverseReadReturn_denied {op : Nat} {o : TravOp} {s : State} (kind : SourceKind) (a d : Nat)
    (h : (s.dev.trav.find? fun k => k.id == op) = some o) :
    exec (.traverseReadReturn op kind a (.denied d)) s
      = .next (s.finish ((s.work.readBack kind o.ref.ctx).haltStream o.ref 0 0x48 d)) := by
  refine exec_finish rfl ?_
  rw [State.work_d, h]
  rfl

/-- Settles O19: by the one change of the operation, what the answered request keeps, and the record of the denial's halt. -/
theorem traverseReturnCompletes : Obligations.TraverseReturnCompletes := by
  unfold Obligations.TraverseReturnCompletes
  refine ⟨?_, ?_, ?_⟩
  · intro op a kind bs o s hop hkind
    have hself : s.work.readBack kind o.ref.ctx = s.work := if_neg (by simpa using hkind)
    have htake (k : TravOp) : k.take kind a bs = { k with returns := k.returns + 1 } := by
      rw [TravOp.take, if_neg (by simpa using hkind)]
    rw [exec_traverseReadReturn_data kind a bs hop, hself, State.finish_eq s _ rfl rfl]
    simp only [htake]
    rfl
  · intro op a bs o s hop
    have hkeeps {β : Type} (p : Work → β) (h : ∀ v l f, p (Work.updLink v l f) = p v) :=
      Work.readBack_keeps p h s.work .peer o.ref.ctx
    refine ⟨_, exec_traverseReadReturn_data .peer a bs hop, ?_, ?_, ?_, ?_⟩
    · rw [State.finish_trav, Work.upd_d, hkeeps (fun v => v.d.trav) (fun _ _ _ => rfl)]
      rfl
    · exact State.finish_mem s _ (hkeeps Work.log fun _ _ _ => rfl) (hkeeps Work.wiped fun _ _ _ => rfl)
    · rw [State.finish_ctxs]
      exact hkeeps (fun v => v.d.ctxs) fun _ _ _ => rfl
    · rw [State.finish_counters]
      exact hkeeps (fun v => v.d.counters) fun _ _ _ => rfl
  · intro op a d kind o s hop he hv
    have hback : (s.work.readBack kind o.ref.ctx).ctx o.ref.ctx = s.work.ctx o.ref.ctx :=
      Work.readBack_keeps (fun v => v.ctx o.ref.ctx) (fun _ _ _ => rfl) s.work kind o.ref.ctx
    have hfz : (s.work.readBack kind o.ref.ctx).fz = s.fuses := Work.readBack_keeps Work.fz (fun _ _ _ => rfl) s.work kind o.ref.ctx
    obtain ⟨hvalid, hreason, hdetail⟩ := Work.haltStream_rec (s.work.readBack kind o.ref.ctx) o.ref 0 0x48 d
      (by rw [hback]; exact he) (by rw [hback]; exact hv)
    have hctx := State.finish_ctx s _ o.ref.ctx ((Work.still_fz (Work.haltStream_still _ o.ref 0 0x48 d)).trans hfz)
    refine ⟨_, exec_traverseReadReturn_denied kind a d hop, ?_, ?_, ?_⟩
    · rw [hctx, hvalid]
    · rw [hctx, hreason]
    · rw [hctx, hdetail]

end Sys2Proof.Machine
end

section
/-!
PROOFS. The start of a gather operation (R107, R115, R371): its checks, the wait while eight are in flight, and the intake of its
positions, which a halt alone can take out of flight.
-/

namespace Sys2Proof.Machine

/-! ### What the intake of a position keeps -/

/-- What names a gather operation for as long as it is in flight: its number, its stream and its parameters. -/
def GatherOp.request (o : GatherOp) : Nat × StreamRef × GatherParams := (o.id, o.ref, o.params)

/-- What no intake of a position changes: fuses, contexts and which operations are in flight. -/
def Work.intakeFrame (w : Work) : Fuses × List Ctx × List (Nat × StreamRef × GatherParams) :=
  (w.fz, w.d.ctxs, w.d.gathers.map GatherOp.request)

/-- A change of an operation in flight that leaves what names it keeps the intake frame. -/
theorem Work.updGather_intakeFrame (w : Work) (id : Nat) (f : GatherOp → GatherOp) (hf : ∀ k, (f k).request = k.request) :
    (w.updGather id f).intakeFrame = w.intakeFrame := by
  have hreq : GatherOp.request ∘ (fun o => if o.id = id then f o else o) = GatherOp.request := by
    funext o
    show GatherOp.request (if o.id = id then f o else o) = o.request
    split
    · exact hf o
    · rfl
  show (w.fz, w.d.ctxs, (w.d.gathers.map _).map GatherOp.request) = _
  rw [List.map_map, hreq]
  rfl

/-- A counter keeps the intake frame. -/
theorem Work.count_intakeFrame (w : Work) (id n : Nat) : (w.count id n).intakeFrame = w.intakeFrame := rfl

/-- An entry put into a set keeps the intake frame (R113). -/
theorem Work.touch_intakeFrame (w : Work) (u s : Nat) (old : List DedupEntry) (e : DedupEntry) :
    (w.touch u s old e).intakeFrame = w.intakeFrame := rfl

/-- A written output row keeps the intake frame (R109). -/
theorem Work.putOut_intakeFrame (w : Work) (o : GatherOp) (pos : Nat) (bs : List Byte) (t : Tally) :
    (w.putOut o pos bs t).intakeFrame = w.intakeFrame :=
  Work.updGather_intakeFrame (w.stN o.ref.ctx (placeRow o.params.output o.params.stride pos) bs) o.id
    (fun k => { k with tally := k.tally.merge t }) fun _ => rfl

/-- A masked position keeps the intake frame (R108). -/
theorem Work.putZero_intakeFrame (w : Work) (o : GatherOp) (elems pos : Nat) : (w.putZero o elems pos).intakeFrame = w.intakeFrame := by
  unfold Work.putZero
  dsimp only
  rw [Work.updGather_intakeFrame, Work.putOut_intakeFrame]
  exact fun _ => rfl

/-- Narrowing counts keep the intake frame. -/
theorem Work.countOutput_intakeFrame (w : Work) (form : OutForm) (cls : Nat) (vs : List Val) :
    (w.countOutput form cls vs).intakeFrame = w.intakeFrame := by
  unfold Work.countOutput
  split <;> rfl

/-- An invalid key's position, served, keeps the intake frame (R117, R118). -/
theorem Work.serveInvalid_intakeFrame {w v : Work} {o : GatherOp} {t : Table} {pos : Nat} (h : w.serveInvalid o t pos = .ok v) :
    v.intakeFrame = w.intakeFrame := by
  unfold Work.serveInvalid at h
  split at h
  · cases hrow : w.defaultRow o.ref.ctx t with
    | error e => rw [hrow] at h; cases h
    | ok vs =>
      rw [hrow] at h
      cases h
      rw [Work.count_intakeFrame, Work.countOutput_intakeFrame, Work.putOut_intakeFrame]
  · cases h
    rw [Work.count_intakeFrame, Work.putZero_intakeFrame]

/-- A routed message keeps the intake frame (R470). -/
theorem Work.sendRouted_intakeFrame (w : Work) (c cls dest : Nat) (job : W32) (request : Bool) (m : LinkMsg) :
    (w.sendRouted c cls dest job request m).intakeFrame = w.intakeFrame :=
  Work.sendRouted_keeps Work.intakeFrame (fun _ _ _ _ => rfl) (fun _ _ _ _ _ => rfl) (fun _ _ _ => rfl) w c cls dest job request m

/-- The request of a fetch keeps the intake frame (R121). -/
theorem Work.sendFetch_intakeFrame (w : Work) (c : Nat) (t : Table) (tableAt op key : Nat) (p : RowPlace) :
    (w.sendFetch c t tableAt op key p).intakeFrame = w.intakeFrame := by
  unfold Work.sendFetch
  split
  · exact Work.sendRouted_intakeFrame ..
  · exact Work.sendRouted_intakeFrame ..
  · rfl

/-- A position logged, or not, keeps the intake frame (R183). -/
theorem Work.logPosition_intakeFrame (w : Work) (c pos : Nat) (p : RowPlace) : (w.logPosition c pos p).intakeFrame = w.intakeFrame := by
  unfold Work.logPosition
  split
  · dsimp only
    split <;> rfl
  · rfl

/-- An intake that either takes no position in or keeps the intake frame. -/
def Intake.keeps (w : Work) : Intake → Prop
  | .done v => v.intakeFrame = w.intakeFrame
  | .blocked _ => True
  | .stop _ => True

/-- Whether a position is taken in may depend on a condition. -/
theorem Intake.keeps_ite {P : Prop} [Decidable P] {w : Work} {x y : Intake} (hx : x.keeps w) (hy : y.keeps w) :
    (if P then x else y).keeps w := by
  split
  · exact hx
  · exact hy

/-- A new key, taken in, keeps the intake frame (R113, R119). -/
theorem Work.newKey_keeps (w : Work) (o : GatherOp) (t : Table) (u pos key : Nat) (p : RowPlace) :
    (w.newKey o t u pos key p).keeps w := by
  unfold Work.newKey
  dsimp only
  split
  · trivial
  · split
    · trivial
    · split
      · split
        · trivial
        · rename_i hserved
          exact (Work.touch_intakeFrame ..).trans (Work.serveInvalid_intakeFrame hserved)
      · refine Intake.keeps_ite trivial ?_
        rw [Intake.keeps, Work.logPosition_intakeFrame, Work.sendFetch_intakeFrame, Work.updGather_intakeFrame,
          Work.count_intakeFrame, Work.touch_intakeFrame]
        exact fun _ => rfl

/-- A position, taken in, keeps the intake frame (R113, R119). -/
theorem Work.takePosition_keeps (w : Work) (o : GatherOp) (t : Table) (u pos key : Nat) :
    (w.takePosition o t u pos key).keeps w := by
  unfold Work.takePosition
  dsimp only
  split
  · exact (Work.count_intakeFrame ..).trans (Work.putZero_intakeFrame ..)
  · split
    · trivial
    · split
      · exact Work.newKey_keeps ..
      · split
        · split
          · trivial
          · rename_i hserved
            exact (Work.touch_intakeFrame ..).trans (Work.serveInvalid_intakeFrame hserved)
        · split
          · split
            · trivial
            · exact (Work.logPosition_intakeFrame ..).trans (Work.touch_intakeFrame ..)
          · rw [Intake.keeps, Work.logPosition_intakeFrame, Work.count_intakeFrame, Work.touch_intakeFrame, Work.putOut_intakeFrame]

/-! ### What a halt takes out of flight -/

/-- Descriptors that a halt completes leave the gather operations alone (R435). -/
theorem Work.haltDescs_gathers (w : Work) (c reason : Nat) : (w.haltDescs c reason).d.gathers = w.d.gathers := by
  unfold Work.haltDescs
  refine Work.foldl_keeps (fun v => v.d.gathers) _ (fun v d => ?_) _ _
  dsimp only
  unfold Work.complete
  split
  · rfl
  · unfold Work.postCompletion
    dsimp only
    split <;> rfl

/-- An event leaves the gather operations alone (R448). -/
theorem Work.postEvent_gathers (w : Work) (c code : Nat) (b : List Byte) : (w.postEvent c code b).d.gathers = w.d.gathers :=
  Work.postEvent_keeps (fun v => v.d.gathers) (fun _ _ _ => rfl) (fun _ _ _ _ => rfl) (fun _ _ _ => rfl) (fun _ _ _ => rfl)
    (fun _ _ _ => rfl) w c code b

/-- A halt's own record leaves the gather operations alone (R571). -/
theorem Work.ownRecord_gathers (w : Work) (c : Nat) (r : HaltRec) : (w.ownRecord c r).d.gathers = w.d.gathers := by
  unfold Work.ownRecord
  split
  · rfl
  · split <;> rfl

/-- A context stopped drops its own gather operations and no other (R256). -/
theorem Work.stopWork_gathers (w : Work) (c : Nat) : (w.stopWork c).d.gathers = w.d.gathers.filter fun o => o.ref.ctx != c := by
  have htiles := Work.foldl_keeps (fun v => v.d.gathers) (fun (v : Work) t => v.updTile t Tile.halted) (fun _ _ => rfl)
    (w.ctx c).tiles w
  show List.filter _ (List.foldl (fun (v : Work) t => v.updTile t Tile.halted) w (w.ctx c).tiles).d.gathers = _
  rw [htiles]

/-- A halt drops no gather operation of another context (R256). -/
theorem Work.mem_halt_gathers {w : Work} {c : Nat} {r : HaltRec} {g : GatherOp} (hg : g ∈ w.d.gathers) (hc : g.ref.ctx ≠ c) :
    g ∈ (w.halt c r).d.gathers := by
  have hstop (v : Work) (reason code : Nat) (b : List Byte) (h : v.d.gathers = w.d.gathers) :
      g ∈ (((v.postEvent c code b).haltDescs c reason).stopWork c).d.gathers := by
    rw [Work.stopWork_gathers, Work.haltDescs_gathers, Work.postEvent_gathers, h, List.mem_filter]
    exact ⟨hg, by simpa using hc⟩
  unfold Work.halt
  dsimp only
  split
  · exact hg
  · split
    · rw [Work.ownRecord_gathers]
      exact hg
    · split
      · split
        · exact hstop _ _ _ _ (Work.ownRecord_gathers ..)
        · exact hstop _ _ _ _ (Work.ownRecord_gathers ..)
      · exact hstop _ _ _ _ (Work.ownRecord_gathers ..)

/-! ### An operation stays in flight while its context does not halt -/

/-- Under the fuses `f`, the context of a gather operation is enabled, and it is halted or the operation is in flight. -/
structure Work.InFlight (f : Fuses) (q : Nat × StreamRef × GatherParams) (w : Work) : Prop where
  fuses : w.fz = f
  enabled : (w.ctx q.2.1.ctx).enable = true
  listed : (w.ctx q.2.1.ctx).halt.valid = false → q ∈ w.d.gathers.map GatherOp.request

section
variable {f : Fuses} {q : Nat × StreamRef × GatherParams} {v w : Work}

/-- What keeps the intake frame keeps an operation in flight. -/
theorem Work.InFlight.of_intakeFrame (h : w.InFlight f q) (hv : v.intakeFrame = w.intakeFrame) : v.InFlight f q := by
  simp only [Work.intakeFrame, Prod.mk.injEq] at hv
  obtain ⟨hfz, hctxs, hops⟩ := hv
  have hctx : v.ctx q.2.1.ctx = w.ctx q.2.1.ctx := by rw [Work.ctx, Work.ctx, hfz, hctxs]
  refine ⟨hfz.trans h.fuses, ?_, ?_⟩
  · rw [hctx]
    exact h.enabled
  · rw [hctx, hops]
    exact h.listed

/-- A halt leaves an operation in flight, or its context halted (R256). -/
theorem Work.InFlight.halt (h : w.InFlight f q) (c : Nat) (r : HaltRec) : (w.halt c r).InFlight f q := by
  refine ⟨(Work.still_fz (Work.halt_still w c r)).trans h.fuses, ?_, fun hv => ?_⟩
  · rw [Work.halt_enable]
    exact h.enabled
  · have hother : q.2.1.ctx ≠ c := by
      rintro rfl
      rw [Work.halt_valid w _ r h.enabled] at hv
      cases hv
    rw [Work.halt_keeps w c _ r (Or.inr hother)] at hv
    obtain ⟨g, hg, hreq⟩ := List.mem_map.mp (h.listed hv)
    have hgc : g.ref.ctx ≠ c := by
      rw [← hreq] at hother
      exact hother
    exact List.mem_map.mpr ⟨g, Work.mem_halt_gathers hg hgc, hreq⟩

/-- A halt of every context leaves an operation in flight, or its context halted. -/
theorem Work.InFlight.haltAll (h : w.InFlight f q) (r : HaltRec) : (w.haltAll r).InFlight f q :=
  List.foldlRecOn contexts _ h fun _ hv c _ => hv.halt c r

/-- A poisoned read leaves an operation in flight, or its context halted (R487). -/
theorem Work.InFlight.poisonHalt (h : w.InFlight f q) (c : Nat) (r : HaltRec) (p : Nat) : (w.poisonHalt c r p).InFlight f q := by
  unfold Work.poisonHalt
  split
  · exact h.haltAll _
  · exact h.halt _ _

/-- A stop of an engine leaves an operation in flight, or its context halted. -/
theorem Work.InFlight.engineStop (h : w.InFlight f q) (r : StreamRef) (engine cls : Nat) (e : TravStop) :
    (w.engineStop r engine cls e).InFlight f q := by
  cases e with
  | halt reason d => exact h.halt _ _
  | poison p => exact h.poisonHalt _ _ _
  | late a n => exact h.of_intakeFrame (Work.sendRouted_intakeFrame ..)

/-- A unit's intake leaves an operation in flight, or its context halted (R113). -/
theorem Work.InFlight.pumpUnit (u n : Nat) (h : w.InFlight f q) : (w.pumpUnit u n).InFlight f q := by
  induction n generalizing w with
  | zero => exact h
  | succ n ih =>
    unfold Work.pumpUnit
    split
    · exact h
    · rename_i o pos key _
      have htake := Work.takePosition_keeps w o (w.table o.params.table) u pos key
      split
      · rename_i v hdone
        rw [hdone] at htake
        exact ih (h.of_intakeFrame ((Work.updGather_intakeFrame v o.id (fun k => k.drop u) fun _ => rfl).trans htake))
      · exact h.of_intakeFrame rfl
      · exact ih (h.engineStop ..)

/-- Every unit's intake leaves an operation in flight, or its context halted (R113). -/
theorem Work.InFlight.pump (h : w.InFlight f q) : w.pump.InFlight f q :=
  List.foldlRecOn w.fz.units _ h fun _ hv u _ => hv.pumpUnit u _

end

/-! ### An intake with no position left -/

/-- Units take their keys from the operations in flight (R115). -/
theorem Work.mem_gatherOrder {w : Work} {o : GatherOp} (h : o ∈ w.gatherOrder) : o ∈ w.d.gathers := by
  unfold Work.gatherOrder at h
  split at h
  · exact h
  · rcases List.mem_append.mp h with h | h
    · exact (List.mem_filter.mp h).1
    · exact (List.mem_filter.mp h).1

/-- No unit has a next position where every operation's positions are taken in. -/
theorem Work.nextPosition_none {w : Work} (h : ∀ g, g ∈ w.d.gathers → ∀ x, x ∈ g.todo → x.2 = []) (u : Nat) :
    w.nextPosition u = none := by
  refine List.findSome?_eq_none_iff.mpr fun o ho => ?_
  have hnone : (o.todo.find? fun e => e.1 == u && !e.2.isEmpty) = none :=
    List.find?_eq_none.mpr fun e he => by simp [h o (Work.mem_gatherOrder ho) e he]
  rw [hnone]

/-- The units' intake changes nothing where every operation's positions are taken in (R113). -/
theorem Work.pump_allTaken {w : Work} (h : ∀ g, g ∈ w.d.gathers → ∀ x, x ∈ g.todo → x.2 = []) : w.pump = w := by
  have hunit (u n : Nat) : w.pumpUnit u n = w := by
    cases n with
    | zero => rfl
    | succ n => rw [Work.pumpUnit, Work.nextPosition_none h u]
  exact List.foldlRecOn (motive := fun v => v = w) w.fz.units _ rfl fun v hv u _ => by rw [hv]; exact hunit u _

/-- An operation without keys routes no position to any unit (R110). -/
theorem Work.routeAll_empty {w : Work} {c : Nat} {p : GatherParams} {table : Nat} {k : KeyArray} (h : k.count = 0) :
    ∀ e, e ∈ w.routeAll c p table k → e.2 = [] := by
  intro e he
  unfold Work.routeAll at he
  rw [h] at he
  obtain ⟨u, -, rfl⟩ := List.mem_map.mp he
  rfl

/-! ### GATHER -/

/-- The operation that a GATHER starts: under the next number, its positions by unit, none taken in (R107, R110). -/
def Work.newGather (w : Work) (r : StreamRef) (p : GatherParams) : GatherOp :=
  { id := w.d.nextId, ref := r, params := p
    todo := w.routeAll r.ctx p (w.table p.table).id (w.keyArray p.source p.keys p.count p.hop), seen := [], masked := []
    form := (w.outForm r.ctx (if p.bf16 then .bf16 else .fp32) p.tag).getD { fmt := .fp32, scale := 0, ref := 0 }
    tally := Tally.empty }

/-- A working state with one more operation in flight, its number used up. -/
def Work.addGather (w : Work) (o : GatherOp) : Work :=
  w.upd fun d => { d with nextId := d.nextId + 1, gathers := d.gathers ++ [o] }

/-- GATHER of an active context is taken up. -/
theorem exec_gather {r : StreamRef} {s : State} (p : GatherParams) (ha : (s.work.ctx r.ctx).active = true) :
    exec (.gather r p) s = .next (s.finish (s.work.startGather r p)) := exec_finish rfl (if_pos ha)

/-- A failing check halts the stream (R107, R371). -/
theorem Work.startGather_fault {w : Work} {r : StreamRef} {p : GatherParams} {reason d : Nat}
    (h : w.gatherFault r.ctx p = some (reason, d)) : w.startGather r p = w.haltStream r 1 reason d := by
  rw [Work.startGather, h]

/-- While eight operations are in flight one stalled cycle is counted (R115, log 10). -/
theorem Work.startGather_waits {w : Work} {r : StreamRef} {p : GatherParams} (h : w.gatherFault r.ctx p = none)
    (hpoison : w.poisonIn p.table 64 = none) (hfull : 8 ≤ w.d.gathers.length) :
    w.startGather r p = w.stall r.ctx Ctr.stallQueueFull 6 := by
  rw [Work.startGather, h, hpoison]
  exact if_pos hfull

/-- With fewer in flight the operation joins them, and the units take in what they can (R107, R113). -/
theorem Work.startGather_starts {w : Work} {r : StreamRef} {p : GatherParams} (h : w.gatherFault r.ctx p = none)
    (hpoison : w.poisonIn p.table 64 = none) (hroom : w.d.gathers.length < 8) :
    w.startGather r p = (w.addGather (w.newGather r p)).pump := by
  rw [Work.startGather, h, hpoison]
  exact if_neg (by omega)

/-- A started operation of an active context is in flight, or its context is halted by a position (R113). -/
theorem Work.addGather_inFlight {w : Work} {r : StreamRef} (p : GatherParams) (ha : (w.ctx r.ctx).active = true) :
    (w.addGather (w.newGather r p)).InFlight w.fz (w.d.nextId, r, p) where
  fuses := rfl
  enabled := (Ctx.active_enable ha).1
  listed _ := List.mem_map.mpr ⟨w.newGather r p, List.mem_append_right _ (List.mem_singleton.mpr rfl), rfl⟩

/-- Settles O20: a failing check by the record of its halt, a wait by its one counter, a start by what its units' intake keeps in
flight. The wait's stalled cycle is the model's choice (log 10). -/
theorem gatherStarts : Obligations.GatherStarts := by
  unfold Obligations.GatherStarts
  refine ⟨?_, ?_, ?_, ?_⟩
  · intro r p reason d s hactive hfault
    obtain ⟨he, hv⟩ := Ctx.active_enable hactive
    have hctx := State.finish_ctx s _ r.ctx (Work.still_fz (Work.haltStream_still s.work r 1 reason d))
    have hrec := Work.haltStream_rec s.work r 1 reason d he hv
    refine ⟨_, exec_gather p hactive, ?_⟩
    rw [Work.startGather_fault hfault, hctx]
    exact hrec
  · intro r p s hactive hok hpoison hfull
    rw [exec_gather p hactive, Work.startGather_waits hok hpoison hfull, State.finish_eq s _ rfl rfl]
    rfl
  · intro r p s hactive hok hpoison hroom
    have hflight := (Work.addGather_inFlight p hactive).pump
    refine ⟨_, exec_gather p hactive, fun hv => ?_⟩
    rw [Work.startGather_starts hok hpoison hroom] at hv ⊢
    rw [State.finish_ctx s _ r.ctx hflight.fuses] at hv
    obtain ⟨g, hg, hreq⟩ := List.mem_map.mp (hflight.listed hv)
    simp only [GatherOp.request, Prod.mk.injEq] at hreq
    exact ⟨g, by rw [State.finish_gathers]; exact hg, hreq⟩
  · intro r p s hactive hok hpoison hnone hempty
    have htodo := Work.routeAll_empty (w := s.work) (c := r.ctx) (p := p) (table := (s.work.table p.table).id) hempty
    have hgathers : (s.work.addGather (s.work.newGather r p)).d.gathers = [s.work.newGather r p] :=
      congrArg (· ++ [s.work.newGather r p]) hnone
    have hpump : (s.work.addGather (s.work.newGather r p)).pump = s.work.addGather (s.work.newGather r p) := by
      refine Work.pump_allTaken fun g hg => ?_
      rw [hgathers, List.mem_singleton] at hg
      rw [hg]
      exact htodo
    have hroom : s.work.d.gathers.length < 8 := by
      rw [State.work_d, hnone]
      decide
    refine ⟨_, exec_gather p hactive, ?_⟩
    rw [Work.startGather_starts hok hpoison hroom, hpump, State.finish_eq s _ rfl rfl]
    exact ⟨rfl, _, hgathers, rfl, rfl, rfl, rfl, rfl, htodo⟩

end Sys2Proof.Machine
end

section
/-!
PROOFS. What the operations of the scatter-reduce units keep (R132 to R150), said once for any part of the state: the rows they
write, their counters, their saturation flag and their tallies; and what names an operation in flight.
-/

namespace Sys2Proof.Machine

/-! ### What names an operation in flight -/

/-- What names a scatter operation for as long as it is in flight: its number, its stream and its parameters. -/
def ScatterOp.request (o : ScatterOp) : Nat × StreamRef × ScatterParams := (o.id, o.ref, o.params)

/-- The scatter operations in flight, by what names them. -/
def Work.scatterRequests (w : Work) : List (Nat × StreamRef × ScatterParams) := w.d.scatters.map ScatterOp.request

/-- A change of an operation that leaves what names it leaves the list of names. -/
theorem Work.updScatter_requests (w : Work) (id : Nat) (f : ScatterOp → ScatterOp) (hf : ∀ k, (f k).request = k.request) :
    (w.updScatter id f).scatterRequests = w.scatterRequests := by
  show (w.d.scatters.map _).map ScatterOp.request = _
  rw [List.map_map]
  refine List.map_congr_left fun o _ => ?_
  show ScatterOp.request (if o.id = id then f o else o) = o.request
  split
  · exact hf o
  · rfl

/-- The operation that a number finds depends, in what names it, on the names in flight alone. -/
theorem Work.scatterOp_request (w : Work) (id : Nat) :
    (w.scatterOp id).map ScatterOp.request = w.scatterRequests.find? fun q => q.1 == id := by
  rw [Work.scatterRequests, List.find?_map]
  rfl

/-- A found operation has the number that it was looked up by. -/
theorem Work.scatterOp_id {w : Work} {id : Nat} {o : ScatterOp} (h : w.scatterOp id = some o) : o.id = id := by
  simpa using List.find?_some h

/-- The operation of a number, after a change of it that leaves its number. -/
theorem Work.scatterOp_updScatter (w : Work) (id : Nat) (f : ScatterOp → ScatterOp) (hf : ∀ k, (f k).id = k.id) :
    (w.updScatter id f).scatterOp id = (w.scatterOp id).map f := by
  have hid : ((fun o : ScatterOp => o.id == id) ∘ fun o => if o.id = id then f o else o) = fun o => o.id == id := by
    funext o
    show ((if o.id = id then f o else o).id == id) = _
    split
    · rw [hf]
    · rfl
  show (w.d.scatters.map _).find? _ = _
  rw [List.find?_map, hid]
  cases h : w.d.scatters.find? fun o => o.id == id with
  | none => rw [Work.scatterOp, h]; rfl
  | some o =>
    rw [Work.scatterOp, h, Option.map_some, Option.map_some, if_pos (by simpa using List.find?_some h)]

/-- A source of listed keys is not the edges of a block (R107). -/
theorem source_ne_edgeTarget {src : KeySource} (h : blockSource src = false) : src ≠ .edgeTarget := by
  rintro rfl
  cases h

/-- A source of 32-bit or 64-bit keys lists them (R107). -/
theorem blockSource_list {src : KeySource} (h : src = .list32 ∨ src = .list64) : blockSource src = false := by
  rcases h with rfl | rfl <;> rfl

/-- The destinations of an operation by listed keys are given (R132). -/
theorem Work.scatterDests_list {w : Work} {p : ScatterParams} {d stride : Nat} {place : Placement} {b16 : Bool}
    (hlist : blockSource p.source = false) (htarget : p.target = .output d place b16 stride) : w.scatterDests p = d := by
  unfold Work.scatterDests
  rw [htarget]
  exact if_neg (by simp [hlist])

/-! ### What the units' operations keep -/

/-- A part `p` of the state that no unit's bookkeeping touches: neither written bytes, counters and draws, nor the work in
progress of a context, nor what of an operation does not name it. -/
structure Work.Apart {β : Type} (p : Work → β) : Prop where
  wr : ∀ v k bs, p (Work.wr v k bs) = p v
  count : ∀ v id n, p (Work.count v id n) = p v
  draw : ∀ v, p (Work.draw v).2 = p v
  updCtx : ∀ v c f, (∀ x, (f x).lasting = x.lasting) → p (Work.updCtx v c f) = p v
  updScatter : ∀ v id f, (∀ k, (f k).request = k.request) → p (Work.updScatter v id f) = p v

/-- What the saturation flag keeps: all that a counter and one context's update do not touch (R139, R144). -/
theorem Work.saturate_keeps {β : Type} (p : Work → β) (hcount : ∀ v id n, p (Work.count v id n) = p v)
    (hctx : ∀ v c, p (Work.updCtx v c fun x => { x with replay := x.replay.map fun r => { r with scale := true } }) = p v)
    (w : Work) (c n : Nat) : p (w.saturate c n) = p w := by
  unfold Work.saturate
  split
  · rfl
  · exact (hctx ..).trans (hcount ..)

/-- The agreement on a scale exponent leaves the state, or takes one draw (R145, log 30). -/
theorem Work.scatterExp_state (w : Work) (c : Nat) (q : ScatterParams) (vs : List Val) :
    (w.scatterExp c q vs).2 = w ∨ (w.scatterExp c q vs).2 = w.draw.2 := by
  unfold Work.scatterExp
  dsimp only
  (repeat' split) <;> simp

section
variable {β : Type} {p : Work → β}

/-- The saturation flag set keeps what is apart (R139, R144). -/
theorem Work.Apart.saturate (h : Work.Apart p) (w : Work) (c n : Nat) : p (w.saturate c n) = p w :=
  Work.saturate_keeps p h.count (fun v c => h.updCtx v c _ fun _ => rfl) w c n

/-- A destination row written keeps what is apart (R144). -/
theorem Work.Apart.putDest (h : Work.Apart p) (w : Work) (o : ScatterOp) (d : Nat) (vs : List Val) (posn : List Nat)
    (denom : List Int) : p (w.putDest o d vs posn denom) = p w := by
  unfold Work.putDest
  dsimp only
  split
  · rfl
  · have hrow (k : Nat) (bs : List Byte) (t : Tally) :
        p (((w.wr k bs).updScatter o.id fun k => { k with tally := k.tally.merge t }).saturate o.ref.ctx t.saturations) = p w := by
      rw [h.saturate, h.updScatter, h.wr]
      exact fun _ => rfl
    split <;> split
    · exact (h.wr ..).trans ((h.wr ..).trans (hrow ..))
    · exact (h.wr ..).trans (hrow ..)
    · exact (h.wr ..).trans (hrow ..)
    · exact hrow ..

/-- An empty destination's row keeps what is apart (R135). -/
theorem Work.Apart.putEmpty (h : Work.Apart p) (w : Work) (o : ScatterOp) (d : Nat) : p (w.putEmpty o d) = p w :=
  (h.count ..).trans (h.putDest ..)

/-- A destination's row from the accumulation region keeps what is apart (R144). -/
theorem Work.Apart.finaliseRow (h : Work.Apart p) (w : Work) (o : ScatterOp) (d r : Nat) : p (w.finaliseRow o d r) = p w := by
  unfold Work.finaliseRow
  dsimp only
  split
  · exact h.putEmpty ..
  · split <;> exact (h.putDest ..).trans (h.draw w)

/-- A destination finalised, or not, keeps what is apart (R135, R141, R144). -/
theorem Work.Apart.finaliseDest (h : Work.Apart p) (w : Work) (o : ScatterOp) (d : Nat) : p (w.finaliseDest o d) = p w := by
  unfold Work.finaliseDest
  split
  · rfl
  · split
    · split
      · exact h.putEmpty ..
      · exact h.finaliseRow ..
    · exact h.finaliseRow ..

/-- The output of a line that is its destination's only one keeps what is apart (R141). -/
theorem Work.Apart.writeDirect (h : Work.Apart p) (w : Work) (o : ScatterOp) (l : Line) : p (w.writeDirect o l) = p w := by
  refine (h.updScatter _ _ _ ?_).trans ((h.putDest ..).trans (h.draw w))
  exact fun _ => rfl

/-- One position of a kind that writes by position keeps what is apart (R134, R148, R150). -/
theorem Work.Apart.routePos (h : Work.Apart p) (w : Work) (o : ScatterOp) (dests draw : Nat) (k : KeyArray) (i : Nat) :
    p (w.routePos o dests draw k i) = p w := by
  unfold Work.routePos
  dsimp only
  rw [h.updScatter, h.wr]
  · split
    · exact (h.count ..).trans (h.count ..)
    · exact h.count ..
    · exact (h.count ..).trans (h.count ..)
  · exact fun _ => rfl

/-- A contribution into an update area's slot keeps what is apart (R154). -/
theorem Work.Apart.addToSlot (h : Work.Apart p) (w : Work) (c a e row : Nat) (accs : List Int) :
    p (w.addToSlot c a e row accs) = p w :=
  (h.saturate ..).trans (h.wr ..)

/-- The agreement on a scale exponent keeps what is apart (R145). -/
theorem Work.Apart.scatterExp (h : Work.Apart p) (w : Work) (c : Nat) (q : ScatterParams) (vs : List Val) :
    p (w.scatterExp c q vs).2 = p w := by
  rcases Work.scatterExp_state w c q vs with e | e
  · rw [e]
  · rw [e, h.draw]

end

end Sys2Proof.Machine
end

section
/-!
PROOFS. The start of a scatter operation (R132, R159, R161, R371): its checks, the wait while eight are in flight, the contributions
taken in, which a halt alone can take out of flight, and the one region row of a single listed key (R139, R140, R143).
-/

namespace Sys2Proof.Machine

/-! ### What a halt takes out of flight -/

/-- What the descriptors that a halt completes keep (R435). -/
theorem Work.haltDescs_keeps {β : Type} (p : Work → β) (hctx : ∀ v c f, p (Work.updCtx v c f) = p v)
    (hcount : ∀ v c id n, p (Work.countCtx v c id n) = p v) (hwr : ∀ v k bs, p (Work.wr v k bs) = p v)
    (hiova : ∀ v fn a, p (Work.cacheIova v fn a) = p v) (hmsix : ∀ v fn n, p (Work.msix v fn n) = p v) (w : Work)
    (c reason : Nat) : p (w.haltDescs c reason) = p w := by
  refine Work.foldl_keeps p _ (fun v d => ?_) _ _
  dsimp only
  unfold Work.complete
  split
  · rfl
  · unfold Work.postCompletion
    dsimp only
    split
    · rw [hmsix, hctx, hcount, hwr, hiova, hctx]
    · rw [hctx, hcount, hwr, hiova, hctx]

/-- A context stopped drops its own scatter operations and no other (R256). -/
theorem Work.stopWork_scatters (w : Work) (c : Nat) : (w.stopWork c).d.scatters = w.d.scatters.filter fun o => o.ref.ctx != c := by
  have htiles := Work.foldl_keeps (fun v => v.d.scatters) (fun (v : Work) t => v.updTile t Tile.halted) (fun _ _ => rfl)
    (w.ctx c).tiles w
  show List.filter _ (List.foldl (fun (v : Work) t => v.updTile t Tile.halted) w (w.ctx c).tiles).d.scatters = _
  rw [htiles]

/-- A halt leaves the scatter operations, or drops those of its context (R256). -/
theorem Work.halt_scatters (w : Work) (c : Nat) (r : HaltRec) :
    (w.halt c r).d.scatters = w.d.scatters ∨ (w.halt c r).d.scatters = w.d.scatters.filter fun o => o.ref.ctx != c := by
  have hrec (q : HaltRec) : (w.ownRecord c q).d.scatters = w.d.scatters := by
    unfold Work.ownRecord
    split
    · rfl
    · split <;> rfl
  have hstop (v : Work) (reason code : Nat) (b : List Byte) (h : v.d.scatters = w.d.scatters) :
      (((v.postEvent c code b).haltDescs c reason).stopWork c).d.scatters = w.d.scatters.filter fun o => o.ref.ctx != c := by
    rw [Work.stopWork_scatters,
      Work.haltDescs_keeps (fun v => v.d.scatters) (fun _ _ _ => rfl) (fun _ _ _ _ => rfl) (fun _ _ _ => rfl) (fun _ _ _ => rfl)
        (fun _ _ _ => rfl),
      Work.postEvent_keeps (fun v => v.d.scatters) (fun _ _ _ => rfl) (fun _ _ _ _ => rfl) (fun _ _ _ => rfl) (fun _ _ _ => rfl)
        (fun _ _ _ => rfl), h]
  unfold Work.halt
  dsimp only
  split
  · exact Or.inl rfl
  · split
    · exact Or.inl (hrec _)
    · split
      · split
        · exact Or.inr (hstop _ _ _ _ (hrec _))
        · exact Or.inr (hstop _ _ _ _ (hrec _))
      · exact Or.inr (hstop _ _ _ _ (hrec _))

/-! ### An operation stays in flight while its context does not halt -/

/-- What keeps a scatter operation of context `c` in flight: fuses, the context's enable and record, and the operations' names. -/
def Work.reduceFrame (c : Nat) (w : Work) : Fuses × Bool × HaltRec × List (Nat × StreamRef × ScatterParams) :=
  (w.fz, (w.ctx c).enable, (w.ctx c).halt, w.scatterRequests)

/-- The units' bookkeeping keeps the reduce frame. -/
theorem Work.reduceFrame_apart (c : Nat) : Work.Apart (Work.reduceFrame c) where
  wr _ _ _ := rfl
  count _ _ _ := rfl
  draw _ := rfl
  updCtx v k f hf := by
    have hl : ((v.updCtx k f).ctx c).lasting = (v.ctx c).lasting := Work.updCtx_keeps Ctx.lasting v k c f hf
    rw [Work.reduceFrame, Ctx.enable_of_lasting hl, Ctx.halt_of_lasting hl]
    rfl
  updScatter v id f hf := by
    rw [Work.reduceFrame, Work.updScatter_requests v id f hf]
    rfl

/-- A routed message keeps the reduce frame (R470). -/
theorem Work.sendRouted_reduceFrame (k : Nat) (w : Work) (c cls dest : Nat) (job : W32) (request : Bool) (m : LinkMsg) :
    (w.sendRouted c cls dest job request m).reduceFrame k = w.reduceFrame k :=
  Work.sendRouted_keeps (Work.reduceFrame k) (fun _ _ _ _ => rfl) (fun _ _ _ _ _ => rfl) (fun _ _ _ => rfl) w ..

/-- Under the fuses `f`, the context of a scatter operation is enabled, and it is halted or the operation is in flight. -/
structure Work.Reducing (f : Fuses) (q : Nat × StreamRef × ScatterParams) (w : Work) : Prop where
  fuses : w.fz = f
  enabled : (w.ctx q.2.1.ctx).enable = true
  listed : (w.ctx q.2.1.ctx).halt.valid = false → q ∈ w.scatterRequests

section
variable {f : Fuses} {q : Nat × StreamRef × ScatterParams} {v w : Work}

/-- What keeps the reduce frame keeps an operation in flight. -/
theorem Work.Reducing.of_frame (h : w.Reducing f q) (hv : v.reduceFrame q.2.1.ctx = w.reduceFrame q.2.1.ctx) : v.Reducing f q := by
  simp only [Work.reduceFrame, Prod.mk.injEq] at hv
  obtain ⟨hfz, hen, hhalt, hops⟩ := hv
  refine ⟨hfz.trans h.fuses, hen.trans h.enabled, ?_⟩
  rw [hhalt, hops]
  exact h.listed

/-- A change of the lines keeps an operation in flight. -/
theorem Work.Reducing.lines (h : w.Reducing f q) (ls : Dev → List Line) : (w.upd fun d => { d with lines := ls d }).Reducing f q :=
  h.of_frame rfl

/-- A counter keeps an operation in flight. -/
theorem Work.Reducing.count (h : w.Reducing f q) (id n : Nat) : (w.count id n).Reducing f q := h.of_frame rfl

/-- A draw keeps an operation in flight. -/
theorem Work.Reducing.draw (h : w.Reducing f q) : w.draw.2.Reducing f q := h.of_frame rfl

/-- A halt leaves an operation in flight, or its context halted (R256). -/
theorem Work.Reducing.halt (h : w.Reducing f q) (c : Nat) (r : HaltRec) : (w.halt c r).Reducing f q := by
  refine ⟨(Work.still_fz (Work.halt_still w c r)).trans h.fuses, (Work.halt_enable ..).trans h.enabled, fun hv => ?_⟩
  have hother : q.2.1.ctx ≠ c := by
    rintro rfl
    rw [Work.halt_valid w _ r h.enabled] at hv
    cases hv
  rw [Work.halt_keeps w c _ r (Or.inr hother)] at hv
  obtain ⟨o, ho, hreq⟩ := List.mem_map.mp (h.listed hv)
  refine List.mem_map.mpr ⟨o, ?_, hreq⟩
  rcases Work.halt_scatters w c r with e | e
  · rw [e]
    exact ho
  · have hoc : o.ref.ctx ≠ c := by
      rw [← hreq] at hother
      exact hother
    rw [e, List.mem_filter]
    exact ⟨ho, by simpa using hoc⟩

/-- A poisoned read leaves an operation in flight, or its context halted (R487). -/
theorem Work.Reducing.poisonHalt (h : w.Reducing f q) (c : Nat) (r : HaltRec) (p : Nat) : (w.poisonHalt c r p).Reducing f q := by
  unfold Work.poisonHalt
  split
  · exact List.foldlRecOn contexts _ h fun _ hv c _ => hv.halt c _
  · exact h.halt _ _

/-- A stop of an engine leaves an operation in flight, or its context halted. -/
theorem Work.Reducing.engineStop (h : w.Reducing f q) (r : StreamRef) (engine cls : Nat) (e : TravStop) :
    (w.engineStop r engine cls e).Reducing f q := by
  cases e with
  | halt reason d => exact h.halt _ _
  | poison p => exact h.poisonHalt _ _ _
  | late a n => exact h.of_frame (Work.sendRouted_reduceFrame ..)

/-- An addition to an update area leaves an operation in flight where its stop does (R153, R154). -/
theorem Work.Reducing.areaAdd (h : w.Reducing f q) {stop : Work → Nat → Nat → Work}
    (hstop : ∀ v reason d, v.Reducing f q → (stop v reason d).Reducing f q) (c tableAt area alpha row : Nat) (e : Int)
    (accs : List Int) : (w.areaAdd c tableAt area alpha row e accs stop).Reducing f q := by
  have apart := Work.reduceFrame_apart q.2.1.ctx
  unfold Work.areaAdd
  dsimp only
  split
  · exact hstop _ _ _ h
  · split
    · exact hstop _ _ _ h
    · split
      · refine hstop _ _ _ (h.of_frame ((apart.updCtx _ _ _ ?_).trans ?_))
        · exact fun _ => rfl
        · split <;> rfl
      · refine h.of_frame ((apart.addToSlot ..).trans ((apart.updCtx _ _ _ ?_).trans ?_))
        · exact fun _ => rfl
        · split <;> rfl

/-- A line's partial for an update area leaves an operation in flight, or its context halted (R154, R155). -/
theorem Work.Reducing.flushUpdate (h : w.Reducing f q) (o : ScatterOp) (tableAt area alpha : Nat) (l : Line) :
    (w.flushUpdate o tableAt area alpha l).Reducing f q := by
  unfold Work.flushUpdate
  dsimp only
  split
  · exact h.engineStop ..
  · exact h
  · split
    · exact h.areaAdd (fun _ _ _ hv => hv.halt _ _) ..
    · split
      · exact h.halt _ _
      · split
        · exact h.halt _ _
        · split
          · exact h.halt _ _
          · refine h.of_frame (((Work.reduceFrame_apart _).updScatter _ _ _ ?_).trans (Work.sendRouted_reduceFrame ..))
            exact fun _ => rfl

/-- A line that leaves its buffer leaves an operation in flight, or its context halted (R140, R141). -/
theorem Work.Reducing.flushLine (h : w.Reducing f q) (l : Line) : (w.flushLine l).Reducing f q := by
  have apart := Work.reduceFrame_apart q.2.1.ctx
  unfold Work.flushLine
  split
  · exact h
  · split
    · exact (h.of_frame (apart.count ..)).flushUpdate ..
    · split
      · exact h.of_frame (apart.writeDirect ..)
      · dsimp only
        split
        · exact h.poisonHalt ..
        · refine h.of_frame ((apart.count ..).trans ((apart.updScatter _ _ _ ?_).trans ((apart.saturate ..).trans (apart.wr ..))))
          exact fun _ => rfl

/-- Room made for a line leaves an operation in flight, or its context halted (R142). -/
theorem Work.Reducing.evictLine (h : w.Reducing f q) (c u n k : Nat) : (w.evictLine c u n k).Reducing f q := by
  induction k generalizing w with
  | zero => exact h
  | succ k ih =>
    unfold Work.evictLine
    dsimp only
    split
    · exact h
    · split
      · exact h
      · rename_i l _
        exact ih (((h.lines _).flushLine l).count _ _)

/-- A contribution taken in leaves an operation in flight, or its context halted (R139, R140, R142). -/
theorem Work.Reducing.takeIn (h : w.Reducing f q) (o : ScatterOp) (u i key seg : Nat) (row : Option Nat) (pinned : Bool) :
    (w.takeIn o u i key seg row pinned).Reducing f q := by
  have hin := (h.of_frame ((Work.reduceFrame_apart _).saturate w o.ref.ctx (w.taken o i key).sat)).count
    Ctr.scatterUnderflow (w.taken o i key).under
  unfold Work.takeIn
  dsimp only
  split
  · split
    · exact (hin.lines _).flushLine _
    · exact hin.lines _
  · exact (hin.evictLine ..).lines _

/-- Lines flushed leave an operation in flight, or its context halted (R140). -/
theorem Work.Reducing.flushWhere (h : w.Reducing f q) (m : Line → Bool) : (w.flushWhere m).Reducing f q :=
  List.foldlRecOn _ Work.flushLine (h.lines _) fun _ hv l _ => hv.flushLine l

/-- A position leaves an operation in flight, or its context halted (R134, R136). -/
theorem Work.Reducing.takePos (h : w.Reducing f q) (id dests : Nat) (k : KeyArray) (segs : List (Nat × Nat)) (i : Nat) :
    (w.takePos id dests k segs i).Reducing f q := by
  unfold Work.takePos
  split
  · exact h
  · have hflush (m : Line → Bool) (last : Bool) (v : Work) (hv : v.Reducing f q) :
        (if last then v.flushWhere m else v).Reducing f q := by
      split
      · exact hv.flushWhere m
      · exact hv
    have h := h.count Ctr.scatterContributions 1
    refine hflush _ _ _ ?_
    split
    · exact h.count ..
    · exact h.count ..
    · exact h.engineStop ..
    · split
      · exact h.engineStop ..
      · exact h.takeIn ..

end

/-! ### A SCATTER taken up -/

/-- SCATTER of an active context is taken up. -/
theorem exec_scatter {r : StreamRef} {s : State} (p : ScatterParams) (ha : (s.work.ctx r.ctx).active = true) :
    exec (.scatter r p) s = .next (s.finish (s.work.startScatter r p)) := exec_finish rfl (if_pos ha)

/-- A failing check halts the stream (R132, R371). -/
theorem Work.startScatter_fault {w : Work} {r : StreamRef} {p : ScatterParams} {reason d : Nat}
    (h : w.scatterFault r.ctx p = some (reason, d)) : w.startScatter r p = w.haltStream r 2 reason d := by
  rw [Work.startScatter, h]

/-- While eight operations are in flight one stalled cycle is counted (R159, log 10). -/
theorem Work.startScatter_waits {w : Work} {r : StreamRef} {p : ScatterParams} (h : w.scatterFault r.ctx p = none)
    (hfull : 8 ≤ w.d.scatters.length) : w.startScatter r p = w.stall r.ctx Ctr.stallQueueFull 7 := by
  rw [Work.startScatter, h]
  exact if_pos hfull

/-- An operation put in flight in an enabled context is in flight. -/
theorem Work.reducing_append {w v : Work} {o : ScatterOp} {q : Nat × StreamRef × ScatterParams} (ho : o.request = q)
    (hv : v.reduceFrame q.2.1.ctx = w.reduceFrame q.2.1.ctx) (he : (w.ctx q.2.1.ctx).enable = true) :
    (v.upd fun d => { d with scatters := d.scatters ++ [o] }).Reducing w.fz q := by
  simp only [Work.reduceFrame, Prod.mk.injEq] at hv
  obtain ⟨hfz, hen, -, -⟩ := hv
  exact ⟨hfz, hen.trans he, fun _ => List.mem_map.mpr ⟨o, List.mem_append_right _ (List.mem_singleton.mpr rfl), ho⟩⟩

/-- With fewer in flight a SCATTER of an active context is in flight under the next number, or a position halted the context (R132,
R159). -/
theorem Work.startScatter_reducing {w : Work} {r : StreamRef} {p : ScatterParams} (h : w.scatterFault r.ctx p = none)
    (hroom : w.d.scatters.length < 8) (ha : (w.ctx r.ctx).active = true) :
    (w.startScatter r p).Reducing w.fz (w.d.nextId, r, p) := by
  have apart := Work.reduceFrame_apart r.ctx
  have he := (Ctx.active_enable ha).1
  unfold Work.startScatter
  dsimp only
  rw [h]
  dsimp only
  rw [if_neg (by omega)]
  split
  · refine List.foldlRecOn _ _ (Work.Reducing.draw ?_) fun v hv i _ => hv.of_frame (apart.routePos ..)
    exact Work.reducing_append rfl (apart.scatterExp w.fresh.2 ..) he
  · refine Work.Reducing.flushWhere (List.foldlRecOn _ _ (Work.Reducing.count ?_ _ _) fun v hv i _ => hv.takePos ..) _
    exact Work.reducing_append rfl (apart.scatterExp w.fresh.2 ..) he

/-! ### A SUM of one listed key -/

/-- The operation that a SUM by listed keys starts, at a scale exponent and outside a section (R132, R143). -/
def Work.newSum (w : Work) (r : StreamRef) (p : ScatterParams) (e : Int) : ScatterOp :=
  { id := w.d.nextId, ref := r, params := p
    form := (w.outForm r.ctx (scatterFmt p) p.tag).getD { fmt := .fp32, scale := 0, ref := 0 }
    exponent := e, stamp := p.stamp % 2 ^ 32, acks := 0, splits := [], written := [], denoms := [], tally := Tally.empty
    finalised := false }

/-- A working state with one more scatter operation in flight, its number used up. -/
def Work.addScatter (w : Work) (o : ScatterOp) : Work :=
  w.upd fun d => { d with nextId := d.nextId + 1, scatters := d.scatters ++ [o] }

/-- A working state in which a listed SUM is in flight, none of its positions taken in. -/
def Work.beginSum (w : Work) (r : StreamRef) (p : ScatterParams) (e : Int) : Work :=
  (w.addScatter (w.newSum r p e)).count Ctr.scatterSegmentsSplit 0

/-- Outside a section a given exponent is kept within its range (R132, log 29). -/
theorem Work.scatterExp_fixed {w : Work} {c : Nat} {p : ScatterParams} {e : Int} (vs : List Val) (h : p.exponent = .fixed e)
    (hr : (w.ctx c).replay = none) : w.scatterExp c p vs = (min e 127, w) := by
  unfold Work.scatterExp
  simp only [h, hr, Int.add_zero]

/-- A SUM of one valid listed key under a given exponent, checked in full, that finds its unit idle: no operation in flight, no line
held, no section open, and a region row of another stamp (R132, R134, R143, R161). -/
structure Work.FindsIdle (w : Work) (r : StreamRef) (p : ScatterParams) (d key : Nat) (e : Int) : Prop where
  passes : w.scatterFault r.ctx p = none
  scatters : w.d.scatters = []
  lines : w.d.lines = []
  replay : (w.ctx r.ctx).replay = none
  kind : p.kind = .sum
  list : blockSource p.source = false
  target : ∃ place b16 stride, p.target = .output d place b16 stride
  exponent : p.exponent = .fixed e
  count : (w.keyArray p.source p.keys p.count p.hop).count = 1
  keyAt : w.keyAt r.ctx (w.keyArray p.source p.keys p.count p.hop) 0 = key
  valid : w.sortKey r.ctx p d key 0 = .valid
  read : w.contribStop p 0 = none
  region : w.poisonIn (regionAt p key) (8 + 8 * p.elems) = none
  stamp : w.le (regionAt p key) 4 ≠ p.stamp % 2 ^ 32

/-- Such a SUM takes its one position in, then flushes its lines (R136, R140). -/
theorem Work.startScatter_oneKey {w : Work} {r : StreamRef} {p : ScatterParams} {d key : Nat} {e : Int}
    (h : w.FindsIdle r p d key e) :
    w.startScatter r p = ((w.beginSum r p (min e 127)).takePos w.d.nextId d
      (w.keyArray p.source p.keys p.count p.hop) [] 0).flushWhere fun l => l.op == w.d.nextId := by
  obtain ⟨place, b16, stride, htarget⟩ := h.target
  have hcount : (w.fresh.2.keyArray p.source p.keys p.count p.hop).count = 1 := h.count
  have hreplay : (w.fresh.2.ctx r.ctx).replay = none := h.replay
  have hattempt : (w.fresh.2.ctx r.ctx).attempt = 0 := by rw [Ctx.attempt, hreplay]
  unfold Work.startScatter
  dsimp only
  rw [h.passes]
  dsimp only
  rw [if_neg (by simp [h.scatters]), Work.scatterExp_fixed _ h.exponent hreplay, hcount, Work.scatterDests_list h.list htarget,
    if_neg (source_ne_edgeTarget h.list), hattempt, h.kind, htarget]
  rfl

/-- Where no section is open, the saturation flag changes counters alone (R301). -/
theorem Work.saturate_noSection {w : Work} {c : Nat} (n : Nat) (h : (w.ctx c).replay = none) :
    ∃ cs, w.saturate c n = w.upd fun d => { d with counters := cs } := by
  unfold Work.saturate
  split
  · exact ⟨w.d.counters, rfl⟩
  · refine ⟨(w.count Ctr.scatterSaturated n).d.counters, ?_⟩
    have hsame : updAt w.d.ctxs c (fun x => { x with replay := x.replay.map fun r => { r with scale := true } }) = w.d.ctxs := by
      refine updAt_same _ _ _ fun x hx => ?_
      have hmap (g : Replay → Replay) : x.replay.map g = x.replay := by
        rw [Work.ctx, hx, Option.getD_some] at h
        rw [h]
        rfl
      rw [hmap]
    show { w with d := { w.d with ctxs := updAt w.d.ctxs c _, counters := _ } } = _
    rw [hsame]
    rfl

/-- The line that a contribution begins (R139, R140). -/
def Work.newLine (w : Work) (o : ScatterOp) (u i key seg : Nat) (row : Option Nat) (pinned : Bool) : Line :=
  { op := o.id, unit_ := u, key := key, seg := seg, row := row, size := lineSize o.params.elems, pinned := pinned,
    accs := (w.taken o i key).accs, posn := (w.taken o i key).posn, denom := (w.taken o i key).denom, count := 1 }

/-- Where no line is held and no section is open, a contribution begins a line (R140). -/
theorem Work.takeIn_begins {w : Work} {o : ScatterOp} (u i key seg : Nat) (row : Option Nat) (pinned : Bool) (hlines : w.d.lines = [])
    (hsection : (w.ctx o.ref.ctx).replay = none) :
    ∃ cs, w.takeIn o u i key seg row pinned
      = w.upd fun d => { d with counters := cs, lines := w.newLine o u i key seg row pinned :: d.lines } := by
  obtain ⟨cs, hcs⟩ := Work.saturate_noSection (w.taken o i key).sat hsection
  unfold Work.takeIn
  simp only [hcs, Work.count_d, Work.upd_d, hlines, List.find?_nil, List.length_nil, Work.evictLine]
  exact ⟨_, rfl⟩

/-- Where keys name output rows, a position is sorted by its key and its mask, which no change of the device touches (R134). -/
theorem Work.sortKey_upd_output {w : Work} {c dests key i d stride : Nat} {p : ScatterParams} {place : Placement} {b16 : Bool}
    (f : Dev → Dev) (htarget : p.target = .output d place b16 stride) :
    (w.upd f).sortKey c p dests key i = w.sortKey c p dests key i := by
  unfold Work.sortKey
  rw [htarget]
  rfl

/-- One valid position of a listed key, where no line is held and no section is open, begins that key's line (R134, R136). -/
theorem Work.takePos_begins {w : Work} {id dests i key d stride : Nat} {o : ScatterOp} {k : KeyArray} {place : Placement}
    {b16 : Bool} (segs : List (Nat × Nat)) (hop : w.scatterOp id = some o) (htarget : o.params.target = .output d place b16 stride)
    (hlist : blockSource o.params.source = false) (hkey : w.keyAt o.ref.ctx k i = key)
    (hvalid : w.sortKey o.ref.ctx o.params dests key i = .valid) (hread : w.contribStop o.params i = none) (hlines : w.d.lines = [])
    (hsection : (w.ctx o.ref.ctx).replay = none) :
    ∃ cs u, w.takePos id dests k segs i
      = w.upd fun d => { d with counters := cs, lines := w.newLine o u i key 0 (some key) false :: d.lines } := by
  have hedge : decide (o.params.source = .edgeTarget) = false := decide_eq_false (source_ne_edgeTarget hlist)
  have hvalid' : (w.count Ctr.scatterContributions 1).sortKey o.ref.ctx o.params dests key i = .valid :=
    (Work.sortKey_upd_output _ htarget).trans hvalid
  have hread' : (w.count Ctr.scatterContributions 1).contribStop o.params i = none := hread
  unfold Work.takePos
  rw [hop]
  simp only [hedge, hkey, hvalid', hread']
  obtain ⟨cs, hcs⟩ := Work.takeIn_begins (w := w.count Ctr.scatterContributions 1) _ i key 0 (some key) false hlines hsection
  exact ⟨cs, _, hcs⟩

/-- Where one line matches, it alone is flushed (R140). -/
theorem Work.flushWhere_one {w : Work} {l : Line} {f : Line → Bool} (h : w.d.lines.filter f = [l]) :
    w.flushWhere f = (w.upd fun d => { d with lines := d.lines.filter fun l => !f l }).flushLine l := by
  unfold Work.flushWhere
  rw [h]
  rfl

/-- The storage, lines, tiles and contexts that a working state leaves: bytes stored from a key upward, and no line held. -/
structure Work.StoresRow (w v : Work) (a : Nat) (bs : List Byte) : Prop where
  base : v.base = w.base
  wiped : v.wiped = w.wiped
  log : v.log = journal a bs w.log
  lines : v.d.lines = []
  tiles : v.d.tiles = w.d.tiles
  ctxs : v.d.ctxs = w.d.ctxs

/-- A line flushed into its region row, where no section is open: the row is stored and its sums of weights kept (R143). -/
theorem Work.flushLine_row {w : Work} {l : Line} {o : ScatterOp} {r d stride : Nat} {place : Placement} {b16 : Bool}
    (hop : w.scatterOp l.op = some o) (htarget : o.params.target = .output d place b16 stride) (hrow : l.row = some r)
    (hread : w.poisonIn (regionAt o.params r) (8 + 8 * o.params.elems) = none) (hsection : (w.ctx o.ref.ctx).replay = none) :
    ∃ cs, w.flushLine l = ((w.wr (regionAt o.params r) (w.regionRow o (regionAt o.params r) l).1).updScatter o.id fun k =>
      { k with denoms := addDenoms k.denoms r l.denom }).upd fun d => { d with counters := cs } := by
  obtain ⟨cs, hcs⟩ := Work.saturate_noSection (w := w.wr (regionAt o.params r) (w.regionRow o (regionAt o.params r) l).1)
    (w.regionRow o (regionAt o.params r) l).2 hsection
  unfold Work.flushLine
  rw [hop]
  simp only [htarget, hrow, hread, hcs]
  exact ⟨_, rfl⟩

/-- The one line held, flushed into its region row where no section is open, stores that row (R140, R143). -/
theorem Work.flushWhere_row {w : Work} {l : Line} {f : Line → Bool} {o : ScatterOp} {r d stride : Nat} {place : Placement}
    {b16 : Bool} (hlines : w.d.lines = [l]) (hf : f l = true) (hop : w.scatterOp l.op = some o)
    (htarget : o.params.target = .output d place b16 stride) (hrow : l.row = some r)
    (hread : w.poisonIn (regionAt o.params r) (8 + 8 * o.params.elems) = none)
    (hsection : (w.ctx o.ref.ctx).replay = none) :
    w.StoresRow (w.flushWhere f) (regionAt o.params r) (w.regionRow o (regionAt o.params r) l).1 := by
  have hone : w.d.lines.filter f = [l] := by simp [hlines, hf]
  have hnone : w.d.lines.filter (fun l => !f l) = [] := by simp [hlines, hf]
  obtain ⟨cs, hflush⟩ := Work.flushLine_row (w := w.upd fun d => { d with lines := d.lines.filter fun l => !f l })
    hop htarget hrow hread hsection
  rw [Work.flushWhere_one hone, hflush]
  exact ⟨rfl, rfl, rfl, hnone, rfl, rfl⟩

/-! ### The sums of a fresh region row -/

/-- A quantised element is a 32-bit integer (R139). -/
theorem quantise_range (v : Val) : -(2 ^ 31 - 1) ≤ (quantise v).1 ∧ (quantise v).1 ≤ 2 ^ 31 - 1 := by
  unfold quantise
  split
  · decide
  · split <;> decide
  · dsimp only
    split
    · decide
    · split
      · decide
      · constructor <;> dsimp only <;> omega

/-- An addition to 0 keeps a 64-bit integer (R144). -/
theorem satAdd_zero {v : Int} (hlo : -(2 ^ 63) ≤ v) (hhi : v ≤ 2 ^ 63 - 1) : (satAdd 0 v).1 = v := by
  unfold satAdd
  rw [Int.zero_add]
  dsimp only
  rw [if_neg (by omega), if_neg (by omega)]

/-- An indexed map that does not use the index is a map. -/
theorem mapIdx_ignoring_index {α β : Type} (f : α → β) (l : List α) : l.mapIdx (fun _ x => f x) = l.map f :=
  List.ext_getElem (by simp) (by simp)

/-- A sum's contribution as it enters a line: its elements quantised (R139). -/
theorem Work.taken_sum {w : Work} {o : ScatterOp} (i key : Nat) (hkind : o.params.kind = .sum) :
    (w.taken o i key).accs = (w.contribRow o.params i).map fun x => (quantise ((f32.decode x).scale (-o.exponent))).1 := by
  unfold Work.taken
  simp [hkind, comparing, mapIdx_ignoring_index]

/-- A sum flushed into a region row of another stamp replaces it (R143): the stamp, the count and the line's sums. -/
theorem Work.regionRow_fresh {w : Work} {o : ScatterOp} {a : Nat} (l : Line) (hkind : o.params.kind = .sum)
    (hstamp : w.le a 4 ≠ o.stamp) :
    (w.regionRow o a l).1
      = leBytes 4 o.stamp ++ leBytes 4 l.count ++ (l.accs.map fun v => leBytes 8 (ofSigned 64 (satAdd 0 v).1)).flatten := by
  unfold Work.regionRow
  simp [hkind, comparing, hstamp, mapIdx_ignoring_index, Function.comp_def]

/-- The row that a listed SUM's one contribution leaves (R139, R143): the stamp, the count 1 and its quantised elements. -/
theorem Work.regionRow_newLine {v w : Work} {o : ScatterOp} {a u i key seg : Nat} {row : Option Nat} {pinned : Bool}
    (hkind : o.params.kind = .sum) (hstamp : v.le a 4 ≠ o.stamp) :
    (v.regionRow o a (w.newLine o u i key seg row pinned)).1 = leBytes 4 o.stamp ++ leBytes 4 1
      ++ ((w.contribRow o.params i).map fun x =>
          leBytes 8 (ofSigned 64 (quantise ((f32.decode x).scale (-o.exponent))).1)).flatten := by
  rw [Work.regionRow_fresh _ hkind hstamp]
  show _ ++ ((w.taken o i key).accs.map _).flatten = _
  rw [Work.taken_sum i key hkind, List.map_map]
  congr 2
  refine List.map_congr_left fun x _ => ?_
  obtain ⟨hlo, hhi⟩ := quantise_range ((f32.decode x).scale (-o.exponent))
  rw [Function.comp_apply, satAdd_zero (by omega) (by omega)]

/-- The only operation in flight is found by its number. -/
theorem Work.scatterOp_addScatter {w : Work} {o : ScatterOp} (hnone : w.d.scatters = []) :
    (w.addScatter o).scatterOp o.id = some o := by
  show (w.d.scatters ++ [o]).find? _ = _
  rw [hnone]
  exact List.find?_cons_of_pos (beq_self_eq_true o.id)

/-- Such a SUM stores its key's region row: the stamp, the count 1 and its quantised elements (R139, R140, R143). -/
theorem Work.FindsIdle.storesRow {w : Work} {r : StreamRef} {p : ScatterParams} {d key : Nat} {e : Int}
    (h : w.FindsIdle r p d key e) :
    w.StoresRow (w.startScatter r p) (regionAt p key) (leBytes 4 (p.stamp % 2 ^ 32) ++ leBytes 4 1 ++
      ((w.contribRow p 0).map fun x => leBytes 8 (ofSigned 64 (quantise ((f32.decode x).scale (-(min e 127)))).1)).flatten) := by
  obtain ⟨place, b16, stride, htarget⟩ := h.target
  have hop := Work.scatterOp_addScatter (o := w.newSum r p (min e 127)) h.scatters
  have hvalid : (w.beginSum r p (min e 127)).sortKey r.ctx p d key 0 = .valid :=
    (Work.sortKey_upd_output _ htarget).trans ((Work.sortKey_upd_output _ htarget).trans h.valid)
  obtain ⟨cs, u, htake⟩ := Work.takePos_begins (w := w.beginSum r p (min e 127)) (id := w.d.nextId) [] hop htarget h.list h.keyAt
    hvalid h.read h.lines h.replay
  obtain ⟨l, hl⟩ : ∃ l, (w.beginSum r p (min e 127)).newLine (w.newSum r p (min e 127)) u 0 key 0 (some key) false = l :=
    ⟨_, rfl⟩
  have hlop : l.op = w.d.nextId := by rw [← hl]; rfl
  have hlrow : l.row = some key := by rw [← hl]; rfl
  rw [hl] at htake
  have hrow := Work.flushWhere_row (f := fun l => l.op == w.d.nextId) (o := w.newSum r p (min e 127))
    (w := (w.beginSum r p (min e 127)).upd fun d => { d with counters := cs, lines := l :: d.lines })
    (congrArg (l :: ·) h.lines) (by simp [hlop]) (by rw [hlop]; exact hop) htarget hlrow h.region h.replay
  rw [← hl, Work.regionRow_newLine h.kind h.stamp, hl] at hrow
  rw [Work.startScatter_oneKey h, htake]
  exact ⟨hrow.base, hrow.wiped, hrow.log, hrow.lines, hrow.tiles, hrow.ctxs⟩

/-- Settles O22: a failing check by the record of its halt, a wait by its one counter, a start by what the contributions taken in
keep in flight, and the row of a single key by the one line that holds it and the one flush that stores it. The wait's stalled
cycle and the hold of E within its range are the model's choices (logs 10 and 29). -/
theorem scatterStarts : Obligations.ScatterStarts := by
  unfold Obligations.ScatterStarts
  refine ⟨?_, ?_, ?_, ?_⟩
  · intro r p reason d s hactive hfault
    obtain ⟨he, hv⟩ := Ctx.active_enable hactive
    have hctx := State.finish_ctx s _ r.ctx (Work.still_fz (Work.haltStream_still s.work r 2 reason d))
    refine ⟨_, exec_scatter p hactive, ?_⟩
    rw [Work.startScatter_fault hfault, hctx]
    exact Work.haltStream_rec s.work r 2 reason d he hv
  · intro r p s hactive hok hfull
    rw [exec_scatter p hactive, Work.startScatter_waits hok hfull, State.finish_eq s _ rfl rfl]
    rfl
  · intro r p s hactive hok hroom
    have hflight := Work.startScatter_reducing hok hroom hactive
    refine ⟨_, exec_scatter p hactive, fun hv => ?_⟩
    rw [State.finish_ctx s _ r.ctx hflight.fuses] at hv
    obtain ⟨o, ho, hreq⟩ := List.mem_map.mp (hflight.listed hv)
    simp only [ScatterOp.request, Prod.mk.injEq] at hreq
    exact ⟨o, by rw [State.finish_scatters]; exact ho, hreq⟩
  · intro r p e d stride key place b16 s hwf hactive hok hnone hlines hreplay hkind hsource htarget hexp hone hkey hvalid hread
      hregion hstamp
    have hrow := Work.FindsIdle.storesRow ⟨hok, hnone, hlines, hreplay, hkind, blockSource_list hsource,
      ⟨place, b16, stride, htarget⟩, hexp, hone, hkey, hvalid, hread, hregion, hstamp⟩
    refine ⟨_, exec_scatter p hactive, ?_, ?_, ?_, State.finish_stores s _ _ _ hwf hrow.base hrow.wiped hrow.log⟩
    · rw [State.finish_lines, hrow.lines]
    · rw [State.finish_tiles, hrow.tiles, State.work_d]
    · rw [State.finish_ctxs, hrow.ctxs, State.work_d]

end Sys2Proof.Machine
end

section
/-!
PROOFS. The end of a scatter operation (R135, R144, R155) and a peer's contribution served (R155, R361): destinations finalised,
acknowledgements waited for, and the answers sent back.
-/

namespace Sys2Proof.Machine

/-! ### SCATTER_FINALISE -/

/-- SCATTER_FINALISE of an operation not yet finalised. -/
theorem exec_scatterFinalise {op : Nat} {o : ScatterOp} {s : State} (hop : s.work.scatterOp op = some o)
    (hfin : o.finalised = false) :
    exec (.scatterFinalise op) s = .next (s.finish (s.work.finaliseScatter o)) := by
  refine exec_finish rfl ?_
  rw [hop]
  exact if_neg (by simp [hfin])

/-- What finalising destinations does not change: tiles, traversals, gathers, residency, and what names the operations in flight. -/
def Work.finaliseFrame (w : Work) :
    List Tile × List TravOp × List GatherOp × List ResEntry × List (Nat × StreamRef × ScatterParams) :=
  (w.d.tiles, w.d.trav, w.d.gathers, w.d.residency, w.scatterRequests)

/-- The units' bookkeeping keeps the finalise frame. -/
theorem Work.finaliseFrame_apart : Work.Apart Work.finaliseFrame where
  wr _ _ _ := rfl
  count _ _ _ := rfl
  draw _ := rfl
  updCtx _ _ _ _ := rfl
  updScatter v id f hf := by
    rw [Work.finaliseFrame, Work.updScatter_requests v id f hf]
    rfl

/-- Destinations finalised one after another keep what one keeps. -/
theorem Work.Apart.finaliseDests {β : Type} {p : Work → β} (h : Work.Apart p) (w : Work) (o : ScatterOp) (ds : List Nat) :
    p (ds.foldl (fun w d => w.finaliseDest o d) w) = p w :=
  Work.foldl_keeps p _ (fun v d => h.finaliseDest v o d) ds w

/-- A finalised operation keeps the finalise frame (R144). -/
theorem Work.finaliseScatter_frame (w : Work) (o : ScatterOp) : (w.finaliseScatter o).finaliseFrame = w.finaliseFrame := by
  refine (Work.finaliseFrame_apart.updScatter _ _ _ ?_).trans (Work.finaliseFrame_apart.finaliseDests ..)
  exact fun _ => rfl

/-- An operation in flight, finalised, is found as such under its number (R144). -/
theorem Work.finaliseScatter_finds {w : Work} {op : Nat} {o : ScatterOp} (hop : w.scatterOp op = some o) :
    ∃ k, (w.finaliseScatter o).scatterOp op = some k ∧ k.finalised = true ∧ k.params = o.params := by
  have hid := Work.scatterOp_id hop
  obtain ⟨v, hv⟩ : ∃ v, (List.range (w.scatterDests o.params)).foldl (fun w d => w.finaliseDest o d) w = v := ⟨_, rfl⟩
  have hframe := Work.finaliseFrame_apart.finaliseDests w o (List.range (w.scatterDests o.params))
  rw [hv] at hframe
  simp only [Work.finaliseFrame, Prod.mk.injEq] at hframe
  obtain ⟨-, -, -, -, hnames⟩ := hframe
  have hfound : (v.scatterOp op).map ScatterOp.request = some o.request := by
    rw [Work.scatterOp_request, hnames, ← Work.scatterOp_request, hop, Option.map_some]
  obtain ⟨k, hk, hreq⟩ := Option.map_eq_some_iff.mp hfound
  simp only [ScatterOp.request, Prod.mk.injEq] at hreq
  obtain ⟨-, -, hparams⟩ := hreq
  refine ⟨{ k with finalised := true }, ?_, rfl, hparams⟩
  unfold Work.finaliseScatter
  rw [hv]
  dsimp only
  rw [hid, Work.scatterOp_updScatter, hk]
  · rfl
  · exact fun _ => rfl

/-- A sum's destination row, written, stores its elements in the output format and nothing else (R144). -/
theorem Work.putDest_sum_log {w : Work} {o : ScatterOp} {n stride : Nat} {place : Placement} {b16 : Bool} (d : Nat) (vs : List Val)
    (posn : List Nat) (denom : List Int) (hkind : o.params.kind = .sum) (htarget : o.params.target = .output n place b16 stride) :
    (w.putDest o d vs posn denom).log = journal (placeRow place stride d) (rowOut o.form vs).1 w.log := by
  unfold Work.putDest
  simp only [htarget, hkind, comparing]
  exact Work.saturate_keeps Work.log (fun _ _ _ => rfl) (fun _ _ => rfl) ..

/-- The elements of a finished sum: each its sum times 2^E (R144). -/
theorem destVals_sum {o : ScatterOp} (draw : Nat) (accs : List Int) (count : Nat) (denom : List Int) (hkind : o.params.kind = .sum) :
    destVals o draw accs count denom = accs.map fun x => Val.ofInt x o.exponent := by
  unfold destVals
  rw [hkind]

/-- A sum's destination from a region row that carries the stamp stores that output row (R144). -/
theorem Work.finaliseRow_sum_log {w : Work} {o : ScatterOp} {r n stride : Nat} {place : Placement} {b16 : Bool} (d : Nat)
    (hkind : o.params.kind = .sum) (htarget : o.params.target = .output n place b16 stride)
    (hstamp : w.le (regionAt o.params r) 4 = o.stamp) :
    (w.finaliseRow o d r).log = journal (placeRow place stride d) (rowOut o.form
      (tab o.params.elems fun j => Val.ofInt (w.les (regionAt o.params r + 8 + 8 * j) 8) o.exponent)).1 w.log := by
  have hsum : comparing o.params.kind = false := by
    rw [hkind]
    rfl
  unfold Work.finaliseRow
  dsimp only
  rw [if_neg (by simp [hstamp]), hsum, if_neg (by decide), Work.putDest_sum_log _ _ _ _ hkind htarget, destVals_sum _ _ _ _ hkind]
  unfold tab
  rw [List.map_map]
  rfl

/-- A listed SUM with one destination stores that destination's row alone (R144). -/
theorem Work.finaliseScatter_one_log {w : Work} {o : ScatterOp} {stride : Nat} {place : Placement} {b16 : Bool}
    (hkind : o.params.kind = .sum) (hlist : blockSource o.params.source = false)
    (htarget : o.params.target = .output 1 place b16 stride) (hnew : o.written = []) (hstamp : w.le (regionAt o.params 0) 4 = o.stamp) :
    (w.finaliseScatter o).log = journal (placeRow place stride 0) (rowOut o.form
      (tab o.params.elems fun j => Val.ofInt (w.les (regionAt o.params 0 + 8 + 8 * j) 8) o.exponent)).1 w.log := by
  have hdest : w.finaliseDest o 0 = w.finaliseRow o 0 0 := by
    unfold Work.finaliseDest
    rw [hnew, if_neg (by decide), if_neg (source_ne_edgeTarget hlist)]
  rw [← Work.finaliseRow_sum_log 0 hkind htarget hstamp, ← hdest]
  unfold Work.finaliseScatter
  rw [Work.scatterDests_list hlist htarget]
  rfl

/-! ### SCATTER_COMPLETE and SERVED_ACK -/

/-- SCATTER_COMPLETE while acknowledgements are to come: one stalled cycle is counted (R155, log 10). -/
theorem exec_scatterComplete_waits {op : Nat} {o : ScatterOp} {s : State} (hop : s.work.scatterOp op = some o)
    (hacks : o.acks ≠ 0) :
    exec (.scatterComplete op) s = .next (s.finish (s.work.stall o.ref.ctx Ctr.stallDataLatePeer 7)) := by
  refine exec_finish rfl ?_
  rw [hop]
  exact if_pos hacks

/-- SCATTER_COMPLETE of a finalised ROW_UPDATE with every acknowledgement: the operation goes, and the device may report (R135,
R155). -/
theorem exec_scatterComplete_update {op tbl area alpha : Nat} {o : ScatterOp} {s : State} (hop : s.work.scatterOp op = some o)
    (hacks : o.acks = 0) (hfin : o.finalised = true) (htarget : o.params.target = .rowUpdate tbl area alpha) :
    exec (.scatterComplete op) s
      = .next (s.finish (s.work.upd fun d => { d with scatters := d.scatters.filter fun k => k.id != op }).tryReport) := by
  refine exec_finish rfl ?_
  rw [hop]
  dsimp only
  rw [if_neg (by simp [hacks]), if_pos hfin, Work.finishScatter, htarget, Work.scatterOp_id hop]
  rfl

/-- A report of the device leaves the scatter operations (R47). -/
theorem Work.tryReport_scatters (w : Work) : w.tryReport.d.scatters = w.d.scatters :=
  Work.tryReport_keeps (fun v => v.d.scatters)
    (Work.sendBelay_keeps (fun v => v.d.scatters) (fun _ _ => rfl) (fun _ _ _ _ => rfl) fun _ _ _ => rfl) (fun _ _ _ _ _ _ => rfl) w

/-- SERVED_ACK for an operation with acknowledgements to come takes one off, and one outstanding request (R155, R463). -/
theorem exec_servedAck {op u : Nat} {o : ScatterOp} {s : State} (hop : s.work.scatterOp op = some o) (hacks : o.acks ≠ 0)
    (hu : u < 16) :
    exec (.servedAck op u) s
      = .next (s.finish ((s.work.updScatter op fun k => { k with acks := k.acks - 1 }).answered o.ref.ctx)) := by
  refine exec_finish rfl ?_
  rw [hop]
  exact if_neg (by omega)

/-! ### SERVED_CONTRIBUTION -/

/-- The answer to a peer's request on a link (R155, R361). -/
def Work.answerPeer (w : Work) (link jobTag : Nat) (m : LinkMsg) : Work :=
  w.sendRouted 0 2 (w.link link).peerId (BitVec.ofNat 32 jobTag) false m

/-- SERVED_CONTRIBUTION on a trained link is served. -/
theorem exec_servedContribution {link : Nat} {s : State} (jobTag table area alpha row : Nat) (e : Int) (accs : List Int)
    (hup : (s.work.link link).state = .up) :
    exec (.servedContribution link jobTag table area alpha row e accs) s
      = .next (s.finish (s.work.serveContribution link jobTag table area alpha row e accs)) := exec_finish rfl (if_pos hup)

/-- A contribution under a job tag that no context here carries is denied (R361). -/
theorem Work.serveContribution_untagged {w : Work} {link jobTag : Nat} (table area alpha row : Nat) (e : Int) (accs : List Int)
    (h : w.tagged jobTag = none) :
    w.serveContribution link jobTag table area alpha row e accs = w.answerPeer link jobTag (.denied row) := by
  rw [Work.serveContribution, h]
  rfl

/-- A contribution to a row that a table does not have is counted, dropped and acknowledged (R155, log 26). -/
theorem Work.serveContribution_invalid {w : Work} {link jobTag table area row c : Nat} {accs : List Int} (alpha : Nat) (e : Int)
    (htag : w.tagged jobTag = some c) (hread : w.accessFault c table 64 false = none) (hwrite : w.accessFault c area 64 true = none)
    (hok : (w.table table).ok = true) (harea : w.areaOk area (w.table table) = true) (helems : (w.table table).elems = accs.length)
    (hkind : (w.table table).kind ≠ 3) (hrow : (w.table table).rows ≤ row) :
    w.serveContribution link jobTag table area alpha row e accs
      = ((w.count Ctr.scatterServedRows 1).count Ctr.dropIndexRange 1).answerPeer link jobTag (.ack row) := by
  rw [Work.serveContribution, htag]
  dsimp only
  rw [hread, hwrite]
  dsimp only [Option.or]
  rw [if_neg (by simp [hok, harea, helems]), if_neg]
  · rfl
  · split
    · exact absurd ‹_› hkind
    · simpa using hrow

/-- What no answer to a peer changes: contexts, windows and storage. -/
def Work.answerFrame (w : Work) : List Ctx × List Window × List Host.Cell × List (Nat × Nat) :=
  (w.d.ctxs, w.d.windows, w.log, w.wiped)

/-- An answer to a peer keeps the answer frame. -/
theorem Work.answerPeer_frame (w : Work) (link jobTag : Nat) (m : LinkMsg) :
    (w.answerPeer link jobTag m).answerFrame = w.answerFrame :=
  Work.sendRouted_keeps Work.answerFrame (fun _ _ _ _ => rfl) (fun _ _ _ _ _ => rfl) (fun _ _ _ => rfl) w ..

/-- The state that an answer to a peer leaves where nothing else but counters changed: memory, contexts and windows stay, and the
answer is on its link (R470). -/
theorem State.finish_answerPeer {s : State} {w : Work} {link jobTag l : Nat} (m : LinkMsg)
    (hw : w.answerFrame = s.work.answerFrame) (hout : w.d.linkOut = s.dev.linkOut)
    (hpeer : (w.link link).peerId = (s.work.link link).peerId) (hl : w.routeLink 2 (s.work.link link).peerId = some l) :
    (s.finish (w.answerPeer link jobTag m)).mem = s.mem ∧ (s.finish (w.answerPeer link jobTag m)).dev.ctxs = s.dev.ctxs
      ∧ (s.finish (w.answerPeer link jobTag m)).dev.windows = s.dev.windows
      ∧ (s.finish (w.answerPeer link jobTag m)).dev.linkOut = s.dev.linkOut ++ [{
          link := l, dest := (s.work.link link).peerId, jobTag := BitVec.ofNat 32 jobTag, msg := m }] := by
  have hframe := (Work.answerPeer_frame w link jobTag m).trans hw
  simp only [Work.answerFrame, Prod.mk.injEq] at hframe
  obtain ⟨hctxs, hwindows, hlog, hwiped⟩ := hframe
  refine ⟨State.finish_mem s _ hlog hwiped, ?_, ?_, ?_⟩
  · rw [State.finish_ctxs, hctxs, State.work_d]
  · rw [State.finish_windows, hwindows, State.work_d]
  · rw [State.finish_linkOut, Work.answerPeer, hpeer, Work.sendRouted_out _ _ _ _ l _ _ _ hl, hout]

/-- Settles O23: finalising by what its rows leave and by the one row that it stores, completion by its wait and by what a report
keeps, an acknowledgement by its one change, a served contribution by its answer. The stalled cycle and the drop of an invalid row
are the model's choices (logs 10 and 26). -/
theorem scatterProceeds : Obligations.ScatterProceeds := by
  unfold Obligations.ScatterProceeds
  refine ⟨?_, ?_, ?_, ?_, ?_, ?_, ?_⟩
  · intro op o s hop hfin
    have hframe := Work.finaliseScatter_frame s.work o
    simp only [Work.finaliseFrame, Prod.mk.injEq] at hframe
    obtain ⟨htiles, htrav, hgathers, hresidency, -⟩ := hframe
    refine ⟨_, exec_scatterFinalise hop hfin, ?_, ?_, ?_, ?_, ?_⟩
    · obtain ⟨k, hk, hdone⟩ := Work.finaliseScatter_finds hop
      refine ⟨k, ?_, hdone⟩
      rw [Work.scatterOp, State.work_d, State.finish_scatters]
      exact hk
    · rw [State.finish_tiles, htiles, State.work_d]
    · rw [State.finish_trav, htrav, State.work_d]
    · rw [State.finish_gathers, hgathers, State.work_d]
    · rw [State.finish_residency, hresidency, State.work_d]
  · rintro op d stride place b16 o s hwf hop hfin hkind hsource htarget rfl hnew hstamp
    have hcalm := Work.finaliseScatter_calm s.work o
    exact ⟨_, exec_scatterFinalise hop hfin, State.finish_stores s _ _ _ hwf (Work.calm_base hcalm) (Work.calm_wiped hcalm)
      (Work.finaliseScatter_one_log hkind (blockSource_list hsource) htarget hnew hstamp)⟩
  · intro op o s hop hacks
    rw [exec_scatterComplete_waits hop hacks, State.finish_eq s _ rfl rfl]
    rfl
  · intro op tbl area alpha o s hop hacks hfin htarget
    obtain ⟨hctxs, htiles, hmem, -, -⟩ := State.finish_reportFrame (s := s) (Work.tryReport_reportFrame
      (s.work.upd fun d => { d with scatters := d.scatters.filter fun k => k.id != op })) rfl rfl
    refine ⟨_, exec_scatterComplete_update hop hacks hfin htarget, ?_, hmem, hctxs, htiles⟩
    rw [State.finish_scatters, Work.tryReport_scatters]
    rfl
  · intro op u o s hop hacks hu
    have hkeeps {β : Type} (p : Work → β) (h : ∀ v l f, p (Work.updLink v l f) = p v) :=
      Work.answered_keeps p h (s.work.updScatter op fun k => { k with acks := k.acks - 1 }) o.ref.ctx
    refine ⟨_, exec_servedAck hop hacks hu, ?_, ?_, ?_⟩
    · exact State.finish_mem s _ (hkeeps Work.log fun _ _ _ => rfl) (hkeeps Work.wiped fun _ _ _ => rfl)
    · rw [State.finish_ctxs]
      exact hkeeps (fun v => v.d.ctxs) fun _ _ _ => rfl
    · rw [State.finish_scatters]
      exact hkeeps (fun v => v.d.scatters) fun _ _ _ => rfl
  · intro link jobTag table area alpha row l e accs s hup htag hl
    refine ⟨_, exec_servedContribution jobTag table area alpha row e accs hup, ?_⟩
    rw [Work.serveContribution_untagged table area alpha row e accs htag]
    obtain ⟨hmem, hctxs, -, hout⟩ := State.finish_answerPeer (w := s.work) (jobTag := jobTag) (.denied row) rfl rfl rfl hl
    exact ⟨hmem, hctxs, hout⟩
  · intro link jobTag table area alpha row l c e accs s hup htag hread hwrite hok harea helems hkind hrow hl
    refine ⟨_, exec_servedContribution jobTag table area alpha row e accs hup, ?_⟩
    rw [Work.serveContribution_invalid alpha e htag hread hwrite hok harea helems hkind hrow]
    exact State.finish_answerPeer (.ack row) rfl rfl rfl hl

end Sys2Proof.Machine
end

section
/-!
PROOFS. Row moves and the hot-set refresh (R175, R176, R184): a move list's entries examined, a row copied to its new home, and the
counts that a refresh leaves.
-/

namespace Sys2Proof.Machine

/-! ### What work on the row map keeps -/

/-- What no work on the row map's entries changes: tiles, configuration, the firmware's counts and how far it has read its log. -/
def Work.upkeepFrame (w : Work) : List Tile × CfgSet × List (Nat × Nat × Nat) × Nat :=
  (w.d.tiles, w.d.active, w.d.fw.counts, w.d.fw.logReadTo)

/-- The count of moves in flight is a store into the header (R163): the device stays as it is. -/
theorem Work.writeInFlight_d (w : Work) : w.writeInFlight.d = w.d := by
  unfold Work.writeInFlight
  split <;> rfl

/-- The count of moves in flight keeps the upkeep frame (R163). -/
theorem Work.writeInFlight_upkeepFrame (w : Work) : w.writeInFlight.upkeepFrame = w.upkeepFrame := by
  rw [Work.upkeepFrame, Work.writeInFlight_d]
  rfl

/-- Promotions noted for later keep the upkeep frame (R184). -/
theorem Work.notePromotions_upkeepFrame (w : Work) (f : Dev → List Promotion) :
    (w.upd fun d => { d with fw := { d.fw with promotions := f d } }).upkeepFrame = w.upkeepFrame := rfl

/-- Homes kept in reserve keep the upkeep frame (R184). -/
theorem Work.reserveHomes_upkeepFrame (w : Work) (rows : List Nat) : (w.reserveHomes rows).upkeepFrame = w.upkeepFrame := rfl

/-! ### A move asked for -/

/-- The move that an accepted request adds: pending until its start tick (R175). -/
def Work.pendingMove (w : Work) (c start commit : Nat) (m : MoveAsk) : RowMove :=
  { ctx := c, index := m.index, action := m.action, newHome := m.newHome, newClass := m.cls, managed := m.managed,
    elems := if m.action = 1 then m.elems else (w.rowEntry m.index).elems, start := start, commit := commit, began := false,
    copied := false, hot := m.action != 2 && (w.hotSlot m.newHome).isSome }

/-- A refused move changes counters alone (R175). -/
theorem Work.askMove_refused {w : Work} {c start commit : Nat} {m : MoveAsk} (h : w.moveResult c start commit m ≠ 0) :
    ∃ cs, (w.askMove c start commit m).2 = w.upd fun d => { d with counters := cs } := by
  unfold Work.askMove
  dsimp only
  rw [if_pos h]
  exact ⟨_, rfl⟩

/-- An accepted move changes storage, contexts and counters, and adds the move (R175, R182). -/
theorem Work.askMove_accepted {w : Work} {c start commit : Nat} {m : MoveAsk} (h : w.moveResult c start commit m = 0) :
    ∃ log xs cs, (w.askMove c start commit m).2 = ({ w with log := log } : Work).upd fun d =>
      { d with ctxs := xs, counters := cs, rowMoves := d.rowMoves ++ [w.pendingMove c start commit m] } := by
  unfold Work.askMove
  dsimp only
  rw [if_neg (by simp [h])]
  split
  · exact ⟨_, _, _, rfl⟩
  · exact ⟨_, _, _, rfl⟩

/-- A move accepted or refused keeps the upkeep frame. -/
theorem Work.askMove_upkeepFrame (w : Work) (c start commit : Nat) (m : MoveAsk) :
    (w.askMove c start commit m).2.upkeepFrame = w.upkeepFrame := by
  by_cases h : w.moveResult c start commit m = 0
  · obtain ⟨log, xs, cs, e⟩ := Work.askMove_accepted h
    rw [e]
    rfl
  · obtain ⟨cs, e⟩ := Work.askMove_refused h
    rw [e]
    rfl

/-- Moves asked for one after another keep the upkeep frame. -/
theorem Work.askMoves_upkeepFrame (c start commit : Nat) (ms : List MoveAsk) (w : Work) :
    (ms.foldl (fun w m => (w.askMove c start commit m).2) w).upkeepFrame = w.upkeepFrame :=
  Work.foldl_keeps Work.upkeepFrame _ (fun v m => Work.askMove_upkeepFrame v c start commit m) ms w

/-- A move is accepted before its start tick only (R175). -/
theorem Work.tick_lt_of_accepted {w : Work} {c start commit : Nat} {m : MoveAsk} (h : w.moveResult c start commit m = 0) :
    w.tick < start := by
  refine Nat.lt_of_not_le fun hlate => ?_
  rw [Work.moveResult, if_pos hlate] at h
  exact absurd h (by decide)

/-! ### ROW_MOVE -/

/-- A list of one move that is accepted changes of the device what its move changes: the rest is stored in memory, and a list taken
before its start tick raises no event (R174, R175). -/
theorem Work.takeList_one_d {w : Work} {c list start commit : Nat} (h : w.moveResult c start commit (w.moveAsk list 0) = 0) :
    (w.takeList c list start commit 1).d = (w.askMove c start commit (w.moveAsk list 0)).2.d := by
  obtain ⟨log, xs, cs, e⟩ := Work.askMove_accepted h
  obtain ⟨v, hv⟩ : ∃ v, (w.askMove c start commit (w.moveAsk list 0)).2 = v := ⟨_, rfl⟩
  have htick : v.tick = w.tick := by
    rw [← hv, e]
    rfl
  have hone : List.range 1 = [0] := rfl
  unfold Work.takeList
  simp only [hone, List.foldl_cons, List.foldl_nil, hv, Work.writeInFlight_d]
  rw [if_neg]
  · rfl
  · exact fun hlate => absurd (Work.tick_lt_of_accepted h) (Nat.not_lt_of_le (Nat.le_trans hlate (Nat.le_of_eq htick)))

/-- ROW_MOVE of an active context whose list fails its checks. -/
theorem exec_rowMove_fault {r : StreamRef} {list reason d : Nat} {s : State} (hactive : (s.work.ctx r.ctx).active = true)
    (hfault : s.work.rowMoveFault r.ctx list = some (reason, d)) :
    exec (.rowMove r list) s = .next (s.finish (s.work.haltStream r 5 reason d)) := by
  refine exec_finish rfl ?_
  rw [if_neg (by simp [hactive]), hfault]

/-- ROW_MOVE of an active context whose list passes its checks. -/
theorem exec_rowMove_taken {r : StreamRef} {list : Nat} {s : State} (hactive : (s.work.ctx r.ctx).active = true)
    (hok : s.work.rowMoveFault r.ctx list = none) :
    exec (.rowMove r list) s = .next (s.finish
      (s.work.takeList r.ctx list (s.work.le (list + 16) 8) (s.work.le (list + 24) 8) (s.work.le (list + 8) 4))) := by
  refine exec_finish rfl ?_
  rw [if_neg (by simp [hactive]), hok]

/-! ### ROW_MOVE_COPY_DONE -/

/-- A row that keeps its class, and of which no byte is poisoned, is stored at its new home as it stands (R176). -/
theorem Work.copyRow_sameClass {w : Work} {m : RowMove}
    (hread : w.poisonIn (w.rowEntry m.index).home (storedLen (w.rowEntry m.index).cls (w.rowEntry m.index).elems) = none)
    (hcls : (w.rowEntry m.index).cls = m.newClass) :
    w.copyRow m = w.wr m.newHome
      (w.rdN (w.rowEntry m.index).home (storedLen (w.rowEntry m.index).cls (w.rowEntry m.index).elems)) := by
  unfold Work.copyRow
  dsimp only
  rw [hread]
  exact if_pos hcls

/-- The copy of a row's move marked as written. -/
def Work.markCopied (w : Work) (index : Nat) : Work :=
  w.upd fun d => { d with rowMoves := d.rowMoves.map fun k => if k.index = index then { k with copied := true } else k }

/-- ROW_MOVE_COPY_DONE of a move that has begun: the row is copied, the move's copy is written, and the device may report (R176). -/
theorem exec_rowMoveCopyDone {m : RowMove} {index : Nat} {s : State}
    (hmove : (s.dev.rowMoves.find? fun k => k.index == index && k.action == 0 && k.began && !k.copied) = some m) :
    exec (.rowMoveCopyDone index) s = .next (s.finish ((s.work.copyRow m).markCopied index).tryReport) := by
  refine exec_finish rfl ?_
  rw [State.work_d, hmove]
  rfl

/-- A report of the device keeps the memory that the command found and the row moves (R47). -/
theorem Work.tryReport_base_rowMoves (w : Work) : (w.tryReport.base, w.tryReport.d.rowMoves) = (w.base, w.d.rowMoves) :=
  Work.tryReport_keeps (fun v => (v.base, v.d.rowMoves))
    (Work.sendBelay_keeps (fun v => (v.base, v.d.rowMoves)) (fun _ _ => rfl) (fun _ _ _ _ => rfl) fun _ _ _ => rfl)
    (fun _ _ _ _ _ _ => rfl) w

/-- The state that one store leaves when the device may then report: the bytes stored, and moves, contexts and tiles kept. -/
theorem State.finish_tryReport_stores {s : State} {v : Work} {key : Nat} {bs : List Byte} (hwf : Memory.wf s.mem = true)
    (hbase : v.base = s.mem) (hwiped : v.wiped = []) (hlog : v.log = journal key bs []) :
    s.stores (s.finish v.tryReport) key bs ∧ (s.finish v.tryReport).dev.rowMoves = v.d.rowMoves
      ∧ (s.finish v.tryReport).dev.ctxs = v.d.ctxs ∧ (s.finish v.tryReport).dev.tiles = v.d.tiles := by
  obtain ⟨hbase', hmoves⟩ := Prod.mk.inj (Work.tryReport_base_rowMoves v)
  have hframe := Work.tryReport_reportFrame v
  simp only [Work.reportFrame, Prod.mk.injEq] at hframe
  obtain ⟨hctxs, htiles, hlog', hwiped', -, -⟩ := hframe
  refine ⟨State.finish_stores s _ key bs hwf (hbase'.trans hbase) (hwiped'.trans hwiped) (hlog'.trans hlog), ?_, ?_, ?_⟩
  · rw [State.finish_rowMoves, hmoves]
  · rw [State.finish_ctxs, hctxs]
  · rw [State.finish_tiles, htiles]

/-! ### HOTSET_REFRESH -/

/-- A device event keeps the upkeep frame. -/
theorem Work.deviceEvent_upkeepFrame (w : Work) (code : Nat) (b : List Byte) : (w.deviceEvent code b).upkeepFrame = w.upkeepFrame :=
  Work.deviceEvent_keeps Work.upkeepFrame (fun _ _ _ => rfl) (fun _ _ _ _ => rfl) (fun _ _ _ => rfl) (fun _ _ _ => rfl)
    (fun _ _ _ => rfl) (fun _ _ => rfl) w code b

/-- One context's refresh keeps the upkeep frame: it asks for moves, and notes homes and promotions (R184). -/
theorem Work.refreshContext_upkeepFrame (w : Work) (p : RefreshPlan) (c margin : Nat) :
    (w.refreshContext p c margin).2.upkeepFrame = w.upkeepFrame := by
  unfold Work.refreshContext
  dsimp only
  rw [Work.writeInFlight_upkeepFrame, Work.notePromotions_upkeepFrame, Work.askMoves_upkeepFrame, Work.reserveHomes_upkeepFrame]

/-- When a refresh acts (R184): at a tick of its interval, with a valid row map, refresh enabled and a log. -/
structure Work.RefreshDue (w : Work) : Prop where
  map : w.mapBase ≠ 0
  header : w.mapHeaderOk = true
  enabled : bitOf (w.le (w.mapBase + 45) 1) 0 = true
  interval : w.le (w.mapBase + 46) 2 ≠ 0
  onTick : w.tick % w.le (w.mapBase + 46) 2 = 0
  log : w.popLog.1 ≠ 0

/-- The log marked as read up to its count at the refresh (R184, log 63). -/
def Work.markRead (w : Work) : Work := w.upd fun d => { d with fw := { d.fw with logReadTo := w.d.logRead } }

/-- The log read and the counts decayed by its uses (R184). -/
def Work.decayed (w : Work) : Work :=
  w.markRead.upd fun d =>
    { d with fw := { d.fw with counts := decayCounts d.fw.counts (w.logged w.d.fw.logReadTo w.d.logRead) } }

/-- Each context in turn asks for the moves of its refresh, within the slots and the moves that are left (R184). -/
def Work.askRefreshMoves (w : Work) : Work :=
  (contexts.foldl (fun (q : RefreshPlan × Work) c => q.2.refreshContext q.1 c (w.le (w.mapBase + 50) 2))
    ({ a := [], b := [], slots := w.freeHotSlots, moves := w.le (w.mapBase + 48) 2 }, w)).2

/-- A fold that carries something beside its working state keeps what each of its steps keeps. -/
theorem Work.foldl_snd_keeps {α β σ : Type} (p : Work → β) (f : σ × Work → α → σ × Work) (hf : ∀ q a, p (f q a).2 = p q.2)
    (l : List α) (q : σ × Work) : p (l.foldl f q).2 = p q.2 := by
  induction l generalizing q with
  | nil => rfl
  | cons a l ih => rw [List.foldl_cons, ih, hf]

/-- The moves of a refresh, asked for, keep the upkeep frame (R184). -/
theorem Work.askRefreshMoves_upkeepFrame (w : Work) : w.askRefreshMoves.upkeepFrame = w.upkeepFrame :=
  Work.foldl_snd_keeps Work.upkeepFrame _ (fun q c => Work.refreshContext_upkeepFrame q.2 q.1 c _) contexts _

/-- What a refresh does when it acts (R184): a log that holds more uses than its ring is reported as lost; otherwise the counts decay
and each context asks for its moves. -/
theorem Work.RefreshDue.refresh_eq {w : Work} (h : w.RefreshDue) :
    w.refresh = if w.popLog.2.1 < w.d.logCount - w.d.fw.logReadTo then w.markRead.deviceEvent 0x0031 (leBytes 8 w.tick)
      else w.decayed.askRefreshMoves := by
  unfold Work.refresh
  dsimp only
  rw [if_neg (by simp [h.map, h.header, h.enabled, h.interval, h.onTick, h.log])]
  rfl

/-- A refresh whose log holds more uses than its ring leaves the counts and the moves (R184). -/
theorem Work.RefreshDue.refresh_lost {w : Work} (h : w.RefreshDue) (hlost : w.popLog.2.1 < w.d.logCount - w.d.fw.logReadTo) :
    w.refresh.upkeepFrame = (w.d.tiles, w.d.active, w.d.fw.counts, w.d.logRead) ∧ w.refresh.d.rowMoves = w.d.rowMoves := by
  rw [h.refresh_eq, if_pos hlost]
  refine ⟨Work.deviceEvent_upkeepFrame .., ?_⟩
  rw [Work.still_rowMoves (Work.deviceEvent_still ..)]
  rfl

/-- A refresh whose log holds its uses leaves the decayed counts, whatever moves it asks for (R184). -/
theorem Work.RefreshDue.refresh_held {w : Work} (h : w.RefreshDue) (hheld : w.d.logCount - w.d.fw.logReadTo ≤ w.popLog.2.1) :
    w.refresh.upkeepFrame
      = (w.d.tiles, w.d.active, decayCounts w.d.fw.counts (w.logged w.d.fw.logReadTo w.d.logRead), w.d.logRead) := by
  rw [h.refresh_eq, if_neg (Nat.not_lt_of_le hheld), Work.askRefreshMoves_upkeepFrame]
  rfl

/-- The tiles, the counts and the read position that a meaning leaves, from the upkeep frame of its end. -/
theorem State.finish_upkeepFrame {s : State} {v : Work} {ts : List Tile} {a : CfgSet} {cs : List (Nat × Nat × Nat)} {n : Nat}
    (h : v.upkeepFrame = (ts, a, cs, n)) :
    (s.finish v).dev.tiles = ts ∧ (s.finish v).dev.fw.counts = cs ∧ (s.finish v).dev.fw.logReadTo = n := by
  simp only [Work.upkeepFrame, Prod.mk.injEq] at h
  obtain ⟨htiles, -, hcounts, hread⟩ := h
  rw [State.finish_tiles, State.finish_fw]
  exact ⟨htiles, hcounts, hread⟩

/-- Settles O24: a failing list by the record of its halt, an accepted move by the one change it makes of the device, a copied row by
its one store, and a refresh by the counts that every move it then asks for keeps. That a refresh reads the log up to its count at
the tick is the model's choice (log 63). -/
theorem rowCommandsComplete : Obligations.RowCommandsComplete := by
  unfold Obligations.RowCommandsComplete
  refine ⟨?_, ?_, ?_, ?_⟩
  · intro r list reason d s hactive hfault
    obtain ⟨he, hv⟩ := Ctx.active_enable hactive
    refine ⟨_, exec_rowMove_fault hactive hfault, ?_⟩
    rw [State.finish_ctx s _ r.ctx (Work.still_fz (Work.haltStream_still s.work r 5 reason d))]
    exact Work.haltStream_rec s.work r 5 reason d he hv
  · intro r list s hactive hok hone haccept
    obtain ⟨log, xs, cs, e⟩ := Work.askMove_accepted haccept
    refine ⟨_, s.work.pendingMove r.ctx (s.work.le (list + 16) 8) (s.work.le (list + 24) 8) (s.work.moveAsk list 0),
      exec_rowMove_taken hactive hok, ?_, rfl, rfl, rfl, rfl, rfl, rfl, ?_, ?_⟩
    · rw [State.finish_rowMoves, hone, Work.takeList_one_d haccept, e]
      rfl
    · rw [State.finish_tiles, hone, Work.takeList_one_d haccept, e]
      rfl
    · rw [State.finish_active, hone, Work.takeList_one_d haccept, e]
      rfl
  · intro m s hwf hmove hread hcls
    refine ⟨_, exec_rowMoveCopyDone hmove, ?_⟩
    rw [Work.copyRow_sameClass hread hcls]
    exact State.finish_tryReport_stores hwf rfl rfl rfl
  · intro s hmap hheader henabled hinterval htick hlog
    have hdue : s.work.RefreshDue := ⟨hmap, hheader, henabled, hinterval, htick, hlog⟩
    refine ⟨s.finish s.work.refresh, exec_finish rfl rfl, ?_⟩
    rcases Nat.lt_or_ge s.work.popLog.2.1 (s.dev.logCount - s.dev.fw.logReadTo) with hlost | hheld
    · obtain ⟨hframe, hmoves⟩ := hdue.refresh_lost hlost
      obtain ⟨htiles, hcounts, hread⟩ := State.finish_upkeepFrame (s := s) hframe
      refine ⟨htiles, hread, fun _ => ⟨hcounts, ?_⟩, fun hheld => absurd hlost (Nat.not_lt_of_le hheld)⟩
      rw [State.finish_rowMoves, hmoves, State.work_d]
    · obtain ⟨htiles, hcounts, hread⟩ := State.finish_upkeepFrame (s := s) (hdue.refresh_held hheld)
      exact ⟨htiles, hread, fun hlost => absurd hlost (Nat.not_lt_of_le hheld), fun _ => hcounts⟩

end Sys2Proof.Machine
end

section
/-!
PROOFS. The start of a merge (R193, R194, R198, R201): its checks, the wait while four are in flight, and its pre-pass.
-/

namespace Sys2Proof.Machine

/-! ### MERGE -/

/-- What a merge's pre-pass asks of its operands and its output: no offset falls, the boundary keys rise, and the output has room
for every run's bound (R198, R201). -/
structure Work.MergeFits (w : Work) (p : MergeParams) : Prop where
  offsets : w.mergeFalls p = false
  keys : keysBroken (w.mergeItems p) = false
  room : entryOffset (w.mergeItems p).length + 16 * ((w.mergeItems p).map fun i => i.bound).sum ≤ p.capacity

/-- The operation that a MERGE starts: under the next number, its work items dealt to the units (R193, R203). -/
def Work.newMerge (w : Work) (r : StreamRef) (p : MergeParams) : MergeOp :=
  { id := w.d.nextId, ref := r, params := p, items := deal w.mergeLoad (w.mergeItems p) }

/-- A working state with one more merge in flight, its number used up. -/
def Work.addMerge (w : Work) (o : MergeOp) : Work :=
  w.upd fun d => { d with nextId := d.nextId + 1, merges := d.merges ++ [o] }

/-- The pairs that a pre-pass split into pieces (R201). -/
def splitPairs (is : List MergeItem) : Nat := ((is.filter fun i => i.piece).map fun i => i.pair).eraseDups.length

/-- MERGE of an active context is taken up. -/
theorem exec_merge {r : StreamRef} {s : State} (p : MergeParams) (ha : (s.work.ctx r.ctx).active = true) :
    exec (.merge r p) s = .next (s.finish (s.work.startMerge r p)) := exec_finish rfl (if_pos ha)

/-- A halt of the merge engine, in the stream of an active context, leaves its record. -/
theorem State.finish_haltMerge {s : State} {r : StreamRef} (reason d : Nat) (ha : (s.work.ctx r.ctx).active = true) :
    ((s.finish (s.work.haltStream r 3 reason d)).work.ctx r.ctx).halt.valid = true
      ∧ ((s.finish (s.work.haltStream r 3 reason d)).work.ctx r.ctx).halt.reason = reason
      ∧ ((s.finish (s.work.haltStream r 3 reason d)).work.ctx r.ctx).halt.detail = d := by
  obtain ⟨he, hv⟩ := Ctx.active_enable ha
  rw [State.finish_ctx s _ r.ctx (Work.still_fz (Work.haltStream_still s.work r 3 reason d))]
  exact Work.haltStream_rec s.work r 3 reason d he hv

section
variable {w : Work} {r : StreamRef} {p : MergeParams}

/-- A failing check halts the stream (R194, R371). -/
theorem Work.startMerge_fault {reason d : Nat} (h : w.mergeFault r.ctx p = some (reason, d)) :
    w.startMerge r p = w.haltStream r 3 reason d := by
  rw [Work.startMerge, h]

/-- While four merges are in flight one stalled cycle is counted (R193, log 10). -/
theorem Work.startMerge_waits (h : w.mergeFault r.ctx p = none) (hfull : 4 ≤ w.d.merges.length) :
    w.startMerge r p = w.stall r.ctx Ctr.stallQueueFull 8 := by
  rw [Work.startMerge, h]
  exact if_pos hfull

/-- With fewer in flight, a merge whose pre-pass finds no fault joins them (R198, R203). -/
theorem Work.startMerge_starts (h : w.mergeFault r.ctx p = none) (hroom : w.d.merges.length < 4) (hfits : w.MergeFits p) :
    w.startMerge r p = (w.addMerge (w.newMerge r p)).count Ctr.mergePairsSplit (splitPairs (w.mergeItems p)) := by
  rw [Work.startMerge, h]
  dsimp only
  rw [if_neg (Nat.not_le_of_lt hroom), if_neg (by simp [hfits.offsets]), if_neg (by simp [hfits.keys]),
    if_neg (Nat.not_lt_of_le hfits.room)]
  rfl

/-- With fewer in flight, the pre-pass finds no fault or halts the stream: SPARSE_FORMAT_INVALID (0x3A) for falling offsets and
boundary keys, MERGE_OUTPUT_OVERFLOW (0x3B) for want of room (R192, R198, R202). -/
theorem Work.startMerge_prepass (h : w.mergeFault r.ctx p = none) (hroom : w.d.merges.length < 4) :
    w.MergeFits p ∨ ∃ reason d, (reason = 0x3A ∨ reason = 0x3B) ∧ w.startMerge r p = w.haltStream r 3 reason d := by
  rw [Work.startMerge, h]
  dsimp only
  rw [if_neg (Nat.not_le_of_lt hroom)]
  split
  · exact Or.inr ⟨_, _, Or.inl rfl, rfl⟩
  · split
    · exact Or.inr ⟨_, _, Or.inl rfl, rfl⟩
    · split
      · exact Or.inr ⟨_, _, Or.inr rfl, rfl⟩
      · rename_i hfalls hkeys hcap
        exact Or.inl ⟨by simpa using hfalls, by simpa using hkeys, Nat.le_of_not_lt hcap⟩

end

/-- A merge of an active context that passes its checks and its pre-pass adds the operation, and changes nothing of memory, contexts
and tiles. -/
theorem State.finish_startMerge {s : State} {r : StreamRef} {p : MergeParams} (h : s.work.mergeFault r.ctx p = none)
    (hroom : s.dev.merges.length < 4) (hfits : s.work.MergeFits p) :
    (s.finish (s.work.startMerge r p)).mem = s.mem ∧ (s.finish (s.work.startMerge r p)).dev.ctxs = s.dev.ctxs
      ∧ (s.finish (s.work.startMerge r p)).dev.tiles = s.dev.tiles
      ∧ (s.finish (s.work.startMerge r p)).dev.nextId = s.dev.nextId + 1
      ∧ (s.finish (s.work.startMerge r p)).dev.merges = s.dev.merges ++ [s.work.newMerge r p] := by
  rw [Work.startMerge_starts h hroom hfits, State.finish_eq s _ rfl rfl]
  exact ⟨rfl, rfl, rfl, rfl, rfl⟩

/-- Settles O25: a failing check by the record of its halt, a wait by its one counter, and a start by what its pre-pass finds: a
halt, or the operation added. The names MERGE_STRUCTURE and MERGE_CAPACITY of the statement are SPARSE_FORMAT_INVALID and
MERGE_OUTPUT_OVERFLOW in R410; the wait's stalled cycle is the model's choice (log 10). -/
theorem mergeStarts : Obligations.MergeStarts := by
  unfold Obligations.MergeStarts
  refine ⟨?_, ?_, ?_, ?_⟩
  · intro r p reason d s hactive hfault
    refine ⟨_, exec_merge p hactive, ?_⟩
    rw [Work.startMerge_fault hfault]
    exact State.finish_haltMerge reason d hactive
  · intro r p s hactive hok hfull
    rw [exec_merge p hactive, Work.startMerge_waits hok hfull, State.finish_eq s _ rfl rfl]
    rfl
  · intro r p s hactive hok hroom
    refine ⟨_, exec_merge p hactive, ?_⟩
    rcases Work.startMerge_prepass hok hroom with hfits | ⟨reason, d, hreason, hhalt⟩
    · obtain ⟨hmem, hctxs, htiles, -, hmerges⟩ := State.finish_startMerge hok hroom hfits
      exact Or.inr ⟨hmem, hctxs, htiles, s.work.newMerge r p, hmerges, rfl, rfl, rfl⟩
    · obtain ⟨hvalid, hrec, -⟩ := State.finish_haltMerge reason d hactive
      rw [hhalt]
      refine Or.inl ⟨hvalid, ?_⟩
      rw [hrec]
      exact hreason
  · intro r p s hactive hok hroom hfalls hkeys hcap
    exact ⟨_, exec_merge p hactive, State.finish_startMerge hok hroom ⟨hfalls, hkeys, hcap⟩⟩

end Sys2Proof.Machine
end

section
/-!
PROOFS. The end of a merge (R191, R194, R196, R197): the halt of a broken structure, and the stores of a finished one: header, run
records and entries.
-/

namespace Sys2Proof.Machine

/-! ### MERGE_COMPLETE -/

/-- An item of an operation merged, by the operation's own descriptors (R191). -/
def Work.mergeOf (w : Work) (o : MergeOp) (i : MergeItem) : Merged :=
  w.mergeItem o.params (w.sparse o.params.x) (w.sparse o.params.y) i

/-- The pairs of an operation by its list, or by the rows of its first operand (R193, R196). -/
def Work.pairsOf (w : Work) (o : MergeOp) : Nat :=
  match o.params.pairs with
  | none => (w.sparse o.params.x).rows
  | some (_, k) => k

/-- A merge taken out of flight. -/
def Work.dropMerge (w : Work) (id : Nat) : Work := w.upd fun d => { d with merges := d.merges.filter fun k => k.id != id }

/-- MERGE_COMPLETE of a merge in flight, which is found under its number. -/
theorem exec_mergeComplete {op : Nat} {o : MergeOp} {s : State} (hop : (s.dev.merges.find? fun o => o.id == op) = some o) :
    exec (.mergeComplete op) s = .next (s.finish (s.work.finishMerge o)) := by
  refine exec_finish rfl ?_
  rw [State.work_d, hop]

section
variable {w : Work} {o : MergeOp}

/-- A run whose structure proves broken halts the stream (R194). -/
theorem Work.finishMerge_broken (h : (o.items.any fun i => (w.mergeOf o i).broken) = true) :
    w.finishMerge o = (w.dropMerge o.id).haltStream o.ref 3 0x3A (o.params.x % 2 ^ 32) := by
  unfold Work.finishMerge
  dsimp only
  rw [if_pos]
  · rfl
  · rw [List.any_map]
    exact h

/-- What a finished merge does not change but by the operation that goes: the memory that the command found, merges, contexts, tiles
and residency. -/
def Work.mergeFrame (w : Work) : List Host.Cell × List (Nat × Nat) × List MergeOp × List Ctx × List Tile × List ResEntry :=
  (w.base, w.wiped, w.d.merges, w.d.ctxs, w.d.tiles, w.d.residency)

/-- A store keeps the merge frame. -/
theorem Work.wr_mergeFrame (w : Work) (k : Nat) (bs : List Byte) : (w.wr k bs).mergeFrame = w.mergeFrame := rfl

/-- A counter keeps the merge frame. -/
theorem Work.count_mergeFrame (w : Work) (id n : Nat) : (w.count id n).mergeFrame = w.mergeFrame := rfl

/-- A report of the device keeps the merge frame (R47). -/
theorem Work.tryReport_mergeFrame (w : Work) : w.tryReport.mergeFrame = w.mergeFrame :=
  Work.tryReport_keeps Work.mergeFrame
    (Work.sendBelay_keeps Work.mergeFrame (fun _ _ => rfl) (fun _ _ _ _ => rfl) fun _ _ _ => rfl) (fun _ _ _ _ _ _ => rfl) w

/-- A finished merge leaves the merge frame of the state without the operation (R196, R199). -/
theorem Work.finishMerge_mergeFrame (h : (o.items.any fun i => (w.mergeOf o i).broken) = false) :
    (w.finishMerge o).mergeFrame = (w.dropMerge o.id).mergeFrame := by
  unfold Work.finishMerge
  dsimp only
  rw [if_neg]
  · simp only [Work.tryReport_mergeFrame, Work.count_mergeFrame]
    rw [Work.foldl_keeps Work.mergeFrame _ (fun _ _ => Work.wr_mergeFrame ..), Work.wr_mergeFrame, Work.wr_mergeFrame]
    rfl
  · rw [List.any_map]
    exact ne_true_of_eq_false h

/-- The header takes 64 bytes (R196). -/
theorem mergeHeader_length (p : MergeParams) (dropped : Bool) (pairs runs kept cap : Nat) :
    (mergeHeader p dropped pairs runs kept cap).length = 64 := by
  simp [mergeHeader]

/-- A report of the device stores nothing (R47). -/
theorem Work.tryReport_log (w : Work) : w.tryReport.log = w.log :=
  Work.tryReport_keeps Work.log (Work.sendBelay_keeps Work.log (fun _ _ => rfl) (fun _ _ _ _ => rfl) fun _ _ _ => rfl)
    (fun _ _ _ _ _ _ => rfl) w

/-- A finished merge of one item stores the header with its run record behind it, then the item's entries (R196, R197). -/
theorem Work.finishMerge_one_log {i : MergeItem} {m : Merged} (hitems : o.items = [i]) (hm : w.mergeOf o i = m)
    (hok : m.broken = false) :
    (w.finishMerge o).log = journal (o.params.output + entryOffset 1 + 16 * i.first) ((m.entries.map (entryBytes i.pair)).flatten)
      (journal o.params.output (mergeHeader o.params (m.range + m.group != 0) (w.pairsOf o) 1 m.entries.length i.bound
        ++ (leBytes 8 i.first ++ leBytes 4 m.entries.length ++ leBytes 4 i.pair)) w.log) := by
  have hm' : w.mergeItem o.params (w.sparse o.params.x) (w.sparse o.params.y) i = m := hm
  rw [← journal_append, mergeHeader_length]
  unfold Work.finishMerge
  simp only [hitems, List.map_cons, List.map_nil, hm']
  rw [if_neg (by simp [hok]), Work.tryReport_log]
  simp only [Work.count_log, List.foldl_cons, List.foldl_nil, Work.wr_log, List.flatten_cons, List.flatten_nil, List.append_nil,
    List.sum_cons, List.sum_nil, Nat.add_zero, List.length_cons, List.length_nil, Nat.zero_add]
  rfl

/-- A finished merge of one item leaves the memory below its stores as the command found it, and clears nothing. -/
theorem Work.finishMerge_one_base {i : MergeItem} {m : Merged} (hitems : o.items = [i]) (hm : w.mergeOf o i = m)
    (hok : m.broken = false) : (w.finishMerge o).base = w.base ∧ (w.finishMerge o).wiped = w.wiped := by
  have hframe := Work.finishMerge_mergeFrame (w := w) (o := o) (by simp [hitems, hm, hok])
  simp only [Work.mergeFrame, Prod.mk.injEq] at hframe
  obtain ⟨hbase, hwiped, -⟩ := hframe
  exact ⟨hbase, hwiped⟩

end

/-- Settles O26: a broken structure by the record of its halt, the rest by what a finished merge keeps and by the two stores that it
makes of one item. The name MERGE_STRUCTURE of the statement is SPARSE_FORMAT_INVALID in R410. -/
theorem mergeCompletes : Obligations.MergeCompletes := by
  unfold Obligations.MergeCompletes
  refine ⟨?_, ?_, ?_, ?_⟩
  · intro op o s hop hbroken he hv
    obtain ⟨hvalid, hreason, -⟩ :=
      Work.haltStream_rec (s.work.dropMerge o.id) o.ref 3 0x3A (o.params.x % 2 ^ 32) he hv
    refine ⟨_, exec_mergeComplete hop, ?_⟩
    rw [Work.finishMerge_broken hbroken, State.finish_ctx s _ _ (Work.still_fz (Work.haltStream_still _ o.ref 3 0x3A _))]
    exact ⟨hvalid, hreason⟩
  · intro op o s hop hok
    have hid : o.id = op := by simpa using List.find?_some hop
    have hframe := Work.finishMerge_mergeFrame hok
    simp only [Work.mergeFrame, Prod.mk.injEq] at hframe
    obtain ⟨-, -, hmerges, hctxs, htiles, hres⟩ := hframe
    refine ⟨_, exec_mergeComplete hop, ?_, ?_, ?_, ?_⟩
    · rw [State.finish_merges, hmerges, hid]
      rfl
    · rw [State.finish_ctxs, hctxs]
      rfl
    · rw [State.finish_tiles, htiles]
      rfl
    · rw [State.finish_residency, hres]
      rfl
  · intro op o i m s hwf hop hitems hm hok hnone
    obtain ⟨hbase, hwiped⟩ := Work.finishMerge_one_base hitems hm hok
    have hlog := Work.finishMerge_one_log hitems hm hok
    rw [hnone] at hlog
    exact ⟨_, exec_mergeComplete hop, State.finish_stores s _ _ _ hwf hbase hwiped hlog⟩
  · intro op o i m s hwf hop hitems hm hok
    obtain ⟨hbase, -⟩ := Work.finishMerge_one_base hitems hm hok
    refine ⟨_, exec_mergeComplete hop, fun j hj => ?_⟩
    rw [State.finish_read s _ hwf hbase, Work.rd, Work.finishMerge_one_log hitems hm hok, Memory.find_journal_at _ _ _ _ hj,
      List.getElem?_eq_getElem hj]
    rfl

end Sys2Proof.Machine
end

section
/-!
PROOFS. What an instruction of a tile core that is done leaves: its own tile changed, every other tile as it was, and memory by what
it stored (R233, R247).
-/

namespace Sys2Proof.Machine

/-- A working state in which a tile core took up an instruction: its tile changed by `g`, and the instruction counted (R247). -/
def Work.took (v : Work) (t : TileRef) (g : Tile → Tile) : Work :=
  (v.updTile t.tile fun k => (g k).advance t.pc t.next).count Ctr.tileCoreInstructions 1

/-- A change of a tile that changes nothing. -/
theorem Work.updTile_id (w : Work) (n : Nat) : (w.updTile n fun k => k) = w :=
  congrArg (fun ts => w.upd fun d => { d with tiles := ts }) (updAt_same w.d.tiles n _ fun _ _ => rfl)

/-- A command whose instruction comes to `v` with its tile changed by `g` answers the state that taking it up leaves. -/
theorem exec_issue_took {i : Instr} {s : State} {t : TileRef} {c : Nat} {f : Nat → Work → Issued} {v : Work} {g : Tile → Tile}
    (he : exec i s = .next (s.exec fun w => w.issue t f)) (h : s.work.takes t c) (hf : f c s.work = .done (v.updTile t.tile g)) :
    exec i s = .next (s.finish (v.took t g)) := by
  obtain ⟨hx, hp, -⟩ := h
  refine exec_finish he ?_
  rw [State.issue_done hx hp hf, Work.updTile_updTile]
  rfl

/-- A command of the vector engine whose instruction comes to `v` with its tile changed by `g` answers the state in which it has
taken its place in the queue too (R233). -/
theorem exec_issueVector_took {i : Instr} {s : State} {t : TileRef} {c : Nat} {f : Nat → Work → Issued} {v : Work} {g : Tile → Tile}
    (he : exec i s = .next (s.exec fun w => w.issueVector t f)) (h : s.work.takes t c) (hq : (s.work.tile t.tile).vecQueue < 8)
    (hf : f c s.work = .done (v.updTile t.tile g)) : exec i s = .next (s.finish (v.took t fun k => (g k).queued)) := by
  refine exec_finish he ?_
  rw [State.issueVector_done h hq hf, Work.updTile_updTile, Work.updTile_updTile]
  rfl

/-- An instruction taken up on tiles as they stood changes its own tile alone. -/
theorem State.finish_took_tookUp {s : State} {t : TileRef} {v : Work} (g : Tile → Tile) (hn : t.tile < s.dev.tiles.length)
    (hv : v.d.tiles = s.dev.tiles) : s.tookUp (s.finish (v.took t g)) t g := by
  have htile : ∀ k, v.tile k = s.work.tile k := fun k => by rw [Work.tile, hv]; rfl
  refine ⟨?_, fun k hk => ?_⟩
  · rw [State.finish_tile, ← htile]
    exact Work.updTile_tile_same v t.tile _ (by rw [hv]; exact hn)
  · rw [State.finish_tile, ← htile]
    exact Work.updTile_tile_other v t.tile k _ hk

/-- An instruction taken up that stored nothing leaves memory as it is. -/
theorem State.finish_took_mem (s : State) {v : Work} (t : TileRef) (g : Tile → Tile) (hl : v.log = []) (hw : v.wiped = []) :
    (s.finish (v.took t g)).mem = s.mem :=
  State.finish_mem s _ hl hw

/-- Taking an instruction up changes no context. -/
theorem State.finish_took_ctxs (s : State) (v : Work) (t : TileRef) (g : Tile → Tile) :
    (s.finish (v.took t g)).dev.ctxs = v.d.ctxs :=
  State.finish_ctxs s _

/-- An instruction taken up that stored bytes on storage as it stood, and nothing else. -/
theorem State.finish_took_stores {s : State} {v : Work} (t : TileRef) (g : Tile → Tile) {key : Nat} {bs : List Byte}
    (hwf : Memory.wf s.mem = true) (hb : v.base = s.mem) (hw : v.wiped = []) (hl : v.log = journal key bs []) :
    s.stores (s.finish (v.took t g)) key bs :=
  State.finish_stores s _ key bs hwf hb hw hl

/-- A store of a little-endian number is a store of its bytes. -/
theorem Work.wrLe_log (w : Work) (k n v : Nat) : (w.wrLe k n v).log = journal k (leBytes n v) w.log := rfl

/-- An instruction whose whole effect is on its own tile (R247). -/
theorem exec_issue_ownTile {i : Instr} {s : State} {t : TileRef} {c : Nat} {f : Nat → Work → Issued} {g : Tile → Tile}
    (he : exec i s = .next (s.exec fun w => w.issue t f)) (h : s.work.takes t c)
    (hf : f c s.work = .done (s.work.updTile t.tile g)) :
    ∃ u, exec i s = .next u ∧ u.mem = s.mem ∧ u.dev.ctxs = s.dev.ctxs ∧ s.tookUp u t g :=
  ⟨_, exec_issue_took he h hf, State.finish_took_mem s t g rfl rfl, State.finish_took_ctxs ..,
    State.finish_took_tookUp g h.2.2 rfl⟩

end Sys2Proof.Machine
end

section
/-!
PROOFS. The mask registers (R235, R244 to R246): comparisons, mask instructions and mask queries.
-/

namespace Sys2Proof.Machine

/-! ### Bits summed -/

/-- The sum of the powers of the positions below `n` that a predicate picks (R244). -/
def bitSum (b : Nat → Bool) (n : Nat) : Nat := (List.range n).foldl (fun a i => if b i then a + 2 ^ i else a) 0

/-- One more position. -/
theorem bitSum_succ (b : Nat → Bool) (n : Nat) : bitSum b (n + 1) = if b n then bitSum b n + 2 ^ n else bitSum b n := by
  rw [bitSum, List.range_succ, List.foldl_append]
  rfl

/-- The bits of such a sum are the positions picked. -/
theorem testBit_bitSum (b : Nat → Bool) (n i : Nat) : (bitSum b n).testBit i = (decide (i < n) && b i) := by
  induction n generalizing i with
  | zero => simp [bitSum]
  | succ n ih =>
    have hlt : bitSum b n < 2 ^ n := Nat.lt_pow_two_of_testBit _ fun j hj => by simp [ih, Nat.not_lt.mpr hj]
    rw [bitSum_succ]
    by_cases hb : b n = true
    · rw [if_pos hb, Nat.add_comm, ← Nat.mul_one (2 ^ n), Nat.two_pow_add_eq_or_of_lt hlt, Nat.testBit_or, ih, Nat.mul_one,
        Nat.testBit_two_pow, Bool.eq_iff_iff]
      simp only [Bool.or_eq_true, Bool.and_eq_true, decide_eq_true_eq]
      constructor
      · rintro (rfl | ⟨hi, hbi⟩)
        · exact ⟨Nat.lt_succ_self n, hb⟩
        · exact ⟨Nat.lt_succ_of_lt hi, hbi⟩
      · rintro ⟨hi, hbi⟩
        rcases Nat.lt_succ_iff_lt_or_eq.mp hi with hlow | rfl
        · exact .inr ⟨hlow, hbi⟩
        · exact .inl rfl
    · rw [if_neg hb, ih, Bool.eq_iff_iff]
      simp only [Bool.and_eq_true, decide_eq_true_eq]
      constructor
      · rintro ⟨hi, hbi⟩
        exact ⟨Nat.lt_succ_of_lt hi, hbi⟩
      · rintro ⟨hi, hbi⟩
        rcases Nat.lt_succ_iff_lt_or_eq.mp hi with hlow | rfl
        · exact ⟨hlow, hbi⟩
        · exact absurd hbi hb

/-! ### The mask instructions -/

/-- A mask register's instruction that changes its tile and is done (R246). -/
theorem exec_maskLogic_done {t : TileRef} {op : MaskOp} {dst c : Nat} {s : State} {g : Tile → Tile} (h : s.work.takes t c)
    (hf : s.work.maskInstr t op dst = .done (s.work.updTile t.tile g)) :
    ∃ u, exec (.maskLogic t op dst) s = .next u ∧ u.mem = s.mem ∧ u.dev.ctxs = s.dev.ctxs ∧ s.tookUp u t g :=
  exec_issue_ownTile (f := fun _ w => w.maskInstr t op dst) rfl h hf

/-- A mask instruction that gives a value writes it to its destination (R246). -/
theorem Work.maskInstr_gives {w : Work} {t : TileRef} {op : MaskOp} {dst : Nat} {v : BitVec 4096}
    (hregs : ((maskFoot op dst).any fun m => decide (8 ≤ m)) = false) (hfree : w.vecHeld t.tile [] (maskFoot op dst) = false)
    (hv : w.maskGives t.tile op dst v) : w.maskInstr t op dst = .done (w.updTile t.tile fun k => k.setMask dst v) := by
  unfold Work.maskInstr
  dsimp only
  rw [if_neg (ne_true_of_eq_false hregs), if_neg (ne_true_of_eq_false hfree)]
  cases op with
  | and a b | or a b | xor a b | andNot a b | not a | setAll | clearAll =>
    simp only [Work.maskGives] at hv
    rw [hv]
  | fromG piece g =>
    obtain ⟨hpiece, rfl⟩ := hv
    exact if_neg (Nat.not_le.mpr hpiece)
  | load a =>
    obtain ⟨hfault, hpoison, rfl⟩ := hv
    dsimp only
    rw [hfault, hpoison]
  | toG piece g => exact hv.elim
  | store a => exact hv.elim

/-- A piece of a mask taken to a general register (R246). -/
theorem Work.maskInstr_toG {w : Work} {t : TileRef} {piece dst : Nat} (g : Nat) (hdst : dst < 8) (hpiece : piece < 64)
    (hfree : w.vecHeld t.tile [] [dst] = false) :
    w.maskInstr t (.toG piece g) dst = .done (w.updTile t.tile fun k =>
      k.setG g (BitVec.ofNat 64 (((w.tile t.tile).mask dst).toNat / 2 ^ (64 * piece)))) := by
  unfold Work.maskInstr
  simp only [maskFoot, List.any_cons, List.any_nil, Bool.or_false, decide_eq_true_eq, Nat.not_le.mpr hdst, Nat.not_le.mpr hpiece,
    hfree, Bool.false_eq_true, if_false]

/-- A mask stored in the tile store, whole (R246). -/
theorem Work.maskInstr_store {w : Work} {t : TileRef} {a dst : Nat} (hdst : dst < 8) (hfault : storeFault a 512 = none)
    (hfree : w.vecHeld t.tile [] [dst] = false) :
    w.maskInstr t (.store a) dst = .done (w.wrLe (tileStoreAddr t.tile a) 512 ((w.tile t.tile).mask dst).toNat) := by
  unfold Work.maskInstr
  simp only [maskFoot, List.any_cons, List.any_nil, Bool.or_false, decide_eq_true_eq, Nat.not_le.mpr hdst, hfault, hfree,
    Bool.false_eq_true, if_false]

/-! ### VECTOR_COMPARE -/

/-- The bit that a comparison gives element `i` of its mask (R235, R245). -/
def Work.compareBit (w : Work) (t : TileRef) (op : COp) (f : Fmt) (dst : Nat) (x y : VSrc) (m : Masking) (i : Nat) : Bool :=
  if (w.tile t.tile).selects (fmtBits f) m i then
    compareVals op (fmtDecode f (w.operand t.tile (fmtBits f) x 0 i)) (fmtDecode f (w.operand t.tile (fmtBits f) y 0 i))
  else !m.zero && ((w.tile t.tile).mask dst).getLsbD i

/-- The mask of a bit for each of the 4096 positions. -/
def maskOfBits (b : Nat → Bool) : BitVec 4096 := BitVec.ofNat 4096 (bitSum b 4096)

/-- Its bits. -/
theorem maskOfBits_getLsbD (b : Nat → Bool) {i : Nat} (hi : i < 4096) : (maskOfBits b).getLsbD i = b i := by
  rw [maskOfBits, BitVec.getLsbD_ofNat, testBit_bitSum, decide_eq_true hi, Bool.true_and, Bool.true_and]

/-- The work of a comparison counted (R259). -/
def Work.countCompare (w : Work) (t : TileRef) (bits : Nat) (m : Masking) : Work :=
  ((w.count Ctr.vectorBusyCycles (passCycles bits (if bits < 32 ∧ m.mask.isNone then { m with mask := some 0 } else m))).count
    Ctr.vectorElementSlots 4096).count
    Ctr.vectorActiveElements ((List.range 4096).filter fun i => (w.tile t.tile).selects bits m i).length

/-- VECTOR_COMPARE with its operands in range and nothing held writes the bits of its comparison to its mask (R235, R245). -/
theorem exec_vectorCompare {t : TileRef} {op : COp} {f : Fmt} {dst c : Nat} {x y : VSrc} {m : Masking} {s : State}
    (h : s.work.takes t c) (hq : (s.work.tile t.tile).vecQueue < 8) (hspan : spanBad 1 (srcReg x ++ srcReg y) m = none)
    (hmx : fmtMx f = false) (h64 : f ≠ .int64) (hdst : dst < 8) (hgran : fmtBits f < 32 → m.granule = .element)
    (hfree : s.work.vecHeld t.tile ((srcReg x ++ srcReg y).map fun r => (r, 1)) (dst :: maskOf m) = false) :
    exec (.vectorCompare t op f dst x y m) s = .next (s.finish ((s.work.countCompare t (fmtBits f) m).took t fun k =>
      (k.setMask dst (maskOfBits (s.work.compareBit t op f dst x y m))).queued)) := by
  refine exec_issueVector_took rfl h hq ?_
  dsimp only
  have hbad : ¬ (fmtMx f || f == .int64 || decide (8 ≤ dst) || (decide (fmtBits f < 32) && m.granule != .element)) = true := by
    simp only [Bool.or_eq_true, Bool.and_eq_true, decide_eq_true_eq, beq_iff_eq, bne_iff_ne, hmx, h64, Bool.false_eq_true, false_or]
    rintro (hbig | ⟨hnarrow, hlane⟩)
    · exact absurd hdst (Nat.not_lt.mpr hbig)
    · exact hlane (hgran hnarrow)
  rw [hspan]
  dsimp only
  rw [if_neg hbad, if_neg (ne_true_of_eq_false hfree)]
  rfl

/-- Settles O30: a comparison by the bits of its mask's sum, the mask instructions by the one change of the tile or the one store that
each comes to. -/
theorem vectorMasksComplete : Obligations.VectorMasksComplete := by
  unfold Obligations.VectorMasksComplete
  refine ⟨?_, ?_, ?_, ?_, ?_⟩
  · intro t op f dst c x y m s h hq hspan hmx h64 hdst hgran hfree
    exact ⟨_, _, exec_vectorCompare h hq hspan hmx h64 hdst hgran hfree, State.finish_took_mem s t _ rfl rfl,
      State.finish_took_ctxs .., State.finish_took_tookUp _ h.2.2 rfl, fun i hi => maskOfBits_getLsbD _ hi⟩
  · intro t op dst c v s h hregs hfree hv
    exact exec_maskLogic_done h (Work.maskInstr_gives hregs hfree hv)
  · intro t piece g dst c s h hdst hpiece hfree
    obtain ⟨u, hu, hmem, hctxs, htile, hother⟩ := exec_maskLogic_done h (Work.maskInstr_toG g hdst hpiece hfree)
    exact ⟨u, hu, hmem, hctxs, htile, hother⟩
  · intro t a dst c s hwf h hdst hfault hfree
    have hstore := Work.maskInstr_store hdst hfault hfree
    rw [← Work.updTile_id (Work.wrLe ..) t.tile] at hstore
    exact ⟨_, exec_issue_took (f := fun _ w => w.maskInstr t (.store a) dst) rfl h hstore, State.finish_took_ctxs ..,
      State.finish_took_tookUp id h.2.2 rfl, State.finish_took_stores t id hwf rfl rfl (Work.wrLe_log ..)⟩
  · intro t op m g c s h hm hfree
    exact exec_issue_ownTile rfl h ((if_neg (Nat.not_le.mpr hm)).trans (if_neg (ne_true_of_eq_false hfree)))

end Sys2Proof.Machine
end

section
/-!
PROOFS. The queue of the matrix array (R207) and LOAD (R210 to R214, R227): a slot filled, and its completion.
-/

namespace Sys2Proof.Machine

/-! ### The queue of the array -/

/-- A tile whose array instruction was taken out of the queue, the only one in it (R207). -/
def Work.emptyMat (w : Work) (n : Nat) : Work := w.updTile n fun k => { k with mat := [] }

/-- A tile that exists, its queue emptied. -/
theorem Work.emptyMat_tile_same {w : Work} {n : Nat} (hn : n < w.d.tiles.length) :
    (w.emptyMat n).tile n = { w.tile n with mat := [] } :=
  Work.updTile_tile_same w n _ hn

/-- The state that is left where a tile's queue was emptied and no more than a report of the device followed (R47). -/
theorem State.finish_emptied {s : State} {v : Work} {n : Nat} (hn : n < s.dev.tiles.length)
    (hv : v.reportFrame = (s.work.emptyMat n).reportFrame) :
    (s.finish v).mem = s.mem ∧ (s.finish v).dev.ctxs = s.dev.ctxs ∧ (s.finish v).work.tile n = { s.work.tile n with mat := [] }
      ∧ ∀ k, k ≠ n → (s.finish v).work.tile k = s.work.tile k := by
  obtain ⟨hctxs, htiles, hmem, -, -⟩ := State.finish_reportFrame hv rfl rfl
  have htile : ∀ k, (s.finish v).work.tile k = (s.work.emptyMat n).tile k := fun k => by
    rw [Work.tile, State.work_d, htiles]
    rfl
  exact ⟨hmem, hctxs, (htile n).trans (Work.emptyMat_tile_same hn),
    fun k hk => (htile k).trans (Work.updTile_tile_other _ _ _ _ hk)⟩

/-- An array instruction put at the end of its queue (R207). -/
def Work.pushMat (w : Work) (n : Nat) (m : MatOp) : Work := w.updTile n fun k => { k with mat := k.mat ++ [m] }

/-- A tile that exists and whose queue was empty. -/
theorem Work.pushMat_tile_same {w : Work} {n : Nat} (m : MatOp) (hn : n < w.d.tiles.length) (hm : (w.tile n).mat = []) :
    (w.pushMat n m).tile n = { w.tile n with mat := [m] } := by
  rw [Work.pushMat, Work.updTile_tile_same _ _ _ hn, hm]
  rfl

/-- A queue of four is full: an array instruction waits (R207). -/
theorem Work.queueMat_full {w : Work} {n : Nat} (c : Nat) (m : MatOp) (h : 4 ≤ (w.tile n).mat.length) :
    w.queueMat c n m = .wait Ctr.stallQueueFull 0 :=
  if_pos h

/-- An array instruction put into an empty queue is carried on at once (R207). -/
theorem Work.queueMat_empty {w : Work} {n : Nat} (c : Nat) (m : MatOp) (hn : n < w.d.tiles.length) (hm : (w.tile n).mat = []) :
    w.queueMat c n m = .done ((w.pushMat n m).matStep c n 0).1 := by
  rw [Work.queueMat, hm, if_neg (by simp)]
  exact congrArg Issued.done (Work.pumpMat_one _ _ _ m (congrArg Tile.mat (Work.pushMat_tile_same m hn hm)))

/-- The head of a queue that has finished. -/
theorem takeFirst_head {α : Type} {f : α → Bool} {x : α} {xs : List α} (h : f x = true) : takeFirst f (x :: xs) = some (x, xs) :=
  if_pos h

/-! ### LOAD -/

/-- The slot that a LOAD takes where both are free: the model's free value (log 33). -/
def Work.freeSlot (w : Work) : Nat := Config.freeChoice w.d.freeCtr % 2

/-- What filling a slot changes of the tile of a LOAD at the head of the queue (R213). -/
def Tile.fillSlot (k : Tile) (l : MatLoad) (slot : Nat) (x : Stationary) : Tile :=
  { k with mat := updAt k.mat 0 fun _ => .load { l with slot := some slot }, slots := updAt k.slots slot fun _ => some x }

/-- A LOAD alone in the queue fills the slot that it takes (R210, R213). -/
theorem Work.matStep_load {w : Work} {n : Nat} {l : MatLoad} (c : Nat) (hm : (w.tile n).mat = [.load l]) (hl : l.slot = none) :
    (w.matStep c n 0).1 = w.draw.2.updTile n fun k => k.fillSlot l w.freeSlot (w.stationary n l.params) := by
  unfold Work.matStep
  rw [hm]
  simp only [List.getElem?_cons_zero, List.take_zero, List.any_nil, Bool.and_false, Bool.false_eq_true, if_false, hl,
    Option.isSome_none, Work.putMat, Work.updTile_updTile]
  rfl

/-- A LOAD put into an empty queue fills a slot at once (R207, R210, R213). -/
theorem Work.queueMat_load {w : Work} {n : Nat} {l : MatLoad} (c : Nat) (hn : n < w.d.tiles.length) (hm : (w.tile n).mat = [])
    (hl : l.slot = none) :
    w.queueMat c n (.load l) = .done (w.draw.2.updTile n fun k =>
      ({ k with mat := k.mat ++ [.load l] } : Tile).fillSlot l w.freeSlot (w.stationary n l.params)) := by
  rw [Work.queueMat_empty c _ hn hm, Work.matStep_load c (congrArg Tile.mat (Work.pushMat_tile_same _ hn hm)) hl]
  exact congrArg Issued.done (Work.updTile_updTile w.draw.2 n _ _)

/-- What a LOAD comes to where its operands are valid (R214, R227). -/
theorem exec_load_valid {t : TileRef} {p : LoadParams} {s : State} (hbad : loadBad p = none) (hfault : loadStoreFault p = none) :
    exec (.load t p) s = .next (s.exec fun w => w.issue t fun c w => w.queueMat c t.tile (.load { ref := t, params := p, slot := none })) := by
  show execLoad t p s = _
  unfold execLoad
  rw [hbad, hfault]

/-- LOAD_COMPLETE of the one array instruction of a tile, a LOAD that has filled its slot. -/
theorem exec_loadComplete {n slot : Nat} {l : MatLoad} {s : State} (hn : n < s.dev.tiles.length)
    (hm : (s.work.tile n).mat = [.load l]) (hl : l.slot = some slot) :
    exec (.loadComplete n) s = .next (s.finish (((s.work.emptyMat n).count Ctr.matrixLoads 1).tryReport)) := by
  refine exec_finish rfl ?_
  rw [hm, takeFirst_head]
  · exact congrArg Work.tryReport (Work.pumpTile_none _ n (congrArg Tile.mat (Work.emptyMat_tile_same hn)))
  · exact Option.isSome_of_eq_some hl

/-- Settles O27: invalid operands by the halt's record, a full queue by its one counter, a LOAD taken up by the slot that it fills, and
its completion by what a report of the device keeps. The one stalled cycle that a wait counts and the slot that a LOAD fills are the
model's choices (log 10, log 33). -/
theorem loadsComplete : Obligations.LoadsComplete := by
  unfold Obligations.LoadsComplete
  refine ⟨?_, ?_, ?_, ?_⟩
  · intro t p c r s hx hp hbad
    exact exec_issue_halts rfl hx hp (by rw [hbad])
  · intro t p c s hx hp hbad hfault hfull
    exact exec_issue_waits (exec_load_valid hbad hfault) hx hp (Work.queueMat_full c _ hfull)
  · intro t p c s hx hp hn hbad hfault hm
    obtain ⟨hown, hother⟩ := State.finish_took_tookUp (s := s) (t := t) (v := s.work.draw.2) _ hn rfl
    refine ⟨_, s.work.freeSlot, exec_issue_took (exec_load_valid hbad hfault) ⟨hx, hp, hn⟩ (Work.queueMat_load c hn hm rfl),
      Nat.mod_lt _ (by decide), State.finish_took_mem s t _ rfl rfl, State.finish_took_ctxs .., ?_, hother⟩
    rw [hown, Tile.fillSlot, hm]
    rfl
  · intro n slot l s hn hm hl
    refine ⟨_, exec_loadComplete hn hm hl, State.finish_emptied hn ?_⟩
    exact Work.tryReport_reportFrame _

end Sys2Proof.Machine
end

section
/-!
PROOFS. STREAM (R214 to R227): the one element of a row of one column, and the end of a STREAM with an integer result (R290).
-/

namespace Sys2Proof.Machine

/-! ### What the queue has no part in -/

/-- A change of a tile that keeps its `p` keeps every tile's `p`. -/
theorem Work.updTile_keeps {β : Type} (p : Tile → β) (w : Work) (n k : Nat) (f : Tile → Tile) (h : ∀ x, p (f x) = p x) :
    p ((w.updTile n f).tile k) = p (w.tile k) := by
  simp only [Work.tile, Work.updTile_d, updAt_getElem?]
  split
  · cases w.d.tiles[k]? with
    | none => rfl
    | some x => exact h x
  · rfl

/-- Whether rows fit their place depends on the tile's rings alone (R215, R216). -/
theorem Tile.rowsBad_congr {a b : Tile} (h : a.rings = b.rings) (x : TileSrc) (len : Nat) : a.rowsBad x len = b.rowsBad x len := by
  unfold Tile.rowsBad Tile.ring
  rw [h]

/-- What rows reach depends on the tile's rings alone (R215, R216). -/
theorem Tile.rowsFault_congr {a b : Tile} (h : a.rings = b.rings) (x : TileSrc) (rows len : Nat) :
    a.rowsFault x rows len = b.rowsFault x rows len := by
  unfold Tile.rowsFault Tile.ring
  rw [h]

/-- The queue of the array has no part in the checks of a STREAM's first row (R209, R215, R227). -/
theorem Work.streamStart_pushMat (w : Work) (n : Nat) (m : MatOp) (k : MatStream) (x : Stationary) :
    (w.pushMat n m).streamStart n k x = w.streamStart n k x := by
  have hrings : ((w.pushMat n m).tile n).rings = (w.tile n).rings := Work.updTile_keeps Tile.rings w n n _ fun _ => rfl
  unfold Work.streamStart
  simp only [Tile.rowsBad_congr hrings, Tile.rowsFault_congr hrings]

/-- Rows in the tile store are found where they are whatever the queue of the array holds (R215). -/
theorem Work.streamRow_pushMat (w : Work) {n b st : Nat} (m : MatOp) {p : StreamParams} (hsrc : p.source = .store b st) (k r : Nat)
    (g : Int) : (w.pushMat n m).streamRow n p k r g = w.streamRow n p k r g := by
  unfold Work.streamRow
  rw [hsrc]
  rfl

/-! ### Rows of a STREAM -/

/-- The code that a row of one column stores (R217 to R221, R286). -/
def Work.soleCode (w : Work) (c n : Nat) (k : MatStream) (x : Stationary) (g : Int) : Nat :=
  (k.tally.store k.form (roundOf k.params.rnd (if k.params.rnd = .sr then w.rho c k.params.tag k.entered else 0))
    (arrayResult k.params.mode k.params.fmt k.params.theta (w.streamRow n k.params x.k k.entered g) (x.column 0))).1.code

/-- The counters of a row that entered (R229). -/
def Work.countRow (w : Work) (f : Fmt) (cells : Nat) : Work :=
  ((w.count Ctr.matrixRows 1).count Ctr.matrixEntryCycles (rowCycles f)).count Ctr.matrixCellOps (cells * rowCycles f)

/-- A row of one column, from the tile store to the tile store, stores its one element (R215, R217, R286). -/
theorem Work.enterRow_sole {w : Work} {c n b st b' st' : Nat} {k : MatStream} {x : Stationary} {g : Int} (hx : x.n = 1)
    (hsrc : k.params.source = .store b st) (htgt : k.params.target = .store b' st') (hacc : k.params.accumulate = false)
    (hbits : k.params.bits = .none) :
    (w.enterRow c n k x g).1 = (w.wrLe (tileStoreAddr n (b' + k.entered * st')) (fmtBits k.form.fmt / 8)
      (w.soleCode c n k x g)).countRow k.params.fmt (x.k * x.n) := by
  unfold Work.enterRow
  simp only [hx, hsrc, htgt, hacc, hbits, List.range_one, List.foldl_cons, List.foldl_nil, List.nil_append, List.mapIdx_cons,
    List.mapIdx_nil, Tile.rowKey, Nat.zero_mul, Nat.zero_div, Nat.add_zero, Nat.mul_one, Bool.false_eq_true, if_false,
    Work.updTile_id]
  rfl

/-- Rows in the tile store wait for no ring (R216). -/
theorem Work.rowWait_store (w : Work) (n : Nat) {p : StreamParams} {b st b' st' : Nat} (hsrc : p.source = .store b st)
    (htgt : p.target = .store b' st') : w.rowWait n p = none := by
  unfold Work.rowWait
  rw [hsrc, htgt]
  rfl

/-- One row that need not wait enters. -/
theorem Work.enterRows_one {w : Work} {c n : Nat} {k : MatStream} (x : Stationary) (g : Int) (hleft : k.entered < k.params.rows)
    (hwait : w.rowWait n k.params = none) : w.enterRows c n x g 1 k = w.enterRow c n k x g := by
  rw [Work.enterRows, if_neg (Nat.not_le.mpr hleft), hwait]
  rfl

/-- A STREAM alone in the queue whose slot is filled and whose rows may be read lets them enter (R213, R224, R227). -/
theorem Work.matStep_stream {w : Work} {c n : Nat} {k : MatStream} {x : Stationary} {g : Int} (hm : (w.tile n).mat = [.stream k])
    (hslot : (w.tile n).slots[k.params.slot]? = some (some x)) (hnew : k.entered = 0) (hleft : 0 < k.params.rows)
    (hstart : w.streamStart n k x = none) (hpoison : w.streamPoison n k = none)
    (hscale : w.readScale c k.params.srcLayer = some g) :
    (w.matStep c n 0).1 = (w.enterRows c n x g k.params.rows k).1.putMat n 0 (.stream (w.enterRows c n x g k.params.rows k).2) := by
  unfold Work.matStep
  rw [hm]
  simp only [List.getElem?_cons_zero, List.take_zero, List.any_nil, Bool.false_eq_true, if_false, hslot, Option.getD_some, hnew,
    if_true, hstart, hpoison, hscale, Nat.ne_of_lt hleft]

/-- A STREAM whose one row meets a stationary operand of one column, from the tile store to the tile store, without bits and without
accumulation (R214, R215). -/
structure MatStream.Sole (k : MatStream) (x : Stationary) (b st b' st' : Nat) : Prop where
  column : x.n = 1
  rows : k.params.rows = 1
  fresh : k.entered = 0
  source : k.params.source = .store b st
  target : k.params.target = .store b' st'
  plain : k.params.accumulate = false
  noBits : k.params.bits = .none

/-- Such a STREAM put into an empty queue stores its one element, and changes its own tile beside. -/
theorem Work.queueMat_sole {w : Work} {c n b st b' st' : Nat} {k : MatStream} {x : Stationary} {g : Int}
    (hsole : k.Sole x b st b' st') (hn : n < w.d.tiles.length) (hm : (w.tile n).mat = [])
    (hslot : (w.tile n).slots[k.params.slot]? = some (some x)) (hstart : w.streamStart n k x = none)
    (hpoison : w.poisonIn (tileStoreAddr n b) (streamRowLen k.params.fmt) = none) (hscale : w.readScale c k.params.srcLayer = some g) :
    ∃ f, w.queueMat c n (.stream k) = .done ((((w.pushMat n (.stream k)).wrLe (tileStoreAddr n b') (fmtBits k.form.fmt / 8)
      (w.soleCode c n k x g)).countRow k.params.fmt (x.k * x.n)).updTile n f) := by
  obtain ⟨hx, hrows, hnew, hsrc, htgt, hacc, hbits⟩ := hsole
  have htile : (w.pushMat n (.stream k)).tile n = { w.tile n with mat := [.stream k] } := Work.pushMat_tile_same _ hn hm
  have hread : (w.pushMat n (.stream k)).streamPoison n k = none := by
    rw [Work.streamPoison, hsrc, hrows, Nat.sub_self]
    simp only [Nat.zero_mul, Nat.zero_add]
    exact hpoison
  have hcode : (w.pushMat n (.stream k)).soleCode c n k x g = w.soleCode c n k x g := by
    unfold Work.soleCode
    rw [Work.streamRow_pushMat w _ hsrc]
    rfl
  have hleft : k.entered < k.params.rows := by omega
  have hstep := Work.matStep_stream (congrArg Tile.mat htile) ((congrArg (fun y => y.slots[k.params.slot]?) htile).trans hslot) hnew
    (by omega) ((Work.streamStart_pushMat w n _ k x).trans hstart) hread hscale
  rw [hrows, Work.enterRows_one x g hleft (Work.rowWait_store _ n hsrc htgt), Work.enterRow_sole hx hsrc htgt hacc hbits, hcode, hnew,
    Nat.zero_mul, Nat.add_zero] at hstep
  exact ⟨_, (Work.queueMat_empty c _ hn hm).trans (congrArg Issued.done hstep)⟩

/-! ### STREAM and its completion -/

/-- What STREAM comes to as it is taken up (R214, R297). -/
def Work.streamIssued (w : Work) (c : Nat) (t : TileRef) (p : StreamParams) : Issued :=
  match w.outForm c p.result p.tag with
  | none => .halt 1 0x82 (p.tag.layer.getD 0)
  | some form =>
    if streamBad p form.fmt then .halt 1 0x18 0
    else w.queueMat c t.tile (.stream { ref := t, params := p, entered := 0, form := form, tally := Tally.empty })

/-- STREAM is taken up as every instruction of the tile core is. -/
theorem exec_stream (t : TileRef) (p : StreamParams) (s : State) :
    exec (.stream t p) s = .next (s.exec fun w => w.issue t fun c w => w.streamIssued c t p) := rfl

/-- A STREAM of invalid parameters (R214, R227). -/
theorem Work.streamIssued_bad {w : Work} {c : Nat} (t : TileRef) {p : StreamParams} {form : OutForm}
    (hform : w.outForm c p.result p.tag = some form) (hbad : streamBad p form.fmt = true) :
    w.streamIssued c t p = .halt 1 0x18 0 := by
  rw [Work.streamIssued, hform]
  exact if_pos hbad

/-- A STREAM of valid parameters goes to the queue of the array (R207). -/
theorem Work.streamIssued_valid {w : Work} {c : Nat} (t : TileRef) {p : StreamParams} {form : OutForm}
    (hform : w.outForm c p.result p.tag = some form) (hok : streamBad p form.fmt = false) :
    w.streamIssued c t p
      = w.queueMat c t.tile (.stream { ref := t, params := p, entered := 0, form := form, tally := Tally.empty }) := by
  rw [Work.streamIssued, hform]
  exact if_neg (ne_true_of_eq_false hok)

/-- STREAM_COMPLETE of the one array instruction of a tile, a STREAM whose rows have all entered, with an integer result (R290). -/
theorem exec_streamComplete_integer {n c : Nat} {k : MatStream} {s : State} (hn : n < s.dev.tiles.length)
    (hm : (s.work.tile n).mat = [.stream k]) (hall : k.entered = k.params.rows) (hc : s.work.owner n = some c)
    (hint : fmtInt k.form.fmt = true) :
    exec (.streamComplete n) s = .next (s.finish (s.work.emptyMat n).tryReport) := by
  refine exec_finish rfl ?_
  rw [hm, takeFirst_head, hc]
  · dsimp only
    rw [Work.censusAdd, if_pos hint]
    exact congrArg Work.tryReport (Work.pumpTile_none _ n (congrArg Tile.mat (Work.emptyMat_tile_same hn)))
  · exact decide_eq_true hall

/-- Settles O28: invalid parameters by the halt's record, a full queue by its one counter, one row against one column by the one element
that it stores, and completion by what a report of the device keeps. The one stalled cycle that a wait counts and the operand that names
the layer of a scaled source are the model's choices (log 10, log 67). -/
theorem streamsComplete : Obligations.StreamsComplete := by
  unfold Obligations.StreamsComplete
  refine ⟨?_, ?_, ?_, ?_⟩
  · intro t p form c s hx hp hform hbad
    obtain ⟨u, hu, hvalid, hreason, -⟩ := exec_issue_halts (exec_stream t p s) hx hp (Work.streamIssued_bad t hform hbad)
    exact ⟨u, hu, hvalid, hreason⟩
  · intro t p form c s hx hp hform hok hfull
    exact exec_issue_waits (exec_stream t p s) hx hp ((Work.streamIssued_valid t hform hok).trans (Work.queueMat_full c _ hfull))
  · intro t p form x b st b' st' c g s hwf hx hp hn hform hok hm hslot hcol hrows hsrc htgt hacc hbits hstart hpoison hscale
    obtain ⟨f, hqueue⟩ := Work.queueMat_sole (c := c) ⟨hcol, hrows, rfl, hsrc, htgt, hacc, hbits⟩ hn hm hslot hstart hpoison hscale
    refine ⟨_, exec_issue_took (exec_stream t p s) ⟨hx, hp, hn⟩ ((Work.streamIssued_valid t hform hok).trans hqueue),
      State.finish_took_stores t f hwf rfl rfl ?_, State.finish_took_ctxs .., fun k hk => ?_⟩
    · exact Work.wrLe_log ..
    · rw [State.finish_tile]
      exact (Work.updTile_tile_other _ _ _ _ hk).trans (Work.updTile_tile_other s.work _ _ _ hk)
  · intro n c k s hn hm hall hc hint
    exact ⟨_, exec_streamComplete_integer hn hm hall hc hint, State.finish_emptied hn (Work.tryReport_reportFrame _)⟩

end Sys2Proof.Machine
end

section
/-!
PROOFS. Arithmetic and hardware loops of the tile core (R247, R253 to R255).
-/

namespace Sys2Proof.Machine

/-! ### Integer arithmetic on 64-bit words -/

/-- The two's complement reading of a word's number is the word's. -/
theorem toSigned_toNat (a : W64) : toSigned 64 a.toNat = a.toInt := by
  have ha := a.isLt
  unfold toSigned
  rw [BitVec.toInt_eq_toNat_cond, Nat.mod_eq_of_lt ha]
  split <;> split <;> omega

/-- The pattern of an integer is that of the word. -/
theorem ofNat_ofSigned (i : Int) : BitVec.ofNat 64 (ofSigned 64 i) = BitVec.ofInt 64 i := by
  apply BitVec.eq_of_toNat_eq
  rw [BitVec.toNat_ofNat, BitVec.toNat_ofInt, ofSigned]
  exact Nat.mod_eq_of_lt (by omega)

/-- Sums, differences and products of an integer operation are those of words (R247). -/
theorem ofNat_intOp_wraps (a b : W64) :
    BitVec.ofNat 64 (intOp .add 64 a.toNat b.toNat) = a + b ∧ BitVec.ofNat 64 (intOp .sub 64 a.toNat b.toNat) = a - b
      ∧ BitVec.ofNat 64 (intOp .mul 64 a.toNat b.toNat) = a * b := by
  refine ⟨?_, ?_, ?_⟩
  · apply BitVec.eq_of_toNat_eq
    rw [BitVec.toNat_ofNat, BitVec.toNat_add]
    exact Nat.mod_mod ..
  · apply BitVec.eq_of_toInt_eq
    rw [intOp, toSigned_toNat, toSigned_toNat, ofNat_ofSigned, BitVec.toInt_ofInt, BitVec.toInt_sub]
  · apply BitVec.eq_of_toNat_eq
    rw [BitVec.toNat_ofNat, BitVec.toNat_mul]
    exact Nat.mod_mod ..

/-- An integer operation that is no shift, or shifts by less than the width, has its result and no free one (R238, R247). -/
theorem intOpFree_defined {op : IOp} {w a b : Nat} (draw j : Nat) (h : shiftOp op = false ∨ b < w) :
    intOpFree op w a b draw j = intOp op w a b := by
  refine if_neg ?_
  rcases h with h | h
  · simp [h]
  · simp [h]

/-- A state whose next free value is drawn. -/
def State.drawn (s : State) : State := { s with dev := { s.dev with freeCtr := s.dev.freeCtr + 1 } }

/-- An integer operation (R247): its result goes to the register, and a free value is drawn. -/
theorem exec_scalar_int {t : TileRef} {c : Nat} {s : State} (op : IOp) (rd ra rb : Nat) (h : s.work.takes t c) :
    exec (.scalarInstruction t (.int op rd ra rb)) s = .next (s.ran t.tile fun k =>
      (k.setG rd (BitVec.ofNat 64 (intOpFree op 64 ((s.work.tile t.tile).greg ra).toNat ((s.work.tile t.tile).greg rb).toNat
        s.dev.freeCtr 0))).advance t.pc t.next).drawn := by
  obtain ⟨hx, hp, -⟩ := h
  refine exec_next_dev (exec_scalar t _ s) (State.issue_done hx hp rfl) rfl rfl |>.trans ?_
  rw [Work.setG, Work.updTile_updTile]
  rfl

/-- Settles O35: each instruction by the value that it puts into its register. Signed division is the model's choice (log 34). -/
theorem scalarArithmeticCompletes : Obligations.ScalarArithmeticCompletes := by
  unfold Obligations.ScalarArithmeticCompletes
  refine ⟨?_, ?_, ?_, ?_, ?_, ?_, ?_⟩
  · intro t rd c v s h
    exact exec_scalar_done h rfl
  · intro t op rd ra rb c s h
    exact ⟨_, exec_scalar_int op rd ra rb h, fun hop => congrArg (BitVec.ofNat 64) (intOpFree_defined _ _ hop)⟩
  · exact ofNat_intOp_wraps
  · intro t rd ra rb c s h hzero
    have hdiv : divRem ((s.work.tile t.tile).greg ra) ((s.work.tile t.tile).greg rb)
        = (BitVec.allOnes 64, (s.work.tile t.tile).greg ra) := if_pos hzero
    refine ⟨(exec_scalar_done h rfl).trans ?_, (exec_scalar_done h rfl).trans ?_⟩
    · rw [hdiv]
    · rw [hdiv]
  · intro t rd ra rb c a b s h ha hb hne
    have hdiv : divRem ((s.work.tile t.tile).greg ra) ((s.work.tile t.tile).greg rb) = (a.sdiv b, a.srem b) := by
      rw [ha, hb]
      exact if_neg hne
    refine ⟨(exec_scalar_done h rfl).trans ?_, (exec_scalar_done h rfl).trans ?_⟩
    · rw [hdiv]
    · rw [hdiv]
  · intro t op rd ra rb rc c s h
    exact exec_scalar_done h rfl
  · intro t op rd ra c s h
    exact exec_scalar_done h rfl

/-! ### Hardware loops -/

/-- LOOP is taken up as every instruction of the tile core is. -/
theorem exec_loop (t : TileRef) (n : LoopCount) (last after : Nat) (s : State) :
    exec (.loop t n last after) s = .next (s.exec fun w => w.issue t fun _ w => w.loopInstr t n last after) := rfl

section

variable {w : Work} {t : TileRef} {n : LoopCount} {v last : Nat} (after : Nat)

/-- An end address not after the LOOP, or not within the image (R255). -/
theorem Work.loopInstr_badEnd (hn : (w.tile t.tile).loopCount n = some v)
    (h : last ≤ t.pc ∨ (w.tile t.tile).imageLen ≤ last) : w.loopInstr t n last after = .halt 0 0x07 0 := by
  unfold Work.loopInstr
  simp only [hn, if_pos h]

/-- A LOOP of no iteration goes on behind its end address (R253, R254). -/
theorem Work.loopInstr_zero (hn : (w.tile t.tile).loopCount n = some 0) (hpc : t.pc < last)
    (hend : last < (w.tile t.tile).imageLen) :
    w.loopInstr t n last after = .go (w.updTile t.tile fun k => { k with loops := (loopEnd last after (w.tile t.tile).loops).1 })
      (loopEnd last after (w.tile t.tile).loops).2 := by
  unfold Work.loopInstr
  simp only [hn, if_neg (show ¬ (last ≤ t.pc ∨ (w.tile t.tile).imageLen ≤ last) by omega), if_true]

/-- A LOOP that would push a fifth level (R255). -/
theorem Work.loopInstr_deep (hn : (w.tile t.tile).loopCount n = some v) (hv : 1 ≤ v) (hpc : t.pc < last)
    (hend : last < (w.tile t.tile).imageLen) (hfull : 4 ≤ (w.tile t.tile).loops.length) :
    w.loopInstr t n last after = .halt 0 0x04 0 := by
  unfold Work.loopInstr
  simp only [hn, if_neg (show ¬ (last ≤ t.pc ∨ (w.tile t.tile).imageLen ≤ last) by omega), Nat.ne_of_gt hv, if_false, hfull, if_true]

/-- A LOOP that pushes a level (R253). -/
theorem Work.loopInstr_push (hn : (w.tile t.tile).loopCount n = some v) (hv : 1 ≤ v) (hpc : t.pc < last)
    (hend : last < (w.tile t.tile).imageLen) (hroom : (w.tile t.tile).loops.length < 4) :
    w.loopInstr t n last after = .go (w.updTile t.tile fun k =>
      { k with loops := { first := t.next, last := last, remaining := v, iteration := 0 } :: k.loops }) t.next := by
  unfold Work.loopInstr
  simp only [hn, if_neg (show ¬ (last ≤ t.pc ∨ (w.tile t.tile).imageLen ≤ last) by omega), Nat.ne_of_gt hv, if_false,
    Nat.not_le.mpr hroom]

end

/-- An instruction that changes its tile by `g` and goes on elsewhere answers `State.ran` (R254). -/
theorem exec_issue_goes {i : Instr} {s : State} {t : TileRef} {c a : Nat} {f : Nat → Work → Issued} {g : Tile → Tile}
    (he : exec i s = .next (s.exec fun w => w.issue t f)) (h : s.work.takes t c) (hf : f c s.work = .go (s.work.updTile t.tile g) a) :
    exec i s = .next (s.ran t.tile fun k => { g k with pc := a }) := by
  obtain ⟨hx, hp, -⟩ := h
  refine exec_issue_ran he ?_
  rw [State.issue_go hx hp hf, Work.updTile_updTile]

/-- An instruction whose whole effect is one change of its tile answers `State.ran` (R247). -/
theorem exec_issue_ranDone {i : Instr} {s : State} {t : TileRef} {c : Nat} {f : Nat → Work → Issued} {g : Tile → Tile}
    (he : exec i s = .next (s.exec fun w => w.issue t f)) (h : s.work.takes t c) (hf : f c s.work = .done (s.work.updTile t.tile g)) :
    exec i s = .next (s.ran t.tile fun k => (g k).advance t.pc t.next) := by
  obtain ⟨hx, hp, -⟩ := h
  refine exec_issue_ran he ?_
  rw [State.issue_done hx hp hf, Work.updTile_updTile]

/-- The record of an instruction that halts its context (R257, R570). -/
theorem exec_issue_haltRec {i : Instr} {s : State} {t : TileRef} {c u r d : Nat} {f : Nat → Work → Issued}
    (he : exec i s = .next (s.exec fun w => w.issue t f)) (h : s.work.takes t c) (hf : f c s.work = .halt u r d) :
    ∃ x, exec i s = .next x
      ∧ (x.work.ctx c).halt = s.work.haltRec c (tileRec t u (s.work.tile t.tile).loops.length r d) := by
  obtain ⟨hx, hp, -⟩ := h
  obtain ⟨hen, hv⟩ := Ctx.active_enable (Work.executing_some hx).2.1
  obtain ⟨x, h1, h2, -⟩ := exec_halts he (State.issue_halts hx hp hf) rfl hen hv
  exact ⟨x, h1, h2⟩

/-- Settles O37: each outcome of LOOP by the halt or the one change of the tile that it comes to. That LOOP carries the address behind
its end address is the model's choice (log 55). -/
theorem loopsComplete : Obligations.LoopsComplete := by
  unfold Obligations.LoopsComplete
  refine ⟨?_, ?_, ?_, ?_, ?_⟩
  · intro t n v last after c s h hn hbad
    obtain ⟨u, hu, hr⟩ := exec_issue_haltRec (exec_loop t n last after s) h (Work.loopInstr_badEnd after hn hbad)
    exact ⟨u, hu, by rw [hr]; rfl, by rw [hr]; rfl⟩
  · intro t n last after c s h hn hpc hend
    exact exec_issue_goes (exec_loop t n last after s) h (Work.loopInstr_zero after hn hpc hend)
  · intro t n v last after c s h hn hv hpc hend hfull
    obtain ⟨u, hu, hr⟩ := exec_issue_haltRec (exec_loop t n last after s) h (Work.loopInstr_deep after hn hv hpc hend hfull)
    exact ⟨u, hu, by rw [hr]; rfl, by rw [hr]; rfl, by rw [hr]; rfl⟩
  · intro t n v last after c s h hn hv hpc hend hroom
    exact exec_issue_goes (exec_loop t n last after s) h (Work.loopInstr_push after hn hv hpc hend hroom)
  · intro t g level c s h
    exact exec_issue_ranDone rfl h rfl

end Sys2Proof.Machine
end

section
/-!
PROOFS. Data memory, the ends of a tile's program, and the places of the vector engine (R233, R243, R248 to R251).
-/

namespace Sys2Proof.Machine

/-! ### Data memory -/

/-- DATA_MEMORY_ACCESS is taken up as every instruction of the tile core is. -/
theorem exec_dataMemoryAccess (t : TileRef) (p : DmemParams) (s : State) :
    exec (.dataMemoryAccess t p) s = .next (s.exec fun w => w.issue t fun _ w => w.dataMem t p) := rfl

/-- The sizes of a data memory access (R248). -/
def dmemSized (p : DmemParams) : Prop := p.size = 1 ∨ p.size = 2 ∨ p.size = 4 ∨ p.size = 8

/-- An access of one of the four sizes passes the check of its size. -/
theorem dmemSized_check {p : DmemParams} (h : dmemSized p) : ¬ (!(p.size == 1 || p.size == 2 || p.size == 4 || p.size == 8)) = true := by
  rcases h with h | h | h | h <;> simp [h]

section

variable {w : Work} {t : TileRef} {p : DmemParams}

/-- A misaligned access, or one beyond the memory (R248). -/
theorem Work.dataMem_fault (hs : dmemSized p) (h : p.addr % p.size ≠ 0 ∨ 131072 < p.addr + p.size) :
    w.dataMem t p = .halt 0 0x03 p.addr := by
  unfold Work.dataMem
  rw [if_neg (dmemSized_check hs), if_pos h]

/-- A store (R248). -/
theorem Work.dataMem_store (hs : dmemSized p) (halign : p.addr % p.size = 0) (hend : p.addr + p.size ≤ 131072) (hstore : p.store = true) :
    w.dataMem t p = .done (w.wrLe (dmemKey t.tile p.addr) p.size ((w.tile t.tile).greg p.reg).toNat) := by
  unfold Work.dataMem
  rw [if_neg (dmemSized_check hs), if_neg (by omega), if_pos hstore]

/-- A load of bytes that an unfinished tile DMA writes (R248). -/
theorem Work.dataMem_waits (hs : dmemSized p) (halign : p.addr % p.size = 0) (hend : p.addr + p.size ≤ 131072) (hload : p.store = false)
    (hdma : (w.tile t.tile).dmaWrites p.addr p.size = true) : w.dataMem t p = .wait Ctr.stallScoreboard 0 := by
  unfold Work.dataMem
  rw [if_neg (dmemSized_check hs), if_neg (by omega), if_neg (ne_true_of_eq_false hload), if_pos hdma]

/-- A load (R248). -/
theorem Work.dataMem_load (hs : dmemSized p) (halign : p.addr % p.size = 0) (hend : p.addr + p.size ≤ 131072) (hload : p.store = false)
    (hdma : (w.tile t.tile).dmaWrites p.addr p.size = false) :
    w.dataMem t p = .done (w.setG t.tile p.reg (BitVec.ofNat 64
      (if p.signed then ofSigned 64 (toSigned (8 * p.size) (w.le (dmemKey t.tile p.addr) p.size))
        else w.le (dmemKey t.tile p.addr) p.size))) := by
  unfold Work.dataMem
  rw [if_neg (dmemSized_check hs), if_neg (by omega), if_neg (ne_true_of_eq_false hload), if_neg (ne_true_of_eq_false hdma)]

end

/-! ### A change of one tile, and a report of the device after it -/

/-- The state that is left where one tile was changed and no more than a report of the device followed (R47). -/
theorem State.finish_reported {s : State} {v : Work} {n : Nat} {f : Tile → Tile} (hn : n < s.dev.tiles.length)
    (hv : v.reportFrame = (s.work.updTile n f).reportFrame) :
    (s.finish v).mem = s.mem ∧ (s.finish v).dev.ctxs = s.dev.ctxs ∧ (s.finish v).work.tile n = f (s.work.tile n)
      ∧ ∀ k, k ≠ n → (s.finish v).work.tile k = s.work.tile k := by
  obtain ⟨hctxs, htiles, hmem, -, -⟩ := State.finish_reportFrame hv rfl rfl
  have htile : ∀ k, (s.finish v).work.tile k = (s.work.updTile n f).tile k := fun k => by
    rw [Work.tile, State.work_d, htiles]
    rfl
  exact ⟨hmem, hctxs, (htile n).trans (Work.updTile_tile_same _ _ _ hn),
    fun k hk => (htile k).trans (Work.updTile_tile_other _ _ _ _ hk)⟩

/-- A done-report changes no context. -/
theorem Work.tryReport_ctx (w : Work) (c : Nat) : w.tryReport.ctx c = w.ctx c :=
  Work.tryReport_keeps (fun v => v.ctx c) (Work.sendBelay_keeps (fun v => v.ctx c) (fun _ _ => rfl) (fun _ _ _ _ => rfl) (fun _ _ _ => rfl))
    (fun _ _ _ _ _ _ => rfl) w

/-- A done-report changes no fuse. -/
theorem Work.tryReport_fz (w : Work) : w.tryReport.fz = w.fz :=
  Work.tryReport_keeps Work.fz (Work.sendBelay_keeps Work.fz (fun _ _ => rfl) (fun _ _ _ _ => rfl) (fun _ _ _ => rfl))
    (fun _ _ _ _ _ _ => rfl) w

/-- A command whose meaning is an instruction that changes its tile by `g` and is done, and a report of the device after it. -/
theorem exec_issue_reported {i : Instr} {s : State} {t : TileRef} {c : Nat} {F : Work → Work} {f : Nat → Work → Issued} {g : Tile → Tile}
    (he : exec i s = .next (s.exec F)) (hF : F s.work = (s.work.issue t f).tryReport) (h : s.work.takes t c)
    (hf : f c s.work = .done (s.work.updTile t.tile g)) :
    ∃ u, exec i s = .next u ∧ u.mem = s.mem ∧ u.dev.ctxs = s.dev.ctxs ∧ s.tookUp u t g := by
  obtain ⟨hx, hp, hn⟩ := h
  rw [State.issue_done hx hp hf, Work.updTile_updTile] at hF
  obtain ⟨hmem, hctxs, hsame, hother⟩ := State.finish_reported (f := fun k => (g k).advance t.pc t.next) hn
    (v := ((s.work.updTile t.tile fun k => (g k).advance t.pc t.next).count Ctr.tileCoreInstructions 1).tryReport)
    (Work.tryReport_reportFrame _)
  exact ⟨_, exec_finish he hF, hmem, hctxs, hsame, hother⟩

/-! ### PITCH_END and STOP -/

/-- What PITCH_END comes to once nothing that the tile issued is left to complete (R251). -/
def Work.pitchEndIssued (w : Work) (t : TileRef) (c : Nat) : Issued :=
  if (w.ctx c).urgent then .halt 0 0x01 0
  else .done (w.updTile t.tile fun k => { k with run := .pitchDone, doneCycle := w.d.pitch.cycle.toNat })

/-- The meaning of PITCH_END (R251). -/
def Work.pitchEnd (w : Work) (t : TileRef) : Work :=
  match w.executing t with
  | none => w
  | some c =>
    if !(w.ctx c).urgent && decide (t.pc < (w.tile t.tile).imageLen) && !(w.tile t.tile).drained then w
    else (w.issue t fun c w => w.pitchEndIssued t c).tryReport

/-- PITCH_END runs its meaning. -/
theorem exec_pitchEnd (t : TileRef) (s : State) : exec (.pitchEnd t) s = .next (s.exec fun w => w.pitchEnd t) := rfl

section

variable {w : Work} {t : TileRef} {c : Nat}

/-- PITCH_END waits while something that the tile issued has not completed (R251). -/
theorem Work.pitchEnd_waits (h : w.takes t c) (hu : (w.ctx c).urgent = false) (hd : (w.tile t.tile).drained = false) :
    w.pitchEnd t = w := by
  obtain ⟨hx, hp, -⟩ := h
  simp [Work.pitchEnd, hx, hp, hu, hd]

/-- PITCH_END is taken up in the urgent context, and elsewhere once the tile has drained (R251). -/
theorem Work.pitchEnd_issues (h : w.takes t c) (hd : (w.ctx c).urgent = true ∨ (w.tile t.tile).drained = true) :
    w.pitchEnd t = (w.issue t fun c w => w.pitchEndIssued t c).tryReport := by
  obtain ⟨hx, -, -⟩ := h
  rcases hd with hd | hd
  · simp [Work.pitchEnd, hx, hd]
  · simp [Work.pitchEnd, hx, hd]

end

/-- PITCH_END in the urgent context halts it (R251). -/
theorem exec_pitchEnd_urgent {t : TileRef} {c : Nat} {s : State} (h : s.work.takes t c) (hu : (s.work.ctx c).urgent = true) :
    ∃ u, exec (.pitchEnd t) s = .next u ∧ (u.work.ctx c).halt.valid = true ∧ (u.work.ctx c).halt.reason = 0x01 := by
  have hrun := Work.pitchEnd_issues h (Or.inl hu)
  obtain ⟨hx, hp, -⟩ := h
  obtain ⟨hen, hv⟩ := Ctx.active_enable (Work.executing_some hx).2.1
  rw [State.issue_halts hx hp (if_pos hu)] at hrun
  have hfz : (s.work.halt c (tileRec t 0 (s.work.tile t.tile).loops.length 0x01 0)).tryReport.fz = s.fuses :=
    (Work.tryReport_fz _).trans (Work.still_fz (Work.halt_still ..))
  refine ⟨_, exec_finish (exec_pitchEnd t s) hrun, ?_, ?_⟩
  · rw [State.finish_ctx _ _ _ hfz, Work.tryReport_ctx, Work.halt_rec _ _ _ hen hv]
    rfl
  · rw [State.finish_ctx _ _ _ hfz, Work.tryReport_ctx, Work.halt_rec _ _ _ hen hv]
    rfl

/-- Settles O38: an access by its halt, its store, its wait or the one register that it writes; PITCH_END and STOP by the one change
of the tile and what a report of the device keeps; TRAP by the record of its halt. The stalled cycle that a wait counts is the model's
choice (log 10). -/
theorem tileProgramEnds : Obligations.TileProgramEnds := by
  unfold Obligations.TileProgramEnds
  refine ⟨?_, ?_, ?_, ?_, ?_, ?_, ?_, ?_, ?_⟩
  · intro t p c s h hs hbad
    obtain ⟨u, hu, hr⟩ := exec_issue_haltRec (exec_dataMemoryAccess t p s) h (Work.dataMem_fault hs hbad)
    exact ⟨u, hu, by rw [hr]; rfl, by rw [hr]; rfl⟩
  · intro t p c s hwf h hs halign hend hstore
    have hdone := Work.dataMem_store (w := s.work) (t := t) hs halign hend hstore
    rw [← Work.updTile_id (Work.wrLe ..) t.tile] at hdone
    exact ⟨_, exec_issue_took (exec_dataMemoryAccess t p s) h hdone, State.finish_took_tookUp id h.2.2 rfl,
      State.finish_took_ctxs .., State.finish_took_stores t id hwf rfl rfl (Work.wrLe_log ..)⟩
  · intro t p c s h hs halign hend hload hdma
    exact exec_issue_waits (exec_dataMemoryAccess t p s) h.1 h.2.1 (Work.dataMem_waits hs halign hend hload hdma)
  · intro t p c s h hs halign hend hload hdma
    exact exec_issue_ranDone (exec_dataMemoryAccess t p s) h (Work.dataMem_load hs halign hend hload hdma)
  · intro t c s h hu hd
    rw [exec_pitchEnd, State.exec_id s _ (Work.pitchEnd_waits h hu hd)]
  · intro t c s h hu hd
    exact exec_issue_reported (exec_pitchEnd t s) (Work.pitchEnd_issues h (Or.inr hd)) h (if_neg (ne_true_of_eq_false hu))
  · intro t c s h hu
    exact exec_pitchEnd_urgent h hu
  · intro t c s h
    exact exec_issue_reported rfl rfl h rfl
  · intro t operand c s h
    obtain ⟨u, hu, hr⟩ := exec_issue_haltRec (i := .trap t operand) rfl h rfl
    exact ⟨u, hu, by rw [hr]; rfl, by rw [hr]; rfl, by rw [hr]; rfl⟩

/-! ### VEXTRACT_VINSERT and the end of a vector instruction -/

/-- An element in range passes the check of VEXTRACT_VINSERT (R243, R258). -/
theorem place_check {width v e : Nat} (hv : v < 32) (hwidth : width = 8 ∨ width = 16 ∨ width = 32) (he : e < regElems width) :
    ¬ (32 ≤ v ∨ (!(width == 8 || width == 16 || width == 32)) = true ∨ regElems width ≤ e) := by
  have hw : (width == 8 || width == 16 || width == 32) = true := by simpa [or_assoc] using hwidth
  simp only [hw, Bool.not_true, Bool.false_eq_true, false_or]
  omega

/-- An element of 8, 16 or 32 bits is stored by its bytes. -/
theorem Work.putElem_width (w : Work) (key i code : Nat) {width : Nat} (hwidth : width = 8 ∨ width = 16 ∨ width = 32) :
    w.putElem key width i code = w.wr (key + width / 8 * i) (leBytes (width / 8) (code % 2 ^ width)) := by
  obtain ⟨n, rfl⟩ : ∃ n, width = 8 * n := ⟨width / 8, by omega⟩
  rw [Work.putElem_bytes, Nat.mul_div_cancel_left n (by decide)]

/-- Settles O31: an element taken or stored by the one change that it makes, the end of a vector instruction by what a report of the
device keeps. That an instruction's effect stands as soon as it is taken up, so that its end only frees its place, is the model's
choice (log 85). -/
theorem vectorPlacesComplete : Obligations.VectorPlacesComplete := by
  unfold Obligations.VectorPlacesComplete
  refine ⟨?_, ?_, ?_⟩
  · intro t width v e g c s h hv hwidth he hfree
    exact exec_issue_ownTile rfl h ((if_neg (place_check hv hwidth he)).trans (if_neg (ne_true_of_eq_false hfree)))
  · intro t width v e g c s hwf h hv hwidth he hfree
    have hput := Work.putElem_width s.work (vregAt t.tile v 0) e ((s.work.tile t.tile).greg g).toNat hwidth
    rw [← Work.updTile_id (Work.wr ..) t.tile] at hput
    refine ⟨_, exec_issue_took rfl h ((if_neg (place_check hv hwidth he)).trans ((if_neg (ne_true_of_eq_false hfree)).trans
      (congrArg Issued.done hput))), State.finish_took_ctxs .., State.finish_took_tookUp id h.2.2 rfl,
      State.finish_took_stores t id hwf rfl rfl rfl⟩
  · intro n s hn
    exact ⟨_, exec_finish rfl rfl, State.finish_reported hn (Work.tryReport_reportFrame _)⟩

end Sys2Proof.Machine
end

section
/-!
PROOFS. The element-wise classes of the vector engine (R231, R235 to R238, R244, R245): what stands at each element once an
instruction has been taken up, and the census that it leaves below the keys of the registers (R290).
-/

namespace Sys2Proof.Machine

/-! ### Reading after an instruction -/

/-- Two working states that read alike have the same elements. -/
theorem Work.elemAt_congr {v w : Work} (h : ∀ k, v.rd k = w.rd k) (key bits i : Nat) : v.elemAt key bits i = w.elemAt key bits i := by
  unfold Work.elemAt Work.le Work.rdN
  simp only [h]

/-- Two working states that read alike from a key upward have the same elements there. -/
theorem Work.elemAt_congr_above {v w : Work} {lo key : Nat} (h : ∀ k, lo ≤ k → v.rd k = w.rd k) (hk : lo ≤ key) (bits i : Nat) :
    v.elemAt key bits i = w.elemAt key bits i := by
  have hrd : ∀ a j, v.rd (key + a + j) = w.rd (key + a + j) := fun a j => h _ (by omega)
  unfold Work.elemAt Work.le Work.rdN
  simp only [hrd]

/-- The keys of the vector registers stand above every local address (R230). -/
theorem vregAt_ge (tile v off : Nat) : 2 ^ 56 ≤ vregAt tile v off := by
  unfold vregAt vregKey
  omega

/-- A command of the vector engine whose instruction is done answers the state in which it has taken its place in the queue (R233). -/
theorem exec_issueVector_done {i : Instr} {s : State} {t : TileRef} {c : Nat} {f : Nat → Work → Issued} {v : Work}
    (he : exec i s = .next (s.exec fun w => w.issueVector t f)) (h : s.work.takes t c) (hq : (s.work.tile t.tile).vecQueue < 8)
    (hf : f c s.work = .done v) : exec i s = .next (s.finish (v.took t Tile.queued)) := by
  rw [← Work.updTile_id v t.tile] at hf
  exact exec_issueVector_took he h hq hf

/-- What is read after an instruction was taken up is what its meaning read at its end. -/
theorem State.finish_took_rd {s : State} {v : Work} (t : TileRef) (g : Tile → Tile) (hwf : Memory.wf s.mem = true)
    (hb : v.base = s.mem) (k : Nat) : (s.finish (v.took t g)).work.rd k = v.rd k :=
  State.finish_read s (v.took t g) hwf hb k

/-- The elements after an instruction was taken up are those at its meaning's end. -/
theorem State.finish_took_elemAt {s : State} {v : Work} (t : TileRef) (g : Tile → Tile) (hwf : Memory.wf s.mem = true)
    (hb : v.base = s.mem) (key bits i : Nat) : (s.finish (v.took t g)).work.elemAt key bits i = v.elemAt key bits i :=
  Work.elemAt_congr (State.finish_took_rd t g hwf hb) key bits i

/-- What the passes counted keep: anything that a counter keeps (R259). -/
theorem Work.countPasses_keeps {β : Type} (p : Work → β) (hp : ∀ v id n, p (Work.count v id n) = p v) (w : Work)
    (tile bits span cycles : Nat) (m : Masking) : p (w.countPasses tile bits span cycles m) = p w := by
  rw [Work.countPasses, hp, hp, hp]

/-! ### Element by element -/

/-- An element written leaves what stands below its register. -/
theorem Work.rd_putElem_below (w : Work) {key k : Nat} (bits i code : Nat) (h : k < key) : (w.putElem key bits i code).rd k = w.rd k :=
  Work.rd_wr_other _ _ _ _ (Or.inl (by omega))

/-- What an element-wise instruction keeps: anything that one element of its destination keeps. -/
theorem Work.eachElem_keeps {β σ : Type} (p : Work → β) {tile outBits dst : Nat}
    (hp : ∀ v i code, p (Work.putElem v (vregAt tile dst 0) outBits i code) = p v) (w : Work) (bits span : Nat) (m : Masking) (y : σ)
    (f : σ → Nat → Nat → Nat × σ) : p (w.eachElem tile bits outBits span dst m y f).1 = p w := by
  unfold Work.eachElem
  refine List.foldlRecOn (motive := fun a : Work × σ => p a.1 = p w) _ _ rfl fun a ha e _ => ?_
  dsimp only
  split
  · exact (hp ..).trans ha
  · split
    · exact (hp ..).trans ha
    · exact ha

/-- What an element-wise instruction counts keeps whatever each element's count keeps. -/
theorem Work.eachElem_counts {σ : Type} {P : σ → Prop} {y : σ} {f : σ → Nat → Nat → Nat × σ} (hy : P y)
    (hf : ∀ y p i, P y → P (f y p i).2) (w : Work) (tile bits outBits span dst : Nat) (m : Masking) :
    P (w.eachElem tile bits outBits span dst m y f).2 := by
  unfold Work.eachElem
  refine List.foldlRecOn (motive := fun a : Work × σ => P a.2) _ _ hy fun a ha e _ => ?_
  dsimp only
  split
  · exact hf _ _ _ ha
  · split
    · exact ha
    · exact ha

/-- The elements that an element-wise instruction leaves, where nothing after it changes its destination: each by its code, which
depends on what stood before alone (R245). -/
theorem State.elements_of_eachElem {σ : Type} {s u : State} {w : Work} {tile bits outBits span dst : Nat} {m : Masking} {y : σ}
    {f : σ → Nat → Nat → Nat × σ} {g : Nat → Nat → Nat} (hbits : bits % 8 = 0) (hout : outBits % 8 = 0)
    (hu : ∀ j, u.work.elemAt (vregAt tile dst 0) outBits j
      = (w.eachElem tile bits outBits span dst m y f).1.elemAt (vregAt tile dst 0) outBits j)
    (hcode : ∀ y p i, (f y p i).1 = g p i) (htile : w.tile tile = s.work.tile tile) (hrd : ∀ k, w.rd k = s.work.rd k) :
    s.elements u tile dst bits outBits span m g := by
  obtain ⟨n, rfl⟩ : ∃ n, bits = 8 * n := ⟨bits / 8, by omega⟩
  obtain ⟨ob, rfl⟩ : ∃ ob, outBits = 8 * ob := ⟨outBits / 8, by omega⟩
  intro p i hp hi
  rw [hu, Work.eachElem_elem w tile n span dst m y f g hcode ob p i hp hi, htile, Work.elemAt_congr hrd]

/-- A position of a span is numbered by its register and element alone (R231). -/
theorem elemNo_inj {per a b p i : Nat} (hb : b < per) (hi : i < per) (h : a * per + b = p * per + i) : a = p ∧ b = i := by
  have hmod : b = i := by
    have := congrArg (· % per) h
    simpa [Nat.mul_comm _ per, Nat.mul_add_mod, Nat.mod_eq_of_lt hb, Nat.mod_eq_of_lt hi] using this
  subst hmod
  exact ⟨Nat.eq_of_mul_eq_mul_right (by omega) (Nat.add_right_cancel h), rfl⟩

/-- Elements of formats that are no MX formats are whole bytes (R281). -/
theorem fmtBits_whole {f : Fmt} (h : fmtMx f = false) : fmtBits f % 8 = 0 := by
  cases f <;> simp_all [fmtMx, fmtBits]

/-- The arithmetic formats are no MX formats (R235). -/
theorem fmtMx_arith {f : Fmt} (h : arithFmt f = true) : fmtMx f = false := by
  cases f <;> simp_all [fmtMx, arithFmt]

/-- One format alone has elements of 64 bits (R281). -/
theorem fmtBits_ne_64 {f : Fmt} (h : f ≠ .int64) : fmtBits f ≠ 64 := by
  cases f <;> simp_all [fmtBits]

/-! ### The census -/

/-- A working state with an operation's census added (R293); formats above 0x0A keep none. -/
def Work.censused (w : Work) (c : Nat) (form : OutForm) (tag : TensorTag) (y : Tally) : Work :=
  if fmtInt form.fmt then w
  else
    ((w.wr (w.censusPlace c tag) (w.censusRecord (w.censusPlace c tag) (w.ctx c).step (w.ctx c).attempt (fmtCode form.fmt) tag form.ref y)).count
      Ctr.censusAdds 1).updCtx c fun x => { x with replay := x.replay.map fun r => r.note tag y }

/-- A tensor of the context's census table, or an integer result, passes (R290). -/
theorem Work.vecCensus_done {w : Work} {c : Nat} {form : OutForm} {tag : TensorTag} (y : Tally)
    (h : tag.tensor < (w.ctx c).censusTable.2 ∨ fmtInt form.fmt = true) : w.vecCensus c form tag y = .done (w.censused c form tag y) := by
  unfold Work.vecCensus Work.censusAdd Work.censused
  by_cases hint : fmtInt form.fmt = true
  · simp only [hint, if_true]
  · have hin : ¬ (w.ctx c).censusTable.2 ≤ tag.tensor := by
      rcases h with h | h
      · omega
      · exact absurd h hint
    simp only [if_neg hint, if_neg hin]
    rfl

/-- An integer result has no census (R290). -/
theorem Work.censused_int {form : OutForm} (w : Work) (c : Nat) (tag : TensorTag) (y : Tally) (h : fmtInt form.fmt = true) :
    w.censused c form tag y = w := if_pos h

/-- The census changes no tile. -/
theorem Work.censused_tiles (w : Work) (c : Nat) (form : OutForm) (tag : TensorTag) (y : Tally) :
    (w.censused c form tag y).d.tiles = w.d.tiles := by
  unfold Work.censused
  split <;> rfl

/-- The census is written on memory as it was found. -/
theorem Work.censused_base (w : Work) (c : Nat) (form : OutForm) (tag : TensorTag) (y : Tally) :
    (w.censused c form tag y).base = w.base := by
  unfold Work.censused
  split
  · rfl
  · rw [Work.updCtx_base, Work.count_base, Work.wr_base]

/-- A census and a change of a tile do not meet. -/
theorem Work.censused_updTile (w : Work) (n : Nat) (f : Tile → Tile) (c : Nat) (form : OutForm) (tag : TensorTag) (y : Tally) :
    (w.updTile n f).censused c form tag y = (w.censused c form tag y).updTile n f := by
  have hctx : (w.updTile n f).ctx c = w.ctx c := rfl
  have hplace : (w.updTile n f).censusPlace c tag = w.censusPlace c tag := rfl
  have hrec (a step attempt fmt : Nat) (ref : Int) :
      (w.updTile n f).censusRecord a step attempt fmt tag ref y = w.censusRecord a step attempt fmt tag ref y := rfl
  have hcomm (k : Nat) (bs : List Byte) (g : Ctx → Ctx) : (((w.updTile n f).wr k bs).count Ctr.censusAdds 1).updCtx c g
      = (((w.wr k bs).count Ctr.censusAdds 1).updCtx c g).updTile n f := rfl
  unfold Work.censused
  by_cases hint : fmtInt form.fmt = true
  · rw [if_pos hint, if_pos hint]
  · rw [if_neg hint, if_neg hint, hplace, hctx, hrec, hcomm]

/-- The bytes of equally long pieces. -/
theorem length_flatten_mapIdx {α β : Type} {n : Nat} (l : List α) (f : Nat → α → List β) (h : ∀ i x, (f i x).length = n) :
    (l.mapIdx f).flatten.length = n * l.length := by
  induction l generalizing f with
  | nil => rfl
  | cons x xs ih =>
    rw [List.mapIdx_cons, List.flatten_cons, List.length_append, h, ih _ fun i y => h (i + 1) y, List.length_cons, Nat.mul_succ,
      Nat.add_comm]

/-- A census record of sixteen bins takes 192 bytes (R291). -/
theorem Work.censusRecord_length (w : Work) (a step attempt fmt : Nat) (tag : TensorTag) (ref : Int) {y : Tally}
    (h : y.hist.length = 16) : (w.censusRecord a step attempt fmt tag ref y).length = 192 := by
  unfold Work.censusRecord
  simp only [List.length_append, leBytes_length]
  rw [length_flatten_mapIdx _ _ fun _ _ => leBytes_length .., h]

/-- A census record leaves the keys above its place (R291). -/
theorem Work.censused_rd_above {w : Work} {c : Nat} {tag : TensorTag} {y : Tally} (form : OutForm) {k : Nat}
    (hy : y.hist.length = 16) (hplace : w.censusPlace c tag + 192 ≤ k) : (w.censused c form tag y).rd k = w.rd k := by
  unfold Work.censused
  split
  · rfl
  · have hcount (v : Work) (f : Ctx → Ctx) : ((v.count Ctr.censusAdds 1).updCtx c f).rd k = v.rd k := rfl
    rw [hcount, Work.rd_wr_other _ _ _ _ (Or.inr _)]
    rw [Work.censusRecord_length _ _ _ _ _ _ _ hy]
    exact hplace

/-- An element counted keeps the number of bins (R292). -/
theorem Tally.store_bins (y : Tally) (form : OutForm) (r : Round) (v : Val) : (y.store form r v).2.hist.length = y.hist.length := by
  show (if _ then updAt y.hist _ _ else y.hist).length = _
  split
  · exact updAt_length ..
  · rfl

/-! ### The classes with a census -/

/-- The code of a value stored at element `i` of register `p` (R236, R286, R288). -/
def Work.valueCode (w : Work) (c : Nat) (form : OutForm) (rnd : Rnd) (tag : TensorTag) (bits : Nat) (v : Nat → Nat → Val) (p i : Nat) : Nat :=
  (fmtEncode form.fmt (roundOf rnd (if rnd = .sr then w.rho c tag (p * regElems bits + i) else 0)) ((v p i).scale (-form.scale))).code

/-- Rounding to nearest even draws no random number (R237, R287). -/
theorem Work.valueCode_rne (w : Work) (c : Nat) (form : OutForm) (tag : TensorTag) (bits : Nat) (v : Nat → Nat → Val) :
    w.valueCode c form .rne tag bits v = fun p i => (fmtEncode form.fmt .rne ((v p i).scale (-form.scale))).code := rfl

/-- A value stored and counted, as the element-wise classes do. -/
def Work.valueStep (w : Work) (c : Nat) (form : OutForm) (rnd : Rnd) (tag : TensorTag) (bits : Nat) (v : Nat → Nat → Val)
    (y : Tally) (p i : Nat) : Nat × Tally :=
  (w.valueCode c form rnd tag bits v p i,
    (y.store form (roundOf rnd (if rnd = .sr then w.rho c tag (p * regElems bits + i) else 0)) (v p i)).2)

/-- The elements of an element-wise instruction with a census, written, and what it counts. -/
def Work.valueElems (w : Work) (c : Nat) (t : TileRef) (f : Fmt) (form : OutForm) (rnd : Rnd) (span dst : Nat) (m : Masking)
    (tag : TensorTag) (cycles : Nat) (v : Nat → Nat → Val) : Work × Tally :=
  (w.countPasses t.tile (fmtBits f) span cycles m).eachElem t.tile (fmtBits f) (fmtBits form.fmt) span dst m Tally.empty
    (w.valueStep c form rnd tag (fmtBits f) v)

/-- An element-wise instruction with its operands in range and nothing held writes its elements and adds its census (R258, R290). -/
theorem Work.valueInstr_done {w : Work} {c : Nat} {t : TileRef} {f out : Fmt} {rnd : Rnd} {span dst : Nat} {srcs : List VSrc}
    {m : Masking} {tag : TensorTag} {form : OutForm} (cycles : Nat) (v : Nat → Nat → Val) (hform : w.outForm c out tag = some form)
    (hspan : spanBad span (srcs.flatMap srcReg) m = none) (hdst : pastRegs dst (outSpan (fmtBits f) (fmtBits form.fmt) span) = false)
    (hfree : w.vecHeld t.tile ((dst, outSpan (fmtBits f) (fmtBits form.fmt) span)
      :: (srcs.flatMap srcReg).map fun r => (r, span)) (maskOf m) = false) :
    w.valueInstr c t f out rnd span dst srcs m tag cycles v
      = (w.valueElems c t f form rnd span dst m tag cycles v).1.vecCensus c form tag
          (w.valueElems c t f form rnd span dst m tag cycles v).2 := by
  unfold Work.valueInstr
  simp only [hform, hspan, hdst, hfree, Bool.false_eq_true, if_false]
  rfl

/-- What the elements of an instruction with a census keep: anything that one write and a counter keep. -/
theorem Work.valueElems_keeps {β : Type} (p : Work → β) (hwr : ∀ v k bs, p (Work.wr v k bs) = p v)
    (hcount : ∀ v id n, p (Work.count v id n) = p v) (w : Work) (c : Nat) (t : TileRef) (f : Fmt) (form : OutForm) (rnd : Rnd)
    (span dst : Nat) (m : Masking) (tag : TensorTag) (cycles : Nat) (v : Nat → Nat → Val) :
    p (w.valueElems c t f form rnd span dst m tag cycles v).1 = p w := by
  unfold Work.valueElems
  exact (Work.eachElem_keeps p (fun _ _ _ => hwr ..) ..).trans (Work.countPasses_keeps p hcount ..)

/-- The bins that an element-wise instruction counts in. -/
theorem Work.valueElems_bins (w : Work) (c : Nat) (t : TileRef) (f : Fmt) (form : OutForm) (rnd : Rnd) (span dst : Nat) (m : Masking)
    (tag : TensorTag) (cycles : Nat) (v : Nat → Nat → Val) :
    (w.valueElems c t f form rnd span dst m tag cycles v).2.hist.length = 16 :=
  Work.eachElem_counts (P := fun y : Tally => y.hist.length = 16) rfl (fun y _ _ h => (Tally.store_bins y ..).trans h) ..

/-- A command of the element-wise classes with a census: its elements (R236, R237, R245, R286). -/
theorem exec_valueInstr {i : Instr} {s : State} {t : TileRef} {c : Nat} {F : Nat → Work → Issued} {f out : Fmt} {rnd : Rnd}
    {span dst : Nat} {srcs : List VSrc} {m : Masking} {tag : TensorTag} {form : OutForm} {cycles : Nat} {v : Nat → Nat → Val}
    (he : exec i s = .next (s.exec fun w => w.issueVector t F))
    (hF : F c s.work = s.work.valueInstr c t f out rnd span dst srcs m tag cycles v) (hwf : Memory.wf s.mem = true)
    (h : s.work.takes t c) (hq : (s.work.tile t.tile).vecQueue < 8) (hf : arithFmt f = true)
    (hform : s.work.outForm c out tag = some form) (hwhole : fmtBits form.fmt % 8 = 0) (hcensus : s.work.censusBelow c tag)
    (hspan : spanBad span (srcs.flatMap srcReg) m = none) (hdst : pastRegs dst (outSpan (fmtBits f) (fmtBits form.fmt) span) = false)
    (hfree : s.work.vecHeld t.tile ((dst, outSpan (fmtBits f) (fmtBits form.fmt) span)
      :: (srcs.flatMap srcReg).map fun r => (r, span)) (maskOf m) = false) :
    ∃ u, exec i s = .next u ∧ s.tookUp u t Tile.queued
      ∧ s.elements u t.tile dst (fmtBits f) (fmtBits form.fmt) span m (s.work.valueCode c form rnd tag (fmtBits f) v) := by
  obtain ⟨htensor, hplace⟩ := hcensus
  rw [Work.valueInstr_done cycles v hform hspan hdst hfree] at hF
  have hctx : (s.work.valueElems c t f form rnd span dst m tag cycles v).1.ctx c = s.work.ctx c :=
    Work.valueElems_keeps (fun v => v.ctx c) (fun _ _ _ => rfl) (fun _ _ _ => rfl) ..
  have hbase : (s.work.valueElems c t f form rnd span dst m tag cycles v).1.base = s.mem :=
    Work.valueElems_keeps Work.base (fun _ _ _ => rfl) (fun _ _ _ => rfl) ..
  have hbelow : (s.work.valueElems c t f form rnd span dst m tag cycles v).1.censusPlace c tag + 192 ≤ 2 ^ 56 := by
    rw [Work.censusPlace, hctx]
    exact hplace
  rw [Work.vecCensus_done _ (Or.inl (by rw [hctx]; exact htensor))] at hF
  refine ⟨_, exec_issueVector_done he h hq hF, State.finish_took_tookUp _ h.2.2 ?_, ?_⟩
  · exact (Work.censused_tiles ..).trans (Work.valueElems_keeps (fun v => v.d.tiles) (fun _ _ _ => rfl) (fun _ _ _ => rfl) ..)
  · refine State.elements_of_eachElem (w := s.work.countPasses t.tile (fmtBits f) span cycles m) (y := Tally.empty)
      (f := s.work.valueStep c form rnd tag (fmtBits f) v) (fmtBits_whole (fmtMx_arith hf)) hwhole (fun j => ?_) (fun _ _ _ => rfl)
      (Work.countPasses_keeps (fun v => v.tile t.tile) (fun _ _ _ => rfl) ..)
      fun k => Work.countPasses_keeps (fun v => v.rd k) (fun _ _ _ => rfl) ..
    rw [State.finish_took_elemAt _ _ hwf ((Work.censused_base ..).trans hbase), ← Work.valueElems]
    exact Work.elemAt_congr_above (fun k hk => Work.censused_rd_above form (Work.valueElems_bins ..) (Nat.le_trans hbelow hk))
      (vregAt_ge ..) _ _

/-! ### The classes without a census -/

/-- VECTOR_INTEGER's elements (R238): each by its operands as they stood and the free value drawn. -/
def Work.integerCode (w : Work) (t : TileRef) (op : IOp) (bits : Nat) (x y : VSrc) (p i : Nat) : Nat :=
  intOpFree op bits (w.operand t.tile bits x p i) (w.operand t.tile bits y p i) w.d.freeCtr (p * regElems bits + i)

/-- VECTOR_INTEGER as its elements have been written. -/
def Work.integerElems (w : Work) (t : TileRef) (op : IOp) (bits span dst : Nat) (x y : VSrc) (m : Masking) : Work :=
  ((w.draw.2.countPasses t.tile bits span (passCycles bits m) m).eachElem t.tile bits bits span dst m ()
    fun _ p i => (w.integerCode t op bits x y p i, ())).1

/-- What VECTOR_INTEGER's elements keep: anything that one element of its destination, a counter and a draw keep. -/
theorem Work.integerElems_keeps {β : Type} (p : Work → β) {t : TileRef} {bits dst : Nat}
    (hput : ∀ v i code, p (Work.putElem v (vregAt t.tile dst 0) bits i code) = p v) (hcount : ∀ v id n, p (Work.count v id n) = p v)
    (hdraw : ∀ v, p (Work.draw v).2 = p v) (w : Work) (op : IOp) (span : Nat) (x y : VSrc) (m : Masking) :
    p (w.integerElems t op bits span dst x y m) = p w := by
  unfold Work.integerElems
  exact (Work.eachElem_keeps p hput ..).trans ((Work.countPasses_keeps p hcount ..).trans (hdraw w))

/-- The elements that VECTOR_INTEGER leaves (R238, R245). -/
theorem State.elements_of_integerElems {s u : State} {t : TileRef} {op : IOp} {bits span dst : Nat} {x y : VSrc} {m : Masking}
    (hbits : bits % 8 = 0) (hu : ∀ j, u.work.elemAt (vregAt t.tile dst 0) bits j
      = (s.work.integerElems t op bits span dst x y m).elemAt (vregAt t.tile dst 0) bits j) :
    s.elements u t.tile dst bits bits span m (s.work.integerCode t op bits x y) := by
  unfold Work.integerElems at hu
  exact State.elements_of_eachElem hbits hbits hu (fun _ _ _ => rfl)
    (Work.countPasses_keeps (fun v => v.tile t.tile) (fun _ _ _ => rfl) ..)
    fun k => Work.countPasses_keeps (fun v => v.rd k) (fun _ _ _ => rfl) ..

/-- VECTOR_INTEGER with its operands in range and nothing held (R238, R258). -/
theorem exec_vectorInteger {t : TileRef} {op : IOp} {f : Fmt} {span dst c : Nat} {x y : VSrc} {m : Masking} {s : State}
    (h : s.work.takes t c) (hq : (s.work.tile t.tile).vecQueue < 8) (hf : f = .int8 ∨ f = .int16 ∨ f = .int32)
    (hspan : spanBad span (dst :: srcReg x ++ srcReg y) m = none)
    (hfree : s.work.vecHeld t.tile ((dst :: srcReg x ++ srcReg y).map fun r => (r, span)) (maskOf m) = false) :
    exec (.vectorInteger t op f span dst x y m) s
      = .next (s.finish ((s.work.integerElems t op (fmtBits f) span dst x y m).took t Tile.queued)) := by
  have hbad : ¬ (!fmtInt f || f == .int64) = true := by rcases hf with rfl | rfl | rfl <;> decide
  refine exec_issueVector_done rfl h hq ?_
  dsimp only
  rw [hspan]
  dsimp only
  rw [if_neg hbad, if_neg (ne_true_of_eq_false hfree)]
  rfl

/-- VECTOR_SELECT's elements (R235): each from its first source where the mask's bit is 1, else from its second. -/
def Work.selectElems (w : Work) (t : TileRef) (bits span dst : Nat) (x y : VSrc) (m : Masking) : Work :=
  (w.putEach (vregAt t.tile dst 0) bits (fun e : Nat × Nat => e.1 * regElems bits + e.2)
    (fun e => some (w.operand t.tile bits (if (w.tile t.tile).selects bits m e.2 then x else y) e.1 e.2))
    (positions span (coverage bits m))).countPasses t.tile bits span (passCycles bits m) m

/-- An operand's element is of its width. -/
theorem Work.operand_lt (w : Work) (tile bits : Nat) (x : VSrc) (p i : Nat) : w.operand tile bits x p i < 2 ^ bits := by
  cases x with
  | v r => exact Nat.mod_lt _ (Nat.two_pow_pos bits)
  | g r => exact Nat.mod_lt _ (Nat.two_pow_pos bits)

/-- What VECTOR_SELECT's elements keep: anything that one write and a counter keep. -/
theorem Work.selectElems_keeps {β : Type} (p : Work → β) (hwr : ∀ v k bs, p (Work.wr v k bs) = p v)
    (hcount : ∀ v id n, p (Work.count v id n) = p v) (w : Work) (t : TileRef) (bits span dst : Nat) (x y : VSrc) (m : Masking) :
    p (w.selectElems t bits span dst x y m) = p w := by
  unfold Work.selectElems
  exact (Work.countPasses_keeps p hcount ..).trans (Work.putEach_keeps p hwr ..)

/-- An element that VECTOR_SELECT wrote (R235). -/
theorem Work.selectElems_elem (w : Work) (t : TileRef) {bits span : Nat} (dst : Nat) (x y : VSrc) {m : Masking} {p i : Nat}
    (hbits : bits % 8 = 0) (hp : p < span) (hi : i < coverage bits m) :
    (w.selectElems t bits span dst x y m).elemAt (vregAt t.tile dst 0) bits (p * regElems bits + i)
      = w.operand t.tile bits (if (w.tile t.tile).selects bits m i then x else y) p i := by
  obtain ⟨n, rfl⟩ : ∃ n, bits = 8 * n := ⟨bits / 8, by omega⟩
  have hper := coverage_le (8 * n) m
  unfold Work.selectElems
  refine (Work.countPasses_keeps (fun v => v.elemAt _ _ _) (fun _ _ _ => rfl) ..).trans
    ((Work.putEach_same _ n _ _ (p, i) _ rfl _ w ((mem_positions ..).mpr ⟨hp, hi⟩) ?_).trans (Nat.mod_eq_of_lt (Work.operand_lt ..)))
  rintro ⟨a, b⟩ hk e
  obtain ⟨rfl, rfl⟩ := elemNo_inj (Nat.lt_of_lt_of_le ((mem_positions ..).mp hk).2 hper) (Nat.lt_of_lt_of_le hi hper) e
  rfl

/-- VECTOR_SELECT with its operands in range and nothing held (R235, R258). -/
theorem exec_vectorSelect {t : TileRef} {f : Fmt} {span dst c k : Nat} {x y : VSrc} {g : Granule} {s : State}
    (h : s.work.takes t c) (hq : (s.work.tile t.tile).vecQueue < 8) (hmx : fmtMx f = false) (h64 : f ≠ .int64)
    (hspan : spanBad span (dst :: srcReg x ++ srcReg y) { mask := some k, granule := g, zero := false } = none)
    (hfree : s.work.vecHeld t.tile ((dst :: srcReg x ++ srcReg y).map fun r => (r, span)) [k] = false) :
    exec (.vectorSelect t f span dst x y k g) s
      = .next (s.finish ((s.work.selectElems t (fmtBits f) span dst x y { mask := some k, granule := g, zero := false }).took t
          Tile.queued)) := by
  have hbad : ¬ (fmtMx f || f == .int64) = true := by simp [hmx, h64]
  refine exec_issueVector_done rfl h hq ?_
  dsimp only
  rw [hspan]
  dsimp only
  rw [if_neg hbad, if_neg (ne_true_of_eq_false hfree)]
  rfl

/-- Settles O29: the classes with a census by what each element stores and by the record that stands below the registers, the others by
the elements that they write. That every source element is read as it stood, that a shift by the width or more leaves a free value, and
that the transcendentals are fixed functions are the model's choices (log 76, log 79, log 18). -/
theorem vectorElementsComplete : Obligations.VectorElementsComplete := by
  unfold Obligations.VectorElementsComplete
  refine ⟨?_, ?_, ?_, ?_⟩
  · intro t op f rnd span dst c x y z m tag form s hwf h hq hf hrnd hform _ hwhole hcensus hspan hdst hfree
    have hbad : ¬ (!arithFmt f || rnd == .rtz) = true := by simp [hf, hrnd]
    exact exec_valueInstr rfl (if_neg hbad) hwf h hq hf hform hwhole hcensus hspan hdst hfree
  · intro t op f span dst c x m tag form s hwf h hq hf hform _ hwhole hcensus hspan hdst hfree
    have hbad : ¬ (!arithFmt f) = true := by simp [hf]
    have hsrc : [x].flatMap srcReg = srcReg x := List.flatMap_singleton ..
    rw [← hsrc] at hspan hfree
    obtain ⟨u, hu, htook, helems⟩ := exec_valueInstr (i := .vectorTranscendental t op f span dst x m tag) rfl (if_neg hbad) hwf h hq hf
      hform hwhole hcensus hspan hdst hfree
    rw [Work.valueCode_rne] at helems
    exact ⟨u, hu, htook, helems⟩
  · intro t op f span dst c x y m s hwf h hq hf hspan hfree
    have hmx : fmtMx f = false := by rcases hf with rfl | rfl | rfl <;> rfl
    have hbase : (s.work.integerElems t op (fmtBits f) span dst x y m).base = s.mem :=
      Work.integerElems_keeps Work.base (fun _ _ _ => rfl) (fun _ _ _ => rfl) (fun _ => rfl) ..
    refine ⟨_, exec_vectorInteger h hq hf hspan hfree, State.finish_took_tookUp _ h.2.2 ?_, ?_, fun k hk => ?_, ?_⟩
    · exact Work.integerElems_keeps (fun v => v.d.tiles) (fun _ _ _ => rfl) (fun _ _ _ => rfl) (fun _ => rfl) ..
    · exact (State.finish_took_ctxs ..).trans <| Work.integerElems_keeps (fun v => v.d.ctxs) (fun _ _ _ => rfl) (fun _ _ _ => rfl) (fun _ => rfl) ..
    · exact (State.finish_took_rd t _ hwf hbase k).trans (Work.integerElems_keeps (fun v => v.rd k)
        (fun v i code => Work.rd_putElem_below v _ i code (Nat.lt_of_lt_of_le hk (vregAt_ge ..))) (fun _ _ _ => rfl)
        (fun _ => rfl) ..)
    · exact State.elements_of_integerElems (fmtBits_whole hmx) fun j => State.finish_took_elemAt _ _ hwf hbase _ _ _
  · intro t f span dst c k x y g s hwf h hq hmx h64 hspan hfree
    refine ⟨_, exec_vectorSelect h hq hmx h64 hspan hfree, State.finish_took_tookUp _ h.2.2 ?_, ?_, fun p i hp hi => ?_⟩
    · exact Work.selectElems_keeps (fun v => v.d.tiles) (fun _ _ _ => rfl) (fun _ _ _ => rfl) ..
    · exact (State.finish_took_ctxs ..).trans <| Work.selectElems_keeps (fun v => v.d.ctxs) (fun _ _ _ => rfl) (fun _ _ _ => rfl) ..
    · exact (State.finish_took_elemAt _ _ hwf (Work.selectElems_keeps Work.base (fun _ _ _ => rfl) (fun _ _ _ => rfl) ..) _ _ _).trans
        (Work.selectElems_elem s.work t dst x y (fmtBits_whole hmx) hp hi)

end Sys2Proof.Machine
end

section
/-!
PROOFS. Moving data (R243): rows and indexed elements between a vector register and the tile store, and the elements that a shuffle,
a broadcast or a transpose takes.
-/

namespace Sys2Proof.Machine

/-- A counter changes no element. -/
theorem Work.count_elemAt (w : Work) (id n key bits i : Nat) : (w.count id n).elemAt key bits i = w.elemAt key bits i := rfl

/-! ### One row -/

/-- Bytes that no register passes take one register (R230). -/
theorem ceilDiv_one {n k : Nat} (h0 : 0 < n) (hk : n ≤ k) : ceilDiv n k = 1 := by
  unfold ceilDiv
  exact Nat.div_eq_of_lt_le (by omega) (by omega)

/-- A register of the file, and it alone, is within it. -/
theorem pastRegs_one {v : Nat} (h : v < 32) : pastRegs v 1 = false := by
  unfold pastRegs
  exact decide_eq_false (by omega)

/-- One row moved (R243). -/
def Work.moveRow (w : Work) (tile : Nat) (p : VLsParams) (base : Nat) : Work :=
  if p.store then w.wr (tileStoreAddr tile base) (w.rdN (vregAt tile p.reg 0) p.rowBytes)
  else w.wr (vregAt tile p.reg 0) (w.rdN (tileStoreAddr tile base) p.rowBytes)

/-- A VLOAD or VSTORE of one row with the tile store, with its operands in range and nothing held, moves the row (R243). -/
theorem Work.moveVector_row {w : Work} {t : TileRef} {p : VLsParams} {base stride : Nat} (hplace : p.place = .store base stride)
    (hrows : p.rows = 1) (hpos : 0 < p.rowBytes) (hfit : p.rowBytes ≤ vregSize) (hreg : p.reg < 32) (hstride : stride % 16 = 0)
    (hfault : storeFault base p.rowBytes = none) (hpoison : p.store = false → w.vecPoison t.tile base p.rowBytes = none)
    (hfree : w.heldByArray t.tile { Foot.none with regs := [(p.reg, 1)], store := [(base, p.rowBytes)] } = false) :
    w.moveVector t p = .done ((w.moveRow t.tile p base).count Ctr.vectorLsBytes p.rowBytes) := by
  have hone : ceilDiv p.rowBytes vregSize = 1 := ceilDiv_one hpos hfit
  have hsome : ¬ (p.rows = 0 ∨ p.rowBytes = 0 ∨ vregSize < p.rowBytes) := by omega
  have hread : (if p.store then none else w.vecPoison t.tile base p.rowBytes) = none := by
    split
    · rfl
    · exact hpoison (by simpa using ‹¬ p.store = true›)
  unfold Work.moveVector
  rw [if_neg hsome, hrows, Nat.one_mul, hone, if_neg (ne_true_of_eq_false (pastRegs_one hreg)), hplace]
  dsimp only
  rw [if_neg (by omega)]
  unfold Work.moveStore
  simp only [hrows, Nat.sub_self, Nat.zero_mul, Nat.zero_add, Nat.one_mul, hone, hfault, hread, hfree, Bool.false_eq_true, if_false]
  rw [Work.moveRows, hrows, List.range_one, List.foldl_cons, List.foldl_nil, Nat.zero_mul, Nat.zero_mul, Nat.add_zero]
  rfl

/-- What a row moved stores (R243). -/
theorem State.finish_moveRow {s : State} (t : TileRef) (p : VLsParams) (base : Nat) (hwf : Memory.wf s.mem = true) :
    if p.store then s.stores (s.finish (((s.work.moveRow t.tile p base).count Ctr.vectorLsBytes p.rowBytes).took t Tile.queued))
        (tileStoreAddr t.tile base) (s.work.rdN (vregAt t.tile p.reg 0) p.rowBytes)
      else s.stores (s.finish (((s.work.moveRow t.tile p base).count Ctr.vectorLsBytes p.rowBytes).took t Tile.queued))
        (vregAt t.tile p.reg 0) (s.work.rdN (tileStoreAddr t.tile base) p.rowBytes) := by
  unfold Work.moveRow
  by_cases hstore : p.store = true
  · simp only [if_pos hstore]
    exact State.finish_took_stores t _ hwf rfl rfl rfl
  · simp only [if_neg hstore]
    exact State.finish_took_stores t _ hwf rfl rfl rfl

/-- A row moved changes nothing of the device. -/
theorem Work.moveRow_d (w : Work) (tile : Nat) (p : VLsParams) (base : Nat) : (w.moveRow tile p base).d = w.d := by
  unfold Work.moveRow
  split <;> rfl

/-! ### One element by its index -/

/-- Bytes stored on keys that no byte was stored on before are all stored (R243). -/
theorem Work.putLoose_fresh (draw : Nat) (bs : List Byte) (key : Nat) (w : Work)
    (hfresh : ∀ k, key ≤ k → Memory.find w.log k = none) : w.putLoose draw key bs = w.wr key bs := by
  unfold Work.putLoose
  induction bs generalizing key w with
  | nil => rfl
  | cons b bs ih =>
    have hstep : (if (Memory.find w.log key).isSome && (Config.freeByte draw key).getLsbD 0 then w else w.wr key [b]) = w.wr key [b] := by
      rw [hfresh key (Nat.le_refl key)]
      rfl
    have hrest := ih (key + 1) (w.wr key [b]) fun k hk => by
      rw [Work.wr_log, Memory.find_journal_other _ _ _ _ (Or.inr (by simpa using hk)), hfresh k (by omega)]
    rw [List.mapIdx_cons, List.foldl_cons]
    simp only [Nat.add_zero, hstep]
    refine Eq.trans ?_ hrest
    simp only [Nat.add_right_comm key 1, Nat.add_assoc]

/-- An element of `n` bytes moved between the first element of a register and an offset of the tile store (R243). -/
def Work.moveElem (w : Work) (tile : Nat) (p : VGsParams) (off n : Nat) : Work :=
  if p.scatter then w.wr (tileStoreAddr tile off) (w.rdN (vregAt tile p.reg 0) n)
  else w.wr (vregAt tile p.reg 0) (w.rdN (tileStoreAddr tile off) n)

/-- The bytes of an element that VGATHER or VSCATTER moves (R243). -/
def gatherBytes (p : VGsParams) : Nat := if p.wide then 4 else 2

/-- VGATHER or VSCATTER of one element, with its operands in range and nothing held, moves it and draws a free value (R243). -/
theorem Work.moveIndexed_elem {w : Work} {t : TileRef} {p : VGsParams} {off : Nat} (hlog : w.log = []) (hcount : p.count = 1)
    (hreg : p.reg < 32) (hindex : p.indexReg < 32) (hoff : off = p.base + w.elemAt (vregAt t.tile p.indexReg 0) 32 0)
    (hfault : storeFault off (gatherBytes p) = none) (hpoison : p.scatter = false → w.vecPoison t.tile off (gatherBytes p) = none)
    (hfree : w.heldByArray t.tile
      { Foot.none with regs := [(p.reg, 1), (p.indexReg, 1)], store := [(off, gatherBytes p)] } = false) :
    w.moveIndexed t p = .done ((w.draw.2.moveElem t.tile p off (gatherBytes p)).count Ctr.vectorLsBytes (gatherBytes p)) := by
  have hbytes : (if p.wide then 32 else 16) / 8 = gatherBytes p := by unfold gatherBytes; split <;> rfl
  have hone : ceilDiv (if p.wide then 32 else 16) (8 * vregSize) = 1 := by split <;> rfl
  have hidx : ceilDiv 1 4096 = 1 := rfl
  have hread : (if p.scatter then none else [off].findSome? fun o => w.vecPoison t.tile o (gatherBytes p)) = none := by
    split
    · rfl
    · rw [List.findSome?_cons, hpoison (by simpa using ‹¬ p.scatter = true›)]
      rfl
  have hstore : ([off].findSome? fun o => storeFault o (gatherBytes p)) = none := by
    rw [List.findSome?_cons, hfault]
    rfl
  have hnone : w.draw.2.log = [] := hlog
  have hdraw : ({ w.draw.2 with log := [] } : Work) = w.draw.2 := by
    rw [← hnone]
  have hput (key : Nat) (bs : List Byte) : w.draw.2.putLoose w.draw.1 key bs = w.draw.2.wr key bs :=
    Work.putLoose_fresh _ _ _ _ fun k _ => by rw [hnone]; rfl
  unfold Work.moveIndexed Work.moveElem
  simp only [hcount, List.range_one, List.map_cons, List.map_nil, ← hoff, Nat.one_mul, hone, hidx, hbytes,
    pastRegs_one hreg, pastRegs_one hindex, hstore, hread, hfree, Bool.false_eq_true, if_false]
  simp only [List.mapIdx_cons, List.mapIdx_nil, List.foldl_cons, List.foldl_nil, hdraw, hput, hnone, Nat.mul_zero, List.append_nil]

/-- An element moved changes nothing of the device. -/
theorem Work.moveElem_d (w : Work) (tile : Nat) (p : VGsParams) (off n : Nat) : (w.moveElem tile p off n).d = w.d := by
  unfold Work.moveElem
  split <;> rfl

/-- What an element moved stores (R243). -/
theorem State.finish_moveElem {s : State} (t : TileRef) (p : VGsParams) (off n : Nat) (hwf : Memory.wf s.mem = true) :
    if p.scatter then s.stores (s.finish (((s.work.draw.2.moveElem t.tile p off n).count Ctr.vectorLsBytes n).took t Tile.queued))
        (tileStoreAddr t.tile off) (s.work.rdN (vregAt t.tile p.reg 0) n)
      else s.stores (s.finish (((s.work.draw.2.moveElem t.tile p off n).count Ctr.vectorLsBytes n).took t Tile.queued))
        (vregAt t.tile p.reg 0) (s.work.rdN (tileStoreAddr t.tile off) n) := by
  unfold Work.moveElem
  by_cases hscatter : p.scatter = true
  · simp only [if_pos hscatter]
    exact State.finish_took_stores t _ hwf rfl rfl rfl
  · simp only [if_neg hscatter]
    exact State.finish_took_stores t _ hwf rfl rfl rfl

/-! ### Shuffle, broadcast and transpose -/

/-- The registers of indices that a shuffle reads (R243). -/
def shuffleIndex (op : ShuffleOp) (bits span : Nat) : List (Nat × Nat) :=
  match op with
  | .shuffle x => [(x, ceilDiv (span * regElems bits) 4096)]
  | _ => []

/-- The code that a shuffle, broadcast or transpose puts into an element (R243). -/
def Work.shuffleCode (w : Work) (tile : Nat) (op : ShuffleOp) (bits span src p i : Nat) : Nat :=
  if span * regElems bits ≤ w.shuffleFrom tile bits op p i then 0 else w.elemAt (vregAt tile src 0) bits (w.shuffleFrom tile bits op p i)

/-- The elements of a shuffle, broadcast or transpose, written, and how many lie beyond the span (R243). -/
def Work.shuffleElems (w : Work) (t : TileRef) (op : ShuffleOp) (bits span dst src : Nat) (m : Masking) : Work × Nat :=
  (w.countPasses t.tile bits span (shuffleCycles op) m).eachElem t.tile bits bits span dst m 0 fun n p i =>
    if span * regElems bits ≤ w.shuffleFrom t.tile bits op p i then (0, n + 1)
    else (w.elemAt (vregAt t.tile src 0) bits (w.shuffleFrom t.tile bits op p i), n)

/-- A shuffle, broadcast or transpose with its operands in range and nothing held (R243, R258). -/
theorem Work.shuffleInstr_done {w : Work} {t : TileRef} {op : ShuffleOp} {f : Fmt} {span dst src : Nat} {m : Masking}
    (hmx : fmtMx f = false) (h64 : f ≠ .int64) (hspan : spanBad span [dst, src] m = none)
    (hindex : ∀ x, x ∈ shuffleIndex op (fmtBits f) span → pastRegs x.1 x.2 = false)
    (hfree : w.vecHeld t.tile ((dst, span) :: (src, span) :: shuffleIndex op (fmtBits f) span) (maskOf m) = false) :
    w.shuffleInstr t op f span dst src m = .done ((w.shuffleElems t op (fmtBits f) span dst src m).1.count Ctr.dropIndexRange
      (w.shuffleElems t op (fmtBits f) span dst src m).2) := by
  have hfind : ((shuffleIndex op (fmtBits f) span).find? fun x => pastRegs x.1 x.2) = none :=
    List.find?_eq_none.mpr fun x hx => ne_true_of_eq_false (hindex x hx)
  have hbad : ¬ (fmtMx f = true ∨ fmtBits f = 64) := by simp [hmx, fmtBits_ne_64 h64]
  unfold shuffleIndex at hfind hfree
  unfold Work.shuffleInstr
  cases op <;>
    (simp only [hspan, hfind, hfree, if_neg hbad, Bool.false_eq_true, if_false]
     rfl)

/-- What a shuffle, broadcast or transpose keeps: anything that one write and a counter keep. -/
theorem Work.shuffleElems_keeps {β : Type} (p : Work → β) (hwr : ∀ v k bs, p (Work.wr v k bs) = p v)
    (hcount : ∀ v id n, p (Work.count v id n) = p v) (w : Work) (t : TileRef) (op : ShuffleOp) (bits span dst src : Nat) (m : Masking) :
    p (w.shuffleElems t op bits span dst src m).1 = p w := by
  unfold Work.shuffleElems
  exact (Work.eachElem_keeps p (fun _ _ _ => hwr ..) ..).trans (Work.countPasses_keeps p hcount ..)

/-- The elements that a shuffle, broadcast or transpose leaves (R243, R245). -/
theorem State.elements_of_shuffleElems {s u : State} {t : TileRef} {op : ShuffleOp} {bits span dst src : Nat} {m : Masking}
    (hbits : bits % 8 = 0) (hu : ∀ j, u.work.elemAt (vregAt t.tile dst 0) bits j
      = (s.work.shuffleElems t op bits span dst src m).1.elemAt (vregAt t.tile dst 0) bits j) :
    s.elements u t.tile dst bits bits span m (s.work.shuffleCode t.tile op bits span src) := by
  unfold Work.shuffleElems at hu
  refine State.elements_of_eachElem hbits hbits hu (fun n p i => ?_)
    (Work.countPasses_keeps (fun v => v.tile t.tile) (fun _ _ _ => rfl) ..)
    fun k => Work.countPasses_keeps (fun v => v.rd k) (fun _ _ _ => rfl) ..
  unfold Work.shuffleCode
  split <;> rfl

/-- Settles O32: a row and an indexed element by the one store that moving them comes to, the others by the elements that they write.
That every source element is read as it stood, and that bytes scattered twice are free, are the model's choices (log 76, log 78). -/
theorem vectorMovesComplete : Obligations.VectorMovesComplete := by
  unfold Obligations.VectorMovesComplete
  refine ⟨?_, ?_, ?_⟩
  · intro t p base stride c s hwf h hq hplace hrows hpos hfit hreg hstride hfault hpoison hfree
    have hdone := Work.moveVector_row hplace hrows hpos hfit hreg hstride hfault hpoison hfree
    have hd := Work.moveRow_d s.work t.tile p base
    refine ⟨_, exec_issueVector_done rfl h hq hdone, State.finish_took_tookUp _ h.2.2 ?_, (State.finish_took_ctxs ..).trans ?_,
      State.finish_moveRow t p base hwf⟩
    · rw [Work.count_d, hd]
      rfl
    · rw [Work.count_d, hd]
      rfl
  · intro t p off n c s hwf h hq hcount hreg hindex hn hoff hfault hpoison hfree
    have hbytes : n = gatherBytes p := hn
    subst hbytes
    have hdone := Work.moveIndexed_elem (w := s.work) rfl hcount hreg hindex hoff hfault hpoison hfree
    have hd := Work.moveElem_d s.work.draw.2 t.tile p off (gatherBytes p)
    refine ⟨_, exec_issueVector_done rfl h hq hdone, State.finish_took_tookUp _ h.2.2 ?_, (State.finish_took_ctxs ..).trans ?_,
      State.finish_moveElem t p off (gatherBytes p) hwf⟩
    · rw [Work.count_d, hd]
      rfl
    · rw [Work.count_d, hd]
      rfl
  · intro t op f span dst src c m index s hwf h hq hmx h64 hindex hspan hin hfree
    have hlist : index = shuffleIndex op (fmtBits f) span := hindex.trans (by cases op <;> rfl)
    subst hlist
    have hkeeps {β : Type} (p : Work → β) (hwr : ∀ v k bs, p (Work.wr v k bs) = p v)
        (hcount : ∀ v id n, p (Work.count v id n) = p v) : p (s.work.shuffleElems t op (fmtBits f) span dst src m).1 = p s.work :=
      Work.shuffleElems_keeps p hwr hcount ..
    refine ⟨_, exec_issueVector_done rfl h hq (Work.shuffleInstr_done hmx h64 hspan hin hfree), State.finish_took_tookUp _ h.2.2 ?_,
      (State.finish_took_ctxs ..).trans ?_, State.elements_of_shuffleElems (fmtBits_whole hmx) fun j => ?_⟩
    · exact hkeeps (fun v => v.d.tiles) (fun _ _ _ => rfl) fun _ _ _ => rfl
    · exact hkeeps (fun v => v.d.ctxs) (fun _ _ _ => rfl) fun _ _ _ => rfl
    · refine (State.finish_took_elemAt _ _ hwf ?_ _ _ _).trans (Work.count_elemAt ..)
      exact (Work.count_base ..).trans (hkeeps Work.base (fun _ _ _ => rfl) fun _ _ _ => rfl)

end Sys2Proof.Machine
end

section
/-!
PROOFS. Conversions to an integer (R235, R238, R286), reductions of a whole span and SUMX (R239 to R241), and UPDATE_REM of a half
(R242, R308, R309).
-/

namespace Sys2Proof.Machine

/-! ### Conversions -/

/-- The elements of a conversion that names no MX format, written, with the census and the count of R238. -/
def Work.convertElems (w : Work) (c : Nat) (t : TileRef) (p : ConvParams) (form : OutForm) (m : Masking) (tag : TensorTag)
    (v : Nat → Nat → Val) : Work × Tally × Nat :=
  (w.countPasses t.tile (fmtBits p.src) p.span (passCycles (fmtBits p.src) m) m).convertPlain c t p form m tag v

/-- A conversion to an integer with its operands in range and nothing held writes its elements, without a census (R235, R290). -/
theorem Work.convert_done {w : Work} {c : Nat} {t : TileRef} {p : ConvParams} {m : Masking} {tag : TensorTag} {form : OutForm} {g : Int}
    (hform : w.outForm c p.dst tag = some form) (hscale : w.readScale c p.srcLayer = some g) (hint : fmtInt form.fmt = true)
    (hmx : fmtMx form.fmt = false) (hbad : convBad p form.fmt m = none)
    (hfree : w.vecHeld t.tile ((p.dstReg, outSpan (fmtBits p.src) (fmtBits form.fmt) p.span) :: (p.srcReg, p.span)
      :: (if fmtMx p.src then [(p.scaleReg, 1)] else [])) (maskOf m) = false) :
    w.convert c t p m tag = .done ((w.convertElems c t p form m tag (w.convRead t p g)).1.count Ctr.vectorSaturated
      (w.convertElems c t p form m tag (w.convRead t p g)).2.2) := by
  have hcensus (v : Work) (y : Tally) : v.vecCensus c form tag y = .done v := by
    rw [Work.vecCensus_done y (Or.inr hint), Work.censused_int v c tag y hint]
  unfold Work.convert
  simp only [hform, hscale, hbad, hmx, Bool.or_false, hfree, Bool.false_eq_true, if_false, hcensus]
  rfl

/-- What a conversion's elements keep: anything that one write and a counter keep. -/
theorem Work.convertElems_keeps {β : Type} (q : Work → β) (hwr : ∀ v k bs, q (Work.wr v k bs) = q v)
    (hcount : ∀ v id n, q (Work.count v id n) = q v) (w : Work) (c : Nat) (t : TileRef) (p : ConvParams) (form : OutForm) (m : Masking)
    (tag : TensorTag) (v : Nat → Nat → Val) : q (w.convertElems c t p form m tag v).1 = q w := by
  unfold Work.convertElems Work.convertPlain
  exact (Work.eachElem_keeps q (fun _ _ _ => hwr ..) ..).trans (Work.countPasses_keeps q hcount ..)

/-- The elements that a conversion leaves (R235, R245, R286). -/
theorem State.elements_of_convertElems {s u : State} {c : Nat} {t : TileRef} {p : ConvParams} {form : OutForm} {m : Masking}
    {tag : TensorTag} {v : Nat → Nat → Val} (hbits : fmtBits p.src % 8 = 0) (hout : fmtBits form.fmt % 8 = 0)
    (hu : ∀ j, u.work.elemAt (vregAt t.tile p.dstReg 0) (fmtBits form.fmt) j
      = (s.work.convertElems c t p form m tag v).1.elemAt (vregAt t.tile p.dstReg 0) (fmtBits form.fmt) j) :
    s.elements u t.tile p.dstReg (fmtBits p.src) (fmtBits form.fmt) p.span m (s.work.valueCode c form p.rnd tag (fmtBits p.src) v) := by
  have hrho (j : Nat) : (s.work.countPasses t.tile (fmtBits p.src) p.span (passCycles (fmtBits p.src) m) m).rho c tag j = s.work.rho c tag j :=
    Work.countPasses_keeps (fun v => v.rho c tag j) (fun _ _ _ => rfl) ..
  unfold Work.convertElems Work.convertPlain at hu
  refine State.elements_of_eachElem hbits hout hu (fun y q i => ?_)
    (Work.countPasses_keeps (fun v => v.tile t.tile) (fun _ _ _ => rfl) ..)
    fun k => Work.countPasses_keeps (fun v => v.rd k) (fun _ _ _ => rfl) ..
  simp only [hrho]
  rfl

/-! ### Results in a general register -/

/-- A counter changes no context. -/
theorem Work.count_ctx (w : Work) (id n c : Nat) : (w.count id n).ctx c = w.ctx c := rfl

/-- A counter changes no tile. -/
theorem Work.count_tiles (w : Work) (id n : Nat) : (w.count id n).d.tiles = w.d.tiles := rfl

/-- What a reduction puts into a general register: the code of its first result (R239, R240). -/
def resultWord (form : OutForm) (vs : List Val) : W64 := BitVec.ofNat 64 ((Tally.storeAll form .rne (fun _ => 0) vs).1.headD 0)

/-- A result put into a general register, with its census (R239, R290). -/
theorem Work.putResults_g {w : Work} {c : Nat} {form : OutForm} {tag : TensorTag} (tile r : Nat) (vs : List Val)
    (h : tag.tensor < (w.ctx c).censusTable.2 ∨ fmtInt form.fmt = true) :
    w.putResults c tile form tag (.g r) vs
      = .done ((w.censused c form tag (Tally.storeAll form .rne (fun _ => 0) vs).2).updTile tile fun k => k.setG r (resultWord form vs)) := by
  have hin (f : Tile → Tile) : tag.tensor < ((w.updTile tile f).ctx c).censusTable.2 ∨ fmtInt form.fmt = true := h
  unfold Work.putResults
  dsimp only
  rw [Work.vecCensus_done _ (hin _), Work.censused_updTile]
  rfl

/-- A command of the vector engine whose one result goes to a general register, its tile changed by `g` first. -/
theorem exec_putResults_g {i : Instr} {s : State} {t : TileRef} {c r : Nat} {F : Nat → Work → Issued} {w : Work} {g : Tile → Tile}
    {form : OutForm} {tag : TensorTag} {vs : List Val} (he : exec i s = .next (s.exec fun w => w.issueVector t F))
    (hF : F c s.work = (w.updTile t.tile g).putResults c t.tile form tag (.g r) vs) (h : s.work.takes t c)
    (hq : (s.work.tile t.tile).vecQueue < 8) (hctx : w.ctx c = s.work.ctx c) (htiles : w.d.tiles = s.dev.tiles)
    (hin : tag.tensor < (s.work.ctx c).censusTable.2 ∨ fmtInt form.fmt = true) :
    ∃ u, exec i s = .next u ∧ s.tookUp u t fun k => ((g k).setG r (resultWord form vs)).queued := by
  have hin' : tag.tensor < ((w.updTile t.tile g).ctx c).censusTable.2 ∨ fmtInt form.fmt = true := by
    rw [← hctx] at hin
    exact hin
  rw [Work.putResults_g _ _ _ hin', Work.censused_updTile, Work.updTile_updTile] at hF
  exact ⟨_, exec_issueVector_took he h hq hF,
    State.finish_took_tookUp (fun k => ((g k).setG r (resultWord form vs)).queued) h.2.2 ((Work.censused_tiles ..).trans htiles)⟩

/-- A reduction of the whole span to a general register is no fault of its group (R239). -/
theorem reduceBad_whole {r : Nat} (bits : Nat) (h : r < 32) : reduceBad bits .whole (.g r) = false := by
  simp [reduceBad, h]

/-- SUM, MAX and MIN of the whole span with operands in range and nothing held (R239, R240). -/
theorem Work.reduction_values {w : Work} {c : Nat} {t : TileRef} {op : ROp} {f : Fmt} {r src span : Nat} {m : Masking} {tag : TensorTag}
    {form : OutForm} (hop : op = .sum ∨ op = .max ∨ op = .min) (hf : arithFmt f = true)
    (hform : w.outForm c (if op = .sum then .fp32 else f) tag = some form) (hspan : spanBad span [src] m = none) (hr : r < 32)
    (hfree : w.vecHeld t.tile [(src, span)] (maskOf m) = false) :
    w.reduction c t op f .whole (.g r) src span m tag
      = (w.countPasses t.tile (fmtBits f) span 8 m).putResults c t.tile form tag (.g r) (w.reduce t.tile op f .whole src span m) := by
  have hcount : op ≠ .count := by rcases hop with rfl | rfl | rfl <;> decide
  have hno : (op == .count) = false := beq_eq_false_iff_ne.mpr hcount
  have hbad : (reduceBad (fmtBits f) .whole (.g r) || (op != .count && !arithFmt f) || (op == .count && m.mask.isNone)) = false := by
    rw [reduceBad_whole _ hr, hf, hno]
    simp
  have hregs : dstRegs (.g r) ++ [(src, span)] = [(src, span)] := rfl
  unfold Work.reduction
  rcases hop with rfl | rfl | rfl
  all_goals
    simp only [reduceCtorEq, if_true, if_false] at hform
    simp only [hform, hspan, reduceCtorEq, if_false, hbad, hregs, hfree, Bool.false_eq_true]

/-- COUNT of a whole mask with operands in range and nothing held (R239, R240). -/
theorem Work.reduction_count {w : Work} {c : Nat} {t : TileRef} (f : Fmt) {r span k : Nat} (src : Nat) {m : Masking} {tag : TensorTag}
    {form : OutForm} (hform : w.outForm c .int32 tag = some form) (hmask : m.mask = some k) (hspan : spanBad span [] m = none)
    (hr : r < 32) (hfree : w.vecHeld t.tile [] [k] = false) :
    w.reduction c t .count f .whole (.g r) src span m tag
      = (w.count Ctr.vectorBusyCycles 8).putResults c t.tile form tag (.g r)
          ((maskCounts .whole ((w.tile t.tile).mask k)).map fun (n : Nat) => Val.ofInt (n : Int) 0) := by
  have hbad : (reduceBad 32 .whole (.g r) || (ROp.count != .count && !arithFmt f) || (ROp.count == .count && (some k).isNone)) = false := by
    rw [reduceBad_whole _ hr]
    simp
  have hregs : dstRegs (.g r) ++ [] = [] := rfl
  have hmasks : maskOf m = [k] := by rw [maskOf, hmask]; rfl
  unfold Work.reduction
  simp only [hform, hspan, if_true, hbad, hregs, hmasks, hfree, Bool.false_eq_true, if_false, hmask, Option.getD_some]

/-- SUMX's sticky flag (R241). -/
def Tile.noteSat (k : Tile) (n : Nat) : Tile := { k with satFlag := k.satFlag || decide (0 < n) }

/-- SUMX of the whole span with operands in range and nothing held (R241). -/
theorem Work.exactSum_done {w : Work} {c : Nat} {t : TileRef} {f : Fmt} {e : Int} {r src span : Nat} {m : Masking} {tag : TensorTag}
    {form : OutForm} (hf : arithFmt f = true) (hlo : -128 ≤ e) (hhi : e ≤ 127) (hform : w.outForm c .fp32 tag = some form)
    (hspan : spanBad span [src] m = none) (hr : r < 32) (hfree : w.vecHeld t.tile [(src, span)] (maskOf m) = false) :
    w.exactSum c t f e .whole (.g r) src span m tag
      = (((w.countPasses t.tile (fmtBits f) span 16 m).count Ctr.vectorSaturated (w.sumExact t.tile f e .whole src span m).2).updTile
          t.tile fun k => k.noteSat (w.sumExact t.tile f e .whole src span m).2).putResults c t.tile form tag (.g r)
            ((w.sumExact t.tile f e .whole src span m).1.map fun x => Val.ofInt x e) := by
  have hbad : ¬ (e < -128 ∨ 127 < e ∨ reduceBad (fmtBits f) .whole (.g r) = true ∨ (!arithFmt f) = true) := by
    rw [reduceBad_whole _ hr, hf]
    simp only [Bool.false_eq_true, Bool.not_true, or_false]
    omega
  have hregs : dstRegs (.g r) ++ [(src, span)] = [(src, span)] := rfl
  unfold Work.exactSum
  simp only [hform, hspan, if_neg hbad, hregs, hfree, Bool.false_eq_true, if_false]
  rfl

/-- Settles O33: a conversion by the elements that it writes, the others by the one result that goes to the register and, for SUMX, the
flag. That every source element is read as it stood is the model's choice (log 76). -/
theorem vectorSumsComplete : Obligations.VectorSumsComplete := by
  unfold Obligations.VectorSumsComplete
  refine ⟨?_, ?_, ?_, ?_⟩
  · intro t p m tag form g c s hwf h hq hform hscale hfmt hbits hbad hfree
    have hint : fmtInt form.fmt = true := by rcases hfmt with e | e <;> rw [e] <;> rfl
    have hmx : fmtMx form.fmt = false := by rcases hfmt with e | e <;> rw [e] <;> rfl
    have hkeeps {β : Type} (q : Work → β) (hwr : ∀ v k bs, q (Work.wr v k bs) = q v)
        (hcount : ∀ v id n, q (Work.count v id n) = q v) :
        q (s.work.convertElems c t p form m tag (s.work.convRead t p g)).1 = q s.work :=
      Work.convertElems_keeps q hwr hcount ..
    refine ⟨_, exec_issueVector_done rfl h hq (Work.convert_done hform hscale hint hmx hbad hfree), State.finish_took_tookUp _ h.2.2 ?_,
      (State.finish_took_ctxs ..).trans ?_, State.elements_of_convertElems hbits (fmtBits_whole hmx) fun j => ?_⟩
    · exact hkeeps (fun v => v.d.tiles) (fun _ _ _ => rfl) fun _ _ _ => rfl
    · exact hkeeps (fun v => v.d.ctxs) (fun _ _ _ => rfl) fun _ _ _ => rfl
    · refine (State.finish_took_elemAt _ _ hwf ?_ _ _ _).trans (Work.count_elemAt ..)
      exact (Work.count_base ..).trans (hkeeps Work.base (fun _ _ _ => rfl) fun _ _ _ => rfl)
  · intro t op f r src span c m tag form s h hq hop hf hform hin hspan hr hfree
    have hF := Work.reduction_values hop hf hform hspan hr hfree
    rw [← Work.updTile_id (Work.countPasses ..) t.tile] at hF
    exact exec_putResults_g rfl hF h hq (Work.countPasses_keeps (fun v => v.ctx c) (fun _ _ _ => rfl) ..)
      (Work.countPasses_keeps (fun v => v.d.tiles) (fun _ _ _ => rfl) ..) hin
  · intro t f r src span c k m tag form s h hq hform hin hmask hspan hr hfree
    have hF := Work.reduction_count f src hform hmask hspan hr hfree
    rw [← Work.updTile_id (Work.count ..) t.tile] at hF
    exact exec_putResults_g rfl hF h hq rfl rfl hin
  · intro t f e r src span c m tag form s h hq hf hlo hhi hform hin hspan hr hfree
    have hF := Work.exactSum_done hf hlo hhi hform hspan hr hfree
    exact exec_putResults_g rfl hF h hq
      ((Work.count_ctx ..).trans (Work.countPasses_keeps (fun v => v.ctx c) (fun _ _ _ => rfl) ..))
      ((Work.count_tiles ..).trans (Work.countPasses_keeps (fun v => v.d.tiles) (fun _ _ _ => rfl) ..)) hin

end Sys2Proof.Machine
end

section
/-!
PROOFS. UPDATE_REM of a half (R242, R308, R309): each selected weight and remainder, and every other element of the half.
-/

namespace Sys2Proof.Machine

/-- What a fold of writes leaves at a place that one of them alone writes: its value where it is among them, else what stood there. -/
theorem Work.foldl_reads {β : Type} (p : Work → β) (g : Work → Nat → Work) (e : Nat) (x : β) (l : List Nat)
    (hsame : ∀ w, p (g w e) = x) (hother : ∀ w k, k ∈ l → k ≠ e → p (g w k) = p w) (w : Work) :
    p (l.foldl g w) = if e ∈ l then x else p w := by
  induction l generalizing w with
  | nil => rfl
  | cons k l ih =>
    rw [List.foldl_cons, ih fun w k hk => hother w k (List.mem_cons_of_mem _ hk)]
    by_cases hl : e ∈ l
    · rw [if_pos hl, if_pos (List.mem_cons_of_mem _ hl)]
    · rw [if_neg hl]
      by_cases hk : e = k
      · subst hk
        rw [if_pos List.mem_cons_self, hsame]
      · rw [if_neg (by simp [hk, hl]), hother w k List.mem_cons_self (Ne.symm hk)]

/-- An element apart from the one written reads as before. -/
theorem Work.elemAt_putElem_apart (w : Work) {a b n i j : Nat} (code : Nat) (h : b + n * j + n ≤ a + n * i ∨ a + n * i + n ≤ b + n * j) :
    (w.putElem a (8 * n) i code).elemAt b (8 * n) j = w.elemAt b (8 * n) j := by
  rw [Work.elemAt_bytes, Work.putElem_bytes, Work.elemAt_bytes]
  unfold Work.le
  rw [Work.rdN_wr_other _ _ _ _ _ (by rw [leBytes_length]; exact h)]

/-- 16-bit elements of different registers do not meet (R230, R231). -/
theorem Work.elemAt_putElem_register (w : Work) (tile code : Nat) {a b i j : Nat} (h : a ≠ b) (hi : i < 8192) (hj : j < 8192) :
    (w.putElem (vregAt tile a 0) 16 i code).elemAt (vregAt tile b 0) 16 j = w.elemAt (vregAt tile b 0) 16 j := by
  refine Work.elemAt_putElem_apart (n := 2) w code ?_
  unfold vregAt vregKey vregSize
  omega

/-! ### The weights and remainders of a half -/

/-- The elements of a half that UPDATE_REM selects (R242, R245). -/
def Tile.updates (k : Tile) (m : Masking) : List Nat :=
  (List.range 4096).filter fun j => k.selects 32 { m with granule := .element } j

/-- What UPDATE_REM makes of element `j` of a half (R308, R309). -/
def Work.updated (w : Work) (tile h wr rr ur j : Nat) : Nat × Nat × Val × Stored :=
  updateRem (w.elemAt (vregAt tile wr 0) 16 (4096 * h + j)) (w.elemAt (vregAt tile rr 0) 16 (4096 * h + j))
    (BitVec.ofNat 32 (w.elemAt (vregAt tile ur 0) 32 j))

/-- Element `j` of a half, with its weight and remainder written by what UPDATE_REM made of them in `w`. -/
def Work.putUpdate (w : Work) (tile h wr rr ur : Nat) (v : Work) (j : Nat) : Work :=
  (v.putElem (vregAt tile wr 0) 16 (4096 * h + j) (w.updated tile h wr rr ur j).1).putElem (vregAt tile rr 0) 16 (4096 * h + j)
    (w.updated tile h wr rr ur j).2.1

/-- One element of a half updated and counted (R291). -/
def Work.updateStep (w : Work) (tile h wr rr ur : Nat) (ref : Int) (a : Work × Tally) (j : Nat) : Work × Tally :=
  (w.putUpdate tile h wr rr ur a.1 j,
    a.2.add ref (w.updated tile h wr rr ur j).2.2.1 (w.updated tile h wr rr ur j).2.2.2 (bf16.decode (w.updated tile h wr rr ur j).1))

/-- The elements of a half updated, and their census (R242). -/
def Work.updateElems (w : Work) (tile h wr rr ur : Nat) (m : Masking) (ref : Int) : Work × Tally :=
  ((w.tile tile).updates m).foldl (w.updateStep tile h wr rr ur ref) (w, Tally.empty)

/-- The work of UPDATE_REM counted (R259). -/
def Work.countUpdate (w : Work) (n : Nat) : Work :=
  ((w.count Ctr.vectorBusyCycles 16).count Ctr.vectorElementSlots 4096).count Ctr.vectorActiveElements n

/-- What the work of UPDATE_REM counted keeps: anything that a counter keeps. -/
theorem Work.countUpdate_keeps {β : Type} (p : Work → β) (hp : ∀ v id n, p (Work.count v id n) = p v) (w : Work) (n : Nat) :
    p (w.countUpdate n) = p w := by
  rw [Work.countUpdate, hp, hp, hp]

/-- UPDATE_REM's results are BF16 weights, unscaled (R242). -/
def updateForm (form : OutForm) : OutForm := { fmt := .bf16, scale := 0, ref := form.ref }

/-- UPDATE_REM with its operands in range and nothing held updates the elements of its half and adds their census (R242). -/
theorem Work.updateHalf_done {w : Work} {c : Nat} {t : TileRef} {h wr rr ur : Nat} {m : Masking} {tag : TensorTag} {form : OutForm}
    (hform : w.outForm c .bf16 tag = some form) (hspan : spanBad 1 [wr, rr, ur] m = none) (hh : h < 2)
    (hgran : m.mask.isSome = true → m.granule = .element) (hfree : w.vecHeld t.tile [(wr, 1), (rr, 1), (ur, 1)] (maskOf m) = false) :
    w.updateHalf c t h wr rr ur m tag
      = ((w.updateElems t.tile h wr rr ur m form.ref).1.countUpdate ((w.tile t.tile).updates m).length).vecCensus c (updateForm form) tag
          (w.updateElems t.tile h wr rr ur m form.ref).2 := by
  have hok : ¬ (2 ≤ h ∨ m.mask.isSome = true ∧ m.granule ≠ .element) := by
    rintro (hbig | ⟨hmask, hlane⟩)
    · omega
    · exact hlane (hgran hmask)
  unfold Work.updateHalf
  simp only [hform, hspan, if_neg hok, hfree, Bool.false_eq_true, if_false]
  rfl

/-- What UPDATE_REM writes does not depend on what it counts. -/
theorem Work.updateElems_fst (w : Work) (tile h wr rr ur : Nat) (m : Masking) (ref : Int) :
    (w.updateElems tile h wr rr ur m ref).1 = ((w.tile tile).updates m).foldl (w.putUpdate tile h wr rr ur) w := by
  unfold Work.updateElems
  exact Work.foldl_fst _ _ (fun _ _ => rfl) _ _

/-- What UPDATE_REM's elements keep: anything that one write keeps. -/
theorem Work.updateElems_keeps {β : Type} (p : Work → β) (hwr : ∀ v k bs, p (Work.wr v k bs) = p v) (w : Work) (tile h wr rr ur : Nat)
    (m : Masking) (ref : Int) : p (w.updateElems tile h wr rr ur m ref).1 = p w := by
  rw [Work.updateElems_fst]
  exact Work.foldl_keeps p _ (fun v j => (hwr ..).trans (hwr ..)) _ w

/-- An element counted keeps the number of bins (R292). -/
theorem Tally.add_bins (y : Tally) (ref : Int) (exact : Val) (x : Stored) (stored : Val) :
    (y.add ref exact x stored).hist.length = y.hist.length := by
  show (if _ then updAt y.hist _ _ else y.hist).length = _
  split
  · exact updAt_length ..
  · rfl

/-- The bins that UPDATE_REM counts in. -/
theorem Work.updateElems_bins (w : Work) (tile h wr rr ur : Nat) (m : Masking) (ref : Int) :
    (w.updateElems tile h wr rr ur m ref).2.hist.length = 16 := by
  unfold Work.updateElems
  exact List.foldlRecOn (motive := fun a : Work × Tally => a.2.hist.length = 16) _ (w.updateStep tile h wr rr ur ref) rfl
    fun _ ha _ _ => (Tally.add_bins ..).trans ha

/-- The elements that UPDATE_REM selects are those of the half that the mask selects. -/
theorem Tile.mem_updates (k : Tile) (m : Masking) {j : Nat} (hj : j < 4096) :
    j ∈ k.updates m ↔ k.selects 32 { m with granule := .element } j = true := by
  simp [Tile.updates, hj]

/-- UPDATE_REM selects elements of one half. -/
theorem Tile.lt_of_mem_updates {k : Tile} {m : Masking} {j : Nat} (h : j ∈ k.updates m) : j < 4096 := by
  unfold Tile.updates at h
  exact List.mem_range.mp (List.mem_filter.mp h).1

section

variable {w : Work} {tile h wr rr ur j : Nat} (m : Masking) (ref : Int)

/-- A weight of the half after UPDATE_REM (R242, R308). -/
theorem Work.updateElems_weight (hne : wr ≠ rr) (hh : h < 2) (hj : j < 4096) :
    (w.updateElems tile h wr rr ur m ref).1.elemAt (vregAt tile wr 0) 16 (4096 * h + j)
      = if (w.tile tile).selects 32 { m with granule := .element } j then (w.updated tile h wr rr ur j).1 % 2 ^ 16
        else w.elemAt (vregAt tile wr 0) 16 (4096 * h + j) := by
  rw [Work.updateElems_fst]
  refine (Work.foldl_reads (fun v => v.elemAt (vregAt tile wr 0) 16 (4096 * h + j)) (w.putUpdate tile h wr rr ur) j
    ((w.updated tile h wr rr ur j).1 % 2 ^ 16) _ (fun v => ?_) (fun v k hk hkj => ?_) w).trans ?_
  · exact (Work.elemAt_putElem_register _ tile _ (Ne.symm hne) (by omega) (by omega)).trans (Work.elemAt_putElem_same v _ 2 _ _)
  · have hk' : k < 4096 := Tile.lt_of_mem_updates hk
    exact (Work.elemAt_putElem_register _ tile _ (Ne.symm hne) (by omega) (by omega)).trans
      (Work.elemAt_putElem_other v _ 2 _ _ _ (by omega))
  · simp only [Tile.mem_updates _ m hj]

/-- A remainder of the half after UPDATE_REM (R242, R308). -/
theorem Work.updateElems_remainder (hne : wr ≠ rr) (hh : h < 2) (hj : j < 4096) :
    (w.updateElems tile h wr rr ur m ref).1.elemAt (vregAt tile rr 0) 16 (4096 * h + j)
      = if (w.tile tile).selects 32 { m with granule := .element } j then (w.updated tile h wr rr ur j).2.1 % 2 ^ 16
        else w.elemAt (vregAt tile rr 0) 16 (4096 * h + j) := by
  rw [Work.updateElems_fst]
  refine (Work.foldl_reads (fun v => v.elemAt (vregAt tile rr 0) 16 (4096 * h + j)) (w.putUpdate tile h wr rr ur) j
    ((w.updated tile h wr rr ur j).2.1 % 2 ^ 16) _ (fun v => ?_) (fun v k hk hkj => ?_) w).trans ?_
  · exact Work.elemAt_putElem_same _ _ 2 _ _
  · have hk' : k < 4096 := Tile.lt_of_mem_updates hk
    exact (Work.elemAt_putElem_other _ _ 2 _ _ _ (by omega)).trans
      (Work.elemAt_putElem_register v tile _ hne (by omega) (by omega))
  · simp only [Tile.mem_updates _ m hj]

end

/-- Settles O34: each element by the one write that reaches it, the census apart from the registers. -/
theorem updateRemCompletes : Obligations.UpdateRemCompletes := by
  unfold Obligations.UpdateRemCompletes
  intro t h wr rr ur c m tag form s hwf ht hq hform hcensus hspan hh hgran hne hfree
  obtain ⟨htensor, hplace⟩ := hcensus
  obtain ⟨n, hn⟩ : ∃ n, n = ((s.work.tile t.tile).updates m).length := ⟨_, rfl⟩
  have hF := Work.updateHalf_done hform hspan hh hgran hfree
  have hctx : ((s.work.updateElems t.tile h wr rr ur m form.ref).1.countUpdate n).ctx c = s.work.ctx c :=
    (Work.countUpdate_keeps (fun v => v.ctx c) (fun _ _ _ => rfl) ..).trans
      (Work.updateElems_keeps (fun v => v.ctx c) (fun _ _ _ => rfl) ..)
  have hbase : ((s.work.updateElems t.tile h wr rr ur m form.ref).1.countUpdate n).base = s.mem :=
    (Work.countUpdate_keeps Work.base (fun _ _ _ => rfl) ..).trans (Work.updateElems_keeps Work.base (fun _ _ _ => rfl) ..)
  have hbelow : ((s.work.updateElems t.tile h wr rr ur m form.ref).1.countUpdate n).censusPlace c tag + 192 ≤ 2 ^ 56 := by
    rw [Work.censusPlace, hctx]
    exact hplace
  rw [← hn, Work.vecCensus_done _ (Or.inl (by rw [hctx]; exact htensor))] at hF
  have helem (v i : Nat) : (s.finish ((((s.work.updateElems t.tile h wr rr ur m form.ref).1.countUpdate n).censused c (updateForm form) tag
      (s.work.updateElems t.tile h wr rr ur m form.ref).2).took t Tile.queued)).work.elemAt (vregAt t.tile v 0) 16 i
      = (s.work.updateElems t.tile h wr rr ur m form.ref).1.elemAt (vregAt t.tile v 0) 16 i :=
    (State.finish_took_elemAt _ _ hwf ((Work.censused_base ..).trans hbase) _ _ _).trans
      ((Work.elemAt_congr_above (fun k hk => Work.censused_rd_above _ (Work.updateElems_bins ..) (Nat.le_trans hbelow hk))
        (vregAt_ge ..) _ _).trans (Work.countUpdate_keeps (fun v => v.elemAt _ _ _) (fun _ _ _ => rfl) ..))
  refine ⟨_, exec_issueVector_done rfl ht hq hF, State.finish_took_tookUp _ ht.2.2 ?_, fun j hj => ⟨?_, ?_⟩⟩
  · exact (Work.censused_tiles ..).trans ((Work.countUpdate_keeps (fun v => v.d.tiles) (fun _ _ _ => rfl) ..).trans
      (Work.updateElems_keeps (fun v => v.d.tiles) (fun _ _ _ => rfl) ..))
  · exact (helem wr _).trans (Work.updateElems_weight m form.ref hne hh hj)
  · exact (helem rr _).trans (Work.updateElems_remainder m form.ref hne hh hj)

end Sys2Proof.Machine
end

section
/-!
PROOFS. The tile DMA (R252): its checks, the requests that a transfer issues as it starts, and the oldest request completed.
-/

namespace Sys2Proof.Machine

/-! ### Sides that are no rings -/

/-- A transfer between places that are no rings. -/
structure DmaPlain (p : DmaParams) : Prop where
  src : ∀ n, p.src ≠ .ring n
  dst : ∀ n, p.dst ≠ .ring n

/-- A transfer that names no ring is one between places that are none. -/
theorem dmaPlain_of_rings {p : DmaParams} (h : dmaRings p = []) : DmaPlain p := by
  obtain ⟨hs, hd⟩ := List.append_eq_nil_iff.mp h
  constructor
  · intro n e
    rw [e] at hs
    cases hs
  · intro n e
    rw [e] at hd
    cases hd

/-- A side that is no ring is no bad ring (R252). -/
theorem Tile.ringBad_plain (k : Tile) (p : DmaParams) {x : DmaSide} (write : Bool) (h : ∀ n, x ≠ .ring n) : k.ringBad p x write = false := by
  cases x with
  | ring n => exact absurd rfl (h n)
  | tileStore _ | dataMem _ | addr _ => rfl

/-! ### The checks -/

/-- TILE_DMA is taken up as every instruction of the tile core is. -/
theorem exec_tileDma (t : TileRef) (p : DmaParams) (s : State) :
    exec (.tileDma t p) s = .next (s.exec fun w => w.issue t fun c w => w.startDma c t p) := rfl

section

variable {w : Work} {c : Nat} {t : TileRef} {p : DmaParams}

/-- A length, count or stride outside its range, or a ring that it does not own (R252). -/
theorem Work.startDma_invalid (h : dmaBad p = true ∨ (w.tile t.tile).ringBad p p.src false = true
    ∨ (w.tile t.tile).ringBad p p.dst true = true) : w.startDma c t p = .halt 4 0x08 0 := by
  refine if_pos ?_
  rcases h with h | h | h <;> simp [h]

/-- Between places that are no rings a transfer in range passes the first check (R252). -/
theorem DmaPlain.inRange (hp : DmaPlain p) (hbad : dmaBad p = false) :
    ¬ (dmaBad p || (w.tile t.tile).ringBad p p.src false || (w.tile t.tile).ringBad p p.dst true) = true := by
  rw [hbad, Tile.ringBad_plain _ p false hp.src, Tile.ringBad_plain _ p true hp.dst]
  decide

/-- A declared region that does not resolve (R252, R397). -/
theorem Work.startDma_unresolved {r d : Nat} (hp : DmaPlain p) (hbad : dmaBad p = false)
    (hres : w.resolveAll c (some t.tile) (w.tile t.tile).regions p.uses = .error (r, d)) : w.startDma c t p = .halt 4 r d := by
  refine (if_neg (hp.inRange hbad)).trans ?_
  rw [hres]

/-! ### A transfer starts -/

/-- A transfer between places of this device, nothing of it requested yet. -/
def newDma (t : TileRef) (p : DmaParams) (src dst draw : Nat) : DmaOp :=
  { ref := t, params := p, src := src, dst := dst, peer := false, issued := 0, completed := 0, draw := draw }

/-- A tile with one transfer more. -/
def Tile.pushDma (k : Tile) (o : DmaOp) : Tile := { k with dma := k.dma ++ [o] }

/-- A tile whose transfers issued what they can (R252). -/
def Tile.pumped (k : Tile) : Tile := { k with dma := k.issueRequests (512 - k.dmaTags) [] k.dma }

/-- A working state in which a transfer takes its place, its source verified (R252, R493). -/
def Work.dmaBegun (w : Work) (t : TileRef) (p : DmaParams) (src dst n : Nat) : Work :=
  (w.count Ctr.tensorBlocksVerified n).draw.2.updTile t.tile fun k => (k.pushDma (newDma t p src dst w.d.freeCtr)).pumped

/-- A transfer between places of this device that are no rings, with its checks passed and nothing held by the array (R252). -/
theorem Work.startDma_done {rs : List Resolved} {src dst n : Nat} (hp : DmaPlain p) (hbad : dmaBad p = false)
    (hmat : (w.tile t.tile).mat = []) (hres : w.resolveAll c (some t.tile) (w.tile t.tile).regions p.uses = .ok rs)
    (hsrc : w.dmaSide c t.tile rs p p.src p.srcStride false = .ok (src, false))
    (hdst : w.dmaSide c t.tile rs p p.dst p.dstStride true = .ok (dst, false)) (hfault : w.dmaSourceFault c p src = .ok n) :
    w.startDma c t p = .done ((w.dmaBegun t p src dst n).dmaWait c t.tile) := by
  have hfree (f : Foot) : w.heldByArray t.tile f = false := by
    rw [Work.heldByArray, hmat]
    rfl
  refine (if_neg (hp.inRange hbad)).trans ?_
  simp only [hres, hsrc, hdst, hfree, hfault, Bool.false_eq_true, if_false]
  rw [Work.dmaBegun, Work.pumpDma, Work.updTile_updTile]
  rfl

end

/-- What the wait of a transfer keeps: anything that a stall keeps. -/
theorem Work.dmaWait_keeps {β : Type} (q : Work → β) (hstall : ∀ v c cause cls, q (Work.stall v c cause cls) = q v) (w : Work)
    (c tile : Nat) : q (w.dmaWait c tile) = q w := by
  unfold Work.dmaWait
  dsimp only
  split
  · rfl
  · split
    · rfl
    · split
      · exact hstall ..
      · split <;> exact hstall ..

/-- How many requests a transfer between places that are no rings may issue as it starts: all of them (R252). -/
theorem Tile.dmaLimit_plain (k : Tile) {o : DmaOp} (hp : DmaPlain o.params) (hnew : o.completed = 0) : k.dmaLimit o = o.total := by
  have hall : (0 / o.perRow + o.params.count) * o.perRow = o.total := by
    rw [Nat.zero_div, Nat.zero_add, DmaOp.total, Nat.mul_comm]
  unfold Tile.dmaLimit
  dsimp only
  split
  case h_1 n hsrc => exact absurd hsrc (hp.src n)
  · split
    case h_1 n hdst => exact absurd hdst (hp.dst n)
    · rw [hnew, Nat.min_self, hall, Nat.min_self]

/-- The only transfer of a tile with the requests that it can issue issued. -/
def Tile.requested (k : Tile) (o : DmaOp) : DmaOp :=
  { o with issued := o.issued + min (512 - (o.issued - o.completed)) (k.dmaLimit o - o.issued) }

/-- The only transfer of a tile issues up to the tags that are free (R252). -/
theorem Tile.pumped_single {k : Tile} {o : DmaOp} (h : k.dma = [o]) : k.pumped = { k with dma := [k.requested o] } := by
  have htags : k.dmaTags = o.issued - o.completed := by
    rw [Tile.dmaTags, h]
    rfl
  have hseen : (dmaRings o.params).any ([] : List Nat).contains = false := by simp
  rw [Tile.pumped, h, htags, Tile.issueRequests, hseen]
  rfl

/-- A tile that has no transfer under way takes one between places that are no rings, its requests issued up to the tags (R252). -/
theorem Tile.pushDma_pumped {k : Tile} (h : k.dma = []) (t : TileRef) {p : DmaParams} (hp : DmaPlain p) (src dst n : Nat) :
    (k.pushDma (newDma t p src dst n)).pumped
      = { k with dma := [{ newDma t p src dst n with issued := min 512 (ceilDiv p.length 512 * p.count) }] } := by
  have hone : (k.pushDma (newDma t p src dst n)).dma = [newDma t p src dst n] := by
    rw [Tile.pushDma, h]
    rfl
  rw [Tile.pumped_single hone, Tile.requested, Tile.dmaLimit_plain _ hp rfl]
  simp [newDma, Tile.pushDma, DmaOp.total, DmaOp.perRow]

/-- An instruction that changed its own tile among other things, taken up. -/
theorem State.finish_took_tookUp_of {s : State} {t : TileRef} {v : Work} (g : Tile → Tile) (hn : t.tile < s.dev.tiles.length)
    (hv : v.d.tiles = updAt s.dev.tiles t.tile g) : s.tookUp (s.finish (v.took t id)) t g := by
  have htile : ∀ k, v.tile k = (s.work.updTile t.tile g).tile k := fun k => by rw [Work.tile, hv]; rfl
  refine ⟨?_, fun k hk => ?_⟩
  · rw [State.finish_tile]
    refine (Work.updTile_tile_same v t.tile _ (by rw [hv, updAt_length]; exact hn)).trans ?_
    rw [htile, Work.updTile_tile_same _ _ _ hn]
    rfl
  · rw [State.finish_tile]
    refine (Work.updTile_tile_other v t.tile k _ hk).trans ?_
    rw [htile, Work.updTile_tile_other _ _ _ _ hk]

/-- Two changes of the tile that comes to the same. -/
theorem State.tookUp_congr {s u : State} {t : TileRef} {f g : Tile → Tile} (h : f (s.work.tile t.tile) = g (s.work.tile t.tile))
    (hf : s.tookUp u t f) : s.tookUp u t g :=
  ⟨hf.1.trans (congrArg (fun k => k.advance t.pc t.next) h), hf.2⟩

/-! ### A request completes -/

section

variable {w : Work} {tile : Nat} {o : DmaOp}

/-- The bytes of a request from a place of this device that is no ring (R252). -/
theorem Work.dmaRead_plain (hp : DmaPlain o.params) (hpeer : o.peer = false) (r b n : Nat) :
    w.dmaRead tile o r b n = w.rdN (o.src + r * o.params.srcStride + b) n := by
  unfold Work.dmaRead
  split
  case h_1 q hsrc => exact absurd hsrc (hp.src q)
  · exact if_neg (by simp [hpeer])

/-- The bytes of a request stored at a place that is no ring, in rows that do not overlap (R252). -/
theorem Work.dmaStore_plain (hp : DmaPlain o.params) (hrow : o.params.length ≤ o.params.dstStride) (r b : Nat) (bs : List Byte) :
    w.dmaStore tile o r b bs = w.wr (o.dst + r * o.params.dstStride + b) bs := by
  unfold Work.dmaStore
  split
  case h_1 q hdst => exact absurd hdst (hp.dst q)
  · exact if_pos (Or.inr hrow)

/-- A row of a transfer between places of this device that are no rings changes no ring as it completes (R216). -/
theorem Work.rowDone_plain (c : Nat) (hr : dmaRings o.params = []) (hpeer : o.peer = false) : w.rowDone c tile o = w := by
  have hp := dmaPlain_of_rings hr
  unfold Work.rowDone
  dsimp only
  rw [hpeer, if_pos hr, if_neg Bool.false_ne_true]
  split
  case h_1 n hdst => exact absurd hdst (hp.dst n)
  · split
    case h_1 n hsrc => exact absurd hsrc (hp.src n)
    · exact Work.updTile_id w tile

end

/-- Bytes of a request stored, and counted (R252, R259). -/
def Work.requestMoved (w : Work) (o : DmaOp) (key n : Nat) (bs : List Byte) : Work :=
  let v := (w.wr key bs).count Ctr.tileDmaBytes n
  if decide (v.fz.space o.src = .cap 0) || decide (v.fz.space o.src = .cap 1) then v.count Ctr.capacityBytesRead n else v

/-- What the bytes of a request stored and counted keep beside their store: anything that a counter keeps. -/
theorem Work.requestMoved_keeps {β : Type} (q : Work → β) (hcount : ∀ v id n, q (Work.count v id n) = q v) (w : Work) (o : DmaOp)
    (key n : Nat) (bs : List Byte) : q (w.requestMoved o key n bs) = q (w.wr key bs) := by
  unfold Work.requestMoved
  dsimp only
  split
  · exact (hcount ..).trans (hcount ..)
  · exact hcount ..

/-- A tile with the oldest outstanding request of transfer `i` completed; a transfer ends with its last request (R252). -/
def Tile.requestDone (k : Tile) (i : Nat) (o : DmaOp) : Tile :=
  { k with dma := (updAt k.dma i fun _ => { o with completed := o.completed + 1 }).filter fun o => decide (o.completed < o.total) }

/-- A request between places of this device that are no rings completes: its bytes move, and its tag is free (R252). -/
theorem Work.finishRequestOf_plain {w : Work} {c tile i r b n : Nat} {o : DmaOp} (hrings : dmaRings o.params = [])
    (hpeer : o.peer = false) (hrow : o.params.length ≤ o.params.dstStride) (hr : o.completed / o.perRow = r)
    (hb : o.completed % o.perRow * 512 = b) (hn : min 512 (o.params.length - b) = n)
    (hpoison : w.poisonIn (o.src + r * o.params.srcStride + b) n = none) :
    w.finishRequestOf c tile i o
      = ((w.requestMoved o (o.dst + r * o.params.dstStride + b) n (w.rdN (o.src + r * o.params.srcStride + b) n)).updTile tile
          fun k => (k.requestDone i o).pumped).tryReport := by
  have hp := dmaPlain_of_rings hrings
  unfold Work.finishRequestOf
  simp only [hr, hb, hn, Work.dmaRead_plain hp hpeer, Work.dmaStore_plain hp hrow]
  split
  case h_1 a hsome =>
    split at hsome
    case h_1 q hsrc => exact absurd hsrc (hp.src q)
    · rw [if_neg (by simp [hpeer]), hpoison] at hsome
      cases hsome
  · rw [Work.rowDone_plain (o := { o with completed := o.completed + 1 }) c hrings hpeer, ite_self, Work.pumpDma,
      Work.updTile_updTile, Work.updTile_updTile]
    rfl

/-- The state that a request's store leaves, with a tile changed and the device free to report: the bytes stored, the contexts kept,
and every tile as the change makes it. -/
theorem State.finish_requestMoved {s : State} {w : Work} (o : DmaOp) (key m tile : Nat) (bs : List Byte) (g : Tile → Tile)
    (hwf : Memory.wf s.mem = true) (hbase : w.base = s.mem) (hwiped : w.wiped = []) (hlog : w.log = []) :
    s.stores (s.finish ((w.requestMoved o key m bs).updTile tile g).tryReport) key bs
      ∧ (s.finish ((w.requestMoved o key m bs).updTile tile g).tryReport).dev.ctxs = w.d.ctxs
      ∧ ∀ j, (s.finish ((w.requestMoved o key m bs).updTile tile g).tryReport).work.tile j = (w.updTile tile g).tile j := by
  have hkeeps {β : Type} (q : Work → β) (hcount : ∀ v id n, q (Work.count v id n) = q v) :
      q (w.requestMoved o key m bs) = q (w.wr key bs) := Work.requestMoved_keeps q hcount ..
  have hjournal : (w.requestMoved o key m bs).log = journal key bs [] := by
    rw [hkeeps Work.log fun _ _ _ => rfl, Work.wr_log, hlog]
  obtain ⟨hstores, -, hctxs, htiles⟩ := State.finish_tryReport_stores (s := s) (v := (w.requestMoved o key m bs).updTile tile g) hwf
    ((hkeeps Work.base fun _ _ _ => rfl).trans hbase) ((hkeeps Work.wiped fun _ _ _ => rfl).trans hwiped) hjournal
  refine ⟨hstores, hctxs.trans (hkeeps (fun v => v.d.ctxs) fun _ _ _ => rfl), fun j => ?_⟩
  rw [Work.tile, State.work_d, htiles, Work.updTile, Work.upd_d, hkeeps (fun v => v.d.tiles) fun _ _ _ => rfl]
  rfl

/-- The oldest outstanding request of a tile's only transfer (R252). -/
theorem exec_tileDmaComplete {n c : Nat} {o : DmaOp} {s : State} (hown : s.work.owner n = some c)
    (hdma : ((s.work.pumpDma n).tile n).dma = [o]) (hout : o.completed < o.issued) :
    exec (.tileDmaComplete n) s = .next (s.finish ((s.work.pumpDma n).finishRequestOf c n 0 o)) := by
  have hown' : (s.work.pumpDma n).owner n = some c := hown
  have hfind : (([o].mapIdx fun i o => (i, o)).find? fun e => decide (e.2.completed < e.2.issued)) = some (0, o) := by
    simp [hout]
  refine exec_finish rfl ?_
  dsimp only
  rw [hown', hdma, hfind]

/-- The transfer that stays when one request of a tile's only transfer has completed, with what it then issues; none after its last
request (R252). -/
theorem Tile.requestDone_pumped {k : Tile} {o : DmaOp} (h : k.dma = [o]) :
    ∃ l, (k.requestDone 0 o).pumped = { k with dma := l } ∧ (o.completed + 1 = o.total → l = [])
      ∧ (o.completed + 1 < o.total → ∃ j, o.issued ≤ j ∧ l = [{ o with completed := o.completed + 1, issued := j }]) := by
  obtain ⟨x, hx⟩ : ∃ x : DmaOp, x = { o with completed := o.completed + 1 } := ⟨_, rfl⟩
  have hdone : (k.requestDone 0 o).dma = [x].filter fun o => decide (o.completed < o.total) := by
    rw [Tile.requestDone, h, hx]
    rfl
  have htotal : x.total = o.total := by rw [hx]; rfl
  have hcompleted : x.completed = o.completed + 1 := by rw [hx]
  by_cases hmore : o.completed + 1 < o.total
  · rw [List.filter_cons_of_pos (by simp [hcompleted, htotal, hmore]), List.filter_nil] at hdone
    refine ⟨_, Tile.pumped_single hdone, fun e => absurd hmore (by omega), fun _ => ?_⟩
    subst hx
    exact ⟨_, Nat.le_add_right .., rfl⟩
  · rw [List.filter_cons_of_neg (by simp [hcompleted, htotal, hmore]), List.filter_nil] at hdone
    refine ⟨[], ?_, fun _ => rfl, fun e => absurd e hmore⟩
    rw [Tile.pumped, hdone]
    rfl

/-- Settles O39: the checks by their halts, the start by the one change of the tile, a request by its one store. That the bytes of a
request move as it completes, the oldest first, is the model's choice (log 82). -/
theorem tileDmaCompletes : Obligations.TileDmaCompletes := by
  unfold Obligations.TileDmaCompletes
  refine ⟨?_, ?_, ?_, ?_⟩
  · intro t p c s h hbad
    obtain ⟨u, hu, hrec⟩ := exec_issue_haltRec (exec_tileDma t p s) h (Work.startDma_invalid hbad)
    refine ⟨u, hu, ?_, ?_⟩ <;> rw [hrec] <;> rfl
  · intro t p c r d s h hbad hrings hres
    obtain ⟨u, hu, hrec⟩ := exec_issue_haltRec (exec_tileDma t p s) h (Work.startDma_unresolved (dmaPlain_of_rings hrings) hbad hres)
    refine ⟨u, hu, ⟨?_, ?_⟩, ?_⟩ <;> rw [hrec] <;> rfl
  · intro t p rs c src dst n s h hbad hrings hdma hmat hres hsrc hdst hfault
    have hp := dmaPlain_of_rings hrings
    have hF := Work.startDma_done hp hbad hmat hres hsrc hdst hfault
    obtain ⟨v, hv⟩ : ∃ v, v = (s.work.dmaBegun t p src dst n).dmaWait c t.tile := ⟨_, rfl⟩
    have hkeeps {β : Type} (q : Work → β) (hstall : ∀ v c cause cls, q (Work.stall v c cause cls) = q v) :
        q v = q (s.work.dmaBegun t p src dst n) := by
      rw [hv]
      exact Work.dmaWait_keeps q hstall _ _ _
    rw [← hv, ← Work.updTile_id v t.tile] at hF
    have htook := State.finish_took_tookUp_of (s := s) (v := v) _ h.2.2 (hkeeps (fun v => v.d.tiles) fun _ _ _ _ => rfl)
    refine ⟨_, exec_issue_took (exec_tileDma t p s) h hF, ?_, ?_, ?_⟩
    · exact State.finish_took_mem s t _ (hkeeps Work.log fun _ _ _ _ => rfl) (hkeeps Work.wiped fun _ _ _ _ => rfl)
    · exact (State.finish_took_ctxs ..).trans (hkeeps (fun v => v.d.ctxs) fun _ _ _ _ => rfl)
    · exact State.tookUp_congr (Tile.pushDma_pumped hdma t hp src dst _) htook
  · intro n c i b m key o s hwf hn hown hdma hrings hpeer hout hissued hrow hi hb hm hkey hpoison
    obtain ⟨k, hk⟩ : ∃ k, k = s.work.tile n := ⟨_, rfl⟩
    rw [← hk] at hdma
    have htile : (s.work.pumpDma n).tile n = { k with dma := [k.requested o] } := by
      rw [Work.pumpDma, Work.updTile_tile_same _ _ _ hn, ← hk]
      exact Tile.pumped_single hdma
    have hdma' : ((s.work.pumpDma n).tile n).dma = [k.requested o] := by rw [htile]
    obtain ⟨l, hl, hlast, hmore⟩ := Tile.requestDone_pumped hdma'
    have hF := Work.finishRequestOf_plain (w := s.work.pumpDma n) (c := c) (tile := n) (i := 0) (o := k.requested o) hrings hpeer hrow
      hi hb hm hpoison
    rw [show (k.requested o).dst + i * (k.requested o).params.dstStride + b = key from hkey] at hF
    have hu := exec_tileDmaComplete hown hdma' (Nat.lt_of_lt_of_le hout (Nat.le_add_right ..))
    rw [hF] at hu
    obtain ⟨hstores, hctxs, htiles⟩ := State.finish_requestMoved (s := s) (w := s.work.pumpDma n) (k.requested o) key m n
      (s.work.rdN (o.src + i * o.params.srcStride + b) m) (fun x => (x.requestDone 0 (k.requested o)).pumped) hwf rfl rfl rfl
    have hlen : n < (s.work.pumpDma n).d.tiles.length := (updAt_length ..).symm ▸ hn
    refine ⟨_, hu, hstores, hctxs, fun j hj => ?_, l, ?_, hlast, fun h => ?_⟩
    · refine (htiles j).trans ?_
      rw [Work.updTile_tile_other _ _ _ _ hj, Work.pumpDma, Work.updTile_tile_other _ _ _ _ hj]
    · refine (htiles n).trans ?_
      rw [Work.updTile_tile_same _ _ _ hlen, hl, htile, hk]
    · obtain ⟨j, hj, hmore⟩ := hmore h
      exact ⟨j, Nat.le_trans (Nat.le_add_right ..) hj, hmore⟩

end Sys2Proof.Machine
end

section
/-!
PROOFS. Rows of the geometry unit (R260, R261, R270, R272, R275): what stands at each element of the rows that an instruction wrote, and
that its census stands apart from them.
-/

namespace Sys2Proof.Machine

/-! ### Elements in place -/

/-- What a fold keeps: anything that each of its steps keeps. -/
theorem foldl_keeps_mem {α β σ : Type} (p : σ → β) (g : σ → α → σ) (l : List α) (x : σ) (h : ∀ y a, a ∈ l → p (g y a) = p y) :
    p (l.foldl g x) = p x :=
  List.foldlRecOn (motive := fun y => p y = p x) l g rfl fun y hy a ha => (h y a ha).trans hy

/-- A byte outside the element just written reads as before. -/
theorem Work.rd_putElem_other (w : Work) {key n i k : Nat} (code : Nat) (h : k < key + n * i ∨ key + n * i + n ≤ k) :
    (w.putElem key (8 * n) i code).rd k = w.rd k := by
  rw [Work.putElem_bytes]
  exact Work.rd_wr_other _ _ _ _ (by rw [leBytes_length]; exact h)

/-- Two working states that read alike over an element's bytes have the same element there. -/
theorem Work.elemAt_congr_bytes {v w : Work} {key n i : Nat} (h : ∀ j, j < n → v.rd (key + n * i + j) = w.rd (key + n * i + j)) :
    v.elemAt key (8 * n) i = w.elemAt key (8 * n) i := by
  rw [Work.elemAt_bytes, Work.elemAt_bytes]
  refine congrArg leNat (List.map_congr_left fun j hj => h j (List.mem_range.mp hj))

/-- An element of a row stands within its row. -/
theorem elem_within {n i m : Nat} (h : i < m) : n * i + n ≤ n * m := by
  rw [← Nat.mul_succ]
  exact Nat.mul_le_mul_left n h

/-- Numbered values taken from a range. -/
theorem mapIdx_pairs_range {α : Type} {n : Nat} (l : List α) (f : Nat → α) (hlen : l.length = n) (h : ∀ i, i < n → l[i]? = some (f i)) :
    l.mapIdx (fun i x => (i, x)) = (List.range n).map fun i => (i, f i) := by
  refine List.ext_getElem (by simp [hlen]) fun i hi _ => ?_
  have hx := h i (by simpa [hlen] using hi)
  rw [List.getElem?_eq_some_iff] at hx
  simp [hx.2]

/-- A list by its elements. -/
theorem map_range_getD {α : Type} {n : Nat} (l : List α) (d : α) (hlen : l.length = n) :
    (List.range n).map (fun i => (l[i]?).getD d) = l := by
  subst hlen
  refine List.ext_getElem (by simp) fun i hi hl => ?_
  simp [List.getElem?_eq_getElem hl]

/-! ### A row -/

/-- The code of a value stored under a form, rounded to nearest even (R261, R286). -/
def OutForm.code (form : OutForm) (v : Val) : Nat := (fmtEncode form.fmt .rne (v.scale (-form.scale))).code

/-- Values stored under a form from a key upward. -/
def Work.putVals (w : Work) (key : Nat) (form : OutForm) (m : Nat) (val : Nat → Val) : Work :=
  (List.range m).foldl (fun v i => v.putElem key (fmtBits form.fmt) i (form.code (val i))) w

/-- A row is stored by its values, whatever was counted before. -/
theorem Work.putRow_fst (w : Work) (key : Nat) (form : OutForm) (y : Tally) (m : Nat) (val : Nat → Val) :
    (w.putRow key form y ((List.range m).map val)).1 = w.putVals key form m val := by
  have hpairs := mapIdx_pairs_range (n := m) ((List.range m).map val) val (by simp) fun i hi => by simp [hi]
  unfold Work.putRow Work.putVals
  rw [hpairs, List.foldl_map]
  exact Work.foldl_fst _ _ (fun _ _ => rfl) _ _

/-- A row counted keeps the number of bins (R292). -/
theorem Work.putRow_bins (w : Work) (key : Nat) (form : OutForm) (y : Tally) (vs : List Val) :
    (w.putRow key form y vs).2.hist.length = y.hist.length :=
  foldl_keeps_mem (fun a : Work × Tally => a.2.hist.length) _ _ _ fun a _ _ => Tally.store_bins a.2 ..

/-- What a row's values keep: anything that one write keeps. -/
theorem Work.putVals_keeps {β : Type} (p : Work → β) (hwr : ∀ v k bs, p (Work.wr v k bs) = p v) (w : Work) (key : Nat)
    (form : OutForm) (m : Nat) (val : Nat → Val) : p (w.putVals key form m val) = p w :=
  Work.foldl_keeps p _ (fun _ _ => hwr ..) _ w

section

variable {form : OutForm} (hbits : fmtBits form.fmt = 8 * formBytes form)
include hbits

/-- A byte outside a row reads as before. -/
theorem Work.rd_putVals_other (w : Work) {key k m : Nat} (val : Nat → Val) (h : k < key ∨ key + formBytes form * m ≤ k) :
    (w.putVals key form m val).rd k = w.rd k := by
  refine foldl_keeps_mem (fun v => v.rd k) _ _ w fun v i hi => ?_
  have hin := elem_within (n := formBytes form) (List.mem_range.mp hi)
  rw [hbits]
  exact Work.rd_putElem_other v _ (by omega)

/-- An element of a row just stored is its value's code. -/
theorem Work.putVals_elem (w : Work) (key : Nat) {i m : Nat} (val : Nat → Val) (hi : i < m) :
    (w.putVals key form m val).elemAt key (fmtBits form.fmt) i = form.code (val i) % 2 ^ fmtBits form.fmt := by
  unfold Work.putVals
  rw [hbits]
  exact (Work.foldl_reads (fun v => v.elemAt key (8 * formBytes form) i) (fun v j => v.putElem key (8 * formBytes form) j (form.code (val j)))
    i _ _ (fun v => Work.elemAt_putElem_same ..) (fun v j _ hj => Work.elemAt_putElem_other _ _ _ _ _ _ (Ne.symm hj)) w).trans
    (if_pos (List.mem_range.mpr hi))

end

/-! ### Rows -/

/-- Rows of `m` values stored under a form, each from its key upward, and what they count. -/
def Work.putRows (w : Work) (key : Nat → Nat) (form : OutForm) (m : Nat) (val : Nat → Nat → Val) (n : Nat) : Work × Tally :=
  (List.range n).foldl (fun (a : Work × Tally) r => a.1.putRow (key r) form a.2 ((List.range m).map (val r))) (w, Tally.empty)

/-- Each element of rows is its value's code. -/
def Work.holdsRows (v : Work) (key : Nat → Nat) (form : OutForm) (m : Nat) (val : Nat → Nat → Val) (n : Nat) : Prop :=
  ∀ r i, r < n → i < m → v.elemAt (key r) (fmtBits form.fmt) i = form.code (val r i) % 2 ^ fmtBits form.fmt

/-- Rows are stored by their values. -/
theorem Work.putRows_fst (w : Work) (key : Nat → Nat) (form : OutForm) (m : Nat) (val : Nat → Nat → Val) (n : Nat) :
    (w.putRows key form m val n).1 = (List.range n).foldl (fun v r => v.putVals (key r) form m (val r)) w :=
  Work.foldl_fst _ _ (fun _ _ => Work.putRow_fst ..) _ _

/-- The bins that rows are counted in. -/
theorem Work.putRows_bins (w : Work) (key : Nat → Nat) (form : OutForm) (m : Nat) (val : Nat → Nat → Val) (n : Nat) :
    (w.putRows key form m val n).2.hist.length = 16 :=
  foldl_keeps_mem (fun a : Work × Tally => a.2.hist.length) _ _ _ fun _ _ _ => Work.putRow_bins ..

/-- What rows keep: anything that one write keeps. -/
theorem Work.putRows_keeps {β : Type} (p : Work → β) (hwr : ∀ v k bs, p (Work.wr v k bs) = p v) (w : Work) (key : Nat → Nat)
    (form : OutForm) (m : Nat) (val : Nat → Nat → Val) (n : Nat) : p (w.putRows key form m val n).1 = p w := by
  rw [Work.putRows_fst]
  exact Work.foldl_keeps p _ (fun _ _ => Work.putVals_keeps p hwr ..) _ w

section

variable {form : OutForm} (hbits : fmtBits form.fmt = 8 * formBytes form) {key : Nat → Nat} {m n : Nat}
include hbits

/-- A byte outside the rows reads as before. -/
theorem Work.rd_putRows_other (w : Work) {k : Nat} (val : Nat → Nat → Val)
    (h : ∀ r, r < n → k < key r ∨ key r + formBytes form * m ≤ k) : (w.putRows key form m val n).1.rd k = w.rd k := by
  rw [Work.putRows_fst]
  exact foldl_keeps_mem (fun v => v.rd k) _ _ w fun v r hr => Work.rd_putVals_other hbits v _ (h r (List.mem_range.mp hr))

/-- Rows hold in two working states that read alike over their bytes. -/
theorem Work.holdsRows_congr {v w : Work} {val : Nat → Nat → Val} (hw : w.holdsRows key form m val n)
    (h : ∀ r k, r < n → key r ≤ k → k < key r + formBytes form * m → v.rd k = w.rd k) : v.holdsRows key form m val n := by
  intro r i hr hi
  have hin := elem_within (n := formBytes form) hi
  rw [← hw r i hr hi, hbits]
  exact Work.elemAt_congr_bytes fun j hj => h r _ hr (by omega) (by omega)

/-- Rows that do not meet hold once they are stored. -/
theorem Work.putRows_holds (w : Work) (val : Nat → Nat → Val)
    (hapart : ∀ r q, r ≠ q → key r + formBytes form * m ≤ key q ∨ key q + formBytes form * m ≤ key r) :
    (w.putRows key form m val n).1.holdsRows key form m val n := by
  intro r i hr hi
  have hin := elem_within (n := formBytes form) hi
  rw [Work.putRows_fst, Work.foldl_reads (fun v => v.elemAt (key r) (fmtBits form.fmt) i) _ r _ _
    (fun v => Work.putVals_elem hbits v (key r) (val r) hi) (fun v q _ hq => ?_), if_pos (List.mem_range.mpr hr)]
  rw [hbits]
  refine Work.elemAt_congr_bytes fun j hj => Work.rd_putVals_other hbits v _ ?_
  have := hapart r q (Ne.symm hq)
  omega

end

/-- Rows that the state after an instruction reads as they were stored. -/
theorem State.rowsHold_of_holdsRows {s u : State} {tile m : Nat} {o : GeoRows} {form : OutForm} {val : Nat → Nat → Val}
    (h : u.work.holdsRows (s.work.geoKey tile o) form m val o.rows) : s.rowsHold u tile o form m val := h

/-! ### Instructions over rows -/

/-- A geometry output has whole bytes, and a census (R261, R290). -/
theorem Work.geoForm_ok {w : Work} {c : Nat} {bf : Bool} {tag : TensorTag} {form : OutForm} (h : w.geoForm c bf tag = .ok form) :
    fmtBits form.fmt = 8 * formBytes form ∧ fmtInt form.fmt = false := by
  unfold Work.geoForm at h
  split at h
  · cases h
  · split at h
    · next hfmt =>
      cases h
      unfold formBytes
      rcases hfmt with e | e <;> rw [e] <;> exact ⟨rfl, rfl⟩
    · cases h

/-- A geometry output's census of a tensor of the context's table (R290). -/
theorem Work.geoCensus_done {w : Work} {c : Nat} {form : OutForm} {tag : TensorTag} (y : Tally)
    (h : tag.tensor < (w.ctx c).censusTable.2) : w.geoCensus c form tag y = .done (w.censused c form tag y) := by
  have hvec := Work.vecCensus_done (form := form) y (Or.inl h)
  unfold Work.vecCensus at hvec
  unfold Work.geoCensus
  cases hadd : w.censusAdd c form.fmt tag form.ref y with
  | error d => rw [hadd] at hvec; cases hvec
  | ok v => rw [hadd] at hvec; exact hvec

/-- A census record leaves the bytes apart from its place (R291). -/
theorem Work.censused_rd_apart {w : Work} {c : Nat} {tag : TensorTag} {y : Tally} (form : OutForm) {k : Nat}
    (hy : y.hist.length = 16) (hk : k < w.censusPlace c tag ∨ w.censusPlace c tag + 192 ≤ k) :
    (w.censused c form tag y).rd k = w.rd k := by
  unfold Work.censused
  split
  · rfl
  · have hcount (v : Work) (f : Ctx → Ctx) : ((v.count Ctr.censusAdds 1).updCtx c f).rd k = v.rd k := rfl
    rw [hcount, Work.rd_wr_other]
    rw [Work.censusRecord_length _ _ _ _ _ _ _ hy]
    exact hk

/-- Operands that are no rings leave a tile's ring counts (R216). -/
theorem Tile.geoDone_plain (k : Tile) {os : List GeoRows} (h : ∀ o, o ∈ os → ∀ n, o.src ≠ .ring n) : k.geoDone os = k := by
  refine foldl_keeps_mem (fun k : Tile => k) _ os k fun k o ho => ?_
  have hring := h o ho
  cases hsrc : o.src with
  | regs v => rfl
  | store b st => rfl
  | ring n => exact absurd hsrc (hring n)

/-- Operands that are no rings wait for no ring (R216). -/
theorem Tile.geoWait_plain (k : Tile) {os : List GeoRows} (h : ∀ o, o ∈ os → ∀ n, o.src ≠ .ring n) :
    (os.findSome? fun o => k.geoWait o) = none := by
  rw [List.findSome?_eq_none_iff]
  intro o ho
  have hring := h o ho
  unfold Tile.geoWait
  cases hsrc : o.src with
  | regs v => rfl
  | store b st => rfl
  | ring n => exact absurd hsrc (hring n)

/-- An idle array holds nothing (R225). -/
theorem Work.heldByArray_idle {w : Work} {tile : Nat} (h : (w.tile tile).mat = []) (f : Foot) : w.heldByArray tile f = false := by
  unfold Work.heldByArray
  rw [h]
  rfl

/-- An instruction over operands that stand without a fault on an idle array is done where its effect is, and changes no tile. -/
theorem Work.rowInstr_done {w v : Work} {tile : Nat} {os : List GeoRows} {f : Work → Issued} (hfree : w.rowsFree tile os)
    (hf : f w = .done v) (htiles : v.d.tiles = w.d.tiles) : w.rowInstr tile os f = .done v := by
  obtain ⟨hring, hfault, hmat⟩ := hfree
  have hidle : (v.tile tile).mat = [] := by rw [Work.tile, htiles]; exact hmat
  have hsame : (v.updTile tile fun k => k.geoDone os) = v := by
    simp only [Tile.geoDone_plain _ hring]
    exact Work.updTile_id v tile
  unfold Work.rowInstr
  rw [hfault, Tile.geoWait_plain _ hring]
  dsimp only
  rw [Work.heldByArray_idle hmat, if_neg (by decide), hf]
  dsimp only
  rw [hsame, Work.pumpTile_none v tile hidle]

/-- Rows that are written without a fault do not meet one another (R270, R279). -/
theorem Work.geoKey_apart {w : Work} {tile : Nat} {o : GeoRows} (hring : ∀ n, o.src ≠ .ring n) (hfault : w.geoFault tile o = none)
    (hout : o.out = true) {r q : Nat} (hne : r ≠ q) :
    w.geoKey tile o r + o.len ≤ w.geoKey tile o q ∨ w.geoKey tile o q + o.len ≤ w.geoKey tile o r := by
  have hstep {st : Nat} (hst : o.len ≤ st) : r * st + o.len ≤ q * st ∨ q * st + o.len ≤ r * st := by
    rcases Nat.lt_or_gt_of_ne hne with h | h
    · exact .inl (Nat.le_trans (Nat.add_le_add_left hst _) (Nat.succ_mul r st ▸ Nat.mul_le_mul_right st h))
    · exact .inr (Nat.le_trans (Nat.add_le_add_left hst _) (Nat.succ_mul q st ▸ Nat.mul_le_mul_right st h))
  unfold Work.geoFault at hfault
  unfold Work.geoKey
  cases hsrc : o.src with
  | regs v =>
    have := hstep (Nat.le_refl o.len)
    simp only [vregAt, vregKey]
    omega
  | store b st =>
    have hst : o.len ≤ st := by
      rw [hsrc] at hfault
      dsimp only at hfault
      refine Nat.le_of_not_lt fun hlt => ?_
      rw [if_pos ⟨hout, .inr hlt⟩] at hfault
      cases hfault
    have := hstep hst
    simp only [tileStoreAddr]
    omega
  | ring n => exact absurd hsrc (hring n)

/-- An operand of an instruction whose operands stand without a fault stands so itself. -/
theorem Work.rowsFree_mem {w : Work} {tile : Nat} {os : List GeoRows} {o : GeoRows} (h : w.rowsFree tile os) (ho : o ∈ os) :
    (∀ n, o.src ≠ .ring n) ∧ w.geoFault tile o = none := by
  obtain ⟨hring, hfault, -⟩ := h
  exact ⟨hring o ho, List.findSome?_eq_none_iff.mp hfault o ho⟩

/-! ### One row for each row read -/

/-- The working state that an instruction of one row per row read leaves (R270, R272, R275). -/
def Work.rowMapped (w : Work) (c tile : Nat) (form : OutForm) (tag : TensorTag) (out : GeoRows) (busy m : Nat)
    (val : Nat → Nat → Val) : Work :=
  ((w.putRows (w.geoKey tile out) form m val out.rows).1.count Ctr.geomBusyCycles busy).censused c form tag
    (w.putRows (w.geoKey tile out) form m val out.rows).2

/-- Such an instruction changes no tile. -/
theorem Work.rowMapped_tiles (w : Work) (c tile : Nat) (form : OutForm) (tag : TensorTag) (out : GeoRows) (busy m : Nat)
    (val : Nat → Nat → Val) : (w.rowMapped c tile form tag out busy m val).d.tiles = w.d.tiles :=
  (Work.censused_tiles ..).trans (Work.putRows_keeps (fun v => v.d.tiles) (fun _ _ _ => rfl) ..)

/-- Such an instruction writes on memory as it was found. -/
theorem Work.rowMapped_base (w : Work) (c tile : Nat) (form : OutForm) (tag : TensorTag) (out : GeoRows) (busy m : Nat)
    (val : Nat → Nat → Val) : (w.rowMapped c tile form tag out busy m val).base = w.base :=
  (Work.censused_base ..).trans (Work.putRows_keeps Work.base (fun _ _ _ => rfl) ..)

/-- An instruction of one row per row read, its operands without a fault and its tensor in the census table, is done. -/
theorem Work.rowMap1_done {w : Work} {c tile : Nat} {form : OutForm} {tag : TensorTag} {ins : List GeoRows} {out : GeoRows} {m : Nat}
    {f : Work → Nat → List Val} {val : Nat → Nat → Val} (busy : Nat) (hfree : w.rowsFree tile (ins ++ [out]))
    (htensor : tag.tensor < (w.ctx c).censusTable.2) (hval : ∀ r, f w r = (List.range m).map (val r)) :
    w.rowMap1 c tile form tag ins out busy f = .done (w.rowMapped c tile form tag out busy m val) := by
  refine Work.rowInstr_done hfree ?_ (Work.rowMapped_tiles ..)
  simp only [hval]
  refine Work.geoCensus_done _ ?_
  have hctx : (w.putRows (w.geoKey tile out) form m val out.rows).1.ctx c = w.ctx c :=
    Work.putRows_keeps (fun v => v.ctx c) (fun _ _ _ => rfl) ..
  rw [← hctx] at htensor
  exact htensor

/-- Apart from the census record, such an instruction leaves what its rows leave (R291). -/
theorem Work.rowMapped_rd_apart {w : Work} {c tile m k : Nat} {form : OutForm} {tag : TensorTag} {out : GeoRows} (busy : Nat)
    (val : Nat → Nat → Val) (hplace : k < w.censusPlace c tag ∨ w.censusPlace c tag + 192 ≤ k) :
    (w.rowMapped c tile form tag out busy m val).rd k = (w.putRows (w.geoKey tile out) form m val out.rows).1.rd k := by
  have hbins := Work.putRows_bins w (w.geoKey tile out) form m val out.rows
  have hsame : (w.putRows (w.geoKey tile out) form m val out.rows).1.censusPlace c tag = w.censusPlace c tag :=
    Work.putRows_keeps (fun v => v.censusPlace c tag) (fun _ _ _ => rfl) ..
  unfold Work.rowMapped
  generalize w.putRows (w.geoKey tile out) form m val out.rows = a at hbins hsame
  rw [← hsame] at hplace
  have hcount : (a.1.count Ctr.geomBusyCycles busy).censusPlace c tag = a.1.censusPlace c tag := rfl
  rw [Work.censused_rd_apart form hbins (by rw [hcount]; exact hplace)]
  rfl

section

variable {w : Work} {c tile : Nat} {form : OutForm} {tag : TensorTag} {out : GeoRows} {m : Nat} (busy : Nat)
  (val : Nat → Nat → Val) (hbits : fmtBits form.fmt = 8 * formBytes form) (hlen : out.len = formBytes form * m)
include hbits hlen

/-- A byte outside the rows and the census record stands. -/
theorem Work.rowMapped_rd_other {k : Nat} (hrows : ∀ r, r < out.rows → k < w.geoKey tile out r ∨ w.geoKey tile out r + out.len ≤ k)
    (hplace : k < w.censusPlace c tag ∨ w.censusPlace c tag + 192 ≤ k) :
    (w.rowMapped c tile form tag out busy m val).rd k = w.rd k := by
  rw [hlen] at hrows
  rw [Work.rowMapped_rd_apart busy val hplace]
  exact Work.rd_putRows_other hbits w val hrows

/-- Each element of the rows is its value's code. -/
theorem Work.rowMapped_holds (hout : out.out = true) (hring : ∀ n, out.src ≠ .ring n) (hfault : w.geoFault tile out = none)
    (hcensus : w.censusApart c tile tag out) :
    (w.rowMapped c tile form tag out busy m val).holdsRows (w.geoKey tile out) form m val out.rows := by
  obtain ⟨-, hplace⟩ := hcensus
  rw [hlen] at hplace
  refine Work.holdsRows_congr hbits (Work.putRows_holds hbits w val fun r q hne => ?_) fun r k hr hlo hhi => ?_
  · rw [← hlen]
    exact Work.geoKey_apart hring hfault hout hne
  · have hrow := hplace r hr
    exact Work.rowMapped_rd_apart busy val (by omega)

end

/-- An instruction that has written rows, and after them changed counters alone. -/
def Work.wroteRows (w : Work) (x : Issued) (c tile : Nat) (form : OutForm) (tag : TensorTag) (out : GeoRows) (m : Nat)
    (val : Nat → Nat → Val) : Prop :=
  ∃ busy cs, x = .done ((w.rowMapped c tile form tag out busy m val).upd fun d => { d with counters := cs })

/-- An instruction of one row per row read, its operands without a fault and its tensor in the census table, writes its rows. -/
theorem Work.rowMap1_wroteRows {w : Work} {c tile : Nat} {form : OutForm} {tag : TensorTag} {ins : List GeoRows} {out : GeoRows}
    {busy m : Nat} {f : Work → Nat → List Val} {val : Nat → Nat → Val} (hfree : w.rowsFree tile (ins ++ [out]))
    (htensor : tag.tensor < (w.ctx c).censusTable.2) (hval : ∀ r, f w r = (List.range m).map (val r)) :
    w.wroteRows (w.rowMap1 c tile form tag ins out busy f) c tile form tag out m val :=
  ⟨busy, _, Work.rowMap1_done busy hfree htensor hval⟩

/-- Rows written stand whatever is counted after them. -/
theorem Work.wroteRows_count {w : Work} {x : Issued} {c tile : Nat} {form : OutForm} {tag : TensorTag} {out : GeoRows} {m : Nat}
    {val : Nat → Nat → Val} (id n : Nat) : w.wroteRows x c tile form tag out m val →
    w.wroteRows (match x with | .done v => .done (v.count id n) | y => y) c tile form tag out m val := by
  rintro ⟨busy, cs, rfl⟩
  exact ⟨busy, _, rfl⟩

/-- A command that writes one row for each row it reads: its rows, the bytes that stand, and its tile. -/
theorem exec_wroteRows {i : Instr} {s : State} {t : TileRef} {c m : Nat} {F : Nat → Work → Issued} {form : OutForm} {bf : Bool}
    {tag : TensorTag} {os : List GeoRows} {out : GeoRows} {val : Nat → Nat → Val}
    (he : exec i s = .next (s.exec fun w => w.issue t F)) (hwf : Memory.wf s.mem = true) (h : s.work.takes t c)
    (hF : s.work.wroteRows (F c s.work) c t.tile form tag out m val) (hform : s.work.geoForm c bf tag = .ok form)
    (hlen : out.len = formBytes form * m) (hout : out.out = true) (hfree : s.work.rowsFree t.tile os) (hmem : out ∈ os)
    (hcensus : s.work.censusApart c t.tile tag out) :
    ∃ u, exec i s = .next u ∧ s.tookUp u t id ∧ s.rowsWritten u c t.tile out form tag m val := by
  obtain ⟨hbits, -⟩ := Work.geoForm_ok hform
  obtain ⟨hring, hfault⟩ := Work.rowsFree_mem hfree hmem
  obtain ⟨busy, cs, hdone⟩ := hF
  obtain ⟨v, hv⟩ : ∃ v, v = (s.work.rowMapped c t.tile form tag out busy m val).upd fun d => { d with counters := cs } := ⟨_, rfl⟩
  rw [← hv, ← Work.updTile_id v t.tile] at hdone
  have hbase : v.base = s.mem := by rw [hv]; exact Work.rowMapped_base s.work ..
  have htiles : v.d.tiles = s.dev.tiles := by rw [hv]; exact Work.rowMapped_tiles s.work ..
  have hrd (k : Nat) : (s.finish (v.took t id)).work.rd k = (s.work.rowMapped c t.tile form tag out busy m val).rd k := by
    rw [State.finish_took_rd t id hwf hbase, hv]
    rfl
  refine ⟨_, exec_issue_took he h hdone, State.finish_took_tookUp id h.2.2 htiles, ?_, fun k hrows hplace => ?_⟩
  · exact State.rowsHold_of_holdsRows (Work.holdsRows_congr hbits
      (Work.rowMapped_holds busy val hbits hlen hout hring hfault hcensus) fun r k _ _ _ => hrd k)
  · exact (hrd k).trans (Work.rowMapped_rd_other busy val hbits hlen hrows hplace)

end Sys2Proof.Machine
end

section
/-!
PROOFS. Harmonics, radial bases and couplings over rows (R270, R272, R275, R277), with their halts.
-/

namespace Sys2Proof.Machine

/-! ### The output row of a coupling -/

/-- A path added to an output row keeps its length (R275). -/
theorem couplePath_length (q : Path) (x y wt out : List Val) : (couplePath q x y wt out).length = out.length :=
  foldl_keeps_mem List.length _ _ out fun o _ _ => foldl_keeps_mem List.length _ _ o fun _ _ _ => updAt_length ..

/-- An edge's output row (R275): its paths added in table order to a row of zeros. -/
def Work.coupleRow (w : Work) (tile : Nat) (p : GcoupleParams) (ps : List Path) (r : Nat) : List Val :=
  ps.foldl (fun o q => couplePath q (w.rowVals tile (coupleRows p p.x p.xLen (coupleIn p)) (coupleIn p) r p.xLen)
    (w.rowVals tile (coupleRows p p.y p.yLen (coupleIn p)) (coupleIn p) r p.yLen)
    (w.rowVals tile (weightRows p ps) (coupleIn p) (if q.edge then r else 0) p.wLen) o) (List.replicate p.outLen Val.zero)

/-- An edge's output row has the row length of its parameters (R274). -/
theorem Work.coupleRow_length (w : Work) (tile : Nat) (p : GcoupleParams) (ps : List Path) (r : Nat) :
    (w.coupleRow tile p ps r).length = p.outLen :=
  (foldl_keeps_mem List.length _ ps _ fun _ _ _ => couplePath_length ..).trans List.length_replicate

/-- GCOUPLE makes an edge's row with each path's own weights or the shared ones (R274, R275). -/
theorem Work.coupleRow_weights (w : Work) (tile : Nat) (p : GcoupleParams) (ps : List Path) (r : Nat) :
    ps.foldl (fun o q => couplePath q (w.rowVals tile (coupleRows p p.x p.xLen (coupleIn p)) (coupleIn p) r p.xLen)
      (w.rowVals tile (coupleRows p p.y p.yLen (coupleIn p)) (coupleIn p) r p.yLen)
      (if q.edge then w.rowVals tile (weightRows p ps) (coupleIn p) r p.wLen
        else w.rowVals tile (weightRows p ps) (coupleIn p) 0 p.wLen) o) (List.replicate p.outLen Val.zero)
      = w.coupleRow tile p ps r := by
  unfold Work.coupleRow
  congr
  funext o q
  cases q.edge <;> rfl

/-! ### The commands -/

/-- A command that halts its context with a reason and a detail. -/
theorem exec_issue_haltedWith {i : Instr} {s : State} {t : TileRef} {c u r d : Nat} {F : Nat → Work → Issued}
    (he : exec i s = .next (s.exec fun w => w.issue t F)) (h : s.work.takes t c) (hF : F c s.work = .halt u r d) :
    ∃ u, exec i s = .next u ∧ u.haltedWith c r ∧ (u.work.ctx c).halt.detail = d := by
  obtain ⟨hx, hp, -⟩ := h
  obtain ⟨u, hu, hvalid, hreason, hdetail⟩ := exec_issue_halts he hx hp hF
  exact ⟨u, hu, ⟨hvalid, hreason⟩, hdetail⟩

/-- GSH_BWD or GSH_BWD2 is taken up as every instruction of the tile core is. -/
theorem exec_gshGrad (t : TileRef) (p : GshParams) (second : Bool) (s : State) :
    exec (if second then .gshBwd2 t p else .gshBwd t p) s = .next (s.exec fun w => w.issue t fun c w => w.gshGrad c t p second) := by
  cases second <;> rfl

/-- Settles O42: each instruction over rows by the one row that it writes for each row it reads, the halts by the record that they leave.
That the harmonics, the radial bases and their gradients are free functions of their inputs (log 18) and that an instruction's effect is
whole at its issue (log 36) are the model's choices. -/
theorem geometryRowsComplete : Obligations.GeometryRowsComplete := by
  unfold Obligations.GeometryRowsComplete
  refine ⟨?_, ?_, ?_, ?_, ?_, ?_, ?_, ?_⟩
  · intro t p form c s hwf h hform hdeg disp out hfree hcensus
    refine exec_wroteRows (F := fun c w => w.gsh c t p) rfl hwf h ?_ hform rfl rfl hfree (by simp) hcensus
    unfold Work.gsh
    rw [hform]
    dsimp only
    rw [if_neg (by omega)]
    refine Work.wroteRows_count (x := Work.rowMap1 ..) _ _ ?_
    exact Work.rowMap1_wroteRows hfree hcensus.1 fun _ => rfl
  · intro t p form c s h hdeg hform
    obtain ⟨u, hu, hhalt, -⟩ := exec_issue_haltedWith (i := .gsh t p) (F := fun c w => w.gsh c t p) (u := 3) (r := 0x10) (d := 0) rfl h (by
      unfold Work.gsh
      rw [hform]
      exact if_pos hdeg)
    exact ⟨u, hu, hhalt⟩
  · intro t p form c s hwf h hform hgood disp out hfree hcensus
    refine exec_wroteRows (F := fun c w => w.gradial c t p) rfl hwf h ?_ hform rfl rfl hfree (by simp) hcensus
    unfold Work.gradial
    rw [hform]
    dsimp only
    rw [if_neg (by simp [hgood])]
    exact Work.rowMap1_wroteRows hfree hcensus.1 fun _ => rfl
  · intro t p form c s h hbad hform
    obtain ⟨u, hu, hhalt, -⟩ := exec_issue_haltedWith (i := .gradial t p) (F := fun c w => w.gradial c t p) (u := 3) (r := 0x14) (d := 0)
      rfl h (by
      unfold Work.gradial
      rw [hform]
      exact if_pos hbad)
    exact ⟨u, hu, hhalt⟩
  · intro t p form ps c s hwf h hform hps f x y wt out hfree hcensus
    refine exec_wroteRows (F := fun c w => w.gcouple c t p) rfl hwf h ?_ hform rfl rfl hfree (by simp) hcensus
    unfold Work.gcouple
    rw [hform, hps]
    dsimp only
    refine Work.wroteRows_count (x := Work.rowMap1 ..) _ _ ?_
    exact Work.rowMap1_wroteRows (ins := [x, y, wt]) hfree hcensus.1 fun r =>
      (Work.coupleRow_weights s.work t.tile p ps r).trans (map_range_getD _ _ (Work.coupleRow_length ..)).symm
  · intro t p form d c s h hform hps
    refine exec_issue_haltedWith (u := 3) rfl h ?_
    unfold Work.gcouple
    rw [hform, hps]
  · intro t p second form c s hwf h hform hdeg n disp grad vec out hfree hcensus
    refine exec_wroteRows (exec_gshGrad t p second s) hwf h ?_ hform (Nat.mul_comm ..) rfl hfree (by simp) hcensus
    unfold Work.gshGrad
    rw [hform]
    dsimp only
    rw [if_neg (by omega)]
    exact Work.rowMap1_wroteRows hfree hcensus.1 fun _ => rfl
  · intro t p form c s hwf h hform hgood disp grad out hfree hcensus
    refine exec_wroteRows (F := fun c w => w.gradialGrad c t p) rfl hwf h ?_ hform (Nat.mul_comm ..) rfl hfree (by simp) hcensus
    unfold Work.gradialGrad
    rw [hform]
    dsimp only
    rw [if_neg (by simp [hgood])]
    exact Work.rowMap1_wroteRows (ins := [disp, grad]) hfree hcensus.1 fun _ => rfl

end Sys2Proof.Machine
end

section
/-!
PROOFS. The gradients of a coupling (R277): three outputs written one after another, none in another's rows, and the census of each.
-/

namespace Sys2Proof.Machine

/-! ### Lengths -/

/-- The lengths of an edge's gradients of x, of y and of the weights. -/
def gradLengths (g : List Val × List Val × List Val) : Nat × Nat × Nat := (g.1.length, g.2.1.length, g.2.2.length)

/-- A path's gradients added keep their lengths (R277). -/
theorem couplePathBwd_lengths (q : Path) (x y wt go : List Val) (g : List Val × List Val × List Val) :
    gradLengths (couplePathBwd q x y wt go g) = gradLengths g :=
  foldl_keeps_mem gradLengths _ _ g fun g _ _ => foldl_keeps_mem gradLengths _ _ g fun g e _ => by simp [gradLengths]

/-- The gradients of edges: one entry for each, of the row lengths of its parameters (R277). -/
theorem coupleBwdGo_rows (ps : List Path) (wLen xLen yLen : Nat)
    (edge : Nat → List Val × List Val × List Val × List Val × List Val) (n : Nat) :
    (coupleBwdGo ps wLen xLen yLen edge n).1.length = n
      ∧ ∀ e, e ∈ (coupleBwdGo ps wLen xLen yLen edge n).1 → gradLengths e = (xLen, yLen, wLen) := by
  induction n with
  | zero => exact ⟨rfl, fun e he => by cases he⟩
  | succ n ih =>
    obtain ⟨hlen, hall⟩ := ih
    unfold coupleBwdGo
    refine ⟨by simp [hlen], fun e he => ?_⟩
    rcases List.mem_append.mp he with he | he
    · exact hall e he
    · rw [List.mem_singleton.mp he]
      refine (foldl_keeps_mem (fun a : (List Val × List Val × List Val) × List Val => gradLengths a.1) _ ps _ fun a q _ => ?_).trans
        (by simp [gradLengths])
      dsimp only
      split
      · exact couplePathBwd_lengths ..
      · have hpath := couplePathBwd_lengths q (edge n).1 (edge n).2.1 (edge n).2.2.1 (edge n).2.2.2.2 (a.1.1, a.1.2.1, a.2)
        simp only [gradLengths, Prod.mk.injEq] at hpath ⊢
        exact ⟨hpath.1, hpath.2.1, trivial⟩

/-- A row of the weight gradient has the row length of its parameters (R274, R277). -/
theorem coupleWeightRow_length (ps : List Path) {wLen : Nat} (shared : List Val) {rows : List (List Val × List Val × List Val)}
    (h : ∀ e, e ∈ rows → e.2.2.length = wLen) (r : Nat) : (coupleWeightRow ps wLen shared rows r).length = wLen := by
  unfold coupleWeightRow
  dsimp only
  split
  · simp
  · split
    · next e he => exact h e (List.mem_of_getElem? he)
    · exact List.length_replicate

/-- A part of each entry of a list, by its elements. -/
theorem getElem?_map_range {α : Type} (rows : List α) (part : α → List Val) (e0 : α) {m r : Nat}
    (h : ∀ e, e ∈ rows → (part e).length = m) (hr : r < rows.length) :
    (rows.map part)[r]? = some ((List.range m).map fun i => ((part ((rows[r]?).getD e0))[i]?).getD .nan) := by
  rw [List.getElem?_map, List.getElem?_eq_getElem hr, Option.map_some, Option.getD_some,
    map_range_getD _ _ (h _ (List.getElem_mem hr))]

/-! ### Several outputs -/

/-- Rows to be written: where each begins, the form and the number of its values, the values, and how many rows. -/
structure RowsOut where
  key : Nat → Nat
  form : OutForm
  m : Nat
  val : Nat → Nat → Val
  n : Nat

/-- Whether a byte belongs to the rows. -/
def RowsOut.covers (o : RowsOut) (k : Nat) : Prop := ∃ r, r < o.n ∧ o.key r ≤ k ∧ k < o.key r + formBytes o.form * o.m

/-- Rows of whole bytes that do not meet one another. -/
def RowsOut.sound (o : RowsOut) : Prop :=
  fmtBits o.form.fmt = 8 * formBytes o.form
    ∧ ∀ r q, r ≠ q → o.key r + formBytes o.form * o.m ≤ o.key q ∨ o.key q + formBytes o.form * o.m ≤ o.key r

/-- The rows written, and what they count. -/
def Work.putOutRows (w : Work) (o : RowsOut) : Work × Tally := w.putRows o.key o.form o.m o.val o.n

/-- Each element of the rows is its value's code. -/
def Work.holdsOut (w : Work) (o : RowsOut) : Prop := w.holdsRows o.key o.form o.m o.val o.n

/-- A byte of no row reads as before. -/
theorem Work.rd_putOutRows_other (w : Work) {o : RowsOut} (ho : o.sound) {k : Nat} (hk : ¬ o.covers k) :
    (w.putOutRows o).1.rd k = w.rd k := by
  refine Work.rd_putRows_other ho.1 w o.val fun r hr => ?_
  refine Decidable.byContradiction fun hin => ?_
  exact hk ⟨r, hr, by omega, by omega⟩

/-- Rows hold once they are written. -/
theorem Work.putOutRows_holds (w : Work) {o : RowsOut} (ho : o.sound) : (w.putOutRows o).1.holdsOut o :=
  Work.putRows_holds ho.1 w o.val ho.2

/-- Rows hold in every working state that reads alike over their bytes. -/
theorem Work.holdsOut_congr {v w : Work} {o : RowsOut} (ho : o.sound) (hw : w.holdsOut o) (h : ∀ k, o.covers k → v.rd k = w.rd k) :
    v.holdsOut o :=
  Work.holdsRows_congr ho.1 hw fun r k hr hlo hhi => h k ⟨r, hr, hlo, hhi⟩

/-- Rows given one by one with their numbers, stored under a form. -/
def Work.putPieces (w : Work) (key : Nat → Nat) (form : OutForm) (vs : List (List Val)) : Work × Tally :=
  (vs.mapIdx fun r v => (r, v)).foldl (fun (a : Work × Tally) e => a.1.putRow (key e.1) form a.2 e.2) (w, Tally.empty)

/-- Rows given one by one, each by its values, are written as rows. -/
theorem Work.putPieces_rows (w : Work) (o : RowsOut) (vs : List (List Val)) (hlen : vs.length = o.n)
    (h : ∀ r, r < o.n → vs[r]? = some ((List.range o.m).map (o.val r))) : w.putPieces o.key o.form vs = w.putOutRows o := by
  unfold Work.putPieces
  rw [mapIdx_pairs_range vs _ hlen h, List.foldl_map]
  rfl

/-- The rows of an operand, with the values to be written. -/
def Work.outRows (w : Work) (tile : Nat) (o : GeoRows) (form : OutForm) (m : Nat) (val : Nat → Nat → Val) : RowsOut :=
  { key := w.geoKey tile o, form := form, m := m, val := val, n := o.rows }

/-- An operand written without a fault is sound (R270, R279). -/
theorem Work.outRows_sound {w : Work} {tile m : Nat} {o : GeoRows} {form : OutForm} (val : Nat → Nat → Val)
    (hbits : fmtBits form.fmt = 8 * formBytes form) (hlen : o.len = formBytes form * m) (hout : o.out = true)
    (hring : ∀ n, o.src ≠ .ring n) (hfault : w.geoFault tile o = none) : (w.outRows tile o form m val).sound :=
  ⟨hbits, fun _ _ hne => hlen ▸ Work.geoKey_apart hring hfault hout hne⟩

/-- Operands whose rows do not meet share no byte. -/
theorem Work.outRows_disjoint {w : Work} {tile m m' : Nat} {a b : GeoRows} {fa fb : OutForm} {va vb : Nat → Nat → Val}
    (h : w.rowsApart tile a b) (ha : a.len = formBytes fa * m) (hb : b.len = formBytes fb * m') (k : Nat)
    (hk : (w.outRows tile a fa m va).covers k) : ¬ (w.outRows tile b fb m' vb).covers k := by
  obtain ⟨r, hr, hlo, hhi⟩ := hk
  rintro ⟨q, hq, hlo', hhi'⟩
  have hapart := h r q hr hq
  rw [ha, hb] at hapart
  dsimp only [Work.outRows] at hlo hhi hlo' hhi'
  omega

/-- The census record of a tensor stands apart from an operand's bytes. -/
theorem Work.outRows_census {w : Work} {c tile m : Nat} {tag : TensorTag} {o : GeoRows} {form : OutForm} {val : Nat → Nat → Val}
    (h : w.censusApart c tile tag o) (hlen : o.len = formBytes form * m) (k : Nat) (hk : (w.outRows tile o form m val).covers k) :
    k < w.censusPlace c tag ∨ w.censusPlace c tag + 192 ≤ k := by
  obtain ⟨r, hr, hlo, hhi⟩ := hk
  have hplace := h.2 r hr
  rw [hlen] at hplace
  dsimp only [Work.outRows] at hlo hhi
  omega

/-! ### Several censuses -/

/-- A census keeps every context's job. -/
theorem Work.censused_job (w : Work) (c k : Nat) (form : OutForm) (tag : TensorTag) (y : Tally) :
    ((w.censused c form tag y).ctx k).job = (w.ctx k).job := by
  have hcount (a n : Nat) (bs : List Byte) : ((w.wr a bs).count Ctr.censusAdds n).ctx k = w.ctx k := rfl
  unfold Work.censused
  split
  · rfl
  · refine (Work.updCtx_keeps Ctx.job _ c k _ ?_).trans (congrArg Ctx.job (hcount ..))
    exact fun _ => rfl

/-- A census table and its records' places are those of the context's job (R290). -/
theorem Work.census_congr {v w : Work} {c : Nat} (h : (v.ctx c).job = (w.ctx c).job) :
    (v.ctx c).censusTable = (w.ctx c).censusTable ∧ ∀ tag, v.censusPlace c tag = w.censusPlace c tag := by
  have htable : (v.ctx c).censusTable = (w.ctx c).censusTable := by unfold Ctx.censusTable; rw [h]
  have hstep : (v.ctx c).step = (w.ctx c).step := by unfold Ctx.step; rw [h]
  exact ⟨htable, fun tag => by unfold Work.censusPlace; rw [htable, hstep]⟩

/-- Outputs with their tensors and counts, each added to its census in turn (R290). -/
def Work.censusedAll (w : Work) (c : Nat) (l : List (OutForm × TensorTag × Tally)) : Work :=
  l.foldl (fun v e => v.censused c e.1 e.2.1 e.2.2) w

/-- Censuses keep anything that each of them keeps. -/
theorem Work.censusedAll_keeps {β : Type} (p : Work → β) (hp : ∀ v c form tag y, p (Work.censused v c form tag y) = p v) (w : Work)
    (c : Nat) (l : List (OutForm × TensorTag × Tally)) : p (w.censusedAll c l) = p w :=
  Work.foldl_keeps p _ (fun _ _ => hp ..) l w

/-- Censuses leave the bytes apart from their records (R291). -/
theorem Work.censusedAll_rd {w : Work} {c k : Nat} {l : List (OutForm × TensorTag × Tally)} (hbins : ∀ e, e ∈ l → e.2.2.hist.length = 16)
    (hk : ∀ e, e ∈ l → k < w.censusPlace c e.2.1 ∨ w.censusPlace c e.2.1 + 192 ≤ k) : (w.censusedAll c l).rd k = w.rd k := by
  induction l generalizing w with
  | nil => rfl
  | cons e l ih =>
    have hplace := (Work.census_congr (w.censused_job c c e.1 e.2.1 e.2.2)).2
    refine (ih (fun e he => hbins e (List.mem_cons_of_mem _ he)) fun a ha => ?_).trans
      (Work.censused_rd_apart e.1 (hbins e List.mem_cons_self) (hk e List.mem_cons_self))
    rw [hplace]
    exact hk a (List.mem_cons_of_mem _ ha)

/-! ### The three gradients -/

/-- The gradients of a coupling as rows to be written: of x, of y and of the weights (R277). -/
def Work.coupleGrads (w : Work) (tile : Nat) (p : GcoupleParams) (ps : List Path) (fx fy fw : OutForm) : RowsOut × RowsOut × RowsOut :=
  let g := coupleBwdGo ps p.wLen p.xLen p.yLen (w.coupleEdge tile p ps) p.edges
  (w.outRows tile (coupleOuts p ps fx fy fw).1 fx p.xLen fun r i => (((g.1[r]?).getD ([], [], [])).1[i]?).getD .nan,
    w.outRows tile (coupleOuts p ps fx fy fw).2.1 fy p.yLen fun r i => (((g.1[r]?).getD ([], [], [])).2.1[i]?).getD .nan,
    w.outRows tile (coupleOuts p ps fx fy fw).2.2 fw p.wLen fun r i => ((coupleWeightRow ps p.wLen g.2 g.1 r)[i]?).getD .nan)

/-- Three outputs written one after another, and what each counts. -/
def Work.putThree (w : Work) (o : RowsOut × RowsOut × RowsOut) : Work × Tally × Tally × Tally :=
  let a := w.putOutRows o.1
  let b := a.1.putOutRows o.2.1
  let d := b.1.putOutRows o.2.2
  (d.1, a.2, b.2, d.2)

/-- What three outputs keep: anything that one write keeps. -/
theorem Work.putThree_keeps {β : Type} (p : Work → β) (hwr : ∀ v k bs, p (Work.wr v k bs) = p v) (w : Work)
    (o : RowsOut × RowsOut × RowsOut) : p (w.putThree o).1 = p w :=
  (Work.putRows_keeps p hwr ..).trans ((Work.putRows_keeps p hwr ..).trans (Work.putRows_keeps p hwr ..))

/-- Three outputs that share no byte hold once they are written. -/
theorem Work.putThree_holds (w : Work) {a b d : RowsOut} (ha : a.sound) (hb : b.sound) (hd : d.sound)
    (hab : ∀ k, a.covers k → ¬ b.covers k) (had : ∀ k, a.covers k → ¬ d.covers k) (hbd : ∀ k, b.covers k → ¬ d.covers k) :
    (w.putThree (a, b, d)).1.holdsOut a ∧ (w.putThree (a, b, d)).1.holdsOut b ∧ (w.putThree (a, b, d)).1.holdsOut d := by
  refine ⟨?_, ?_, ?_⟩
  · exact Work.holdsOut_congr ha (Work.putOutRows_holds w ha) fun k hk =>
      (Work.rd_putOutRows_other _ hd (had k hk)).trans (Work.rd_putOutRows_other _ hb (hab k hk))
  · exact Work.holdsOut_congr hb (Work.putOutRows_holds _ hb) fun k hk => Work.rd_putOutRows_other _ hd (hbd k hk)
  · exact Work.putOutRows_holds _ hd

/-- The work of GCOUPLE_BWD counted (R277). -/
def Work.countCouple (w : Work) (p : GcoupleParams) (ps : List Path) : Work :=
  (w.count Ctr.geomCoupleMacs (coupleMacsBwd ps * p.edges)).count Ctr.geomBusyCycles
    (ceilDiv (coupleMacsBwd ps * p.edges) (if p.bf16In then 512 else 256))

/-- The work counted changes no context. -/
theorem Work.countCouple_ctx (w : Work) (p : GcoupleParams) (ps : List Path) (k : Nat) : (w.countCouple p ps).ctx k = w.ctx k := rfl

/-- The working state that GCOUPLE_BWD leaves (R277): the gradients written, its work counted, their censuses added. -/
def Work.coupleGraded (w : Work) (c tile : Nat) (p : GcoupleParams) (ps : List Path) (fx fy fw : OutForm) : Work :=
  let a := w.putThree (w.coupleGrads tile p ps fx fy fw)
  (a.1.countCouple p ps).censusedAll c [(fx, p.tag, a.2.1), (fy, p.tagY, a.2.2.1), (fw, p.tagW, a.2.2.2)]

section

variable {w : Work} {c : Nat} {t : TileRef} {p : GcoupleParams} {ps : List Path} {fx fy fw : OutForm}

/-- GCOUPLE_BWD changes no tile. -/
theorem Work.coupleGraded_tiles : (w.coupleGraded c t.tile p ps fx fy fw).d.tiles = w.d.tiles :=
  (Work.censusedAll_keeps (fun v => v.d.tiles) Work.censused_tiles ..).trans (Work.putThree_keeps (fun v => v.d.tiles) (fun _ _ _ => rfl) ..)

/-- GCOUPLE_BWD writes on memory as it was found. -/
theorem Work.coupleGraded_base : (w.coupleGraded c t.tile p ps fx fy fw).base = w.base :=
  (Work.censusedAll_keeps Work.base Work.censused_base ..).trans (Work.putThree_keeps Work.base (fun _ _ _ => rfl) ..)

/-- Apart from its census records, GCOUPLE_BWD leaves what its gradients leave (R291). -/
theorem Work.coupleGraded_rd {k : Nat}
    (hk : ∀ tag, tag = p.tag ∨ tag = p.tagY ∨ tag = p.tagW → k < w.censusPlace c tag ∨ w.censusPlace c tag + 192 ≤ k) :
    (w.coupleGraded c t.tile p ps fx fy fw).rd k = (w.putThree (w.coupleGrads t.tile p ps fx fy fw)).1.rd k := by
  obtain ⟨a, ha⟩ : ∃ a, a = w.putThree (w.coupleGrads t.tile p ps fx fy fw) := ⟨_, rfl⟩
  have hplace (tag : TensorTag) : a.1.censusPlace c tag = w.censusPlace c tag := by
    rw [ha]
    exact Work.putThree_keeps (fun v => v.censusPlace c tag) (fun _ _ _ => rfl) ..
  obtain ⟨hx, hy, hw⟩ : a.2.1.hist.length = 16 ∧ a.2.2.1.hist.length = 16 ∧ a.2.2.2.hist.length = 16 := by
    rw [ha]
    exact ⟨Work.putRows_bins .., Work.putRows_bins .., Work.putRows_bins ..⟩
  have hcount (tag : TensorTag) : (a.1.countCouple p ps).censusPlace c tag = a.1.censusPlace c tag := rfl
  unfold Work.coupleGraded
  rw [← ha, Work.censusedAll_rd]
  · rfl
  · simp [hx, hy, hw]
  · intro e he
    rw [hcount, hplace]
    refine hk _ ?_
    simp only [List.mem_cons, List.not_mem_nil, or_false] at he
    rcases he with rfl | rfl | rfl
    · exact .inl rfl
    · exact .inr (.inl rfl)
    · exact .inr (.inr rfl)

end

/-- The gradients of edges written one by one: of x, of y and of the weights (R277). -/
def Work.gradPieces (w : Work) (tile : Nat) (p : GcoupleParams) (ps : List Path) (fx fy fw : OutForm) : Work × Tally × Tally × Tally :=
  let g := coupleBwdGo ps p.wLen p.xLen p.yLen (w.coupleEdge tile p ps) p.edges
  let outs := coupleOuts p ps fx fy fw
  let a := w.putPieces (w.geoKey tile outs.1) fx (g.1.map fun e => e.1)
  let b := a.1.putPieces (w.geoKey tile outs.2.1) fy (g.1.map fun e => e.2.1)
  let d := b.1.putPieces (w.geoKey tile outs.2.2) fw ((List.range outs.2.2.rows).map (coupleWeightRow ps p.wLen g.2 g.1))
  (d.1, a.2, b.2, d.2)

/-- The gradients of edges written one by one are written as rows (R277). -/
theorem Work.gradPieces_eq (w : Work) (tile : Nat) (p : GcoupleParams) (ps : List Path) (fx fy fw : OutForm) :
    w.gradPieces tile p ps fx fy fw = w.putThree (w.coupleGrads tile p ps fx fy fw) := by
  obtain ⟨g, hg⟩ : ∃ g, g = coupleBwdGo ps p.wLen p.xLen p.yLen (w.coupleEdge tile p ps) p.edges := ⟨_, rfl⟩
  obtain ⟨hrows, hall⟩ := coupleBwdGo_rows ps p.wLen p.xLen p.yLen (w.coupleEdge tile p ps) p.edges
  unfold Work.gradPieces Work.coupleGrads
  rw [← hg] at hrows hall ⊢
  have hlengths (e : List Val × List Val × List Val) (he : e ∈ g.1) :
      e.1.length = p.xLen ∧ e.2.1.length = p.yLen ∧ e.2.2.length = p.wLen := by simpa [gradLengths] using hall e he
  have hx (v : Work) := v.putPieces_rows (w.outRows tile (coupleOuts p ps fx fy fw).1 fx p.xLen fun r i =>
    (((g.1[r]?).getD ([], [], [])).1[i]?).getD .nan) _ ((List.length_map _).trans hrows) fun r hr =>
      getElem?_map_range g.1 (fun e => e.1) ([], [], []) (fun e he => (hlengths e he).1) (by rw [hrows]; exact hr)
  have hy (v : Work) := v.putPieces_rows (w.outRows tile (coupleOuts p ps fx fy fw).2.1 fy p.yLen fun r i =>
    (((g.1[r]?).getD ([], [], [])).2.1[i]?).getD .nan) _ ((List.length_map _).trans hrows) fun r hr =>
      getElem?_map_range g.1 (fun e => e.2.1) ([], [], []) (fun e he => (hlengths e he).2.1) (by rw [hrows]; exact hr)
  have hw (v : Work) := v.putPieces_rows (w.outRows tile (coupleOuts p ps fx fy fw).2.2 fw p.wLen fun r i =>
    ((coupleWeightRow ps p.wLen g.2 g.1 r)[i]?).getD .nan)
      ((List.range (coupleOuts p ps fx fy fw).2.2.rows).map (coupleWeightRow ps p.wLen g.2 g.1))
      (by rw [List.length_map, List.length_range]; rfl) fun r hr => by
        rw [List.getElem?_map, List.getElem?_range (show r < (coupleOuts p ps fx fy fw).2.2.rows from hr), Option.map_some]
        exact congrArg some (map_range_getD _ _ (coupleWeightRow_length _ _ (fun e he => (hlengths e he).2.2) _)).symm
  dsimp only [Work.outRows] at hx hy hw
  dsimp only [Work.putThree, Work.outRows]
  rw [hx, hy, hw]

/-- GCOUPLE_BWD with its operands without a fault, its paths good and its tensors in the census table is done (R277). -/
theorem Work.gcoupleGrad_done {w : Work} {c : Nat} {t : TileRef} {p : GcoupleParams} {ps : List Path} {fx fy fw : OutForm}
    (hx : w.geoForm c p.bf16Out p.tag = .ok fx) (hy : w.geoForm c p.bf16Out p.tagY = .ok fy)
    (hw : w.geoForm c p.bf16Out p.tagW = .ok fw) (hps : w.pathTable t.tile p = .ok ps)
    (hfree : w.rowsFree t.tile (coupleIns p ps ++ [(coupleOuts p ps fx fy fw).1, (coupleOuts p ps fx fy fw).2.1, (coupleOuts p ps fx fy fw).2.2]))
    (htensor : ∀ tag, tag = p.tag ∨ tag = p.tagY ∨ tag = p.tagW → tag.tensor < (w.ctx c).censusTable.2) :
    w.gcoupleGrad c t p = .done (w.coupleGraded c t.tile p ps fx fy fw) := by
  have hjob : ((w.putThree (w.coupleGrads t.tile p ps fx fy fw)).1.ctx c).job = (w.ctx c).job :=
    Work.putThree_keeps (fun v => (v.ctx c).job) (fun _ _ _ => rfl) ..
  have hcensus (v : Work) (form : OutForm) (tag : TensorTag) (y : Tally) (htag : tag = p.tag ∨ tag = p.tagY ∨ tag = p.tagW)
      (hv : (v.ctx c).job = (w.ctx c).job) : v.geoCensus c form tag y = .done (v.censused c form tag y) :=
    Work.geoCensus_done y (by rw [(Work.census_congr hv).1]; exact htensor tag htag)
  unfold Work.gcoupleGrad
  rw [hx, hy, hw, hps]
  refine Work.rowInstr_done hfree ?_ Work.coupleGraded_tiles
  change (match ((w.gradPieces t.tile p ps fx fy fw).1.countCouple p ps).geoCensus c fx p.tag (w.gradPieces t.tile p ps fx fy fw).2.1 with
    | .done v =>
      (match v.geoCensus c fy p.tagY (w.gradPieces t.tile p ps fx fy fw).2.2.1 with
        | .done v => v.geoCensus c fw p.tagW (w.gradPieces t.tile p ps fx fy fw).2.2.2
        | r => r)
    | r => r) = _
  unfold Work.coupleGraded
  rw [Work.gradPieces_eq]
  generalize w.putThree (w.coupleGrads t.tile p ps fx fy fw) = a at hjob
  rw [← Work.countCouple_ctx a.1 p ps] at hjob
  rw [hcensus _ fx p.tag _ (.inl rfl) hjob]
  dsimp only
  rw [hcensus _ fy p.tagY _ (.inr (.inl rfl)) ((Work.censused_job ..).trans hjob)]
  exact hcensus _ fw p.tagW _ (.inr (.inr rfl)) ((Work.censused_job ..).trans ((Work.censused_job ..).trans hjob))

/-- Settles O43: the three gradients by the rows that each writes, none in another's rows, their censuses apart from all of them. How a
sum rounds is the model's free value, and that the whole effect lands in the command is its choice (log 36). -/
theorem couplingGradientsComplete : Obligations.CouplingGradientsComplete := by
  unfold Obligations.CouplingGradientsComplete
  intro t p fx fy fw ps c s hwf h hx hy hw hps gx gy gw g hfree hcensus hxy hxw hyw
  have hdone := Work.gcoupleGrad_done hx hy hw hps hfree fun tag htag => (hcensus tag htag gx (.inl rfl)).1
  rw [← Work.updTile_id (Work.coupleGraded ..) t.tile] at hdone
  have hsound (o : GeoRows) (ho : o = gx ∨ o = gy ∨ o = gw) (form : OutForm) (hbits : fmtBits form.fmt = 8 * formBytes form) (m : Nat)
      (val : Nat → Nat → Val) (hlen : o.len = formBytes form * m) : (s.work.outRows t.tile o form m val).sound := by
    obtain ⟨hring, hfault⟩ := Work.rowsFree_mem hfree (o := o) (List.mem_append_right _ (by simpa using ho))
    exact Work.outRows_sound val hbits hlen (by rcases ho with rfl | rfl | rfl <;> rfl) hring hfault
  obtain ⟨hbx, -⟩ := Work.geoForm_ok hx
  obtain ⟨hby, -⟩ := Work.geoForm_ok hy
  obtain ⟨hbw, -⟩ := Work.geoForm_ok hw
  have hrd (k : Nat) (o : GeoRows) (ho : o = gx ∨ o = gy ∨ o = gw) (form : OutForm) (m : Nat) (val : Nat → Nat → Val)
      (hlen : o.len = formBytes form * m) (hk : (s.work.outRows t.tile o form m val).covers k) :
      (s.finish ((s.work.coupleGraded c t.tile p ps fx fy fw).took t id)).work.rd k
        = (s.work.putThree (s.work.coupleGrads t.tile p ps fx fy fw)).1.rd k :=
    (State.finish_took_rd t id hwf Work.coupleGraded_base k).trans (Work.coupleGraded_rd fun tag htag =>
      Work.outRows_census (hcensus tag htag o ho) hlen k hk)
  have hsx := hsound gx (.inl rfl) fx hbx p.xLen (fun r i => (((g.1[r]?).getD ([], [], [])).1[i]?).getD .nan) rfl
  have hsy := hsound gy (.inr (.inl rfl)) fy hby p.yLen (fun r i => (((g.1[r]?).getD ([], [], [])).2.1[i]?).getD .nan) rfl
  have hsw := hsound gw (.inr (.inr rfl)) fw hbw p.wLen (fun r i => ((coupleWeightRow ps p.wLen g.2 g.1 r)[i]?).getD .nan) rfl
  obtain ⟨hholdX, hholdY, hholdW⟩ := Work.putThree_holds s.work hsx hsy hsw (Work.outRows_disjoint hxy rfl rfl)
    (Work.outRows_disjoint hxw rfl rfl) (Work.outRows_disjoint hyw rfl rfl)
  refine ⟨_, exec_issue_took rfl h hdone, State.finish_took_tookUp id h.2.2 Work.coupleGraded_tiles, ?_, ?_, ?_⟩
  · exact State.rowsHold_of_holdsRows (Work.holdsOut_congr hsx hholdX fun k => hrd k gx (.inl rfl) fx p.xLen _ rfl)
  · exact State.rowsHold_of_holdsRows (Work.holdsOut_congr hsy hholdY fun k => hrd k gy (.inr (.inl rfl)) fy p.yLen _ rfl)
  · exact State.rowsHold_of_holdsRows (Work.holdsOut_congr hsw hholdW fun k => hrd k gw (.inr (.inr rfl)) fw p.wLen _ rfl)

end Sys2Proof.Machine
end

section
/-!
PROOFS. GBIN and GSTAGE (R263 to R265): the bytes stored in the tile store, and the coordinates staged in a vector register.
-/

namespace Sys2Proof.Machine

/-! ### Reading what was stored -/

/-- A byte after a store: the stored one, or what stood there. -/
theorem Work.rd_wr (w : Work) (key : Nat) (bs : List Byte) (k : Nat) :
    (w.wr key bs).rd k = if key ≤ k then (bs[k - key]?).getD (w.rd k) else w.rd k := by
  by_cases hin : key ≤ k ∧ k < key + bs.length
  · obtain ⟨hlo, hhi⟩ := hin
    obtain ⟨i, rfl⟩ : ∃ i, k = key + i := ⟨k - key, by omega⟩
    have hi : i < bs.length := by omega
    rw [if_pos hlo, Nat.add_sub_cancel_left, List.getElem?_eq_getElem hi, Option.getD_some]
    unfold Work.rd
    rw [Work.wr_log, Memory.find_journal_at _ _ _ _ hi, List.getElem?_eq_getElem hi]
  · rw [Work.rd_wr_other _ _ _ _ (by omega)]
    split
    · rw [List.getElem?_eq_none (by omega), Option.getD_none]
    · rfl

/-- Two working states that read alike have the same bytes. -/
theorem Work.rdN_congr {v w : Work} (h : ∀ k, v.rd k = w.rd k) (key n : Nat) : v.rdN key n = w.rdN key n :=
  List.map_congr_left fun _ _ => h _

/-- A store of two pieces is a store of the one and of the other behind it. -/
theorem Work.wr_append (w : Work) (key : Nat) (as bs : List Byte) : w.wr key (as ++ bs) = (w.wr key as).wr (key + as.length) bs := by
  unfold Work.wr
  rw [journal_append]

/-- A number of a list stored number by number reads back. -/
theorem Work.le_wr_numbers {n : Nat} (l : List Nat) (w : Work) (key : Nat) {i : Nat} (hi : i < l.length) :
    (w.wr key (l.flatMap fun x => leBytes n x)).le (key + n * i) n = (l[i]?).getD 0 % 256 ^ n := by
  induction l generalizing w key i with
  | nil => cases hi
  | cons x l ih =>
    rw [List.flatMap_cons, Work.wr_append, leBytes_length]
    cases i with
    | zero =>
      have hsame := Work.rdN_wr_same w key (leBytes n x)
      rw [leBytes_length] at hsame
      unfold Work.le
      rw [Nat.mul_zero, Nat.add_zero, Work.rdN_wr_other _ _ _ _ _ (.inl (Nat.le_refl _)), hsame, leNat_leBytes]
      rfl
    | succ i =>
      rw [Nat.mul_succ, Nat.add_comm (n * i), ← Nat.add_assoc, ih _ _ (by simpa using hi)]
      rfl

/-- What a later state holds where a command's meaning ends in one more store. -/
theorem State.finish_took_stores_after {s m : State} {v w : Work} (t : TileRef) (g : Tile → Tile) {key : Nat} {bs : List Byte}
    (hwf : Memory.wf s.mem = true) (hb : v.base = s.mem) (hm : ∀ k, Memory.read m.mem k = w.rd k)
    (hv : ∀ k, v.rd k = (w.wr key bs).rd k) : m.stores (s.finish (v.took t g)) key bs := by
  intro k
  rw [hm, ← Work.rd_wr, ← hv]
  exact State.finish_took_rd t g hwf hb k

/-! ### Instructions on ranges of the tile store -/

/-- An instruction on ranges without a fault, on an idle array, has its effect. -/
theorem Work.geoInstr_idle {w : Work} {tile : Nat} {rs : List (Nat × Nat × Bool)} (regs : List (Nat × Nat)) (f : Work → Issued)
    (hranges : w.storeRanges tile rs = none) (hmat : (w.tile tile).mat = []) : w.geoInstr tile rs regs f = f w := by
  unfold Work.geoInstr
  rw [hranges]
  dsimp only
  rw [Work.heldByArray_idle hmat, if_neg (by decide)]

/-- Ranges without a fault lie within the tile store. -/
theorem Work.storeRanges_fit {w : Work} {tile : Nat} {rs : List (Nat × Nat × Bool)} (h : w.storeRanges tile rs = none)
    {r : Nat × Nat × Bool} (hr : r ∈ rs) : r.1 + r.2.1 ≤ tileStoreSize := by
  have hnone := List.findSome?_eq_none_iff.mp h r hr
  unfold storeFault at hnone
  refine Decidable.byContradiction fun hlt => ?_
  rw [if_neg hlt] at hnone
  cases hnone

/-- A tile core that executes is one of the 64 (R2). -/
theorem Work.executing_lt {w : Work} {t : TileRef} {c : Nat} (h : w.executing t = some c) : t.tile < 64 := by
  obtain ⟨howner, -⟩ := Work.executing_some h
  exact BitVec.lt_of_getLsbD (List.find?_some (p := fun c => (w.ctx c).tileMask.getLsbD t.tile) howner)

/-- The tile stores lie below the keys of the vector registers (R22, R230). -/
theorem tileStore_below {tile off n : Nat} (htile : tile < 64) (h : off + n ≤ tileStoreSize) : tileStoreAddr tile off + n ≤ 2 ^ 56 := by
  unfold tileStoreSize at h
  unfold tileStoreAddr tileStoreBase tileStoreSize
  omega

/-! ### GSTAGE's coordinates -/

/-- The staged coordinates of the group (R265). -/
def Stage.groupRows (x : Stage) : List (List Nat) := x.group.map fun a => (List.range 3).map fun k => x.coord a [0, 0, 0] k

/-- The staged coordinates of the candidates (R265). -/
def Stage.candRows (x : Stage) : List (List Nat) := x.cands.map fun a => (List.range 3).map fun k => x.coord a.1 a.2 k

/-- The indices and shifts of the candidates, as they are stored (R265). -/
def Stage.candBytes (x : Stage) : List Byte :=
  x.cands.flatMap fun a => leBytes 4 a.1.idx ++ (a.2.flatMap fun k => leBytes 1 (ofSigned 8 k)) ++ leBytes 1 0

/-- The threshold radius of a stage (R265). -/
def Stage.theta (x : Stage) : Val :=
  x.cell.rc.add ((((x.groupRows ++ x.candRows).flatten.map fun k => (bf16.decode k).abs).foldl Val.greatest Val.zero).upPow2.scale (-6))

/-- An atom's coordinates put into a register, 64 elements apart (R265). -/
def Work.putAtom (w : Work) (key n : Nat) (row : List Nat) : Work :=
  (List.range 3).foldl (fun w k => w.putElem key 16 (64 * k + n) (at3 0 row k)) w

/-- A group's coordinates put into a register (R265). -/
def Work.putGroup (w : Work) (key : Nat) (rows : List (List Nat)) : Work :=
  (rows.mapIdx fun i r => (i, r)).foldl (fun w e => w.putAtom key e.1 e.2) w

/-- Coordinates stored in rows of 16 bytes (R265). -/
def Work.putCoords (w : Work) (key : Nat) (rows : List (List Nat)) : Work :=
  (rows.mapIdx fun i r => (i, r)).foldl (fun w e => w.wr (key + 16 * e.1) (e.2.flatMap fun x => leBytes 2 x)) w

/-- Numbered rows by their numbers. -/
theorem mapIdx_pairs (rows : List (List Nat)) :
    rows.mapIdx (fun i r => (i, r)) = (List.range rows.length).map fun i => (i, (rows[i]?).getD []) :=
  mapIdx_pairs_range rows _ rfl fun i hi => by rw [List.getElem?_eq_getElem hi, Option.getD_some]

/-- What an atom's coordinates keep: anything that each of its elements keeps. -/
theorem Work.putAtom_keeps {β : Type} (p : Work → β) {key n : Nat}
    (hput : ∀ v k code, k < 3 → p (Work.putElem v key 16 (64 * k + n) code) = p v) (w : Work) (row : List Nat) :
    p (w.putAtom key n row) = p w :=
  foldl_keeps_mem p _ _ w fun v k hk => hput v k _ (List.mem_range.mp hk)

/-- What coordinates put into a register keep: anything that one write keeps. -/
theorem Work.putGroup_keeps {β : Type} (p : Work → β) (hwr : ∀ v k bs, p (Work.wr v k bs) = p v) (w : Work) (key : Nat)
    (rows : List (List Nat)) : p (w.putGroup key rows) = p w :=
  Work.foldl_keeps p _ (fun v _ => Work.putAtom_keeps p (fun _ _ _ _ => hwr ..) v _) _ w

/-- A coordinate of an atom in a register (R265). -/
theorem Work.putAtom_elem (w : Work) (key n : Nat) (row : List Nat) {k : Nat} (hk : k < 3) :
    (w.putAtom key n row).elemAt key 16 (64 * k + n) = at3 0 row k % 2 ^ 16 :=
  (Work.foldl_reads (fun v : Work => v.elemAt key 16 (64 * k + n)) (fun v j => v.putElem key 16 (64 * j + n) (at3 0 row j)) k
    (at3 0 row k % 2 ^ 16) _ (fun v => Work.elemAt_putElem_same v key 2 _ _)
    (fun v j _ hne => Work.elemAt_putElem_other v key 2 _ _ _ (by omega)) w).trans (if_pos (List.mem_range.mpr hk))

/-- What coordinates stored in rows keep: anything that one write keeps. -/
theorem Work.putCoords_keeps {β : Type} (p : Work → β) (hwr : ∀ v k bs, p (Work.wr v k bs) = p v) (w : Work) (key : Nat)
    (rows : List (List Nat)) : p (w.putCoords key rows) = p w :=
  Work.foldl_keeps p _ (fun _ _ => hwr ..) _ w

/-- A list of pieces of one length. -/
theorem length_flatMap_of_length {α β : Type} {n : Nat} (l : List α) (f : α → List β) (h : ∀ x, x ∈ l → (f x).length = n) :
    (l.flatMap f).length = n * l.length := by
  induction l with
  | nil => rfl
  | cons x l ih =>
    rw [List.flatMap_cons, List.length_append, h x List.mem_cons_self, ih fun y hy => h y (List.mem_cons_of_mem _ hy), List.length_cons,
      Nat.mul_succ, Nat.add_comm]

section

variable {key : Nat} {rows : List (List Nat)}

/-- A byte outside the coordinates of a register reads as before. -/
theorem Work.rd_putGroup_other (w : Work) {k : Nat} (hlen : rows.length ≤ 64) (hk : k < key ∨ key + 384 ≤ k) :
    (w.putGroup key rows).rd k = w.rd k := by
  unfold Work.putGroup
  rw [mapIdx_pairs, List.foldl_map]
  refine foldl_keeps_mem (fun v : Work => v.rd k) _ _ w fun v i hi => Work.putAtom_keeps (fun v => v.rd k) (fun v j code hj => ?_) v _
  have hi' := List.mem_range.mp hi
  exact Work.rd_putElem_other (n := 2) v _ (by omega)

/-- A staged coordinate in a register (R265). -/
theorem Work.putGroup_elem (w : Work) {n k : Nat} (hlen : rows.length ≤ 64) (hn : n < rows.length) (hk : k < 3) :
    (w.putGroup key rows).elemAt key 16 (64 * k + n) = (((rows[n]?).getD [])[k]?).getD 0 % 2 ^ 16 := by
  unfold Work.putGroup
  rw [mapIdx_pairs, List.foldl_map]
  refine (Work.foldl_reads (fun v : Work => v.elemAt key 16 (64 * k + n)) (fun v i => v.putAtom key i ((rows[i]?).getD [])) n
    (at3 0 ((rows[n]?).getD []) k % 2 ^ 16) _ (fun v => Work.putAtom_elem v key n _ hk) (fun v i hi hne => ?_) w).trans
    (if_pos (List.mem_range.mpr hn))
  have hi' := List.mem_range.mp hi
  exact Work.putAtom_keeps (fun v => v.elemAt key 16 (64 * k + n))
    (fun v j code _ => Work.elemAt_putElem_other v key 2 _ _ _ (by omega)) v _

/-- Three coordinates take six bytes. -/
theorem coords_length {l : List Nat} (h : l.length ≤ 3) : (l.flatMap fun x => leBytes 2 x).length ≤ 6 := by
  rw [length_flatMap_of_length l _ fun _ _ => leBytes_length ..]
  omega

variable (hrows : ∀ i : Nat, ((rows[i]?).getD []).length ≤ 3)
include hrows

/-- A byte outside the rows of coordinates reads as before. -/
theorem Work.rd_putCoords_other (w : Work) {k : Nat} (hk : k < key ∨ key + 16 * rows.length ≤ k) :
    (w.putCoords key rows).rd k = w.rd k := by
  unfold Work.putCoords
  rw [mapIdx_pairs, List.foldl_map]
  refine foldl_keeps_mem (fun v : Work => v.rd k) _ _ w fun v i hi => Work.rd_wr_other v _ _ _ ?_
  have hi' := List.mem_range.mp hi
  have hlen := coords_length (hrows i)
  dsimp only
  omega

/-- A staged coordinate in its row (R265). -/
theorem Work.putCoords_le (w : Work) {r k : Nat} (hr : r < rows.length) (hk : k < ((rows[r]?).getD []).length) :
    (w.putCoords key rows).le (key + 16 * r + 2 * k) 2 = (((rows[r]?).getD [])[k]?).getD 0 % 2 ^ 16 := by
  unfold Work.putCoords
  rw [mapIdx_pairs, List.foldl_map]
  refine (Work.foldl_reads (fun v : Work => v.le (key + 16 * r + 2 * k) 2) _ r _ _ (fun v => Work.le_wr_numbers _ v _ hk)
    (fun v i hi hne => congrArg leNat (Work.rdN_wr_other v _ _ _ _ ?_)) w).trans (if_pos (List.mem_range.mpr hr))
  have hlen := coords_length (hrows i)
  have hlen' := hrows r
  dsimp only
  omega

end

/-! ### What a stage holds -/

/-- A sorted list has no new elements. -/
theorem mem_insertBy {α : Type} {lt : α → α → Bool} {x y : α} {l : List α} (h : y ∈ insertBy lt x l) : y = x ∨ y ∈ l := by
  induction l with
  | nil => exact .inl (List.mem_singleton.mp h)
  | cons z l ih =>
    unfold insertBy at h
    split at h
    · exact List.mem_cons.mp h
    · rcases List.mem_cons.mp h with rfl | h
      · exact .inr List.mem_cons_self
      · exact (ih h).imp_right (List.mem_cons_of_mem _)

/-- A list sorted has its elements alone. -/
theorem mem_sortBy {α : Type} {lt : α → α → Bool} {y : α} {l : List α} (h : y ∈ sortBy lt l) : y ∈ l := by
  suffices hgo : ∀ acc, y ∈ l.foldl (fun acc x => insertBy lt x acc) acc → y ∈ acc ∨ y ∈ l from
    (hgo [] h).resolve_left List.not_mem_nil
  clear h
  induction l with
  | nil => exact fun acc h => .inl h
  | cons x l ih =>
    intro acc h
    rcases ih _ h with h | h
    · rcases mem_insertBy h with rfl | h
      · exact .inr List.mem_cons_self
      · exact .inl h
    · exact .inr (List.mem_cons_of_mem _ h)

/-- The shift of a neighbouring bin has three components (R264). -/
theorem Cell.neighbours_shift {c : Cell} {bin : Nat} {x : Nat × List Int} (h : x ∈ c.neighbours bin) : x.2.length = 3 := by
  unfold Cell.neighbours at h
  simp only [List.mem_flatMap, List.mem_map] at h
  obtain ⟨a, -, b, -, d, -, rfl⟩ := h
  rfl

/-- The group of a stage has at most 64 atoms, and each candidate's shift three components (R264, R265). -/
theorem Work.stage_ok {w : Work} {tile : Nat} {p : GstageParams} {x : Stage} (h : w.stage tile p = .ok x) :
    x.group.length ≤ 64 ∧ ∀ a, a ∈ x.cands → a.2.length = 3 := by
  unfold Work.stage at h
  dsimp only at h
  split at h
  · cases h
  · split at h
    · cases h
    · split at h
      · cases h
      · split at h
        · cases h
        · split at h
          · cases h
          · split at h
            · cases h
            · cases h
              refine ⟨?_, fun a ha => ?_⟩
              · exact Nat.le_trans (List.length_take_le ..) (by omega)
              · obtain ⟨y, hy, ha⟩ := List.mem_flatMap.mp ha
                obtain ⟨b, -, rfl⟩ := List.mem_map.mp ha
                obtain ⟨bin, -, hbin⟩ := List.mem_flatMap.mp (List.mem_eraseDups.mp (mem_sortBy hy))
                exact Cell.neighbours_shift hbin

/-- A candidate takes eight bytes (R265). -/
theorem Stage.candBytes_length {x : Stage} (h : ∀ a, a ∈ x.cands → a.2.length = 3) : x.candBytes.length = 8 * x.cands.length := by
  refine length_flatMap_of_length x.cands _ fun a ha => ?_
  rw [List.length_append, List.length_append, length_flatMap_of_length a.2 _ fun _ _ => leBytes_length .., h a ha]
  simp only [leBytes_length]

end Sys2Proof.Machine
end

section
/-!
PROOFS. The commands of a radius graph (R263 to R268): GBIN and GSTAGE by what they store, GEMIT by the block that it leaves.
-/

namespace Sys2Proof.Machine

/-! ### GBIN -/

/-- GBIN of a bad cell halts with its reason (R262 to R264). -/
theorem Work.gbin_badCell {w : Work} {t : TileRef} {p : GbinParams} {r : Nat} (hcount : p.count ≤ 2 ^ 24)
    (hmat : (w.tile t.tile).mat = []) (hread : w.storeRanges t.tile [(p.cell, 128, true), (p.atoms, 16 * p.count, true)] = none)
    (hcell : w.cell (tileStoreAddr t.tile p.cell) = .error r) : w.gbin t p = .halt 3 r 0 := by
  unfold Work.gbin
  rw [if_neg (by omega), Work.geoInstr_idle _ _ hread hmat]
  rw [hcell]

/-- The atoms that GBIN keeps (R263). -/
def Work.keptAtoms (w : Work) (t : TileRef) (p : GbinParams) (x : Cell) : List Atom :=
  (List.range p.count).filterMap fun i => w.binAtom x (tileStoreAddr t.tile p.atoms) i

/-- The binned list (R263): the atoms' entries, ordered by bin. -/
def binnedList (atoms : List Atom) : List Byte := ((sortBy (fun a b => decide (a.bin < b.bin)) atoms).map atomEntry).flatten

/-- How many atoms stand before each bin of a cell (R263). -/
def binStarts (x : Cell) (atoms : List Atom) : List Byte :=
  ((List.range (x.total + 1)).map fun b => leBytes 4 (atoms.filter fun a => decide (a.bin < b)).length).flatten

/-- The work of GBIN counted. -/
def Work.countBin (w : Work) (p : GbinParams) (kept : Nat) : Work :=
  (w.count Ctr.geomAtomsDropped (p.count - kept)).count Ctr.geomBusyCycles (ceilDiv p.count 16)

/-- GBIN stores the binned list and the starts (R263). -/
theorem Work.gbin_done {w : Work} {t : TileRef} {p : GbinParams} {x : Cell} (hcount : p.count ≤ 2 ^ 24)
    (hmat : (w.tile t.tile).mat = []) (hread : w.storeRanges t.tile [(p.cell, 128, true), (p.atoms, 16 * p.count, true)] = none)
    (hcell : w.cell (tileStoreAddr t.tile p.cell) = .ok x)
    (hwrite : w.storeRanges t.tile [(p.list, 32 * (w.keptAtoms t p x).length, false), (p.starts, 4 * (x.total + 1), false)] = none) :
    w.gbin t p = .done (((w.wr (tileStoreAddr t.tile p.list) (binnedList (w.keptAtoms t p x))).wr (tileStoreAddr t.tile p.starts)
      (binStarts x (w.keptAtoms t p x))).countBin p (w.keptAtoms t p x).length) := by
  unfold Work.gbin
  rw [if_neg (by omega), Work.geoInstr_idle _ _ hread hmat]
  dsimp only
  rw [hcell]
  dsimp only
  exact Work.geoInstr_idle _ _ hwrite hmat

/-! ### GSTAGE -/

/-- The bytes that GSTAGE stores (R265): the group's coordinates in the operand register, the candidates' in their rows, and their
indices and shifts. -/
def Work.staged (w : Work) (t : TileRef) (p : GstageParams) (x : Stage) : Work :=
  ((w.putGroup (vregAt t.tile p.opReg 0) x.groupRows).putCoords (tileStoreAddr t.tile p.rows) x.candRows).wr
    (tileStoreAddr t.tile p.cands) x.candBytes

/-- What GSTAGE's bytes keep: anything that one write keeps. -/
theorem Work.staged_keeps {β : Type} (q : Work → β) (hwr : ∀ v k bs, q (Work.wr v k bs) = q v) (w : Work) (t : TileRef)
    (p : GstageParams) (x : Stage) : q (w.staged t p x) = q w :=
  (hwr ..).trans ((Work.putCoords_keeps q hwr ..).trans (Work.putGroup_keeps q hwr ..))

/-- GSTAGE stores its stage and puts theta into a general register (R265). -/
theorem Work.gstage_done {w : Work} {t : TileRef} {p : GstageParams} {x : Stage} (hstage : w.stage t.tile p = .ok x)
    (hmat : (w.tile t.tile).mat = [])
    (hwrite : w.storeRanges t.tile [(p.rows, 16 * x.cands.length, false), (p.cands, 8 * x.cands.length, false)] = none) :
    w.gstage t p = .done (((w.staged t p x).count Ctr.geomBusyCycles (ceilDiv (p.size + x.cands.length) 32)).updTile t.tile fun k =>
      k.setG p.thetaReg (BitVec.ofNat 64 (x.theta.mul x.theta).up32)) := by
  unfold Work.gstage
  rw [hstage]
  exact Work.geoInstr_idle _ _ hwrite hmat

/-- A group's rows of coordinates are as many as its atoms. -/
@[simp] theorem Stage.groupRows_count (x : Stage) : x.groupRows.length = x.group.length := List.length_map _

/-- The candidates' rows of coordinates are as many as the candidates. -/
@[simp] theorem Stage.candRows_count (x : Stage) : x.candRows.length = x.cands.length := List.length_map _

/-- A row of coordinates has three of them (R265). -/
theorem Stage.candRows_length (x : Stage) {i : Nat} (h : i < x.candRows.length) : ((x.candRows[i]?).getD []).length = 3 := by
  rw [List.getElem?_eq_getElem h, Option.getD_some]
  simp [Stage.candRows]

/-- No row of coordinates has more than three (R265). -/
theorem Stage.candRows_length_le (x : Stage) (i : Nat) : ((x.candRows[i]?).getD []).length ≤ 3 := by
  by_cases h : i < x.candRows.length
  · exact Nat.le_of_eq (x.candRows_length h)
  · rw [List.getElem?_eq_none (by omega)]
    exact Nat.zero_le _

section

variable {w : Work} {t : TileRef} {p : GstageParams} {x : Stage}

/-- A byte outside the ranges of GSTAGE reads as before (R265). -/
theorem Work.rd_staged_other (hgroup : x.group.length ≤ 64) {k : Nat}
    (hk : Memory.within [(tileStoreAddr t.tile p.rows, 16 * x.cands.length), (tileStoreAddr t.tile p.cands, x.candBytes.length),
      (vregAt t.tile p.opReg 0, 384)] k = false) : (w.staged t p x).rd k = w.rd k := by
  have hlen := x.candRows_count
  simp only [Memory.within, List.any_cons, List.any_nil, Bool.or_false, Bool.or_eq_false_iff, Bool.and_eq_false_iff,
    decide_eq_false_iff_not] at hk
  obtain ⟨hrows, hcands, hreg⟩ := hk
  unfold Work.staged
  rw [Work.rd_wr_other _ _ _ _ (by omega), Work.rd_putCoords_other x.candRows_length_le _ (by omega),
    Work.rd_putGroup_other _ (Nat.le_trans (Nat.le_of_eq x.groupRows_count) hgroup) (by omega)]

/-- The candidates' indices and shifts read back (R265). -/
theorem Work.staged_cands : (w.staged t p x).rdN (tileStoreAddr t.tile p.cands) x.candBytes.length = x.candBytes :=
  Work.rdN_wr_same ..

/-- A candidate's coordinate reads back where the candidates' bytes stand apart from the rows (R265). -/
theorem Work.staged_rows (hapart : p.rows + 16 * x.cands.length ≤ p.cands ∨ p.cands + x.candBytes.length ≤ p.rows) {r k : Nat}
    (hr : r < x.cands.length) (hk : k < 3) :
    (w.staged t p x).le (tileStoreAddr t.tile p.rows + 16 * r + 2 * k) 2 = (((x.candRows[r]?).getD [])[k]?).getD 0 % 2 ^ 16 := by
  have hr' : r < x.candRows.length := x.candRows_count.symm ▸ hr
  rw [← Work.putCoords_le x.candRows_length_le (w.putGroup (vregAt t.tile p.opReg 0) x.groupRows) hr' (by rw [x.candRows_length hr']; exact hk)]
  refine congrArg leNat (Work.rdN_wr_other _ _ _ _ _ ?_)
  unfold tileStoreAddr
  omega

/-- A coordinate of the group reads back: the bytes in the tile store lie below the register (R22, R230, R265). -/
theorem Work.staged_group (htile : t.tile < 64) (hstage : w.stage t.tile p = .ok x)
    (hwrite : w.storeRanges t.tile [(p.rows, 16 * x.cands.length, false), (p.cands, 8 * x.cands.length, false)] = none) {n k : Nat}
    (hn : n < x.group.length) (hk : k < 3) :
    (w.staged t p x).elemAt (vregAt t.tile p.opReg 0) 16 (64 * k + n) = (((x.groupRows[n]?).getD [])[k]?).getD 0 % 2 ^ 16 := by
  obtain ⟨hgroup, hshift⟩ := Work.stage_ok hstage
  have hrows := tileStore_below htile (Work.storeRanges_fit hwrite List.mem_cons_self)
  have hcands := tileStore_below htile (Work.storeRanges_fit hwrite (List.mem_cons_of_mem _ List.mem_cons_self))
  have hlen := x.candRows_count
  have hbytes := Stage.candBytes_length hshift
  rw [← Work.putGroup_elem w (Nat.le_trans (Nat.le_of_eq x.groupRows_count) hgroup) (x.groupRows_count.symm ▸ hn) hk]
  refine Work.elemAt_congr_above (lo := 2 ^ 56) (fun j hj => ?_) (vregAt_ge ..) 16 _
  dsimp only at hrows hcands
  unfold Work.staged
  rw [Work.rd_wr_other _ _ _ _ (by omega), Work.rd_putCoords_other x.candRows_length_le _ (by omega)]

end

/-! ### GEMIT -/

/-- A block's header takes 64 bytes (R268). -/
theorem blockHeader_length (images : Nat) (dropped : Bool) (atoms segs edges capacity : Nat) (l : BlockLay) :
    (blockHeader images dropped atoms segs edges capacity l).length = 64 := by
  simp [blockHeader]

/-- The arrays of a block begin behind its header (R268). -/
theorem blockLay_behind (capacity homes : Nat) : 1 ≤ (blockLay capacity homes).seg ∧ 1 ≤ (blockLay capacity homes).centre
    ∧ 1 ≤ (blockLay capacity homes).nbr ∧ 1 ≤ (blockLay capacity homes).disp ∧ 1 ≤ (blockLay capacity homes).shift := by
  simp only [blockLay]
  omega

/-- What segments appended to a block keep: anything that each store behind the header keeps (R267). -/
theorem Work.putSegments_keeps {β : Type} (q : Work → β) {c block : Nat} {l : BlockLay}
    (hst : ∀ v a bs, block + 64 ≤ a → q (Work.stN v c a bs) = q v)
    (hl : 1 ≤ l.seg ∧ 1 ≤ l.centre ∧ 1 ≤ l.nbr ∧ 1 ≤ l.disp ∧ 1 ≤ l.shift) (segs : List (Nat × List Edge)) (w : Work) (seg e0 : Nat) :
    q (w.putSegments c block l segs seg e0) = q w := by
  obtain ⟨hseg, hcentre, hnbr, hdisp, hshift⟩ := hl
  induction segs generalizing w seg e0 with
  | nil => rfl
  | cons s segs ih =>
    rw [Work.putSegments, ih, hst _ _ _ (by omega)]
    refine Work.foldl_keeps q _ (fun v e => ?_) _ w
    rw [hst _ _ _ (by omega), hst _ _ _ (by omega), hst _ _ _ (by omega), hst _ _ _ (by omega)]

/-- A store behind a header below the host windows leaves the header (R347). -/
theorem Work.rdN_stN_behind (w : Work) {c block a : Nat} (bs : List Byte) (hblock : block + 64 ≤ hostWindowBase) (ha : block + 64 ≤ a) :
    (w.stN c a bs).rdN block 64 = w.rdN block 64 := by
  refine Work.rdN_wr_other _ _ _ _ _ (.inl ?_)
  unfold localKey hostKey
  unfold hostWindowBase at hblock ⊢
  split <;> omega

/-- The segments that GEMIT tests (R266, R267). -/
def Work.emitted (w : Work) (t : TileRef) (p : GemitParams) (x : Stage) : List (Nat × List Edge × Nat) :=
  x.group.mapIdx fun n i => (i.idx, w.segment t.tile p x n i)

/-- The edges of segments. -/
def edgeCount (segs : List (Nat × List Edge × Nat)) : Nat := (segs.map fun k => k.2.1.length).sum

/-- The candidates' bits that are set for the group (R266, R278). -/
def Work.setBits (w : Work) (t : TileRef) (p : GemitParams) : Nat :=
  ((List.range p.candCount).map fun r =>
    (List.range p.stage.size).countP fun n => bitOf (w.le (tileStoreAddr t.tile p.bits + 8 * r) 8) n).sum

/-- The work of GEMIT counted. -/
def Work.countEmit (w : Work) (segs : List (Nat × List Edge × Nat)) (busy : Nat) : Work :=
  ((w.count Ctr.geomEdges (edgeCount segs)).count Ctr.geomPairsRejected (segs.map fun k => k.2.2).sum).count Ctr.geomBusyCycles busy

/-- What counting the work of GEMIT keeps: anything that one count keeps. -/
theorem Work.countEmit_keeps {β : Type} (q : Work → β) (hcount : ∀ v id n, q (Work.count v id n) = q v) (w : Work)
    (segs : List (Nat × List Edge × Nat)) (busy : Nat) : q (w.countEmit segs busy) = q w :=
  (hcount ..).trans ((hcount ..).trans (hcount ..))

/-- The block that a first GEMIT leaves (R267, R268). -/
def Work.blockBegun (w : Work) (c : Nat) (p : GemitParams) (x : Stage) (segs : List (Nat × List Edge × Nat)) : Work :=
  let lay := blockLay p.capacity (x.list.filter fun a => a.home).length
  ((w.stN c (p.block + 64 * lay.seg) (leBytes 4 0)).stN c p.block (blockHeader x.cell.images (decide (x.list.length < p.stage.bin.count))
    p.stage.bin.count segs.length (edgeCount segs) p.capacity lay)).putSegments c p.block lay (segs.map fun k => (k.1, k.2.1)) 0 0

/-- What a first GEMIT's block keeps: anything that one store keeps. -/
theorem Work.blockBegun_keeps {β : Type} (q : Work → β) (hst : ∀ v c a bs, q (Work.stN v c a bs) = q v) (w : Work) (c : Nat)
    (p : GemitParams) (x : Stage) (segs : List (Nat × List Edge × Nat)) : q (w.blockBegun c p x segs) = q w :=
  (Work.putSegments_keeps q (fun v a bs _ => hst v c a bs) (blockLay_behind ..) ..).trans ((hst ..).trans (hst ..))

/-- The header of a block begun below the host windows reads back (R268, R347). -/
theorem Work.blockBegun_header {w : Work} {c : Nat} {p : GemitParams} {x : Stage} {segs : List (Nat × List Edge × Nat)}
    (hblock : p.block + 64 ≤ hostWindowBase) :
    (w.blockBegun c p x segs).rdN p.block 64 = blockHeader x.cell.images (decide (x.list.length < p.stage.bin.count)) p.stage.bin.count
      segs.length (edgeCount segs) p.capacity (blockLay p.capacity (x.list.filter fun a => a.home).length) := by
  unfold Work.blockBegun
  dsimp only
  rw [Work.putSegments_keeps (fun v => v.rdN p.block 64) (fun v a bs => Work.rdN_stN_behind v bs hblock) (blockLay_behind ..)]
  generalize hhead : blockHeader _ _ _ _ _ _ _ = head
  have hlen : head.length = 64 := by rw [← hhead, blockHeader_length]
  rw [← hlen, Work.stN, show localKey c p.block = p.block from if_neg (by omega)]
  exact Work.rdN_wr_same ..

section

variable {w : Work} {c : Nat} {t : TileRef} {p : GemitParams} {x : Stage} (hstage : w.stage t.tile p.stage = .ok x)
  (hread : w.storeRanges t.tile [(p.stage.cands, 8 * p.candCount, true), (p.bits, 8 * p.candCount, true)] = none)
  (hfirst : w.le (localKey c p.block) 4 ≠ 0x48444152) (hlo : 128 ≤ p.capacity) (hhi : p.capacity ≤ 2 ^ 32 - 64)
  (hfault : w.accessFault c p.block p.capacity true = none) (hsegs : ∀ k, k ∈ w.emitted t p x → k.2.1.length ≤ 4096)
include hstage hread hfirst hlo hhi hfault hsegs

/-- A first GEMIT: a block too small halts it, a full set of tags or the array holds it, else its block is begun (R266 to R268). -/
theorem Work.gemit_first : w.gemit c t p =
    if edgeRoom p.capacity (x.list.filter fun a => a.home).length < edgeCount (w.emitted t p x)
        ∨ (x.list.filter fun a => a.home).length < (w.emitted t p x).length then .halt 3 0x12 p.block
    else if 512 ≤ (w.tile t.tile).dmaTags then .wait Ctr.stallTags 4
    else if w.heldByArray t.tile { Foot.none with store := [(p.bits, 8 * p.candCount), (p.stage.cands, 8 * p.candCount)] } then
      .wait Ctr.stallScoreboard 0
    else .done ((w.blockBegun c p x (w.emitted t p x)).countEmit (w.emitted t p x) (max p.candCount (ceilDiv (w.setBits t p) 4))) := by
  have hlong : ((w.emitted t p x).any fun k => decide (4096 < k.2.1.length)) = false := by
    rw [List.any_eq_false]
    intro k hk
    simpa using hsegs k hk
  unfold Work.gemit
  rw [hstage, hread]
  simp only [hfirst, ne_eq, not_false_eq_true, true_or, if_true, Nat.zero_add]
  rw [if_neg (by omega), hfault]
  dsimp only
  rw [← Work.emitted, if_neg (ne_true_of_eq_false hlong)]
  rfl

end

/-! ### The obligation -/

/-- Settles O44: a bad cell by its halt, GBIN by its two stores one after the other, GSTAGE by its three places, which lie apart, and a
first GEMIT by the halt or the block that its checks come to. The entries of the binned list (log 36) and the test for a first call by the
block's magic word (log 38) are the model's choices. -/
theorem radiusGraphsComplete : Obligations.RadiusGraphsComplete := by
  unfold Obligations.RadiusGraphsComplete
  refine ⟨?_, ?_, ?_, ?_, ?_⟩
  · intro t p c r s h hcount hmat hread hcell
    obtain ⟨u, hu, hhalt, -⟩ := exec_issue_haltedWith (i := .gbin t p) (F := fun _ w => w.gbin t p) rfl h
      (Work.gbin_badCell hcount hmat hread hcell)
    exact ⟨u, hu, hhalt⟩
  · intro t p x c s hwf h hcount hmat hread hcell atoms list starts hwrite
    have hF := Work.gbin_done hcount hmat hread hcell hwrite
    rw [← Work.updTile_id (Work.countBin ..) t.tile] at hF
    refine ⟨_, s.finish (s.work.wr (tileStoreAddr t.tile p.list) list), exec_issue_took rfl h hF, State.finish_took_tookUp id h.2.2 rfl,
      State.finish_stores s _ _ _ hwf rfl rfl rfl, ?_⟩
    exact State.finish_took_stores_after t id hwf rfl (State.finish_read s _ hwf rfl) fun _ => rfl
  · intro t p x c s hwf h hmat hstage hwrite cands hapart group rows big theta
    have htile := Work.executing_lt h.1
    have hbase : (s.work.staged t p x).base = s.mem := Work.staged_keeps Work.base (fun _ _ _ => rfl) ..
    have htiles : (s.work.staged t p x).d.tiles = s.dev.tiles := Work.staged_keeps (fun v => v.d.tiles) (fun _ _ _ => rfl) ..
    have hu := exec_issue_took (i := .gstage t p) (f := fun _ w => w.gstage t p) rfl h (Work.gstage_done hstage hmat hwrite)
    obtain ⟨v, hv⟩ : ∃ v, v = (s.work.staged t p x).count Ctr.geomBusyCycles (ceilDiv (p.size + x.cands.length) 32) := ⟨_, rfl⟩
    rw [← hv] at hu
    have hrd (k : Nat) : (s.finish (v.took t fun k => k.setG p.thetaReg (BitVec.ofNat 64 (x.theta.mul x.theta).up32))).work.rd k
        = (s.work.staged t p x).rd k :=
      (State.finish_took_rd t _ hwf (by rw [hv]; exact hbase) k).trans (by rw [hv]; rfl)
    refine ⟨_, hu, State.finish_took_tookUp _ h.2.2 (by rw [hv]; exact htiles), ?_, fun r k hr hk => ?_, fun n k hn hk => ?_, fun k hk => ?_⟩
    · exact (Work.rdN_congr hrd ..).trans Work.staged_cands
    · exact (congrArg leNat (Work.rdN_congr hrd ..)).trans (Work.staged_rows hapart hr hk)
    · exact (Work.elemAt_congr hrd ..).trans (Work.staged_group htile hstage hwrite hn hk)
    · exact (hrd k).trans (Work.rd_staged_other (Work.stage_ok hstage).1 hk)
  · intro t p x c s h hstage hread hfirst hlo hhi hfault segs homes edges hsegs hroom
    obtain ⟨u, hu, hhalt, -⟩ := exec_issue_haltedWith (i := .gemit t p) (F := fun c w => w.gemit c t p) rfl h
      ((Work.gemit_first hstage hread hfirst hlo hhi hfault hsegs).trans (if_pos (.inl hroom)))
    exact ⟨u, hu, hhalt⟩
  · intro t p x c s hwf h hmat htags hstage hread hfirst hlo hhi hblock hfault segs homes edges lay head hsegs hroom hhomes
    have hF := (Work.gemit_first hstage hread hfirst hlo hhi hfault hsegs).trans ((if_neg (not_or.mpr ⟨Nat.not_lt.mpr hroom,
      Nat.not_lt.mpr hhomes⟩)).trans ((if_neg (Nat.not_le.mpr htags)).trans
        (if_neg (ne_true_of_eq_false (Work.heldByArray_idle hmat _)))))
    rw [← Work.updTile_id (Work.countEmit ..) t.tile] at hF
    have hu := exec_issue_took (i := .gemit t p) (f := fun c w => w.gemit c t p) rfl h hF
    obtain ⟨v, hv⟩ : ∃ v, v = (s.work.blockBegun c p x (s.work.emitted t p x)).countEmit (s.work.emitted t p x)
      (max p.candCount (ceilDiv (s.work.setBits t p) 4)) := ⟨_, rfl⟩
    rw [← hv] at hu
    have hbase : v.base = s.mem := by
      rw [hv, Work.countEmit_keeps Work.base fun _ _ _ => rfl, Work.blockBegun_keeps Work.base fun _ _ _ _ => rfl]
      rfl
    have htiles : v.d.tiles = s.dev.tiles := by
      rw [hv, Work.countEmit_keeps (fun v => v.d.tiles) fun _ _ _ => rfl, Work.blockBegun_keeps (fun v => v.d.tiles) fun _ _ _ _ => rfl]
      rfl
    have hrd (k : Nat) : (s.finish (v.took t id)).work.rd k = (s.work.blockBegun c p x (s.work.emitted t p x)).rd k :=
      (State.finish_took_rd t id hwf hbase k).trans (by rw [hv, Work.countEmit_keeps (fun v => v.rd k) fun _ _ _ => rfl])
    exact ⟨_, hu, State.finish_took_tookUp id h.2.2 htiles, (Work.rdN_congr hrd ..).trans (Work.blockBegun_header hblock), hrd⟩

end Sys2Proof.Machine
end

section
/-!
PROOFS. Replay sections (R301 to R306): a section opened, checked and closed, the halts 0x81 to 0x83, and the restart of a replay.
-/

namespace Sys2Proof.Machine

/-! ### Events -/

/-- Host memory stands at and above 2^80. -/
theorem hostKey_ge (fn iova : Nat) : 2 ^ 80 ≤ hostKey fn iova := by
  unfold hostKey
  omega

/-- A context's event changes no byte below host memory (R448). -/
theorem Work.postEvent_rd (w : Work) (c code : Nat) (b : List Byte) {k : Nat} (hk : k < 2 ^ 80) : (w.postEvent c code b).rd k = w.rd k := by
  have hwr (v : Work) (x : Nat) (bs : List Byte) : (v.wr (hostKey c x) bs).rd k = v.rd k :=
    Work.rd_wr_other _ _ _ _ (.inl (Nat.lt_of_lt_of_le hk (hostKey_ge c x)))
  unfold Work.postEvent Work.writeEvent
  dsimp only
  split
  · split
    · rfl
    · split <;> exact hwr (w.cacheIova c _) _ _
  · rfl

/-- A context's event changes of the contexts nothing but an event ring (R448). -/
theorem Work.postEvent_ctx_keeps {β : Type} (p : Ctx → β) (h : ∀ x r, p { x with evt := r } = p x) (w : Work) (c k code : Nat)
    (b : List Byte) : p ((w.postEvent c code b).ctx k) = p (w.ctx k) := by
  unfold Work.postEvent Work.writeEvent
  dsimp only
  split
  · split
    · exact Work.updCtx_keeps p (Work.countCtx _ c _ _) c k _ fun x => h x _
    · split <;> exact Work.updCtx_keeps p (Work.countCtx _ c _ _) c k _ fun x => h x _
  · rfl

/-! ### One context changed -/

/-- The fuses, contexts and tiles, and what a command wrote and cleared. -/
def Work.ctxFrame (w : Work) : Fuses × List Ctx × List Tile × List Host.Cell × List (Nat × Nat) :=
  (w.fz, w.d.ctxs, w.d.tiles, w.log, w.wiped)

/-- A done-report, or a held tick's announcement, keeps that frame (R47, R50). -/
theorem Work.tryReport_ctxFrame (w : Work) : w.tryReport.ctxFrame = w.ctxFrame :=
  Work.tryReport_keeps Work.ctxFrame (Work.sendBelay_keeps Work.ctxFrame (fun _ _ => rfl) (fun _ _ _ _ => rfl) fun _ _ _ => rfl)
    (fun _ _ _ _ _ _ => rfl) w

/-- A meaning that comes, in that frame, to the change of one context: the state it leaves. -/
theorem State.finish_onCtx {s : State} {v : Work} {c : Nat} {f : Ctx → Ctx} (hc : c < s.dev.ctxs.length)
    (h : v.ctxFrame = (s.work.updCtx c f).ctxFrame) : s.onCtx (s.finish v) c f := by
  simp only [Work.ctxFrame, Prod.mk.injEq] at h
  obtain ⟨hfz, hctxs, htiles, hlog, hwiped⟩ := h
  have hctx (k : Nat) : (s.finish v).work.ctx k = (s.work.updCtx c f).ctx k := by
    rw [State.finish_ctx s v k hfz, Work.ctx, hctxs, hfz, Work.ctx]
  refine ⟨?_, fun k hk => ?_, State.finish_mem s v hlog hwiped, ?_⟩
  · rw [hctx, Work.updCtx_ctx_same _ _ _ hc]
  · rw [hctx, Work.updCtx_ctx_other _ _ _ _ hk]
  · rw [State.finish_tiles, htiles]; rfl

/-- A command that comes to a halt in a stream of an active context halts it with the reason and detail. -/
theorem exec_haltStream {i : Instr} {s : State} {r : StreamRef} {engine reason d : Nat} (ha : (s.work.ctx r.ctx).active = true)
    (h : exec i s = .next (s.finish (s.work.haltStream r engine reason d))) :
    ∃ u, exec i s = .next u ∧ u.haltedWith r.ctx reason ∧ (u.work.ctx r.ctx).halt.detail = d := by
  obtain ⟨he, hv⟩ := Ctx.active_enable ha
  obtain ⟨hvalid, hreason, hdetail⟩ := Work.haltStream_rec s.work r engine reason d he hv
  have hctx := State.finish_ctx s _ r.ctx (Work.still_fz (Work.haltStream_still s.work r engine reason d))
  exact ⟨_, h, ⟨by rw [hctx, hvalid], by rw [hctx, hreason]⟩, by rw [hctx, hdetail]⟩

/-! ### REPLAY_OPEN -/

/-- REPLAY_OPEN of an active context opens a section, or halts. -/
theorem exec_replayOpen {r : StreamRef} {s : State} (layer : Nat) (ha : (s.work.ctx r.ctx).active = true) :
    exec (.replayOpen r layer) s = .next (s.finish (s.work.openSection r layer)) := exec_finish rfl (if_pos ha)

/-- A second section halts with 0x83 (R301). -/
theorem Work.openSection_second {w : Work} {r : StreamRef} (layer : Nat) (h : (w.ctx r.ctx).replay.isSome = true) :
    w.openSection r layer = w.haltStream r 6 0x83 0 := if_pos h

/-- A section of a layer without an entry halts with 0x82 (R301). -/
theorem Work.openSection_noEntry {w : Work} {r : StreamRef} {layer : Nat} (h : (w.ctx r.ctx).replay = none)
    (he : w.layerEntry r.ctx layer = none) : w.openSection r layer = w.haltStream r 6 0x82 layer := by
  unfold Work.openSection
  dsimp only
  rw [if_neg (by simp [h]), if_pos (by simp [he])]

/-- A section of a layer with an entry changes its context alone (R301, R303). -/
theorem Work.openSection_opens {w : Work} {r : StreamRef} {layer : Nat} (h : (w.ctx r.ctx).replay = none)
    (he : (w.layerEntry r.ctx layer).isSome = true) : ∃ p, w.openSection r layer = w.updCtx r.ctx (fun x => { x with replay := some p })
      ∧ p = {
        layer := layer, ref := r, checkRef := r, attempt := 0, scale := false, compute := false, maxExp := -32768, windows := []
        checking := false
        nexts := match (w.ctx r.ctx).job with
          | some j => j.streams.map fun e => (e.number, e.next, e.lastQ)
          | none => []
        tilePcs := ((w.ctx r.ctx).tiles.filter fun t => decide ((w.tile t).run = .running)).map fun t =>
          (t, (w.tile t).pc, (w.tile t).curQ) } := by
  unfold Work.openSection
  dsimp only
  rw [if_neg (by simp [h]), if_neg (by simpa using Option.isSome_iff_ne_none.mp he)]
  exact ⟨_, rfl, rfl⟩

/-! ### REPLAY_CHECK -/

/-- REPLAY_CHECK of an active context checks its section. -/
theorem exec_replayCheck {r : StreamRef} {s : State} (ha : (s.work.ctx r.ctx).active = true) :
    exec (.replayCheck r) s = .next (s.finish (s.work.checkSection r)) := exec_finish rfl (if_pos ha)

/-- A check without a section halts with 0x83 (R302). -/
theorem Work.checkSection_none {w : Work} {r : StreamRef} (h : (w.ctx r.ctx).replay = none) :
    w.checkSection r = w.haltStream r 6 0x83 0 := by
  unfold Work.checkSection
  dsimp only
  rw [h]

/-- A check waits for the section's operations (R302, log 10). -/
theorem Work.checkSection_waits {w : Work} {r : StreamRef} {p : Replay} (h : (w.ctx r.ctx).replay = some p)
    (hb : w.sectionBusy r.ctx p r = true) : w.checkSection r = w.stall r.ctx Ctr.stallScoreboard 11 := by
  unfold Work.checkSection
  dsimp only
  rw [h]
  exact if_pos hb

/-- A check of a section whose operations are done changes its context, beside what it sends (R302, R304). -/
theorem Work.checkSection_ctxFrame {w : Work} {r : StreamRef} {p : Replay} (h : (w.ctx r.ctx).replay = some p)
    (hb : w.sectionBusy r.ctx p r = false) :
    (w.checkSection r).ctxFrame
      = (w.updCtx r.ctx fun x => { x with replay := some { p with checking := true, checkRef := r } }).ctxFrame := by
  unfold Work.checkSection
  dsimp only
  rw [h]
  dsimp only
  rw [if_neg (by simp [hb])]
  split <;> split <;> rfl

/-! ### REPLAY_DECISION: no section, no cause, a limit -/

/-- REPLAY_DECISION of an active context decides its section. -/
theorem exec_replayDecision {c : Nat} {s : State} (sc cp : Bool) (k : Int) (ha : (s.work.ctx c).active = true) :
    exec (.replayDecision c sc cp k) s = .next (s.finish (s.work.decideSection c sc cp k)) := exec_finish rfl (if_pos ha)

/-- A decision without a check in progress changes nothing (R303). -/
theorem Work.decideSection_idle {w : Work} {c : Nat} (sc cp : Bool) (k : Int)
    (h : (w.ctx c).replay = none ∨ ∃ p, (w.ctx c).replay = some p ∧ p.checking = false) : w.decideSection c sc cp k = w := by
  unfold Work.decideSection
  dsimp only
  obtain h | ⟨p, h, hp⟩ := h
  · rw [h]
  · rw [h]
    exact if_pos (by simp [hp])

/-- A decision without a cause closes the section (R303). -/
theorem Work.decideSection_closes {w : Work} {c : Nat} {p : Replay} (k : Int) (h : (w.ctx c).replay = some p) (hp : p.checking = true)
    (hsc : p.scale = false) (hcp : p.compute = false) :
    w.decideSection c false false k = (w.updCtx c fun x => { x with replay := none }).tryReport := by
  unfold Work.decideSection
  dsimp only
  rw [h]
  dsimp only
  rw [if_neg (by simp [hp]), if_pos (by simp [hsc, hcp])]

/-- A decision with a cause halts with 0x81 where a limit stops it, and else replays; `m` says whether the machine's bits and
exponent count (R303, R305). -/
theorem Work.decideSection_caused {w : Work} {c : Nat} {p : Replay} {e : LayerEntry} (sc cp : Bool) (k : Int)
    (h : (w.ctx c).replay = some p) (hp : p.checking = true) (hcause : p.scale = true ∨ p.compute = true)
    (he : w.layerEntry c p.layer = some e) :
    ∃ m : Bool, w.decideSection c sc cp k =
      if w.exhausted ((w.ctx c).layerState p.layer) e (w.rungOf c p.layer e).1 (p.scale || (m && sc)) (p.compute || (m && cp))
      then w.haltStream p.checkRef 6 0x81 p.layer
      else w.replaySection c p ((w.ctx c).layerState p.layer) (w.rungOf c p.layer e).1 (w.rungOf c p.layer e).2
        (p.scale || (m && sc)) (p.compute || (m && cp)) (if m then max p.maxExp k else p.maxExp) := by
  unfold Work.decideSection
  dsimp only
  rw [h]
  dsimp only
  rw [if_neg (by simp [hp]), if_neg (by obtain h | h := hcause <;> simp [h]), he]
  exact ⟨_, rfl⟩

/-- A layer that has used its replays is exhausted, whatever the cause (R305). -/
theorem Work.exhausted_used {w : Work} {l : LayerState} (e : LayerEntry) (rung : Nat) (scale compute : Bool)
    (h : w.le (w.d.active.format + 16) 1 ≤ l.used) : w.exhausted l e rung scale compute = true := by
  simp [Work.exhausted, h]

/-! ### The layer of a replay -/

/-- The state of a layer is that layer's. -/
theorem Ctx.layerState_layer (x : Ctx) (n : Nat) : (x.layerState n).layer = n := by
  unfold Ctx.layerState
  cases h : x.layers.find? fun l => l.layer == n with
  | none => rfl
  | some l => simpa using List.find?_some h

/-- The state of a layer just set. -/
theorem Ctx.layerState_setLayer (x : Ctx) (l : LayerState) : (x.setLayer l).layerState l.layer = l := by
  have hnone : (x.layers.filter fun k => k.layer != l.layer).find? (fun k => k.layer == l.layer) = none := by
    simp [List.find?_eq_none]
  unfold Ctx.layerState Ctx.setLayer
  dsimp only
  rw [List.find?_append, hnone]
  simp

/-- The next attempt is of the same layer. -/
theorem nextAttempt_layer (l : LayerState) (rung : Nat) (s : Int) (scale compute : Bool) (k : Int) :
    (nextAttempt l rung s scale compute k).layer = l.layer := by
  cases compute <;> rfl

/-- The next attempt counts one replay more (R305). -/
theorem nextAttempt_used (l : LayerState) (rung : Nat) (s : Int) (scale compute : Bool) (k : Int) :
    (nextAttempt l rung s scale compute k).used = l.used + 1 := by
  cases compute <;> rfl

/-- A compute cause takes the next attempt one rung up (R303). -/
theorem nextAttempt_override (l : LayerState) (rung : Nat) (s : Int) (scale compute : Bool) (k : Int) :
    (nextAttempt l rung s scale compute k).override = if compute then some (rung + 1) else l.override := by
  cases compute <;> rfl

/-! ### The restart -/

/-- Tiles put back to their restart points (R303). -/
def Work.restartTiles (w : Work) (ps : List (Nat × Nat × Nat)) : Work :=
  ps.foldl (fun w t => w.updTile t.1 fun k => k.restartAt t.2.1 t.2.2) w

/-- A tile without a restart point stands. -/
theorem Work.restartTiles_tile_other (w : Work) {ps : List (Nat × Nat × Nat)} {t : Nat} (h : ∀ x, x ∈ ps → x.1 ≠ t) :
    (w.restartTiles ps).tile t = w.tile t :=
  foldl_keeps_mem (fun v : Work => v.tile t) _ ps w fun _ x hx => Work.updTile_tile_other _ _ _ _ (h x hx).symm

/-- A tile with a restart point goes back to it. -/
theorem Work.restartTiles_tile_mem {w : Work} {ps : List (Nat × Nat × Nat)} {x : Nat × Nat × Nat} (hd : (ps.map fun t => t.1).Nodup)
    (hx : x ∈ ps) (hlen : x.1 < w.d.tiles.length) : (w.restartTiles ps).tile x.1 = (w.tile x.1).restartAt x.2.1 x.2.2 := by
  induction ps generalizing w with
  | nil => cases hx
  | cons a ps ih =>
    obtain ⟨hnot, hd⟩ := List.nodup_cons.mp hd
    have happart (y : Nat × Nat × Nat) (hy : y ∈ ps) : y.1 ≠ a.1 := fun e => hnot (List.mem_map.mpr ⟨y, hy, e⟩)
    obtain rfl | hx := List.mem_cons.mp hx
    · exact (Work.restartTiles_tile_other _ happart).trans (Work.updTile_tile_same _ _ _ hlen)
    · refine (ih hd hx (by simpa using hlen)).trans ?_
      rw [Work.updTile_tile_other _ _ _ _ (happart x hx)]

/-- Tiles put back change nothing but tiles. -/
theorem Work.restartTiles_keeps {β : Type} (p : Work → β) (h : ∀ v t f, p (Work.updTile v t f) = p v) (w : Work)
    (ps : List (Nat × Nat × Nat)) : p (w.restartTiles ps) = p w := Work.foldl_keeps p _ (fun _ _ => h ..) ps w

/-- A context back at the restart point of its section, one attempt further (R303). -/
def Ctx.restarted (x : Ctx) (r : Replay) : Ctx :=
  { x with
    job := x.job.map fun j => { j with streams := restartStreams r.nexts j.streams }
    cmds := x.cmds.filter fun k => keyLt k.step k.desc.q r.ref.keyStep r.ref.keyQ
    waited := []
    fences := x.fences.filter fun f => keyLt f.step f.q r.ref.keyStep r.ref.keyQ
    replay := some
      { r with attempt := r.attempt + 1, scale := false, compute := false, maxExp := -32768, windows := [], checking := false } }

/-- A restart by its parts: the tiles, the engine operations, the context (R303). -/
theorem Work.restart_eq (w : Work) (c : Nat) (r : Replay) :
    w.restart c r = ((w.restartTiles r.tilePcs).dropFrom c r.ref.keyStep r.ref.keyQ).updCtx c fun x => x.restarted r := by
  refine (congrArg (fun l => Work.upd _ fun d => { d with ctxs := l }) (updAt_updAt _ c _ _)).trans ?_
  rfl

/-- The context of a restart. -/
theorem Work.restart_ctx {w : Work} {c : Nat} (r : Replay) (hc : c < w.d.ctxs.length) : (w.restart c r).ctx c = (w.ctx c).restarted r := by
  have hctxs : (w.restartTiles r.tilePcs).d.ctxs = w.d.ctxs := Work.restartTiles_keeps (fun v => v.d.ctxs) (fun _ _ _ => rfl) ..
  have hctx : (w.restartTiles r.tilePcs).ctx c = w.ctx c := Work.restartTiles_keeps (fun v => v.ctx c) (fun _ _ _ => rfl) ..
  rw [Work.restart_eq, Work.updCtx_ctx_same _ _ _ (hctxs ▸ hc)]
  exact congrArg (Ctx.restarted · r) hctx

/-- A restart writes no byte. -/
theorem Work.restart_rd (w : Work) (c : Nat) (r : Replay) (k : Nat) : (w.restart c r).rd k = w.rd k := by
  rw [Work.restart_eq]
  exact Work.restartTiles_keeps (fun v => v.rd k) (fun _ _ _ => rfl) ..

/-! ### A replay -/

/-- What closing an update area keeps: all but memory and the open windows (R156). -/
theorem Work.closeArea_keeps {β : Type} (p : Work → β) (hwr : ∀ v k bs, p (Work.wr v k bs) = p v)
    (hwin : ∀ (v : Work) ws, p (v.upd fun d => { d with windows := ws }) = p v) (w : Work) (k : Window) : p (w.closeArea k) = p w := by
  unfold Work.closeArea
  refine (hwin _ _).trans ((hwr _ _ _).trans (Work.foldl_keeps p _ (fun v i => ?_) _ w))
  dsimp only
  split
  · exact hwr ..
  · rfl

/-- The update areas of a section freed and closed (R303). -/
def Work.closeAreas (w : Work) (areas : List Nat) : Work := (w.d.windows.filter fun a => areas.contains a.area).foldl Work.closeArea w

/-- What closing the areas of a section keeps. -/
theorem Work.closeAreas_keeps {β : Type} (p : Work → β) (hwr : ∀ v k bs, p (Work.wr v k bs) = p v)
    (hwin : ∀ (v : Work) ws, p (v.upd fun d => { d with windows := ws }) = p v) (w : Work) (areas : List Nat) :
    p (w.closeAreas areas) = p w := Work.foldl_keeps p _ (fun _ _ => Work.closeArea_keeps p hwr hwin ..) _ w

section
variable (w : Work) (c : Nat) (r : Replay) (l : LayerState) (rung : Nat) (s : Int) (scale compute : Bool) (k : Int)

/-- The working state that a replay restarts: the layer's next attempt set, the section's areas closed (R303). -/
def Work.replayBase : Work := (w.updCtx c fun x => x.setLayer (nextAttempt l rung s scale compute k)).closeAreas r.windows

/-- A replay is a restart with its event and its counter (R303, R314). -/
theorem Work.replaySection_eq : ∃ b, w.replaySection c r l rung s scale compute k =
    (((w.replayBase c r l rung s scale compute k).restart c r).postEvent c 0x0010 b).count Ctr.numericsReplays 1 := ⟨_, rfl⟩

/-- The context of a replay but for its event ring: the next attempt set, and back at the restart point. -/
theorem Work.replaySection_ctx {β : Type} (p : Ctx → β) (hp : ∀ x e, p { x with evt := e } = p x) (hc : c < w.d.ctxs.length) :
    p ((w.replaySection c r l rung s scale compute k).ctx c)
      = p (((w.ctx c).setLayer (nextAttempt l rung s scale compute k)).restarted r) := by
  obtain ⟨b, hb⟩ := Work.replaySection_eq w c r l rung s scale compute k
  obtain ⟨v, hv⟩ : ∃ v, v = w.updCtx c fun x => x.setLayer (nextAttempt l rung s scale compute k) := ⟨_, rfl⟩
  have hctxs : (v.closeAreas r.windows).d.ctxs = v.d.ctxs :=
    Work.closeAreas_keeps (fun v => v.d.ctxs) (fun _ _ _ => rfl) (fun _ _ => rfl) ..
  have hctx : (v.closeAreas r.windows).ctx c = v.ctx c :=
    Work.closeAreas_keeps (fun v => v.ctx c) (fun _ _ _ => rfl) (fun _ _ => rfl) ..
  rw [hb]
  refine (Work.postEvent_ctx_keeps p hp _ c c 0x0010 b).trans ?_
  rw [Work.replayBase, ← hv, Work.restart_ctx r (by rw [hctxs, hv]; simpa using hc), hctx, hv, Work.updCtx_ctx_same _ _ _ hc]

/-- The tiles of a replay are those put back to their restart points. -/
theorem Work.replaySection_tiles : (w.replaySection c r l rung s scale compute k).d.tiles = (w.restartTiles r.tilePcs).d.tiles := by
  obtain ⟨b, hb⟩ := Work.replaySection_eq w c r l rung s scale compute k
  have hfold (v : Work) (ps : List (Nat × Nat × Nat)) : (v.restartTiles ps).d.tiles
      = ps.foldl (fun ts t => updAt ts t.1 fun k => k.restartAt t.2.1 t.2.2) v.d.tiles :=
    (List.foldl_hom (fun v : Work => v.d.tiles) fun _ _ => rfl).symm
  have hclose : (w.replayBase c r l rung s scale compute k).d.tiles = w.d.tiles :=
    Work.closeAreas_keeps (fun v => v.d.tiles) (fun _ _ _ => rfl) (fun _ _ => rfl) ..
  rw [hb]
  refine (Work.postEvent_keeps (fun v => v.d.tiles) (fun _ _ _ => rfl) (fun _ _ _ _ => rfl) (fun _ _ _ => rfl) (fun _ _ _ => rfl)
    (fun _ _ _ => rfl) _ c 0x0010 b).trans ?_
  rw [Work.restart_eq]
  exact (hfold ..).trans (by rw [hclose, hfold])

/-- A replay of a section without open update areas changes no byte below host memory. -/
theorem Work.replaySection_rd (h : w.d.windows.filter (fun a => r.windows.contains a.area) = []) {key : Nat} (hk : key < 2 ^ 80) :
    (w.replaySection c r l rung s scale compute k).rd key = w.rd key := by
  obtain ⟨b, hb⟩ := Work.replaySection_eq w c r l rung s scale compute k
  have hbase : w.replayBase c r l rung s scale compute k = w.updCtx c fun x => x.setLayer (nextAttempt l rung s scale compute k) := by
    unfold Work.replayBase Work.closeAreas
    rw [Work.updCtx_d, h]
    rfl
  rw [hb]
  refine (Work.postEvent_rd _ c 0x0010 b hk).trans ?_
  rw [Work.restart_rd, hbase]
  rfl

end

section
variable (s : State) (c : Nat) (r : Replay) (l : LayerState) (rung : Nat) (e : Int) (scale compute : Bool) (k : Int)

/-- A context after a replay, but for its event ring. -/
theorem State.finish_replay_ctx {β : Type} (p : Ctx → β) (hp : ∀ x v, p { x with evt := v } = p x) (hc : c < s.dev.ctxs.length) :
    p ((s.finish (s.work.replaySection c r l rung e scale compute k)).work.ctx c)
      = p (((s.work.ctx c).setLayer (nextAttempt l rung e scale compute k)).restarted r) := by
  rw [State.finish_ctx s _ c (Work.calm_fz (Work.replaySection_calm ..))]
  exact Work.replaySection_ctx s.work c r l rung e scale compute k p hp hc

/-- The replayed layer after a replay is in its next attempt (R303). -/
theorem State.finish_replay_layer (hl : l.layer = r.layer) (hc : c < s.dev.ctxs.length) :
    ((s.finish (s.work.replaySection c r l rung e scale compute k)).work.ctx c).layerState r.layer
      = nextAttempt l rung e scale compute k := by
  refine (State.finish_replay_ctx s c r l rung e scale compute k (fun x => x.layerState r.layer) (fun _ _ => rfl) hc).trans ?_
  have hset := Ctx.layerState_setLayer (s.work.ctx c) (nextAttempt l rung e scale compute k)
  rwa [nextAttempt_layer, hl] at hset

/-- A tile after a replay. -/
theorem State.finish_replay_tile (t : Nat) :
    (s.finish (s.work.replaySection c r l rung e scale compute k)).work.tile t = (s.work.restartTiles r.tilePcs).tile t := by
  rw [State.finish_tile, Work.tile, Work.replaySection_tiles, Work.tile]

/-- A byte below host memory after a replay of a section without open update areas. -/
theorem State.finish_replay_read (hwf : Memory.wf s.mem = true) (h : s.dev.windows.filter (fun a => r.windows.contains a.area) = [])
    {key : Nat} (hk : key < 2 ^ 80) :
    Memory.read (s.finish (s.work.replaySection c r l rung e scale compute k)).mem key = Memory.read s.mem key := by
  rw [State.finish_read s _ hwf (Work.calm_base (Work.replaySection_calm ..)), Work.replaySection_rd _ _ _ _ _ _ _ _ _ h hk,
    State.work_rd]

end

/-- A decision with a cause that no limit stops replays the section, with its own causes where the machine adds none (R303). -/
theorem exec_replayDecision_replays {c : Nat} {s : State} {p : Replay} {e : LayerEntry} (k : Int) (ha : (s.work.ctx c).active = true)
    (h : (s.work.ctx c).replay = some p) (hp : p.checking = true) (hcause : p.scale = true ∨ p.compute = true)
    (he : s.work.layerEntry c p.layer = some e)
    (hlimit : s.work.exhausted ((s.work.ctx c).layerState p.layer) e (s.work.rungOf c p.layer e).1 p.scale p.compute = false) :
    ∃ k', exec (.replayDecision c false false k) s = .next (s.finish (s.work.replaySection c p ((s.work.ctx c).layerState p.layer)
      (s.work.rungOf c p.layer e).1 (s.work.rungOf c p.layer e).2 p.scale p.compute k')) := by
  obtain ⟨m, hm⟩ := Work.decideSection_caused false false k h hp hcause he
  rw [Bool.and_false, Bool.or_false, Bool.or_false, if_neg (by simp [hlimit])] at hm
  exact ⟨_, (exec_replayDecision false false k ha).trans (by rw [hm])⟩

/-- Settles O49: by the outcomes of each command's meaning, and the parts of a replay. -/
theorem replayCompletes : Obligations.ReplayCompletes := by
  unfold Obligations.ReplayCompletes
  refine ⟨?_, ?_, ?_, ?_, ?_, ?_, ?_, ?_, ?_, ?_⟩
  · intro r layer s ha hopen
    obtain ⟨u, hu, hhalt, -⟩ := exec_haltStream ha ((exec_replayOpen layer ha).trans (by rw [Work.openSection_second layer hopen]))
    exact ⟨u, hu, hhalt⟩
  · intro r layer s ha hnone hentry
    exact exec_haltStream ha ((exec_replayOpen layer ha).trans (by rw [Work.openSection_noEntry hnone hentry]))
  · intro r layer s ha hnone hentry
    obtain ⟨p, hopen, hp⟩ := Work.openSection_opens hnone hentry
    subst hp
    obtain ⟨hsame, hother, hmem, htiles⟩ := State.finish_onCtx (Work.ctx_exists _ _ (Ctx.active_enable ha).1) (congrArg Work.ctxFrame hopen)
    exact ⟨_, exec_replayOpen layer ha, hsame, hother, hmem, htiles⟩
  · intro r s ha hnone
    obtain ⟨u, hu, hhalt, -⟩ := exec_haltStream ha ((exec_replayCheck ha).trans (by rw [Work.checkSection_none hnone]))
    exact ⟨u, hu, hhalt⟩
  · intro r p s ha hp hbusy
    rw [exec_replayCheck ha, Work.checkSection_waits hp hbusy, State.finish_eq s _ rfl rfl]
    rfl
  · intro r p s ha hp hbusy
    exact ⟨_, exec_replayCheck ha,
      State.finish_onCtx (Work.ctx_exists _ _ (Ctx.active_enable ha).1) (Work.checkSection_ctxFrame hp hbusy)⟩
  · intro c sc cp k s ha hidle
    exact congrArg _ (State.exec_id s _ ((if_pos ha).trans (Work.decideSection_idle sc cp k hidle)))
  · intro c k p s ha hp hchecking hscale hcompute
    refine ⟨_, exec_replayDecision false false k ha, State.finish_onCtx (Work.ctx_exists _ _ (Ctx.active_enable ha).1) ?_⟩
    rw [Work.decideSection_closes k hp hchecking hscale hcompute, Work.tryReport_ctxFrame]
  · intro c sc cp k p e s ha hp hchecking hcause hentry hctx hused
    obtain ⟨m, hm⟩ := Work.decideSection_caused sc cp k hp hchecking hcause hentry
    have hexec := exec_replayDecision sc cp k ha
    rw [hm, if_pos (Work.exhausted_used _ _ _ _ hused)] at hexec
    subst hctx
    exact exec_haltStream ha hexec
  · intro c k p e s hwf ha hp hchecking hcause hentry hlimit hnodup htiles
    obtain ⟨k', hexec⟩ := exec_replayDecision_replays k ha hp hchecking hcause hentry hlimit
    have hc := Work.ctx_exists _ _ (Ctx.active_enable ha).1
    obtain ⟨l, hl⟩ : ∃ l, l = (s.work.ctx c).layerState p.layer := ⟨_, rfl⟩
    obtain ⟨⟨rung, scale⟩, hrung⟩ : ∃ q, q = s.work.rungOf c p.layer e := ⟨_, rfl⟩
    rw [← hl, ← hrung] at hexec ⊢
    have hctx {β : Type} (q : Ctx → β) (hq : ∀ x v, q { x with evt := v } = q x) :=
      State.finish_replay_ctx s c p l rung scale p.scale p.compute k' q hq hc
    have hlayer := State.finish_replay_layer s c p l rung scale p.scale p.compute k' (by rw [hl, Ctx.layerState_layer]) hc
    have htile := State.finish_replay_tile s c p l rung scale p.scale p.compute k'
    refine ⟨_, hexec, hctx Ctx.replay fun _ _ => rfl, ?_, ?_, hctx Ctx.cmds fun _ _ => rfl, hctx Ctx.job fun _ _ => rfl,
      fun x hx => ?_, fun t ht => ?_, fun hnone key hkey => State.finish_replay_read s c p l rung scale _ _ k' hwf hnone hkey⟩
    · rw [hlayer, nextAttempt_used]
    · rw [hlayer, nextAttempt_override]
    · rw [htile, Work.restartTiles_tile_mem hnodup hx (htiles x hx)]
    · rw [htile, Work.restartTiles_tile_other _ ht]

end Sys2Proof.Machine
end

section
/-!
PROOFS. The format governor (R298, R299, R310): what a decision keeps of an entry, the entry it writes, and the arm it makes.
-/

namespace Sys2Proof.Machine

/-! ### A decision -/

/-- The bytes of an entry (R295). -/
def layerBytes (e : LayerEntry) : List Byte :=
  leBytes 1 e.rung ++ leBytes 1 e.minRung ++ leBytes 1 e.maxRung ++ leBytes 1 e.flags ++ leBytes 1 e.warm
    ++ leBytes 1 (ofSigned 8 e.scale) ++ leBytes 1 (ofSigned 8 e.scatterE) ++ leBytes 1 0 ++ leBytes 2 (ofSigned 16 e.maxExp)
    ++ leBytes 2 (ofSigned 16 e.ref) ++ leBytes 2 e.stepsAt ++ leBytes 2 e.silent ++ leBytes 4 e.decision

/-- An entry is written as its bytes. -/
theorem Work.writeLayer_eq (w : Work) (a : Nat) (e : LayerEntry) : w.writeLayer a e = w.wr a (layerBytes e) := rfl

/-- What no decision changes of an entry: its limits and its flags as the table holds them (R295). -/
def LayerEntry.limits (e : LayerEntry) : Nat × Nat × Nat := (e.minRung, e.maxRung, e.flags)

/-- Warm-up and hysteresis keep the limits (R299). -/
theorem governRung_limits (e : LayerEntry) (s : Summary) (hysteresis threshold : Nat) :
    (governRung e s hysteresis threshold).1.limits = e.limits := by
  unfold governRung
  dsimp only
  split
  · split <;> rfl
  · split
    · rfl
    · split <;> rfl

/-- The silence watch keeps the limits (R310). -/
theorem watchSilence_limits (e : LayerEntry) (s : Summary) (warming : Bool) (threshold steps : Nat) :
    (watchSilence e s warming threshold steps).1.limits = e.limits := by
  unfold watchSilence
  dsimp only
  exact (apply_ite (fun x : LayerEntry × Option Bool => x.1.limits) _ _ _).trans (ite_self _)

/-- The scales keep the limits and the rung (R299). -/
theorem governScales_limits (e : LayerEntry) (s : Summary) :
    (governScales e s).limits = e.limits ∧ (governScales e s).rung = e.rung := by
  unfold governScales
  split <;> exact ⟨rfl, rfl⟩

/-- A decision starts from an entry with the old limits, takes its rung between them, and stamps it with the step (R299). -/
theorem Work.governDecision_entry (w : Work) (head : Nat) (e : LayerEntry) (s : Summary) (override step : Nat) :
    ∃ x : LayerEntry, x.limits = e.limits ∧ (w.governDecision head e s override step).entry =
      let g := governScales { x with rung := min (max (max x.rung override) x.minRung) x.maxRung } s
      { g with flags := g.flags ||| 4, decision := step % 2 ^ 32 } := by
  unfold Work.governDecision
  dsimp only
  split
  · exact ⟨_, (watchSilence_limits ..).trans (governRung_limits ..), rfl⟩
  · exact ⟨_, governRung_limits .., rfl⟩

section
variable (w : Work) (head : Nat) (e : LayerEntry) (s : Summary) (override step : Nat)

/-- A decision keeps the rung limits, marks the history valid and stamps the entry with the step (R299). -/
theorem Work.governDecision_fields :
    let d := (w.governDecision head e s override step).entry
    d.minRung = e.minRung ∧ d.maxRung = e.maxRung ∧ d.flags = e.flags ||| 4 ∧ d.decision = step % 2 ^ 32 := by
  obtain ⟨x, hx, hd⟩ := Work.governDecision_entry w head e s override step
  obtain ⟨hlimits, -⟩ := governScales_limits { x with rung := min (max (max x.rung override) x.minRung) x.maxRung } s
  obtain ⟨hmin, hmax, hflags⟩ : _ ∧ _ ∧ _ := by simpa only [LayerEntry.limits, Prod.mk.injEq] using hlimits.trans hx
  rw [hd]
  exact ⟨hmin, hmax, congrArg (· ||| 4) hflags, rfl⟩

/-- The bytes of a decided entry: its rung limits stand, its history is valid, and it carries the step (R295, R299). -/
theorem Work.governDecision_bytes :
    let d := (w.governDecision head e s override step).entry
    layerBytes d = leBytes 1 d.rung ++ leBytes 1 e.minRung ++ leBytes 1 e.maxRung ++ leBytes 1 (e.flags ||| 4) ++ leBytes 1 d.warm
      ++ leBytes 1 (ofSigned 8 d.scale) ++ leBytes 1 (ofSigned 8 d.scatterE) ++ leBytes 1 0 ++ leBytes 2 (ofSigned 16 d.maxExp)
      ++ leBytes 2 (ofSigned 16 d.ref) ++ leBytes 2 d.stepsAt ++ leBytes 2 d.silent ++ leBytes 4 (step % 2 ^ 32) := by
  obtain ⟨hmin, hmax, hflags, hdecision⟩ := Work.governDecision_fields w head e s override step
  dsimp only
  rw [layerBytes, hmin, hmax, hflags, hdecision]

/-- A decision's rung lies between the entry's limits (R299). -/
theorem Work.governDecision_rung (h : e.minRung ≤ e.maxRung) :
    e.minRung ≤ (w.governDecision head e s override step).entry.rung
      ∧ (w.governDecision head e s override step).entry.rung ≤ e.maxRung := by
  obtain ⟨x, hx, hd⟩ := Work.governDecision_entry w head e s override step
  obtain ⟨hmin, hmax, -⟩ : _ ∧ _ ∧ _ := by simpa only [LayerEntry.limits, Prod.mk.injEq] using hx
  have hrung : (w.governDecision head e s override step).entry.rung = min (max (max x.rung override) x.minRung) x.maxRung := by
    rw [hd]
    exact (governScales_limits ..).2
  rw [hrung, hmin, hmax]
  omega

end

/-! ### A layer governed -/

/-- The summary that a decision goes by: the machine's where the table asks for it and one came, else the device's own (R298). -/
def Work.governSummary (w : Work) (c step : Nat) (machine : List Summary) (layer : Nat) : Summary :=
  if bitOf (w.le (w.d.active.format + 17) 1) 2 then (machine.find? fun m => m.layer == layer).getD (w.summary c layer step)
  else w.summary c layer step

/-- The entry that a layer's decision gives (R299). -/
def Work.governEntry (w : Work) (c step : Nat) (machine : List Summary) (layer : Nat) (e : LayerEntry) : LayerEntry :=
  (w.governDecision w.d.active.format e (w.governSummary c step machine layer) (((w.ctx c).layerState layer).override.getD 0) step).entry

/-- Beside the entry that it writes, a governed layer changes only what a counter and a context's events change (R298, R310). -/
theorem Work.governLayer_keeps {β : Type} (p : Work → β) (hcount : ∀ v id n, p (Work.count v id n) = p v)
    (hevent : ∀ v c code b, p (Work.postEvent v c code b) = p v) {w : Work} {c layer : Nat} {e : LayerEntry} (step base : Nat)
    (machine : List Summary) (he : w.layerEntry c layer = some e) (hmanaged : bitOf e.flags 0 = true) :
    p (w.governLayer c step base machine layer)
      = p (w.writeLayer (base + (e.addr - w.d.active.format)) (w.governEntry c step machine layer e)) := by
  have hwarm (v : Work) (x : Option Nat) (b : Nat → List Byte) :
      p (match x with | some r => v.postEvent c 0x0012 (b r) | none => v) = p v := by
    cases x with
    | some r => exact hevent ..
    | none => rfl
  unfold Work.governLayer
  dsimp only
  rw [he]
  dsimp only
  rw [if_neg (by simp [hmanaged])]
  split
  · refine (hevent ..).trans ((hcount ..).trans ?_)
    exact hwarm _ _ fun r => leBytes 2 layer ++ leBytes 4 step ++ leBytes 1 r
  · exact hwarm _ _ fun r => leBytes 2 layer ++ leBytes 4 step ++ leBytes 1 r

/-- A governed layer changes nothing of the still part. -/
theorem Work.governLayer_still {w : Work} {c layer : Nat} {e : LayerEntry} (step base : Nat) (machine : List Summary)
    (he : w.layerEntry c layer = some e) (hmanaged : bitOf e.flags 0 = true) :
    (w.governLayer c step base machine layer).still = w.still :=
  Work.governLayer_keeps Work.still (fun _ _ _ => rfl) (fun _ _ _ _ => Work.postEvent_still ..) step base machine he hmanaged

/-! ### GOVERNOR_UPDATE -/

/-- GOVERNOR_UPDATE of an active context. -/
theorem exec_governorUpdate {c : Nat} {s : State} (step base target : Nat) (m : List Summary) (ha : (s.work.ctx c).active = true) :
    exec (.governorUpdate c step base target m) s = .next (s.finish (s.work.govern c step base target m)) := exec_finish rfl (if_pos ha)

section
variable {w : Work} {c base target : Nat}

/-- Without a format table, at the base of the active one, or disabled, the governor does nothing (R298). -/
theorem Work.govern_idle (step : Nat) (m : List Summary)
    (h : w.d.active.format = 0 ∨ base = w.d.active.format ∨ bitOf (w.le (w.d.active.format + 17) 1) 0 = false) :
    w.govern c step base target m = w := if_pos (by simpa using h)

/-- Into a table that stands in the shadow set the entries of the context's layers are written (R298). -/
theorem Work.govern_staged (step : Nat) (m : List Summary) (hact : w.d.active.format ≠ 0) (hbase : base ≠ w.d.active.format)
    (hon : bitOf (w.le (w.d.active.format + 17) 1) 0 = true) (hstaged : w.d.shadow.format = base) :
    w.govern c step base target m = ((List.range (w.formatRange w.d.active.format c).2).foldl
      (fun w l => w.governLayer c step base m l) w).governArm c base target := by
  unfold Work.govern
  dsimp only
  rw [if_neg (by simp [hact, hbase, hon]), if_pos hstaged]

/-- Into any other table the active one is copied first (R298). -/
theorem Work.govern_copied (step : Nat) (m : List Summary) (hact : w.d.active.format ≠ 0) (hbase : base ≠ w.d.active.format)
    (hon : bitOf (w.le (w.d.active.format + 17) 1) 0 = true) (hstaged : w.d.shadow.format ≠ base) {v : Work}
    (hv : v = w.wr base (w.rdN w.d.active.format (128 + 32 * w.le (w.d.active.format + 6) 2))) :
    w.govern c step base target m = ((List.range (v.formatRange w.d.active.format c).2).foldl
      (fun w l => w.governLayer c step base m l) v).governArm c base target := by
  unfold Work.govern
  dsimp only
  rw [if_neg (by simp [hact, hbase, hon]), if_neg hstaged, hv]

/-- A swap that stands for the same table and tick carries the governor's (R298). -/
theorem Work.governArm_carried (hstaged : w.d.shadow.format = base) (harmed : w.d.cfg.armed = some .machine)
    (htick : w.d.cfg.target = target) :
    w.governArm c base target = w := by
  unfold Work.governArm
  dsimp only
  rw [if_pos hstaged, if_pos (by simp [harmed]), if_pos (by simp [harmed, htick, hstaged])]

/-- The governor's arm where none stands: the table's base in the shadow set, and its swap armed and held (R67, R70, R298). -/
theorem Work.governArm_arms {v : Work} (hv : v = w.upd fun d => { d with shadow := { d.shadow with format := base } })
    (hstaged : w.d.shadow.format ≠ base) (hnone : w.d.cfg.armed = none) (hcause : v.armCause true target = 0)
    (htables : v.armTables = none) :
    w.governArm c base target = (v.noteRoute.updCfg fun k => { k with armed := some .machine, target := target, invalidCause := 0 }).upd
      fun d => { d with fw := { d.fw with governorArm := some (c, base, target) } } := by
  unfold Work.governArm
  dsimp only
  simp only [hstaged, hnone, Option.isSome_none, Bool.false_eq_true, if_false]
  rw [← hv, Work.arm_valid hcause htables]
  exact if_pos rfl

end

/-- Settles O48: by the entry that a decision gives, and by the arm that the governor makes. -/
theorem governorCompletes : Obligations.GovernorCompletes := by
  unfold Obligations.GovernorCompletes
  refine ⟨?_, ?_, ?_, ?_⟩
  · intro c step base target m s ha
    exact congrArg _ (State.exec_id s _ (if_neg (ne_true_of_eq_false ha)))
  · intro c step base target m s hidle
    refine congrArg _ (State.exec_id s _ ?_)
    rw [Work.govern_idle step m hidle, ite_self]
  · intro c step base target m e s hwf ha hact hbase hon hstaged hone he hmanaged harmed htick hend own sum d bytes
    obtain ⟨v, hv⟩ : ∃ v, v = s.work.governLayer c step base m 0 := ⟨_, rfl⟩
    have hstill : v.still = s.work.still := hv ▸ Work.governLayer_still step base m he hmanaged
    have hgovern : s.work.govern c step base target m = v := by
      rw [Work.govern_staged step m hact hbase hon hstaged, State.work_d, hone]
      refine (congrArg (Work.governArm · c base target) hv.symm).trans (Work.governArm_carried ?_ ?_ ?_)
      · rw [Work.still_shadow hstill]; exact hstaged
      · rw [Work.still_cfg hstill]; exact harmed
      · rw [Work.still_cfg hstill]; exact htick
    have hquiet : (s.finish v).dev.quiet = s.dev.quiet :=
      congrArg (fun x => x.2.2.2) ((Work.settle_still v).trans hstill)
    have hexec := exec_governorUpdate step base target m ha
    rw [hgovern] at hexec
    refine ⟨_, hexec, ⟨rfl, hquiet⟩,
      Work.governDecision_rung s.work s.dev.active.format e sum _ step, fun k hk => ?_⟩
    have hwritten := Work.governLayer_keeps (fun v => v.rd k) (fun _ _ _ => rfl)
      (fun w c code b => Work.postEvent_rd w c code b hk) step base m he hmanaged
    rw [State.finish_read s v hwf (Work.still_base hstill), hv]
    refine (hwritten.trans (Work.rd_wr ..)).trans ?_
    have hbytes := Work.governDecision_bytes s.work s.dev.active.format e sum (((s.work.ctx c).layerState 0).override.getD 0) step
    exact congrArg (fun bs : List Byte => if base + (e.addr - s.dev.active.format) ≤ k
      then (bs[k - (base + (e.addr - s.dev.active.format))]?).getD (Memory.read s.mem k) else Memory.read s.mem k) hbytes
  · intro c step base target m s hwf ha hact hbase hon hstaged hnone bytes w hempty hcause htables
    have hexec := exec_governorUpdate step base target m ha
    rw [Work.govern_copied step m hact hbase hon hstaged (v := s.work.wr base bytes) rfl, State.work_d, hempty, List.range_zero,
      List.foldl_nil, Work.governArm_arms (v := w) rfl hstaged hnone hcause htables] at hexec
    have hframe := Work.noteRoute_keeps (fun v => (v.fz, v.base, v.d.fw, v.armFrame)) (fun _ _ _ => rfl) w
    simp only [Work.armFrame, Prod.mk.injEq] at hframe
    obtain ⟨-, hb, hfw, hcfg, hactive, hshadow, hctxs, htiles, -, hlog, hwiped⟩ := hframe
    refine ⟨_, hexec, State.finish_stores s _ base bytes hwf hb hwiped hlog, ?_, ?_, ?_, ?_, ?_, ?_, ?_⟩
    · rw [State.finish_shadow]; exact hshadow
    · rw [State.finish_cfg]; rfl
    · rw [State.finish_cfg]; rfl
    · rw [State.finish_fw]; rfl
    · rw [State.finish_ctxs]; exact hctxs
    · rw [State.finish_tiles]; exact htiles
    · rw [State.finish_active]; exact hactive

end Sys2Proof.Machine
end

section
/-!
PROOFS. The shared part of the stitch engine (R320 to R337): what a message and a report leave, how a collective in the engine is found,
changed and taken out, and when it completes.
-/

namespace Sys2Proof.Machine

/-! ### What messages, counters and reports leave -/

/-- A device without its counters, links, messages and pitch bookkeeping. -/
def Dev.muted (d : Dev) : Dev := { d with counters := [], links := [], linkOut := [], pitch := Pitch.reset }

/-- A working state without the counters, links, messages and pitch bookkeeping of its device. Two that agree on this agree on memory,
contexts, tiles and the stitch engine. -/
def Work.muted (w : Work) : Work := { w with d := w.d.muted }

theorem Work.count_muted (w : Work) (id n : Nat) : (w.count id n).muted = w.muted := rfl
theorem Work.countInst_muted (w : Work) (id i n : Nat) : (w.countInst id i n).muted = w.muted := rfl
theorem Work.stall_muted (w : Work) (c cause cls : Nat) : (w.stall c cause cls).muted = w.muted := rfl
theorem Work.updLink_muted (w : Work) (l : Nat) (f : Link → Link) : (w.updLink l f).muted = w.muted := rfl
theorem Work.linkOut_muted (w : Work) (o : List LinkOut) : (w.upd fun d => { d with linkOut := o }).muted = w.muted := rfl

/-- A message given to the links changes counters and messages alone (R464). -/
theorem Work.send_muted (w : Work) (link dest : Nat) (job : W32) (m : LinkMsg) : (w.send link dest job m).muted = w.muted :=
  (Work.countInst_muted ..).trans (Work.linkOut_muted w _)

/-- A routed message changes counters, links and messages alone (R470). -/
theorem Work.sendRouted_muted (w : Work) (c cls dest : Nat) (job : W32) (request : Bool) (m : LinkMsg) :
    (w.sendRouted c cls dest job request m).muted = w.muted :=
  Work.sendRouted_keeps Work.muted Work.stall_muted Work.send_muted Work.updLink_muted w c cls dest job request m

/-- A message of a collective changes counters, links and messages alone (R320). -/
theorem Work.sendPiece_muted (w : Work) (o : Coll) (dest first width : Nat) (ints : List Int) (bytes : List Byte) (last : Bool) :
    (w.sendPiece o dest first width ints bytes last).muted = w.muted :=
  Work.sendRouted_muted ..

/-- The payloads of a contribution change counters, links and messages alone. -/
theorem Work.sendPayloads_muted (w : Work) (o : Coll) (dest : Nat) (ps : List (Nat × Nat × List Int × List Byte)) :
    (w.sendPayloads o dest ps).muted = w.muted :=
  Work.foldl_keeps Work.muted _ (fun _ _ => Work.sendPiece_muted ..) _ _

/-- A trailer on its way changes counters, links and messages alone (R327). -/
theorem Work.sendTrailer_muted (w : Work) (o : Coll) (t : Trailer) : (w.sendTrailer o t).muted = w.muted := by
  unfold Work.sendTrailer
  dsimp only
  split
  · split
    · exact Work.send_muted ..
    · rfl
  · split
    · rfl
    · exact Work.sendRouted_muted ..

/-- A report of the device changes counters, links, messages and pitch bookkeeping alone (R47). -/
theorem Work.tryReport_muted (w : Work) : w.tryReport.muted = w.muted :=
  Work.tryReport_keeps Work.muted (Work.sendBelay_keeps Work.muted Work.linkOut_muted Work.countInst_muted Work.updLink_muted)
    (fun _ _ _ _ _ _ => rfl) w

section
variable {v w : Work} (h : v.muted = w.muted)
include h

/-- Such states agree on whatever does not depend on the blanked fields. -/
theorem Work.muted_reads {β : Type} (p : Work → β) (hp : ∀ x : Work, p x.muted = p x) : p v = p w := by
  rw [← hp v, h, hp w]

theorem Work.muted_base : v.base = w.base := Work.muted_reads h (fun x => x.base) fun _ => rfl
theorem Work.muted_wiped : v.wiped = w.wiped := Work.muted_reads h (fun x => x.wiped) fun _ => rfl
theorem Work.muted_log : v.log = w.log := Work.muted_reads h (fun x => x.log) fun _ => rfl
theorem Work.muted_ctxs : v.d.ctxs = w.d.ctxs := Work.muted_reads h (fun x => x.d.ctxs) fun _ => rfl
theorem Work.muted_tiles : v.d.tiles = w.d.tiles := Work.muted_reads h (fun x => x.d.tiles) fun _ => rfl
theorem Work.muted_colls : v.d.colls = w.d.colls := Work.muted_reads h (fun x => x.d.colls) fun _ => rfl
theorem Work.muted_arrivals : v.d.arrivals = w.d.arrivals := Work.muted_reads h (fun x => x.d.arrivals) fun _ => rfl
theorem Work.muted_nextId : v.d.nextId = w.d.nextId := Work.muted_reads h (fun x => x.d.nextId) fun _ => rfl

/-- Such states agree on a collective by number. -/
theorem Work.muted_coll (id : Nat) : v.coll id = w.coll id := Work.muted_reads h (fun x => x.coll id) fun _ => rfl

/-- Such states agree on whom a collective waits for. -/
theorem Work.muted_awaited (o : Coll) : v.awaited o = w.awaited o := Work.muted_reads h (fun x => x.awaited o) fun _ => rfl

/-- The same change of a collective. -/
theorem Work.muted_updColl (id : Nat) (f : Coll → Coll) : (v.updColl id f).muted = (w.updColl id f).muted :=
  congrArg (fun x : Work => x.updColl id f) h

/-- The same store. -/
theorem Work.muted_stN (c a : Nat) (bs : List Byte) : (v.stN c a bs).muted = (w.stN c a bs).muted :=
  congrArg (fun x : Work => x.stN c a bs) h

end

/-- A fold of messages changes what each of them changes. -/
theorem Work.foldl_muted {α : Type} {g : Work → α → Work} (l : List α) (hg : ∀ v a, a ∈ l → (g v a).muted = v.muted) (v : Work) :
    (l.foldl g v).muted = v.muted := foldl_keeps_mem Work.muted g l v fun y a ha => hg y a ha

/-! ### Collectives by number -/

/-- Where no two collectives bear the same number, a number tells them apart. -/
theorem Coll.eq_of_id {l : List Coll} (hn : (l.map fun k => k.id).Nodup) {k o : Coll} (hk : k ∈ l) (ho : o ∈ l) (hid : k.id = o.id) :
    k = o := by
  induction l with
  | nil => exact absurd hk List.not_mem_nil
  | cons c l ih =>
    rw [List.map_cons, List.nodup_cons] at hn
    obtain ⟨hnew, hrest⟩ := hn
    have hother (x : Coll) (hx : x ∈ l) : x.id ≠ c.id := fun he => hnew (List.mem_map.mpr ⟨x, hx, he⟩)
    rcases List.mem_cons.mp hk with rfl | hkl
    · rcases List.mem_cons.mp ho with rfl | hol
      · rfl
      · exact absurd hid.symm (hother o hol)
    · rcases List.mem_cons.mp ho with rfl | hol
      · exact absurd hid (hother k hkl)
      · exact ih hrest hkl hol

/-- A collective taken out of the engine. -/
def Work.dropColl (w : Work) (id : Nat) : Work := w.upd fun d => { d with colls := d.colls.filter fun k => k.id != id }

/-- A collective's number used up, and nothing else changed. -/
def Work.numbered (w : Work) : Work := w.upd fun d => { d with nextId := d.nextId + 1 }

/-- A collective put into the engine under a fresh number (R320, R321). -/
def Work.engaged (w : Work) (o : Coll) : Work := w.upd fun d => { d with nextId := d.nextId + 1, colls := d.colls ++ [o] }

section
variable {v w : Work} {o : Coll} {id : Nat}

/-- Where messages and counters differ alone, so they do with the same collective taken out. -/
theorem Work.muted_dropColl (h : v.muted = w.muted) (id : Nat) : (v.dropColl id).muted = (w.dropColl id).muted :=
  congrArg (fun x : Work => x.dropColl id) h

/-- Where messages and counters differ alone, so they do with the same collective put in. -/
theorem Work.muted_engaged (h : v.muted = w.muted) (o : Coll) : (v.engaged o).muted = (w.engaged o).muted :=
  congrArg (fun x : Work => x.engaged o) h

/-- A collective found by number has that number. -/
theorem Work.coll_id (h : w.coll id = some o) : o.id = id := by simpa using List.find?_some h

/-- A collective whose number no other bears is found by it. -/
theorem Work.coll_of_mem (hmem : o ∈ w.d.colls) (hn : (w.d.colls.map fun k => k.id).Nodup) : w.coll o.id = some o := by
  obtain ⟨k, hk⟩ : ∃ k, w.coll o.id = some k :=
    Option.isSome_iff_exists.mp (List.find?_isSome.mpr ⟨o, hmem, by simp⟩)
  rw [hk, Coll.eq_of_id hn (List.mem_of_find?_eq_some hk) hmem (Work.coll_id hk)]

/-- A changed collective is found by its number. -/
theorem Work.coll_updColl (f : Coll → Coll) (hf : ∀ k, (f k).id = k.id) (h : w.coll id = some o) :
    (w.updColl id f).coll id = some (f o) := by
  have hid := Work.coll_id h
  have hkeep : ((fun k : Coll => k.id == id) ∘ fun k => if k.id = id then f k else k) = fun k => k.id == id := by
    funext k
    by_cases hk : k.id = id
    · simp [hk, hf]
    · simp [hk]
  rw [Work.coll, Work.updColl, Work.upd_d, List.find?_map, hkeep, ← Work.coll, h, Option.map_some, if_pos hid]

/-- A store leaves the collectives. -/
theorem Work.coll_stN (h : w.coll id = some o) (c a : Nat) (bs : List Byte) :
    (w.stN c a bs).coll id = some o := h

/-- Two changes of a collective one after the other. -/
theorem Work.updColl_updColl (f g : Coll → Coll) (hf : ∀ k, (f k).id = k.id) :
    (w.updColl id f).updColl id g = w.updColl id fun k => g (f k) := by
  have hcomp : ((fun k => if k.id = id then g k else k) ∘ fun k => if k.id = id then f k else k)
      = fun k : Coll => if k.id = id then g (f k) else k := by
    funext k
    by_cases hk : k.id = id
    · simp [hk, hf]
    · simp [hk]
  simp only [Work.updColl, Work.upd, List.map_map, hcomp]

/-- A collective taken out after a change. -/
theorem Work.dropColl_updColl (f : Coll → Coll) (hf : ∀ k, (f k).id = k.id) : (w.updColl id f).dropColl id = w.dropColl id := by
  have hlist (l : List Coll) : ((l.map fun k => if k.id = id then f k else k).filter fun k => k.id != id)
      = l.filter fun k => k.id != id := by
    induction l with
    | nil => rfl
    | cons k l ih =>
      by_cases hk : k.id = id
      · simp [hk, hf, ih]
      · simp [hk, ih]
  simp only [Work.dropColl, Work.updColl, Work.upd, hlist]

variable (hfresh : ∀ k, k ∈ w.d.colls → k.id ≠ o.id)
include hfresh

/-- A collective just put in is found by its number. -/
theorem Work.coll_engaged : (w.engaged o).coll o.id = some o := by
  rw [Work.coll, Work.engaged, Work.upd_d, List.find?_append, List.find?_eq_none.mpr (by simpa using hfresh)]
  simp

/-- A collective just put in, changed. -/
theorem Work.updColl_engaged (f : Coll → Coll) : (w.engaged o).updColl o.id f = w.engaged (f o) := by
  have hold : (w.d.colls.map fun k => if k.id = o.id then f k else k) = w.d.colls :=
    (List.map_congr_left fun k hk => if_neg (hfresh k hk)).trans (List.map_id' _)
  simp only [Work.engaged, Work.updColl, Work.upd, List.map_append, hold, List.map_cons, List.map_nil, if_true]

/-- A collective just put in, taken out again. -/
theorem Work.dropColl_engaged : (w.engaged o).dropColl o.id = w.numbered := by
  have hold : (w.d.colls.filter fun k => k.id != o.id) = w.d.colls := List.filter_eq_self.mpr (by simpa using hfresh)
  simp only [Work.engaged, Work.dropColl, Work.numbered, Work.upd, List.filter_append, hold]
  simp

end

/-! ### Completion -/

/-- What completes a collective for which everything has arrived (R326, R328, R333 to R337). -/
def Work.completes (w : Work) (o : Coll) : Work :=
  match o.kind with
  | .reduce p => if p.exact && o.trailer.isNone then w else w.writeShard o p
  | .allGather _ => w.endColl o
  | .allToAll p => w.finishAllToAll o p
  | .small p => (w.stN o.ref.ctx p.dest ((o.acc.map fun x => leBytes 8 (ofSigned 64 x)).flatten)).endColl o
  | .permute _ => w.endColl o

section
variable {w : Work} {o : Coll} {id : Nat}

/-- A collective in the engine completes if it is not finished, in no pre-round and waits for nobody. -/
theorem Work.tryFinish_eq (h : w.coll id = some o) :
    w.tryFinish id = if o.finished || o.preRound || !(w.awaited o).isEmpty then w else w.completes o := by
  unfold Work.tryFinish Work.completes
  rw [h] <;> rfl

/-- A collective that waits for somebody goes on. -/
theorem Work.tryFinish_waits (h : w.coll id = some o) (ha : w.awaited o ≠ []) : w.tryFinish id = w := by
  rw [Work.tryFinish_eq h, if_pos (by simp [ha])]

/-- A collective that waits for nobody completes. -/
theorem Work.tryFinish_completes (h : w.coll id = some o) (hf : o.finished = false) (hp : o.preRound = false) (ha : w.awaited o = []) :
    w.tryFinish id = w.completes o := by
  rw [Work.tryFinish_eq h, if_neg (by simp [hf, hp, ha])]

/-- An EXACT reduction without its trailer goes on (R328). -/
theorem Work.tryFinish_untrailed {p : ReduceParams} (h : w.coll id = some o) (hk : o.kind = .reduce p) (he : p.exact = true)
    (ht : o.trailer = none) : w.tryFinish id = w := by
  have hstays : w.completes o = w := by
    unfold Work.completes
    rw [hk]
    exact if_pos (by rw [he, ht]; rfl)
  rw [Work.tryFinish_eq h, hstays, ite_self]

/-- A completed collective that is no PERMUTE leaves the engine, and the device may report (R344). -/
theorem Work.endColl_muted (hk : ∀ p, o.kind ≠ .permute p) : (w.endColl o).muted = (w.dropColl o.id).muted := by
  unfold Work.endColl
  dsimp only
  split
  · exact absurd ‹_› (hk _)
  · exact Work.tryReport_muted _

/-- A completed PERMUTE is finished, and the device may report (R337). -/
theorem Work.endColl_permute_muted {p : PermuteParams} (hk : o.kind = .permute p) :
    (w.endColl o).muted = (w.updColl o.id fun k => { k with finished := true }).muted := by
  unfold Work.endColl
  dsimp only
  rw [hk]
  exact Work.tryReport_muted _

/-- An INT64 shard written ends its reduction, an empty one too (R326). -/
theorem Work.writeShard_int64 {p : ReduceParams} (hi : p.int64Out = true) : w.writeShard o p
    = (w.stN o.ref.ctx p.output ((o.acc.map fun x => leBytes 8 (ofSigned 64 x)).flatten)).endColl o := by
  unfold Work.writeShard
  dsimp only
  by_cases hnone : o.acc = []
  · rw [if_pos hnone, hnone]
    rfl
  · rw [if_neg hnone, if_pos hi]

end

end Sys2Proof.Machine
end

section
/-!
PROOFS. What a collective in flight meets (R320, R323, R325 to R328, R333, R342): data of peers, the combined trailer, a timeout.
-/

namespace Sys2Proof.Machine

/-! ### COLLECTIVE_DATA_ARRIVAL -/

/-- COLLECTIVE_DATA_ARRIVAL over a link that is UP takes the data. -/
theorem exec_collectiveDataArrival {l : Nat} {s : State} (a : Arrival) (hup : (s.work.link l).state = .up) :
    exec (.collectiveDataArrival l a) s = .next (s.finish (s.work.takeArrival l a)) := exec_finish rfl (if_pos hup)

/-- A collective that has heard a sender, and knows whose data are complete (R320, R326). -/
def Coll.hears (k o : Coll) (a : Arrival) : Coll :=
  { k with
    heard := if o.heard.contains a.sender then k.heard else k.heard ++ [a.sender]
    doneFrom := if a.last then k.doneFrom ++ (a.sender :: a.also) else k.doneFrom }

/-- A collective whose shard's sums take an arrival's partials in (R325). -/
def Coll.sums (k o : Coll) (p : ReduceParams) (own : Nat) (a : Arrival) : Coll :=
  { k with acc := addParts (partialWidth p.contributors) (shardOf o.shards own).lo k.acc (arrivalParts p (shardOf o.shards own).hi a) }

/-- A collective that takes partials in, or keeps them while its pre-round runs (R322, R325). -/
def Coll.takesPart (k o : Coll) (p : ReduceParams) (own : Nat) (a : Arrival) : Coll :=
  { k with
    acc := if k.preRound then k.acc
      else addParts (partialWidth p.contributors) (shardOf o.shards own).lo k.acc (arrivalParts p (shardOf o.shards own).hi a)
    pieces := if k.preRound then k.pieces ++ [a] else k.pieces }

/-- Past its pre-round a reduction sums the partials. -/
theorem Coll.takesPart_sums {k : Coll} (h : k.preRound = false) (o : Coll) (p : ReduceParams) (own : Nat) (a : Arrival) :
    k.takesPart o p own a = k.sums o p own a := by
  unfold Coll.takesPart Coll.sums
  rw [h]
  rfl

section
variable {w : Work} {l : Nat} {a : Arrival} {o : Coll}

/-- Data of no collective here (R320, R328): discarded and counted when superseded, else held while the buffer has room. -/
theorem Work.takeArrival_unmatched (l : Nat) (hnone : ∀ o, o ∈ w.d.colls → collMatches o a = false) :
    w.takeArrival l a = if w.staleArrival a then w.count Ctr.stitchStaleDiscards 1
      else if 4194304 < w.heldArrivals l + arrivalBytes a then w
      else w.upd fun d => { d with arrivals := d.arrivals ++ [(l, a)] } := by
  unfold Work.takeArrival
  rw [List.find?_eq_none.mpr fun o ho => by rw [hnone o ho]; exact Bool.false_ne_true]

/-- Data of a collective here. -/
theorem Work.takeArrival_matched (l : Nat) (h : (w.d.colls.find? fun o => collMatches o a) = some o) :
    w.takeArrival l a = w.acceptArrival o a := by
  unfold Work.takeArrival
  rw [h]

/-- First data of a sender whose parameters disagree halt the collective (R320). -/
theorem Work.acceptArrival_disagrees (hnew : a.sender ∉ o.heard) (hp : a.paramsHash ≠ o.params) :
    w.acceptArrival o a = (w.count Ctr.stitchBytesReceived (arrivalBytes a)).haltStream o.ref 4 0x64 a.sender := by
  unfold Work.acceptArrival
  dsimp only
  rw [if_pos (by simp [hnew, hp])]

/-- Data that agree and are for this device are taken and noted, and may complete the collective (R320, R326). -/
theorem Work.acceptArrival_agrees (hp : a.paramsHash = o.params) (hhere : w.onward o a = none) :
    w.acceptArrival o a
      = (((w.count Ctr.stitchBytesReceived (arrivalBytes a)).absorb o a).updColl o.id fun k => k.hears o a).tryFinish o.id := by
  have hcounted : (w.count Ctr.stitchBytesReceived (arrivalBytes a)).onward o a = none := hhere
  have hheard (x y : List Nat) : (if (!o.heard.contains a.sender) = true then y else x) = if o.heard.contains a.sender then x else y := by
    cases o.heard.contains a.sender <;> rfl
  unfold Work.acceptArrival Coll.hears
  dsimp only
  rw [if_neg (by simp [hp]), hcounted]
  simp only [hheard]

/-- Nothing but a partial goes on to another device (R325). -/
theorem Work.onward_gather {p : AllGatherParams} (hk : o.kind = .allGather p) : w.onward o a = none := by
  rw [Work.onward, hk]

/-- Partials of an EXACT reduction are added into its sums, or kept while its pre-round runs (R322, R325). -/
theorem Work.absorb_exact {p : ReduceParams} (hk : o.kind = .reduce p) (he : p.exact = true) :
    w.absorb o a = w.updColl o.id fun k => k.takesPart o p w.d.deviceNumber a := by
  rw [Work.absorb, hk]
  exact if_pos he

/-- A shard of an ALL_GATHER is put in its place (R333). -/
theorem Work.absorb_gather {p : AllGatherParams} (hk : o.kind = .allGather p) : w.absorb o a
    = w.stN o.ref.ctx (p.dest + a.first * p.elemBytes) (a.bytes.take ((o.elems - a.first) * p.elemBytes)) := by
  rw [Work.absorb, hk]

end

/-- The collective that takes data is in the engine, and is found by its number where no two bear the same. -/
theorem Work.coll_of_matches {w : Work} {o : Coll} {a : Arrival} (h : (w.d.colls.find? fun o => collMatches o a) = some o)
    (hn : (w.d.colls.map fun o => o.id).Nodup) : w.coll o.id = some o :=
  Work.coll_of_mem (List.mem_of_find?_eq_some h) hn

/-- Partials that an EXACT reduction takes while its trailer is still to come change that reduction alone (R325). -/
theorem Work.acceptArrival_exact {w : Work} {a : Arrival} {o : Coll} {p : ReduceParams} (hp : a.paramsHash = o.params)
    (hk : o.kind = .reduce p) (he : p.exact = true) (hpre : o.preRound = false) (ht : o.trailer = none) (hhere : w.onward o a = none)
    (hn : (w.d.colls.map fun k => k.id).Nodup) (hmem : o ∈ w.d.colls) :
    (w.acceptArrival o a).muted = (w.updColl o.id fun k => (k.sums o p w.d.deviceNumber a).hears o a).muted := by
  obtain ⟨v, hv⟩ : ∃ v, v = w.count Ctr.stitchBytesReceived (arrivalBytes a) := ⟨_, rfl⟩
  have hcoll : v.coll o.id = some o := hv ▸ Work.coll_of_mem hmem hn
  have hown : v.d.deviceNumber = w.d.deviceNumber := hv ▸ rfl
  have hkeeps (k : Coll) : (k.takesPart o p v.d.deviceNumber a).id = k.id := rfl
  have hheard := Work.coll_updColl (fun k => (k.takesPart o p v.d.deviceNumber a).hears o a) (fun _ => rfl) hcoll
  rw [Work.acceptArrival_agrees hp hhere, ← hv, Work.absorb_exact hk he, Work.updColl_updColl _ _ hkeeps,
    Work.tryFinish_untrailed hheard hk he ht, hown]
  refine (Work.muted_updColl (hv ▸ Work.count_muted w _ _) ..).trans (congrArg Work.muted ?_)
  refine congrArg (fun cs => w.upd fun d => { d with colls := cs }) (List.map_congr_left fun k hmk => ?_)
  by_cases hid : k.id = o.id
  · have hko : k = o := Coll.eq_of_id hn hmk hmem hid
    rw [if_pos hid, if_pos hid]
    exact congrArg (fun x : Coll => x.hears o a) (Coll.takesPart_sums (hko ▸ hpre) ..)
  · rw [if_neg hid, if_neg hid]

/-- What an ALL_GATHER's completion keeps: contexts, tiles and storage, and the memory that the command found. -/
theorem Work.tryFinish_gather_keeps {w : Work} {o : Coll} {id : Nat} {p : AllGatherParams} (h : w.coll id = some o)
    (hk : o.kind = .allGather p) : (w.tryFinish id).ctxFrame = w.ctxFrame ∧ (w.tryFinish id).base = w.base := by
  have hends : w.completes o = w.endColl o := by rw [Work.completes, hk]
  have hmuted : (w.endColl o).muted = (w.dropColl o.id).muted := Work.endColl_muted (by simp [hk])
  rw [Work.tryFinish_eq h, hends]
  split
  · exact ⟨rfl, rfl⟩
  · exact ⟨Work.muted_reads hmuted Work.ctxFrame fun _ => rfl, Work.muted_base (w := w.dropColl o.id) hmuted⟩

/-! ### TRAILER_RETURN -/

/-- A context with the bits and the exponent of a combined trailer in its section flag, if it has a section (R328). -/
def Ctx.flagged (x : Ctx) (t : Trailer) : Ctx :=
  if t.scale || t.compute then
    { x with replay := x.replay.map fun r =>
        { r with scale := r.scale || t.scale, compute := r.compute || t.compute, maxExp := max r.maxExp t.maxExp } }
  else x

/-- A combined trailer kept with its collective and noted in the section (R328). -/
def Work.keepTrailer (w : Work) (o : Coll) (t : Trailer) : Work :=
  (w.updColl o.id fun k => { k with trailer := some t }).updCtx o.ref.ctx fun x => x.flagged t

/-- A change of a context that changes nothing. -/
theorem Work.updCtx_id (w : Work) (c : Nat) : (w.updCtx c fun x => x) = w := by
  have hsame : updAt w.d.ctxs c (fun x => x) = w.d.ctxs := updAt_same _ _ _ fun _ _ => rfl
  exact congrArg (fun cs => w.upd fun d => { d with ctxs := cs }) hsame

section
variable {w : Work} {o : Coll} {p : ReduceParams} {t : Trailer}

/-- The combined trailer of an EXACT reduction past its pre-round is taken (R328). -/
theorem Work.returnTrailer_taken (hk : o.kind = .reduce p) (he : p.exact = true) (ht : o.trailer = none) (hpre : o.preRound = false) :
    w.returnTrailer o t = w.takeTrailer o p t := by
  rw [Work.returnTrailer, hk]
  dsimp only
  rw [if_neg (by simp [he, ht]), if_neg (by simp [hpre])]

/-- A trailer that counts other contributions than were named halts (R328). -/
theorem Work.takeTrailer_miscounts (hn : t.contributions ≠ p.contributors) :
    w.takeTrailer o p t = w.haltStream o.ref 4 0x64 (t.contributions % 2 ^ 32) := if_pos hn

/-- A trailer that agrees is kept, and may complete the reduction (R328). -/
theorem Work.takeTrailer_agrees (hn : t.contributions = p.contributors) :
    w.takeTrailer o p t = (w.keepTrailer o t).tryFinish o.id := by
  unfold Work.takeTrailer Work.keepTrailer
  rw [if_neg (not_not_intro hn)]
  unfold Ctx.flagged
  dsimp only
  split
  · rfl
  · rw [Work.updCtx_id]

/-- The collective that keeps a trailer. -/
theorem Work.coll_keepTrailer {id : Nat} (h : w.coll id = some o) :
    (w.keepTrailer o t).coll id = some { o with trailer := some t } := by
  have hid := Work.coll_id h
  subst hid
  exact Work.coll_updColl (fun k => { k with trailer := some t }) (fun _ => rfl) h

end

/-- TRAILER_RETURN of an EXACT reduction past its pre-round. -/
theorem exec_trailerReturn {op : Nat} {t : Trailer} {o : Coll} {p : ReduceParams} {s : State} (ho : s.work.coll op = some o)
    (hk : o.kind = .reduce p) (he : p.exact = true) (ht : o.trailer = none) (hpre : o.preRound = false) :
    exec (.trailerReturn op t) s = .next (s.finish (s.work.takeTrailer o p t)) := by
  refine exec_finish rfl ?_
  rw [ho]
  exact Work.returnTrailer_taken hk he ht hpre

/-- With its trailer and all data an INT64 reduction stores its shard and leaves the engine (R326, R328). -/
theorem Work.keepTrailer_completes {w : Work} {o : Coll} {p : ReduceParams} {op : Nat} {t : Trailer} (h : w.coll op = some o)
    (hk : o.kind = .reduce p) (hi : p.int64Out = true) (hpre : o.preRound = false) (hfin : o.finished = false) (ha : w.awaited o = []) :
    ((w.keepTrailer o t).tryFinish op).muted
      = (((w.keepTrailer o t).stN o.ref.ctx p.output ((o.acc.map fun x => leBytes 8 (ofSigned 64 x)).flatten)).dropColl op).muted := by
  have hid := Work.coll_id h
  rw [Work.tryFinish_completes (Work.coll_keepTrailer h) hfin hpre ha, Work.completes]
  dsimp only
  rw [hk]
  dsimp only
  rw [Option.isNone_some, Bool.and_false, if_neg Bool.false_ne_true, Work.writeShard_int64 hi,
    Work.endColl_muted (by simp), hid]

/-! ### COLLECTIVE_TIMEOUT -/

/-- A timeout of a collective that waits for nobody, or is finished, changes nothing (R342). -/
theorem exec_collectiveTimeout_idle {op : Nat} {o : Coll} {s : State} (ho : s.work.coll op = some o)
    (hidle : s.work.awaited o = [] ∨ o.finished = true) : exec (.collectiveTimeout op) s = .next s := by
  refine congrArg _ (State.exec_id s _ ?_)
  rw [ho]
  dsimp only
  rcases hidle with hnone | hfin
  · rw [hnone]
  · split
    · rfl
    · exact if_pos hfin

/-- A timeout of a collective that waits halts with its lowest device (R342). -/
theorem exec_collectiveTimeout_waits {op d : Nat} {ds : List Nat} {o : Coll} {s : State} (ho : s.work.coll op = some o)
    (ha : s.work.awaited o = d :: ds) (hfin : o.finished = false) :
    exec (.collectiveTimeout op) s = .next (s.finish (s.work.haltStream o.ref 4 0x62 (ds.foldl min d))) := by
  refine exec_finish rfl ?_
  rw [ho]
  dsimp only
  rw [ha]
  exact if_neg (ne_true_of_eq_false hfin)

/-- Settles O51: each event by the outcome of its meaning: the data that a collective takes, the trailer that it keeps, or the record of
its halt. The words by which data match a collective, and the 4 MiB kept for early data, are the model's choice (log 92). -/
theorem collectivesProceed : Obligations.CollectivesProceed := by
  unfold Obligations.CollectivesProceed
  refine ⟨?_, ?_, ?_, ?_, ?_, ?_, ?_, ?_, ?_, ?_, ?_, ?_⟩
  · intro l a s hdown
    exact congrArg _ (State.exec_id s _ (if_neg hdown))
  · intro l a s hup hnone hstale
    rw [exec_collectiveDataArrival a hup, Work.takeArrival_unmatched l hnone, if_pos hstale, State.finish_eq s _ rfl rfl]
    rfl
  · intro l a s hup hnone hstale
    rw [exec_collectiveDataArrival a hup, Work.takeArrival_unmatched l hnone, if_neg (ne_true_of_eq_false hstale)]
    split
    · rw [State.finish_eq s _ rfl rfl]
      rfl
    · rw [State.finish_eq s _ rfl rfl]
      rfl
  · intro l a o s hup hfind hnew hdisagree ha
    obtain ⟨he, hv⟩ := Ctx.active_enable ha
    obtain ⟨hvalid, hreason, hdetail⟩ :=
      Work.haltStream_rec (s.work.count Ctr.stitchBytesReceived (arrivalBytes a)) o.ref 4 0x64 a.sender he hv
    refine ⟨_, exec_collectiveDataArrival a hup, ?_⟩
    rw [Work.takeArrival_matched l hfind, Work.acceptArrival_disagrees hnew hdisagree, State.haltedWith,
      State.finish_ctx s _ _ (Work.still_fz (Work.haltStream_still _ o.ref 4 0x64 a.sender))]
    exact ⟨⟨hvalid, hreason⟩, hdetail⟩
  · intro l a o p s hup hfind hagree hk he hpre ht hhere hn
    have hmuted := Work.acceptArrival_exact hagree hk he hpre ht hhere hn (List.mem_of_find?_eq_some hfind)
    refine ⟨_, exec_collectiveDataArrival a hup, ?_⟩
    rw [Work.takeArrival_matched l hfind]
    refine ⟨State.finish_mem s _ (Work.muted_log hmuted) (Work.muted_wiped hmuted), ?_, ?_, ?_⟩
    · rw [State.finish_ctxs]; exact Work.muted_ctxs hmuted
    · rw [State.finish_tiles]; exact Work.muted_tiles hmuted
    · rw [State.finish_colls]; exact Work.muted_colls hmuted
  · intro l a o p s hwf hup hfind hagree hk hn
    have hcoll : (s.work.count Ctr.stitchBytesReceived (arrivalBytes a)).coll o.id = some o := Work.coll_of_matches hfind hn
    refine ⟨_, exec_collectiveDataArrival a hup, ?_⟩
    rw [Work.takeArrival_matched l hfind, Work.acceptArrival_agrees hagree (Work.onward_gather hk), Work.absorb_gather hk]
    obtain ⟨hframe, hbase⟩ := Work.tryFinish_gather_keeps (Work.coll_updColl (fun k => k.hears o a) (fun _ => rfl)
      (Work.coll_stN hcoll o.ref.ctx (p.dest + a.first * p.elemBytes) (a.bytes.take ((o.elems - a.first) * p.elemBytes)))) hk
    simp only [Work.ctxFrame, Prod.mk.injEq] at hframe
    obtain ⟨-, hctxs, htiles, hlog, hwiped⟩ := hframe
    refine ⟨?_, ?_, State.finish_stores s _ _ _ hwf hbase hwiped hlog⟩
    · rw [State.finish_ctxs]; exact hctxs
    · rw [State.finish_tiles]; exact htiles
  · intro op t s hnone
    exact ⟨congrArg _ (State.exec_id s _ (by rw [hnone])), congrArg _ (State.exec_id s _ (by rw [hnone]))⟩
  · intro op t o p s ho hk he ht hpre hcount ha
    exact exec_haltStream ha ((exec_trailerReturn ho hk he ht hpre).trans (by rw [Work.takeTrailer_miscounts hcount]))
  · intro op t o p s ho hk he ht hpre hcount hfin ha hc
    refine ⟨_, exec_trailerReturn ho hk he ht hpre, ?_⟩
    have hid := Work.coll_id ho
    rw [Work.takeTrailer_agrees hcount, hid, Work.tryFinish_waits (Work.coll_keepTrailer ho) ha]
    refine ⟨?_, State.finish_onCtx hc rfl⟩
    rw [State.finish_colls, Work.keepTrailer, hid]
    rfl
  · intro op t o p s hwf ho hk he hi ht hpre hcount hfin ha
    have hmuted := Work.keepTrailer_completes (t := t) ho hk hi hpre hfin ha
    have hid := Work.coll_id ho
    refine ⟨_, exec_trailerReturn ho hk he ht hpre, ?_⟩
    rw [Work.takeTrailer_agrees hcount, hid]
    refine ⟨?_, ?_, State.finish_stores s _ _ _ hwf (Work.muted_base hmuted) (Work.muted_wiped hmuted) (Work.muted_log hmuted)⟩
    · have hdrop := Work.dropColl_updColl (w := s.work) (id := op) (fun k => { k with trailer := some t }) fun _ => rfl
      rw [State.finish_colls, Work.muted_colls hmuted, Work.keepTrailer, hid]
      exact congrArg (fun x : Work => x.d.colls) hdrop
    · rw [State.finish_tiles, Work.muted_tiles hmuted]
      rfl
  · intro op o s ho hidle
    exact exec_collectiveTimeout_idle ho hidle
  · intro op d ds o s ho ha hfin hactive
    exact exec_haltStream hactive (exec_collectiveTimeout_waits ho ha hfin)

end Sys2Proof.Machine
end

section
/-!
PROOFS. Collectives at their start (R317 to R325, R333 to R337, R340, R343): the checks, and what each kind leaves in the engine.
-/

namespace Sys2Proof.Machine

/-! ### The checks -/

section
variable {r : StreamRef} {k : CollKind} {s : State}

/-- A collective command runs its kind. -/
theorem exec_row (r : StreamRef) (k : CollKind) (s : State) : exec (k.row r) s = .next (s.exec fun w => w.runColl r k) := by
  cases k <;> rfl

/-- A collective command of an active context starts its kind. -/
theorem exec_row_active (k : CollKind) (ha : (s.work.ctx r.ctx).active = true) :
    exec (k.row r) s = .next (s.finish (s.work.startColl r k)) := exec_finish (exec_row r k s) (if_pos ha)

variable {w : Work} {reason d n : Nat}

/-- A context, a quota, a parameter or a link protocol that allows no such collective halts the stream (R319, R321, R340, R343). -/
theorem Work.startColl_collHalt (h : w.collHalt r.ctx k = some (reason, d)) : w.startColl r k = w.haltStream r 4 reason d := by
  rw [Work.startColl, h]

/-- An entry, a layer, a route or a region that does not serve halts the stream (R297, R320, R336, R343, R361, R470). -/
theorem Work.startColl_collFault (hhalt : w.collHalt r.ctx k = none)
    (h : w.collFault (w.named r k) (w.namedEntry k) (w.newEntry k (w.namedEntry k)) = some (reason, d)) :
    w.startColl r k = w.haltStream r 4 reason d := by
  rw [Work.startColl, hhalt]
  dsimp only
  rw [h]

/-- A collective whose checks pass is admitted, or waits while 64 are in flight (R321, log 10). -/
theorem Work.startColl_passes (hhalt : w.collHalt r.ctx k = none)
    (hfault : w.collFault (w.named r k) (w.namedEntry k) (w.newEntry k (w.namedEntry k)) = none)
    (hpoison : ((w.collRanges (w.named r k)).1.findSome? fun q => if q.2 = 0 then none else w.poisonIn q.1 q.2) = none)
    (hverify : w.verifyAll (w.collRanges (w.named r k)).1 = .ok n) :
    w.startColl r k = if 64 ≤ (w.d.colls.filter fun o => !o.finished).length then w.stall r.ctx Ctr.stallQueueFull 9
      else (w.count Ctr.tensorBlocksVerified n).admitColl r k (w.named r k) := by
  rw [Work.startColl, hhalt]
  dsimp only
  rw [hfault]
  dsimp only
  rw [hpoison]
  dsimp only
  rw [hverify]

/-- A collective that may begin is admitted, the blocks that it verified counted. -/
theorem exec_row_begins (h : s.work.mayBegin r k) : ∃ n, exec (k.row r) s
    = .next (s.finish ((s.work.count Ctr.tensorBlocksVerified n).admitColl r k (s.work.named r k))) := by
  obtain ⟨ha, hhalt, hfault, hpoison, ⟨n, hverify⟩, hroom, -, -⟩ := h
  refine ⟨n, (exec_row_active k ha).trans ?_⟩
  rw [Work.startColl_passes hhalt hfault hpoison hverify, if_neg (Nat.not_le_of_lt hroom)]

/-- A collective that may begin has a fresh number. -/
theorem Work.mayBegin_fresh (h : w.mayBegin r k) : ∀ q, q ∈ w.d.colls → q.id ≠ (w.named r k).id := by
  obtain ⟨-, -, -, -, -, -, hfresh, -⟩ := h
  exact hfresh

/-- No data are held for a collective that may begin. -/
theorem Work.mayBegin_unheld (h : w.mayBegin r k) : ∀ a, a ∈ w.d.arrivals → collMatches (w.named r k) a.2 = false := by
  obtain ⟨-, -, -, -, -, -, -, hheld⟩ := h
  exact hheld

end

/-! ### Held data -/

/-- No held data belong to a collective: nothing is taken (R320). -/
theorem Work.takeHeld_none {w : Work} {id : Nat}
    (h : ∀ o, w.coll id = some o → ∀ a, a ∈ w.d.arrivals → collMatches o a.2 = false) : w.takeHeld id = w := by
  unfold Work.takeHeld
  cases hc : w.coll id with
  | none => rfl
  | some o =>
    have hnone : (w.d.arrivals.filter fun e => collMatches o e.2) = [] :=
      List.filter_eq_nil_iff.mpr fun a ha => by simp [h o hc a ha]
    have hall : (w.d.arrivals.filter fun e => !collMatches o e.2) = w.d.arrivals :=
      List.filter_eq_self.mpr fun a ha => by simp [h o hc a ha]
    dsimp only
    rw [hnone]
    exact congrArg (fun as => w.upd fun d => { d with arrivals := as }) hall

/-- What a launched collective leaves where its start leaves `v`, no data being held for what `v` has beside the collectives before. -/
theorem Work.launch_muted {u v w : Work} {o : Coll} {l : List Coll} (hu : u.muted = w.muted)
    (hv : ∀ x : Work, x.muted = (w.engaged o).muted → (x.beginColl o).muted = v.muted) (hcolls : v.d.colls = w.d.colls ++ l)
    (harrivals : v.d.arrivals = w.d.arrivals) (hfresh : ∀ k, k ∈ w.d.colls → k.id ≠ o.id)
    (hheld : ∀ k, k ∈ l → ∀ a, a ∈ w.d.arrivals → collMatches k a.2 = false) : (u.launch o).muted = v.muted := by
  obtain ⟨x, hx⟩ : ∃ x, x = (u.engaged o).beginColl o := ⟨_, rfl⟩
  have hlaunch : u.launch o = x.takeHeld o.id := hx ▸ rfl
  have hbegun : x.muted = v.muted := hx ▸ hv _ (Work.muted_engaged hu o)
  rw [hlaunch, Work.takeHeld_none fun k hk a ha => ?_, hbegun]
  rw [Work.muted_coll hbegun] at hk
  rw [Work.muted_arrivals hbegun, harrivals] at ha
  have hmem := List.mem_of_find?_eq_some hk
  rw [hcolls, List.mem_append] at hmem
  rcases hmem with hold | hnew
  · exact absurd (Work.coll_id hk) (hfresh k hold)
  · exact hheld k hnew a ha

/-- A meaning that comes to a collective in the engine under a fresh number: the state it leaves. -/
theorem State.finish_began {s : State} {x v : Work} {o : Coll} (h : x.muted = v.muted) (hd : v.d = (s.work.engaged o).d) :
    s.began (s.finish x) o := by
  refine ⟨?_, ?_, ?_, ?_, ?_⟩
  · rw [State.finish_colls, Work.muted_colls h, hd]; rfl
  · rw [State.finish_nextId, Work.muted_nextId h, hd]; rfl
  · rw [State.finish_ctxs, Work.muted_ctxs h, hd]; rfl
  · rw [State.finish_tiles, Work.muted_tiles h, hd]; rfl
  · rw [State.finish_arrivals, Work.muted_arrivals h, hd]; rfl

/-- A command that may begin, and whose start comes to `v`: the state it answers. -/
theorem exec_row_launches {s : State} {r : StreamRef} {k : CollKind} {v : Work} {l : List Coll} (h : s.work.mayBegin r k)
    (hadmit : ∀ u : Work, u.muted = s.work.muted → u.admitColl r k (s.work.named r k) = u.launch (s.work.named r k))
    (hv : ∀ x : Work, x.muted = (s.work.engaged (s.work.named r k)).muted → (x.beginColl (s.work.named r k)).muted = v.muted)
    (hcolls : v.d.colls = s.dev.colls ++ l) (harrivals : v.d.arrivals = s.dev.arrivals)
    (hheld : ∀ o, o ∈ l → ∀ a, a ∈ s.dev.arrivals → collMatches o a.2 = false) :
    ∃ x : Work, exec (k.row r) s = .next (s.finish x) ∧ x.muted = v.muted := by
  obtain ⟨n, hexec⟩ := exec_row_begins h
  have hcount : (s.work.count Ctr.tensorBlocksVerified n).muted = s.work.muted := Work.count_muted ..
  rw [hadmit _ hcount] at hexec
  exact ⟨_, hexec, Work.launch_muted hcount hv hcolls harrivals (Work.mayBegin_fresh h) hheld⟩

/-- A command that may begin and whose start leaves a collective in the engine, writing nothing: the state it answers. -/
theorem exec_row_began {s : State} {r : StreamRef} {k : CollKind} {o : Coll} (h : s.work.mayBegin r k)
    (hadmit : ∀ u : Work, u.muted = s.work.muted → u.admitColl r k (s.work.named r k) = u.launch (s.work.named r k))
    (hbegun : ∀ x : Work, x.muted = (s.work.engaged (s.work.named r k)).muted
      → (x.beginColl (s.work.named r k)).muted = (s.work.engaged o).muted)
    (hheld : ∀ a, a ∈ s.dev.arrivals → collMatches o a.2 = false) :
    ∃ u, exec (k.row r) s = .next u ∧ u.mem = s.mem ∧ s.began u o := by
  obtain ⟨x, hexec, hx⟩ := exec_row_launches h hadmit hbegun (l := [o]) rfl rfl
    fun k hk a ha => List.mem_singleton.mp hk ▸ hheld a ha
  exact ⟨_, hexec, State.finish_mem s _ (Work.muted_log hx) (Work.muted_wiped hx), State.finish_began hx rfl⟩

/-! ### Begun, and waiting or complete -/

section
variable {v w : Work} {o : Coll}

/-- A collective just begun that waits for somebody goes on. -/
theorem Work.tryFinish_engaged (hv : v.muted = (w.engaged o).muted) (hfresh : ∀ k, k ∈ w.d.colls → k.id ≠ o.id)
    (ha : w.awaited o ≠ []) : (v.tryFinish o.id).muted = (w.engaged o).muted := by
  have hcoll := (Work.muted_coll hv o.id).trans (Work.coll_engaged hfresh)
  rw [Work.tryFinish_waits hcoll (by rw [Work.muted_awaited hv]; exact ha), hv]

/-- An EXACT reduction just begun waits for its trailer (R328). -/
theorem Work.tryFinish_engaged_untrailed {p : ReduceParams} (hv : v.muted = (w.engaged o).muted)
    (hfresh : ∀ k, k ∈ w.d.colls → k.id ≠ o.id) (hk : o.kind = .reduce p) (he : p.exact = true) (ht : o.trailer = none) :
    (v.tryFinish o.id).muted = (w.engaged o).muted := by
  rw [Work.tryFinish_untrailed ((Work.muted_coll hv o.id).trans (Work.coll_engaged hfresh)) hk he ht, hv]

/-- A collective just begun that waits for nobody completes. -/
theorem Work.tryFinish_engaged_alone (hv : v.muted = (w.engaged o).muted) (hfresh : ∀ k, k ∈ w.d.colls → k.id ≠ o.id)
    (hf : o.finished = false) (hp : o.preRound = false) (ha : w.awaited o = []) : v.tryFinish o.id = v.completes o := by
  have hcoll := (Work.muted_coll hv o.id).trans (Work.coll_engaged hfresh)
  exact Work.tryFinish_completes hcoll hf hp ((Work.muted_awaited hv o).trans ha)

/-- A collective just begun and then changed stands changed. -/
theorem Work.updColl_engaged_muted (hv : v.muted = (w.engaged o).muted) (hfresh : ∀ k, k ∈ w.d.colls → k.id ≠ o.id) (f : Coll → Coll) :
    (v.updColl o.id f).muted = (w.engaged (f o)).muted :=
  (Work.muted_updColl hv o.id f).trans (congrArg Work.muted (Work.updColl_engaged hfresh f))

end

section
variable {w : Work} {o : Coll}

theorem Work.beginColl_reduce {p : ReduceParams} (hk : o.kind = .reduce p) : w.beginColl o = w.beginReduce o p := by
  rw [Work.beginColl, hk]

theorem Work.beginColl_allGather {p : AllGatherParams} (hk : o.kind = .allGather p) : w.beginColl o = w.beginGather o p := by
  rw [Work.beginColl, hk]

theorem Work.beginColl_allToAll {p : AllToAllParams} (hk : o.kind = .allToAll p) : w.beginColl o = w.beginAllToAll o p := by
  rw [Work.beginColl, hk]

theorem Work.beginColl_small {p : SmallParams} (hk : o.kind = .small p) : w.beginColl o = w.beginSmall o p := by
  rw [Work.beginColl, hk]

theorem Work.beginColl_permute {p : PermuteParams} (hk : o.kind = .permute p) : w.beginColl o = w.beginPermute o p := by
  rw [Work.beginColl, hk]

end

/-! ### Reductions -/

/-- The FP32 sums of a device's own shard over its sources (R340). -/
def Work.ringAcc (w : Work) (o : Coll) (p : ReduceParams) : List Int :=
  slice (tab o.elems fun j =>
    (((ringSum ((p.sources.map (w.sourceWords o.ref.ctx o.elems p.sourceBf16)).map fun s => (s[j]?).getD 0)).1 : Nat) : Int))
    (shardOf o.shards w.d.deviceNumber).lo (shardOf o.shards w.d.deviceNumber).hi

/-- The integers of a device's own shard added over its sources, quantised at an exponent (R323, R325). -/
def Work.plainAcc (w : Work) (o : Coll) (p : ReduceParams) (e : Int) : List Int :=
  slice (plainContribution o.elems e (p.sources.map (w.sourceWords o.ref.ctx o.elems p.sourceBf16))).sums
    (shardOf o.shards w.d.deviceNumber).lo (shardOf o.shards w.d.deviceNumber).hi

/-- The FP32 sums, element by element over the sources (R340). -/
theorem Work.ringAcc_eq (w : Work) (o : Coll) (p : ReduceParams) : w.ringAcc o p
    = slice (tab o.elems fun j =>
        (((ringSum (p.sources.map fun a => ((w.sourceWords o.ref.ctx o.elems p.sourceBf16 a)[j]?).getD 0)).1 : Nat) : Int))
      (shardOf o.shards w.d.deviceNumber).lo (shardOf o.shards w.d.deviceNumber).hi := by
  simp only [Work.ringAcc, List.map_map]
  rfl

/-- The integer sums, source by source (R325). -/
theorem Work.plainAcc_eq (w : Work) (o : Coll) (p : ReduceParams) (e : Int) : w.plainAcc o p e
    = slice ((p.sources.map fun a => (w.sourceWords o.ref.ctx o.elems p.sourceBf16 a).map fun x => (quantiseAt e x).1).foldl
        (fun t q => t.zipWith (fun a b => a + b) q) (List.replicate o.elems 0))
      (shardOf o.shards w.d.deviceNumber).lo (shardOf o.shards w.d.deviceNumber).hi := by
  simp only [Work.plainAcc, plainContribution, List.foldl_map, List.map_map, Function.comp_apply]
  rfl

/-- The sums of a collective do not say whom it waits for. -/
theorem Work.awaited_acc (w : Work) (o : Coll) (acc : List Int) : w.awaited { o with acc := acc } = w.awaited o := rfl

/-- A collective put into the engine leaves the exponent that history gives (R322). -/
theorem Work.historyE_engaged {w x : Work} {o : Coll} (hx : x.muted = (w.engaged o).muted) (c : Nat) (layer : Option Nat) :
    x.historyE c layer = w.historyE c layer := by
  have hengaged : (w.engaged o).historyE c layer = w.historyE c layer := rfl
  rw [← hengaged]
  exact Work.muted_reads hx (fun y => y.historyE c layer) fun _ => rfl

section
variable {w x : Work} {o : Coll} {p : ReduceParams} (hx : x.muted = (w.engaged o).muted)
  (hfresh : ∀ k, k ∈ w.d.colls → k.id ≠ o.id)
include hx hfresh

/-- A reduction under RING_FP32 that waits for others holds its FP32 sums (R340). -/
theorem Work.beginReduce_ring (hk : o.kind = .reduce p) (he : p.exact = false) (ha : w.awaited o ≠ []) :
    (x.beginColl o).muted = (w.engaged { o with acc := w.ringAcc o p }).muted := by
  have hacc : x.ringAcc o p = w.ringAcc o p := Work.muted_reads hx (fun y => y.ringAcc o p) fun _ => rfl
  have hsent : ∃ v : Work, v.muted = x.muted
      ∧ x.beginReduce o p = (v.updColl o.id fun k => { k with acc := x.ringAcc o p }).tryFinish o.id :=
    ⟨_, Work.foldl_muted _ (fun _ _ _ => Work.sendPiece_muted ..) _, if_pos (by rw [he]; rfl)⟩
  obtain ⟨v, hv, hbegin⟩ := hsent
  rw [Work.beginColl_reduce hk, hbegin, ← hacc]
  exact Work.tryFinish_engaged (Work.updColl_engaged_muted (hv.trans hx) hfresh fun k => { k with acc := x.ringAcc o p }) hfresh
    (Work.awaited_acc w o _ ▸ ha)

/-- An EXACT reduction without history waits for its pre-round (R322). -/
theorem Work.beginReduce_preRound (hk : o.kind = .reduce p) (he : p.exact = true) (hhist : w.historyE o.ref.ctx p.layer = none)
    (hs : o.shards.length ≠ 1) : (x.beginColl o).muted = (w.engaged { o with preRound := true }).muted := by
  have hhist' : x.historyE o.ref.ctx p.layer = none := (Work.historyE_engaged hx ..).trans hhist
  rw [Work.beginColl_reduce hk]
  unfold Work.beginReduce
  dsimp only
  rw [if_neg (by rw [he]; exact Bool.false_ne_true), hhist']
  dsimp only
  rw [if_neg hs, Work.sendTrailer_muted]
  exact Work.updColl_engaged_muted ((Work.count_muted ..).trans hx) hfresh fun k => { k with preRound := true }

/-- An uncompressed EXACT reduction over several shards holds its sums, and waits for its trailer (R323, R325, R328). -/
theorem Work.contribute_plain {e : Int} (hk : o.kind = .reduce p) (he : p.exact = true) (hc : p.compression = .none)
    (ht : o.trailer = none) (hs : o.shards.length ≠ 1) : (x.contribute o p e).muted
      = (w.engaged { o with exponent := e, preRound := false, acc := w.plainAcc o p e }).muted := by
  have hacc : x.plainAcc o p e = w.plainAcc o p e := Work.muted_reads hx (fun y => y.plainAcc o p e) fun _ => rfl
  obtain ⟨k, hk'⟩ : ∃ k, k = plainContribution o.elems e (p.sources.map (x.sourceWords o.ref.ctx o.elems p.sourceBf16)) := ⟨_, rfl⟩
  have hplain : x.contribution o p e = k := by
    unfold Work.contribution
    dsimp only
    rw [hc, hk']
  have hnone : k.feedback = [] := hk' ▸ rfl
  have hslice : slice k.sums (shardOf o.shards x.d.deviceNumber).lo (shardOf o.shards x.d.deviceNumber).hi = x.plainAcc o p e :=
    hk' ▸ rfl
  unfold Work.contribute
  dsimp only
  rw [hplain, if_pos hnone, if_neg hs, ← hacc, hslice]
  refine Work.tryFinish_engaged_untrailed (o := { o with exponent := e, preRound := false, acc := x.plainAcc o p e }) ?_ hfresh hk he ht
  rw [Work.sendTrailer_muted]
  exact Work.updColl_engaged_muted ((Work.foldl_muted _ (fun _ _ _ => Work.sendPayloads_muted ..) _).trans
    ((Work.count_muted ..).trans ((Work.count_muted ..).trans ((Work.count_muted ..).trans hx)))) hfresh
    fun _ => { o with exponent := e, preRound := false, acc := x.plainAcc o p e }

/-- A reduction with history at an exponent contributes at it (R322). -/
theorem Work.beginReduce_history {e : Int} (hk : o.kind = .reduce p) (he : p.exact = true) (hc : p.compression = .none)
    (ht : o.trailer = none) (hs : o.shards.length ≠ 1) (hhist : w.historyE o.ref.ctx p.layer = some e) :
    (x.beginColl o).muted
      = (w.engaged { o with exponent := e, preRound := false, acc := w.plainAcc o p e }).muted := by
  have hhist' : x.historyE o.ref.ctx p.layer = some e := (Work.historyE_engaged hx ..).trans hhist
  rw [Work.beginColl_reduce hk]
  unfold Work.beginReduce
  dsimp only
  rw [if_neg (by rw [he]; exact Bool.false_ne_true), hhist']
  exact Work.contribute_plain hx hfresh hk he hc ht hs

end

/-! ### The other kinds -/

/-- Where an ALL_GATHER puts a device's own shard (R333). -/
def Work.ownPlace (w : Work) (o : Coll) (p : AllGatherParams) : Nat := p.dest + (shardOf o.shards w.d.deviceNumber).lo * p.elemBytes

/-- A device's own shard of an ALL_GATHER (R333). -/
def Work.ownShard (w : Work) (o : Coll) (p : AllGatherParams) : List Byte :=
  w.ldN o.ref.ctx p.source
    (((shardOf o.shards w.d.deviceNumber).hi - (shardOf o.shards w.d.deviceNumber).lo) * p.elemBytes)

/-- The words that an ALLREDUCE_SMALL combines (R335). -/
def Work.smallWords (w : Work) (o : Coll) (p : SmallParams) : List Int :=
  tab p.words fun i => w.les (localKey o.ref.ctx (p.source + 8 * i)) 8

/-- The bytes of words of 64 bits. -/
def wordBytes (ws : List Int) : List Byte := (ws.map fun x => leBytes 8 (ofSigned 64 x)).flatten

/-- A PERMUTE that gives this device nothing waits for nobody (R337). -/
theorem Work.awaited_permute {w : Work} {o : Coll} {p : PermuteParams} (hk : o.kind = .permute p)
    (hnone : ∀ x, x ∈ o.newShards → x.device ≠ w.d.deviceNumber) : w.awaited o = [] := by
  have hnew : shardOf o.newShards w.d.deviceNumber = { device := w.d.deviceNumber, lo := 0, hi := 0 } := by
    rw [shardOf, List.find?_eq_none.mpr (by simpa using hnone)]
    rfl
  have hempty : (o.shards.filter fun s => decide (max s.lo 0 < min s.hi 0)) = [] :=
    List.filter_eq_nil_iff.mpr fun s _ => by rw [decide_eq_true_eq]; omega
  unfold Work.awaited
  rw [hk]
  dsimp only
  rw [hnew]
  dsimp only
  rw [hempty, List.map_nil, List.filter_nil]

section
variable {w x : Work} {o : Coll} (hx : x.muted = (w.engaged o).muted) (hfresh : ∀ k, k ∈ w.d.colls → k.id ≠ o.id)
include hx

/-- An ALL_GATHER publishes this device's shard and puts it in its own place (R333). -/
theorem Work.beginGather_eq (p : AllGatherParams) : ∃ v : Work, x.beginGather o p = v.tryFinish o.id
    ∧ v.muted = ((w.engaged o).stN o.ref.ctx (w.ownPlace o p) (w.ownShard o p)).muted := by
  have hplace : x.ownPlace o p = w.ownPlace o p := Work.muted_reads hx (fun y => y.ownPlace o p) fun _ => rfl
  have hshard : x.ownShard o p = w.ownShard o p := Work.muted_reads hx (fun y => y.ownShard o p) fun _ => rfl
  rw [← hplace, ← hshard]
  refine ⟨_, rfl, Work.muted_stN ?_ ..⟩
  split
  · exact hx
  · exact (Work.foldl_muted _ (fun _ _ _ => Work.sendPiece_muted ..) _).trans hx

include hfresh

/-- An ALL_GATHER that waits for others has its own shard in place (R333). -/
theorem Work.beginGather_waits {p : AllGatherParams} (hk : o.kind = .allGather p) (ha : w.awaited o ≠ []) :
    (x.beginColl o).muted = ((w.engaged o).stN o.ref.ctx (w.ownPlace o p) (w.ownShard o p)).muted := by
  obtain ⟨v, hbegin, hv⟩ := Work.beginGather_eq hx p
  have hcoll := (Work.muted_coll hv o.id).trans (Work.coll_stN (Work.coll_engaged hfresh) ..)
  rw [Work.beginColl_allGather hk, hbegin, Work.tryFinish_waits hcoll (by rw [Work.muted_awaited hv]; exact ha), hv]

/-- An ALL_GATHER of one device has its shard in place and leaves the engine (R333). -/
theorem Work.beginGather_alone {p : AllGatherParams} (hk : o.kind = .allGather p) (hf : o.finished = false) (hp : o.preRound = false)
    (ha : w.awaited o = []) :
    (x.beginColl o).muted = (w.numbered.stN o.ref.ctx (w.ownPlace o p) (w.ownShard o p)).muted := by
  obtain ⟨v, hbegin, hv⟩ := Work.beginGather_eq hx p
  have hcoll := (Work.muted_coll hv o.id).trans (Work.coll_stN (Work.coll_engaged hfresh) ..)
  have hends : v.completes o = v.endColl o := by rw [Work.completes, hk]
  rw [Work.beginColl_allGather hk, hbegin, Work.tryFinish_completes hcoll hf hp ((Work.muted_awaited hv o).trans ha), hends,
    Work.endColl_muted (by simp [hk]), Work.muted_dropColl hv]
  exact congrArg (fun y : Work => (y.stN o.ref.ctx (w.ownPlace o p) (w.ownShard o p)).muted) (Work.dropColl_engaged hfresh)

/-- An ALL_TO_ALL that waits for others has sent its blocks (R334). -/
theorem Work.beginAllToAll_waits {p : AllToAllParams} (hk : o.kind = .allToAll p) (ha : w.awaited o ≠ []) :
    (x.beginColl o).muted = (w.engaged o).muted := by
  rw [Work.beginColl_allToAll hk]
  refine Work.tryFinish_engaged ((Work.foldl_muted _ (fun v e _ => ?_) _).trans hx) hfresh ha
  split
  · rfl
  · exact Work.sendPiece_muted ..

/-- An ALLREDUCE_SMALL sends its words, and holds them (R335). -/
theorem Work.beginSmall_eq (p : SmallParams) : ∃ v : Work, x.beginSmall o p = v.tryFinish o.id
    ∧ v.muted = (w.engaged { o with acc := w.smallWords o p }).muted := by
  have hwords : x.smallWords o p = w.smallWords o p := Work.muted_reads hx (fun y => y.smallWords o p) fun _ => rfl
  rw [← hwords]
  exact ⟨_, rfl, Work.updColl_engaged_muted ((Work.foldl_muted _ (fun _ _ _ => Work.sendPiece_muted ..) _).trans hx) hfresh
    fun k => { k with acc := x.smallWords o p }⟩

/-- An ALLREDUCE_SMALL that waits for others holds its words (R335). -/
theorem Work.beginSmall_waits {p : SmallParams} (hk : o.kind = .small p) (ha : w.awaited o ≠ []) :
    (x.beginColl o).muted = (w.engaged { o with acc := w.smallWords o p }).muted := by
  obtain ⟨v, hbegin, hv⟩ := Work.beginSmall_eq hx hfresh p
  rw [Work.beginColl_small hk, hbegin]
  exact Work.tryFinish_engaged (o := { o with acc := w.smallWords o p }) hv hfresh (Work.awaited_acc w o _ ▸ ha)

/-- An ALLREDUCE_SMALL of one device stores its words and leaves the engine (R335). -/
theorem Work.beginSmall_alone {p : SmallParams} (hk : o.kind = .small p) (hf : o.finished = false) (hp : o.preRound = false)
    (ha : w.awaited o = []) :
    (x.beginColl o).muted = (w.numbered.stN o.ref.ctx p.dest (wordBytes (w.smallWords o p))).muted := by
  obtain ⟨v, hbegin, hv⟩ := Work.beginSmall_eq hx hfresh p
  obtain ⟨q, hq⟩ : ∃ q : Coll, q = { o with acc := w.smallWords o p } := ⟨_, rfl⟩
  have hends : v.completes q = (v.stN o.ref.ctx p.dest (wordBytes (w.smallWords o p))).endColl q := by
    rw [Work.completes, hq]
    dsimp only
    rw [hk]
    rfl
  have hdone : v.tryFinish q.id = v.completes q := by
    subst hq
    exact Work.tryFinish_engaged_alone hv hfresh hf hp ha
  have hid : q.id = o.id := hq ▸ rfl
  rw [Work.beginColl_small hk, hbegin, ← hid, hdone, hends, Work.endColl_muted (by simp [hq, hk])]
  rw [← hq] at hv
  rw [Work.muted_dropColl (Work.muted_stN hv ..)]
  exact congrArg (fun y : Work => (y.stN o.ref.ctx p.dest (wordBytes (w.smallWords o p))).muted)
    (Work.dropColl_engaged (hid ▸ hfresh))

/-- A PERMUTE that gives this device nothing sends what it takes from it, and is done but for its tick (R337). -/
theorem Work.beginPermute_gives {p : PermuteParams} (hk : o.kind = .permute p) (hf : o.finished = false) (hp : o.preRound = false)
    (hnone : ∀ q, q ∈ o.newShards → q.device ≠ w.d.deviceNumber) :
    (x.beginColl o).muted = (w.engaged { o with finished := true }).muted := by
  have hown : x.d.deviceNumber = w.d.deviceNumber := Work.muted_reads hx (fun y => y.d.deviceNumber) fun _ => rfl
  have hsent : ∃ v : Work, x.beginPermute o p = v.tryFinish o.id ∧ v.muted = x.muted := by
    refine ⟨_, rfl, Work.foldl_muted _ (fun v q hq => ?_) x⟩
    dsimp only
    split
    · rfl
    · rw [if_neg (hown ▸ hnone q hq)]
      exact Work.sendPiece_muted ..
  obtain ⟨v, hbegin, hv⟩ := hsent
  have hends : v.completes o = v.endColl o := by rw [Work.completes, hk]
  rw [Work.beginColl_permute hk, hbegin, Work.tryFinish_engaged_alone (hv.trans hx) hfresh hf hp (Work.awaited_permute hk hnone), hends,
    Work.endColl_permute_muted hk]
  exact Work.updColl_engaged_muted (hv.trans hx) hfresh fun k => { k with finished := true }

end

/-- A PERMUTE is launched where a machine-scope arm stands for its tick (R336). -/
theorem Work.admitColl_permute {w : Work} {r : StreamRef} {p : PermuteParams} (o : Coll) (harmed : w.d.cfg.armed = some .machine)
    (htick : w.d.cfg.target = p.commitTick) : w.admitColl r (.permute p) o = w.launch o := by
  have harm : w.permuteArm r.ctx p = (w, none) := by
    unfold Work.permuteArm
    rw [harmed]
    exact congrArg (Prod.mk w) (if_pos htick)
  unfold Work.admitColl
  dsimp only
  rw [harm]

section
variable {r : StreamRef} {s : State}

/-- A reduction under RING_FP32 that waits for others is in the engine with its FP32 sums (R340). -/
theorem exec_reduceScatter_ring {p : ReduceParams} (hb : s.work.mayBegin r (.reduce p)) (he : p.exact = false)
    (ha : s.work.awaited (s.work.named r (.reduce p)) ≠ []) : ∃ u, exec (.reduceScatter r p) s = .next u ∧ u.mem = s.mem
      ∧ s.began u { s.work.named r (.reduce p) with acc := s.work.ringAcc (s.work.named r (.reduce p)) p } :=
  exec_row_began hb (fun _ _ => rfl) (fun _ hx => Work.beginReduce_ring hx (Work.mayBegin_fresh hb) rfl he ha) (Work.mayBegin_unheld hb)

/-- An uncompressed EXACT reduction with history is in the engine with its sums at that exponent (R322, R323). -/
theorem exec_reduceScatter_history {p : ReduceParams} {e : Int} (hb : s.work.mayBegin r (.reduce p)) (he : p.exact = true)
    (hc : p.compression = .none) (hhist : s.work.historyE r.ctx p.layer = some e)
    (hs : (s.work.named r (.reduce p)).shards.length ≠ 1) : ∃ u, exec (.reduceScatter r p) s = .next u ∧ u.mem = s.mem
      ∧ s.began u { s.work.named r (.reduce p) with exponent := e, acc := s.work.plainAcc (s.work.named r (.reduce p)) p e } :=
  exec_row_began hb (fun _ _ => rfl)
    (fun _ hx => Work.beginReduce_history hx (Work.mayBegin_fresh hb) rfl he hc rfl hs hhist) (Work.mayBegin_unheld hb)

/-- An ALL_GATHER that waits for others is in the engine, this device's shard in its place (R333). -/
theorem exec_allGather_waits {p : AllGatherParams} {o : Coll} (hwf : Memory.wf s.mem = true) (hb : s.work.mayBegin r (.allGather p))
    (ho : o = s.work.named r (.allGather p)) (ha : s.work.awaited o ≠ []) : ∃ u, exec (.allGather r p) s = .next u
      ∧ s.stores u (localKey o.ref.ctx (s.work.ownPlace o p)) (s.work.ownShard o p) ∧ s.began u o := by
  subst ho
  obtain ⟨x, hexec, hx⟩ := exec_row_launches hb (fun _ _ => rfl) (l := [s.work.named r (.allGather p)])
    (fun _ hx => Work.beginGather_waits hx (Work.mayBegin_fresh hb) rfl ha) rfl rfl
    fun k hk => List.mem_singleton.mp hk ▸ Work.mayBegin_unheld hb
  exact ⟨_, hexec, State.finish_stores s x _ _ hwf (Work.muted_base hx) (Work.muted_wiped hx) (Work.muted_log hx),
    State.finish_began hx rfl⟩

/-- An ALL_GATHER of one device puts its shard in its place, and is done (R333). -/
theorem exec_allGather_alone {p : AllGatherParams} {o : Coll} (hwf : Memory.wf s.mem = true) (hb : s.work.mayBegin r (.allGather p))
    (ho : o = s.work.named r (.allGather p)) (ha : s.work.awaited o = []) : ∃ u, exec (.allGather r p) s = .next u
      ∧ s.stores u (localKey o.ref.ctx (s.work.ownPlace o p)) (s.work.ownShard o p)
      ∧ u.dev.colls = s.dev.colls ∧ u.dev.ctxs = s.dev.ctxs := by
  subst ho
  obtain ⟨x, hexec, hx⟩ := exec_row_launches hb (fun _ _ => rfl) (l := [])
    (fun _ hx => Work.beginGather_alone hx (Work.mayBegin_fresh hb) rfl rfl rfl ha) (List.append_nil _).symm rfl
    fun _ hnone => absurd hnone List.not_mem_nil
  refine ⟨_, hexec, State.finish_stores s x _ _ hwf (Work.muted_base hx) (Work.muted_wiped hx) (Work.muted_log hx), ?_, ?_⟩
  · rw [State.finish_colls, Work.muted_colls hx]; rfl
  · rw [State.finish_ctxs, Work.muted_ctxs hx]; rfl

/-- An ALLREDUCE_SMALL of one device stores its words, and is done (R335). -/
theorem exec_allreduceSmall_alone {p : SmallParams} (hwf : Memory.wf s.mem = true) (hb : s.work.mayBegin r (.small p))
    (ha : s.work.awaited (s.work.named r (.small p)) = []) : ∃ u, exec (.allreduceSmall r p) s = .next u
      ∧ u.dev.colls = s.dev.colls ∧ u.dev.ctxs = s.dev.ctxs
      ∧ s.stores u (localKey r.ctx p.dest) (wordBytes (s.work.smallWords (s.work.named r (.small p)) p)) := by
  obtain ⟨x, hexec, hx⟩ := exec_row_launches hb (fun _ _ => rfl) (l := [])
    (fun _ hx => Work.beginSmall_alone hx (Work.mayBegin_fresh hb) rfl rfl rfl ha) (List.append_nil _).symm rfl
    fun _ hnone => absurd hnone List.not_mem_nil
  refine ⟨_, hexec, ?_, ?_, State.finish_stores s x _ _ hwf (Work.muted_base hx) (Work.muted_wiped hx) (Work.muted_log hx)⟩
  · rw [State.finish_colls, Work.muted_colls hx]; rfl
  · rw [State.finish_ctxs, Work.muted_ctxs hx]; rfl

/-- A PERMUTE whose swap stands, and that gives this device nothing, is done but for its tick (R336, R337). -/
theorem exec_permute_gives {p : PermuteParams} (hb : s.work.mayBegin r (.permute p)) (harmed : s.dev.cfg.armed = some .machine)
    (htick : s.dev.cfg.target = p.commitTick)
    (hnone : ∀ x, x ∈ (s.work.named r (.permute p)).newShards → x.device ≠ s.dev.deviceNumber) :
    ∃ u, exec (.permute r p) s = .next u ∧ u.mem = s.mem ∧ s.began u { s.work.named r (.permute p) with finished := true } := by
  have hcfg {u : Work} (hu : u.muted = s.work.muted) : u.d.cfg = s.dev.cfg := Work.muted_reads hu (fun y => y.d.cfg) fun _ => rfl
  exact exec_row_began hb (fun _ hu => Work.admitColl_permute _ (hcfg hu ▸ harmed) (hcfg hu ▸ htick))
    (fun _ hx => Work.beginPermute_gives hx (Work.mayBegin_fresh hb) rfl rfl rfl hnone) fun _ _ => rfl

end

/-- Settles O50: a check that fails by the record of its halt, a full engine by its one counter, a start by what its kind leaves in the
engine and in memory. The stalled cycle is the model's choice (log 10), and so is the pre-round of a reduction that names no layer
(log 89). -/
theorem collectivesStart : Obligations.CollectivesStart := by
  unfold Obligations.CollectivesStart
  refine ⟨?_, ?_, ?_, ?_, ?_, ?_, ?_, ?_, ?_, ?_, ?_, ?_⟩
  · intro r k s ha
    rw [exec_row]
    exact congrArg _ (State.exec_id s _ (if_neg (ne_true_of_eq_false ha)))
  · intro r k reason d s ha hhalt
    exact exec_haltStream ha ((exec_row_active k ha).trans (by rw [Work.startColl_collHalt hhalt]))
  · intro r k reason d s ha hhalt hfault
    exact exec_haltStream ha ((exec_row_active k ha).trans (by rw [Work.startColl_collFault hhalt hfault]))
  · intro r k n s ha hhalt hfault hpoison hverify hfull
    have hstall := (Work.startColl_passes hhalt hfault hpoison hverify).trans (if_pos hfull)
    rw [exec_row_active k ha, hstall, State.finish_eq s _ rfl rfl]
    rfl
  · intro r p s hb he ha o mine
    have hbegan := exec_reduceScatter_ring hb he ha
    rw [Work.ringAcc_eq] at hbegan
    exact hbegan
  · intro r p s hb hexact hhist hs
    exact exec_row_began hb (fun _ _ => rfl) (fun _ hx => Work.beginReduce_preRound hx (Work.mayBegin_fresh hb) rfl hexact hhist hs)
      (Work.mayBegin_unheld hb)
  · intro r p e s hb he hc hhist hs o mine
    have hbegan := exec_reduceScatter_history hb he hc hhist hs
    rw [Work.plainAcc_eq] at hbegan
    exact hbegan
  · intro r p s hwf hb o mine
    by_cases ha : s.work.awaited o = []
    · obtain ⟨u, hu, hstores, hdone⟩ := exec_allGather_alone hwf hb rfl ha
      exact ⟨u, hu, hstores, fun hne => absurd ha hne, fun _ => hdone⟩
    · obtain ⟨u, hu, hstores, hbegan⟩ := exec_allGather_waits hwf hb rfl ha
      exact ⟨u, hu, hstores, fun _ => hbegan, fun hnone => absurd hnone ha⟩
  · intro r p s hb ha
    exact exec_row_began hb (fun _ _ => rfl) (fun _ hx => Work.beginAllToAll_waits hx (Work.mayBegin_fresh hb) rfl ha)
      (Work.mayBegin_unheld hb)
  · intro r p s hb ha
    exact exec_row_began (o := { s.work.named r (.small p) with acc := s.work.smallWords (s.work.named r (.small p)) p }) hb
      (fun _ _ => rfl) (fun _ hx => Work.beginSmall_waits hx (Work.mayBegin_fresh hb) rfl ha) (Work.mayBegin_unheld hb)
  · intro r p s hwf hb ha
    have hdone := exec_allreduceSmall_alone hwf hb ha
    simp only [wordBytes, Work.smallWords, tab, List.map_map] at hdone
    exact hdone
  · intro r p s hb harmed htick hnone
    exact exec_permute_gives hb harmed htick hnone

end Sys2Proof.Machine
end

section
/-!
PROOFS. One step: the command at the front, the passing of a nanosecond, and what every step keeps (R506, R524, R529, R532). All but one
of these invariants follow from one reading of what a command can answer.
-/

namespace Sys2Proof.Machine

/-- SEC_SVN_COMMIT burns only a version above the one that is fused (R524). -/
theorem State.svn_lt_of_commits {s : State} (h : s.commits = true) : s.fuses.svn < s.dev.sec.svnRunning := by
  simp only [State.commits, Bool.and_eq_true, decide_eq_true_eq] at h
  omega

/-- The fuses after a command: as they were, with a higher security version number, or with debug disable set (R524, R532). -/
def State.fusesAfter (s t : State) (c : Instr) : Prop :=
  t.fuses = s.fuses
    ∨ (c = .secSvnCommit ∧ s.fuses.svn < s.dev.sec.svnRunning ∧ t.fuses = { s.fuses with svn := s.dev.sec.svnRunning })
    ∨ ((∃ key, c = .secDebugDisable key) ∧ t.fuses = { s.fuses with debugDisabled := true })

/-- A command's answer: the queue stands, memory keeps its canonical form, and of the fuses two alone may be burnt. -/
def State.answers (s t : State) (c : Instr) : Prop :=
  t.pending = s.pending ∧ (Memory.wf s.mem = true → Memory.wf t.mem = true) ∧ s.fusesAfter t c

/-- Whether a guarded TAP instruction is at a level that an unlock token has opened (R529). -/
def State.tapOpen (s : State) (c : Instr) : Prop :=
  ∃ k, c = .tapPrivateInstruction k ∧ s.dev.sec.unlocked = true ∧ s.dev.sec.level.getLsbD (tapBit k) = true

/-- A meaning run, then fuses burnt. -/
theorem State.answers_burn {s : State} {c : Instr} {fz : Fuses} (f : Work → Work) (h : s.fusesAfter { s.exec f with fuses := fz } c) :
    s.answers { s.exec f with fuses := fz } c := ⟨rfl, fun hwf => State.exec_wf s f hwf, h⟩

/-- Every command answers a next state, but for an open guarded TAP instruction, which stops. -/
theorem exec_answers (c : Instr) (s : State) :
    (∃ t, exec c s = .next t ∧ s.answers t c) ∨ (s.tapOpen c ∧ exec c s = .refused .tapPrivateOpen) := by
  have hsame : s.answers s c := ⟨rfl, id, .inl rfl⟩
  rcases exec_cases c s with ⟨f, hf⟩ | hc | ⟨key, hc⟩ | ⟨k, hc⟩
  · exact .inl ⟨_, hf, rfl, State.exec_wf s f, .inl rfl⟩
  · subst hc
    refine .inl ⟨_, exec_secSvnCommit s, ?_⟩
    split
    · next hcommit => exact State.answers_burn _ (.inr (.inl ⟨rfl, State.svn_lt_of_commits hcommit, rfl⟩))
    · exact hsame
  · subst hc
    refine .inl ⟨_, exec_secDebugDisable key s, ?_⟩
    split
    · exact State.answers_burn _ (.inr (.inr ⟨⟨key, rfl⟩, rfl⟩))
    · exact hsame
  · subst hc
    rw [exec_tapPrivateInstruction]
    split
    · next hopen => exact .inr ⟨⟨k, rfl, (Bool.and_eq_true _ _).mp hopen⟩, rfl⟩
    · exact .inl ⟨s, rfl, hsame⟩

/-- What a command that answers a next state leaves. -/
theorem exec_next_answers {c : Instr} {s t : State} (h : exec c s = .next t) : s.answers t c := by
  rcases exec_answers c s with ⟨u, hu, hans⟩ | ⟨-, hstop⟩
  · cases hu.symm.trans h
    exact hans
  · cases hstop.symm.trans h

/-- A step with a command in front. -/
theorem step_cons {c : Instr} {rest : List Instr} {s : State} (h : s.pending = c :: rest) : step s = exec c { s with pending := rest } := by
  unfold step
  rw [h]

/-- A step on an empty queue. -/
theorem step_nil {s : State} (h : s.pending = []) : step s = .next (s.run Work.passNs) := by
  unfold step
  rw [h]

/-- A step that answers a next state ran the command in front, or let a nanosecond pass on an empty queue. -/
theorem step_cases {s t : State} (h : step s = .next t) :
    (∃ c rest, s.pending = c :: rest ∧ State.answers { s with pending := rest } t c) ∨ (s.pending = [] ∧ t = s.run Work.passNs) := by
  cases hq : s.pending with
  | nil =>
    rw [step_nil hq] at h
    cases h
    exact .inr ⟨rfl, rfl⟩
  | cons c rest => exact .inl ⟨c, rest, rfl, exec_next_answers ((step_cons hq).symm.trans h)⟩

/-- Settles O6: a command's fuses by what it can answer; a nanosecond burns none. -/
theorem stepsKeepFuses : Obligations.StepsKeepFuses := by
  unfold Obligations.StepsKeepFuses
  intro s t h
  rcases step_cases h with ⟨c, rest, hq, -, -, hsame | ⟨rfl, hlt, hsvn⟩ | ⟨⟨key, rfl⟩, hdebug⟩⟩ | ⟨-, rfl⟩
  · exact .inl hsame
  · exact .inr (.inl ⟨⟨rest, hq⟩, hlt, hsvn⟩)
  · exact .inr (.inr ⟨⟨key, rest, hq⟩, hdebug⟩)
  · exact .inl rfl

/-- Settles O5: a command's memory by what it can answer; a nanosecond is a meaning too. -/
theorem stepsKeepMemoryCanonical : Obligations.StepsKeepMemoryCanonical := by
  unfold Obligations.StepsKeepMemoryCanonical
  intro s t hwf h
  rcases step_cases h with ⟨c, rest, -, -, hkeeps, -⟩ | ⟨-, rfl⟩
  · exact hkeeps hwf
  · exact State.run_wf s _ hwf

/-- Settles O4: the one command that can stop is a guarded TAP instruction at an open level. -/
theorem onlyOpenTapStops : Obligations.OnlyOpenTapStops := by
  unfold Obligations.OnlyOpenTapStops
  intro s
  cases hq : s.pending with
  | nil => exact .inr ⟨_, step_nil hq⟩
  | cons c rest =>
    rw [step_cons hq]
    rcases exec_answers c { s with pending := rest } with ⟨t, ht, -⟩ | ⟨⟨k, rfl, hun, hlev⟩, hstop⟩
    · exact .inr ⟨t, ht⟩
    · exact .inl ⟨k, rest, rfl, hun, hlev, hstop⟩

/-- Settles O3: by what a command can answer. -/
theorem commandsKeepQueue : Obligations.CommandsKeepQueue := by
  unfold Obligations.CommandsKeepQueue
  intro c s t h
  exact (exec_next_answers h).1

/-- Settles O1: by the step of a queue with a front. -/
theorem stepTakesFrontCommand : Obligations.StepTakesFrontCommand := by
  unfold Obligations.StepTakesFrontCommand
  intro c rest s h
  exact step_cons h

/-! ### One nanosecond -/

/-- What a nanosecond changes beside the two counters of time: the time base and, while PITCH_RUN is set, the pitch timer and the core
cycles of the pitch (R40, R41). -/
def Work.clocked (w : Work) : Work :=
  w.upd fun d =>
    let acc := d.pitch.cycleFrac + (if d.pwr.powered then d.pwr.coreMhz else 0) * (2000 - d.pwr.spreadInForce)
    { d with
      nowNs := d.nowNs + 1
      pitch :=
        if d.pitch.run then
          { d.pitch with
            timerNs := d.pitch.timerNs + 1, cycle := d.pitch.cycle + BitVec.ofNat 32 (acc / 2000000), cycleFrac := acc % 2000000 }
        else d.pitch }

/-- What a nanosecond leaves, read by what its two counters keep (R558). -/
theorem Work.passNs_keeps {β : Type} (p : Work → β) (hcount : ∀ v id n, p (Work.count v id n) = p v) (w : Work) :
    p w.passNs = p w.clocked := by
  have hif (b : Bool) (v : Work) (id : Nat) : p (if b then v.count id 1 else v) = p v := by
    split
    · exact hcount ..
    · rfl
  unfold Work.passNs
  dsimp only
  rw [hif, hif]
  rfl

/-- The pitch after a nanosecond: the timer advances while PITCH_RUN is set, the tick count stands. -/
theorem Work.clocked_pitch (w : Work) :
    w.clocked.d.pitch.timerNs = (if w.d.pitch.run then w.d.pitch.timerNs + 1 else w.d.pitch.timerNs)
      ∧ w.clocked.d.pitch.tickCount = w.d.pitch.tickCount := by
  unfold Work.clocked
  dsimp only [Work.upd_d]
  split <;> exact ⟨rfl, rfl⟩

/-- Settles O2: by what the two counters of time leave as it is. -/
theorem emptyQueuePassesOneNanosecond : Obligations.EmptyQueuePassesOneNanosecond := by
  unfold Obligations.EmptyQueuePassesOneNanosecond
  intro s hq
  have hkeeps {β : Type} (p : Work → β) (hcount : ∀ v id n, p (Work.count v id n) = p v) : p (Work.passNs s.work) = p s.work.clocked :=
    Work.passNs_keeps p hcount s.work
  obtain ⟨htimer, htick⟩ := s.work.clocked_pitch
  have hpitch := hkeeps (fun v => v.d.pitch) fun _ _ _ => rfl
  refine ⟨_, step_nil hq, hq, rfl, ?_, hkeeps (fun v => v.d.nowNs) fun _ _ _ => rfl, ?_, ?_, hkeeps (fun v => v.d.ctxs) fun _ _ _ => rfl,
    hkeeps (fun v => v.d.tiles) fun _ _ _ => rfl⟩
  · have hlog := hkeeps Work.log fun _ _ _ => rfl
    have hwiped := hkeeps Work.wiped fun _ _ _ => rfl
    show Memory.apply (s.mem.filter fun c => !Memory.within (Work.passNs s.work).wiped c.1) (Work.passNs s.work).log = s.mem
    rw [hlog, hwiped]
    simp [Work.clocked, Memory.apply, Memory.within]
  · rw [State.run_dev, hpitch, htimer]
    rfl
  · rw [State.run_dev, hpitch, htick]
    rfl

/-! ### The state of reset -/

/-- A context at reset (R458). -/
theorem State.reset_ctx {c : Nat} (hc : c < 16) : State.reset.work.ctx c = Ctx.reset Fuses.full 0 0 c := by
  simp [Work.ctx, State.work, State.reset, Dev.afterBoot, Dev.atRelease, tab, hc]

/-- A link at reset (R483). -/
theorem State.reset_link {l : Nat} (hl : l < 36) : State.reset.work.link l = Link.reset 8 0 false := by
  show ((List.replicate 36 (Link.reset 8 0 false))[l]?).getD _ = _
  rw [List.getElem?_replicate, if_pos hl, Option.getD_some]

/-- Settles O60: contexts and links by their reset values, storage by what an unlisted key reads as, the rest by evaluation. -/
theorem resetState : Obligations.ResetState := by
  unfold Obligations.ResetState
  have hsafe : State.reset.safe = true := by decide +kernel
  refine ⟨hsafe, rfl, rfl, fun c hc => ?_, fun l hl => ?_, rfl, rfl, rfl, rfl, rfl, rfl, rfl, rfl, rfl, rfl, rfl, rfl, rfl, rfl, fun k => rfl⟩
  · rw [State.reset_ctx hc]
    exact ⟨rfl, rfl, rfl, rfl⟩
  · rw [State.reset_link hl]
    rfl

end Sys2Proof.Machine
end

section
/-!
PROOFS. SETREGION and SEQ (R393, R395, R396): what a control command of a tile core or a stream comes to, by what its attempt comes to.
-/

namespace Sys2Proof.Machine

/-! ### A control command by its attempt -/

/-- The context of a running job is active. -/
theorem Work.runningJob_active {w : Work} {c : Nat} {j : Job} (h : w.runningJob c = some j) : (w.ctx c).active = true := by
  unfold Work.runningJob at h
  split at h
  · split at h
    · next ha => exact ha.1
    · cases h
  · cases h

/-- A stream that may issue its next command: its job runs, and the stream is one of the job's (R394). -/
theorem Work.dispatchable_some {w : Work} {r : StreamRef} {j : Job} {e : EStream} (h : w.dispatchable r = some (j, e)) :
    w.runningJob r.ctx = some j ∧ j.stream r.stream = some e := by
  unfold Work.dispatchable at h
  split at h
  · cases h
  · next k hk =>
    split at h
    · cases h
    · next x hx =>
      split at h
      · cases h
      · cases h
        exact ⟨hk, hx⟩

/-- What an attempt by a tile core comes to, in the running job of its context. -/
def Work.attempted (f : Nat → Job → Work → Gate) (c : Nat) (w : Work) : Issued :=
  match w.runningJob c with
  | none => .halt 0 0x01 0
  | some j => (f c j w).issued

/-- The attempt where a job runs. -/
theorem Work.attempted_running {w : Work} {c : Nat} {j : Job} (f : Nat → Job → Work → Gate) (h : w.runningJob c = some j) :
    w.attempted f c = (f c j w).issued := by
  unfold Work.attempted
  rw [h]

section
variable {s : State} {t : TileRef} {r : StreamRef} {c : Nat} {j : Job} {e : EStream} {i : Instr} {q : Option Nat} {f : Nat → Job → Work → Gate}
  {reason d : Nat}

/-- A tile core takes up a control command as every instruction. -/
theorem exec_control_tile (he : exec i s = .next (s.exec fun w => w.control (.tile t) q f)) :
    exec i s = .next (s.exec fun w => w.issue t fun c w => w.attempted f c) := he

/-- A control command of a tile core that halts. -/
theorem exec_control_tile_halts (he : exec i s = .next (s.exec fun w => w.control (.tile t) q f)) (ht : s.work.takes t c)
    (hj : s.work.runningJob c = some j) (hf : f c j s.work = .halt reason d) :
    ∃ u, exec i s = .next u ∧ u.haltedWith c reason ∧ (u.work.ctx c).halt.detail = d :=
  exec_issue_haltedWith (exec_control_tile he) ht ((Work.attempted_running f hj).trans (congrArg Gate.issued hf))

/-- A control command of a tile core that waits. -/
theorem exec_control_tile_waits {cause : Nat} (he : exec i s = .next (s.exec fun w => w.control (.tile t) q f)) (ht : s.work.takes t c)
    (hj : s.work.runningJob c = some j) (hf : f c j s.work = .stall cause) : exec i s = .next (s.waited c cause 0) :=
  exec_issue_waits (exec_control_tile he) ht.1 ht.2.1 ((Work.attempted_running f hj).trans (congrArg Gate.issued hf))

/-- A control command of a tile core that changes its tile. -/
theorem exec_control_tile_ran {g : Tile → Tile} (he : exec i s = .next (s.exec fun w => w.control (.tile t) q f)) (ht : s.work.takes t c)
    (hj : s.work.runningJob c = some j) (hf : f c j s.work = .go (s.work.updTile t.tile g)) :
    exec i s = .next (s.ran t.tile fun k => (g k).advance t.pc t.next) := by
  refine exec_issue_ran (exec_control_tile he) ?_
  rw [State.issue_done ht.1 ht.2.1 ((Work.attempted_running f hj).trans (congrArg Gate.issued hf)), Work.updTile_updTile]

/-- A control command of a stream, by its attempt. -/
theorem exec_control_stream (he : exec i s = .next (s.exec fun w => w.control (.stream r) q f)) (hd : s.work.dispatchable r = some (j, e)) :
    exec i s = .next (s.finish (s.work.byStream r e.engine q (f r.ctx j s.work))) := by
  refine exec_finish he ?_
  unfold Work.control
  dsimp only
  rw [hd]

/-- A control command of a stream that halts. -/
theorem exec_control_stream_halts (he : exec i s = .next (s.exec fun w => w.control (.stream r) q f))
    (hd : s.work.dispatchable r = some (j, e)) (hf : f r.ctx j s.work = .halt reason d) :
    ∃ u, exec i s = .next u ∧ u.haltedWith r.ctx reason ∧ (u.work.ctx r.ctx).halt.detail = d :=
  exec_haltStream (engine := e.engine) (Work.runningJob_active (Work.dispatchable_some hd).1) ((exec_control_stream he hd).trans (by rw [hf]; rfl))

/-- A control command of a stream that changes its context, and the stream's key. -/
theorem exec_control_stream_goes {g : Ctx → Ctx} (he : exec i s = .next (s.exec fun w => w.control (.stream r) q f))
    (hd : s.work.dispatchable r = some (j, e)) (hf : f r.ctx j s.work = .go (s.work.updCtx r.ctx g)) :
    ∃ u, exec i s = .next u
      ∧ s.onCtx u r.ctx fun x => (g x).withStream r.stream (EStream.passed q s.dev.pitch.cycle.toNat) := by
  obtain ⟨henable, -⟩ := Ctx.active_enable (Work.runningJob_active (Work.dispatchable_some hd).1)
  refine ⟨_, exec_control_stream he hd, State.finish_onCtx (Work.ctx_exists s.work r.ctx henable) ?_⟩
  rw [hf]
  show (Work.tryReport _).ctxFrame = _
  rw [Work.tryReport_ctxFrame]
  show (((s.work.updCtx r.ctx g).updCtx r.ctx fun x => x.withStream r.stream (EStream.passed q s.dev.pitch.cycle.toNat))).ctxFrame = _
  simp only [Work.ctxFrame, Work.updCtx_d, updAt_updAt]
  rfl

end

/-! ### The attempts -/

section
variable {w : Work} {c slot : Nat} {from_ : CmdFrom} {region : Region} {j : Job} {q : Nat}

/-- An encoding outside the rules halts with 0x26, the slot in the detail (R395). -/
theorem Work.trySetRegion_bad (h : regionBad region (tileOf from_).isSome = true) : w.trySetRegion c from_ slot region = .halt 0x26 slot :=
  if_pos h

/-- A slot that an issued command of the same stream or tile names waits (R396). -/
theorem Work.trySetRegion_waits (h : regionBad region (tileOf from_).isSome = false)
    (hn : ((w.ctx c).cmds.any fun k => sameOrigin k.desc.from_ from_ && k.desc.uses.any fun u => u.slot == slot) = true) :
    w.trySetRegion c from_ slot region = .stall Ctr.stallScoreboard := by
  unfold Work.trySetRegion
  rw [if_neg (by simp [h]), if_pos hn]

/-- Another slot is rewritten (R395). -/
theorem Work.trySetRegion_goes (h : regionBad region (tileOf from_).isSome = false)
    (hn : ((w.ctx c).cmds.any fun k => sameOrigin k.desc.from_ from_ && k.desc.uses.any fun u => u.slot == slot) = false) :
    w.trySetRegion c from_ slot region
      = match from_ with
        | .tile t => .go (w.updTile t.tile fun k => { k with regions := updAt k.regions slot fun _ => region })
        | .stream r => .go (w.updCtx c fun x =>
            x.withStream r.stream fun e => { e with regions := updAt e.regions slot fun _ => region }) := by
  unfold Work.trySetRegion
  rw [if_neg (by simp [h]), if_neg (by simp [hn])]
  cases from_ <;> rfl

/-- A tile core's key below its current one or outside the pitch's range halts with 0x28 (R393). -/
theorem Work.trySeq_tile_bad {t : TileRef} (h : q < (w.tile t.tile).curQ ∨ q < j.low ∨ j.high ≤ q) : w.trySeq j (.tile t) q = .halt 0x28 0 :=
  if_pos h

/-- Another key becomes the tile core's (R393). -/
theorem Work.trySeq_tile_goes {t : TileRef} (h : (w.tile t.tile).curQ ≤ q) (hl : j.low ≤ q) (hh : q < j.high) :
    w.trySeq j (.tile t) q = .go (w.updTile t.tile fun k => { k with curQ := q }) :=
  if_neg (show ¬ (q < (w.tile t.tile).curQ ∨ q < j.low ∨ j.high ≤ q) by omega)

/-- A stream's key below its last one or outside the pitch's range halts with 0x28 (R393). -/
theorem Work.trySeq_stream_bad {r : StreamRef} {e : EStream} (he : j.stream r.stream = some e) (h : q < e.lastQ ∨ q < j.low ∨ j.high ≤ q) :
    w.trySeq j (.stream r) q = .halt 0x28 0 := by
  unfold Work.trySeq
  dsimp only
  rw [he]
  exact if_pos h

/-- Another key goes (R393). -/
theorem Work.trySeq_stream_goes {r : StreamRef} {e : EStream} (he : j.stream r.stream = some e) (h : e.lastQ ≤ q) (hl : j.low ≤ q)
    (hh : q < j.high) : w.trySeq j (.stream r) q = .go (w.updCtx r.ctx fun x => x) := by
  unfold Work.trySeq
  dsimp only
  rw [he, Work.updCtx_id]
  exact if_neg (show ¬ (q < e.lastQ ∨ q < j.low ∨ j.high ≤ q) by omega)

end

/-- Settles O40: each command by its attempt. That a command turned away counts one stalled cycle, and that a stream's SETREGION and SEQ
issue in its order and advance it, are the model's choices (logs 10 and 106). -/
theorem regionsAndKeysComplete : Obligations.RegionsAndKeysComplete := by
  unfold Obligations.RegionsAndKeysComplete
  refine ⟨?_, ?_, ?_, ?_, ?_, ?_, ?_, ?_, ?_⟩
  · intro t slot c region j s ht hj hbad
    exact exec_control_tile_halts (q := none) rfl ht hj (Work.trySetRegion_bad hbad)
  · intro r slot region j e s hd hbad
    exact exec_control_stream_halts (q := none) rfl hd (Work.trySetRegion_bad hbad)
  · intro t slot c region j s ht hj hok hnamed
    exact exec_control_tile_waits (q := none) rfl ht hj (Work.trySetRegion_waits hok hnamed)
  · intro t slot c region j s ht hj hok hfree
    exact exec_control_tile_ran (q := none) rfl ht hj (Work.trySetRegion_goes hok hfree)
  · intro r slot region j e s hd hok hfree
    exact exec_control_stream_goes (q := none) rfl hd (Work.trySetRegion_goes hok hfree)
  · intro t q c j s ht hj hbad
    obtain ⟨u, hu, hhalted, -⟩ := exec_control_tile_halts (i := .seq (.tile t) q) (q := some q) rfl ht hj (Work.trySeq_tile_bad hbad)
    exact ⟨u, hu, hhalted⟩
  · intro t q c j s ht hj hcur hlow hhigh
    exact exec_control_tile_ran (q := some q) rfl ht hj (Work.trySeq_tile_goes hcur hlow hhigh)
  · intro r q j e s hd hbad
    obtain ⟨u, hu, hhalted, -⟩ :=
      exec_control_stream_halts (i := .seq (.stream r) q) (q := some q) rfl hd (Work.trySeq_stream_bad (Work.dispatchable_some hd).2 hbad)
    exact ⟨u, hu, hhalted⟩
  · intro r q j e s hd hlast hlow hhigh
    exact exec_control_stream_goes (q := some q) rfl hd (Work.trySeq_stream_goes (Work.dispatchable_some hd).2 hlast hlow hhigh)

end Sys2Proof.Machine
end

section
/-!
PROOFS. Register accesses of the host and its selections (R559, R560, R563, R576, R578): what no write through BAR0 changes, and what the
writes and reads that a statement names come to. Rings, tick and status bits are fields without a command of their own (log 47); a read
leaves its value in a field of the model's (log 73), and what it captures stands until the field's next capture (log 23).
-/

namespace Sys2Proof.Machine

/-! ### What no register write changes -/

/-- Storage, tiles, configuration sets, counters, the fault record and the residency table. -/
def Work.registerFrame (w : Work) :
    List Host.Cell × List (Nat × Nat) × List Tile × CfgSet × CfgSet × List (Nat × W64) × FaultRec × List ResEntry :=
  (w.log, w.wiped, w.d.tiles, w.d.active, w.d.shadow, w.d.counters, w.d.fault, w.d.residency)

theorem Work.put32_registerFrame (w : Work) (pf : Bool) (off v : Nat) : (w.put32 pf off v).registerFrame = w.registerFrame := by
  unfold Work.put32
  dsimp only
  split
  case h_6 => split <;> rfl
  all_goals rfl

theorem Work.put64_registerFrame (w : Work) (pf : Bool) (off v : Nat) : (w.put64 pf off v).registerFrame = w.registerFrame := by
  have hif {P : Prop} [Decidable P] {v u : Work} (hv : v.registerFrame = w.registerFrame) (hu : u.registerFrame = w.registerFrame) :
      (if P then v else u).registerFrame = w.registerFrame := by
    split
    · exact hv
    · exact hu
  exact hif (hif rfl rfl) <| hif rfl <| hif rfl <| hif rfl <| hif (hif rfl rfl) <| hif (hif rfl rfl) <| hif (hif rfl rfl) <| hif rfl rfl

theorem Work.writeHalf_registerFrame (w : Work) (pf : Bool) (off v : Nat) : (w.writeHalf pf off v).registerFrame = w.registerFrame := by
  unfold Work.writeHalf
  dsimp only
  split
  · split
    · rfl
    · exact Work.put64_registerFrame ..
  · exact Work.put32_registerFrame ..

/-- A write through BAR0 keeps that frame, whatever it reaches. -/
theorem Work.writeBar_registerFrame (w : Work) (pf : Bool) (off size v : Nat) : (w.writeBar pf off size v).registerFrame = w.registerFrame := by
  unfold Work.writeBar
  split
  · split
    · exact Work.put64_registerFrame ..
    · rw [Work.put32_registerFrame, Work.put32_registerFrame]
  · exact Work.writeHalf_registerFrame ..

/-- REGISTER_WRITE writes to the offset that it reaches, or nothing. -/
theorem exec_registerWrite_cases (fn off size v : Nat) (s : State) :
    exec (.registerWrite fn off size v) s = .next (s.finish s.work)
      ∨ ∃ at_, exec (.registerWrite fn off size v) s = .next (s.finish (s.work.writeBar (fn == 0) at_ size v)) := by
  by_cases hok : accessOk off size = true
  · cases ho : s.work.barOffset fn off with
    | none => exact .inl (exec_finish rfl (by simp only [hok, ho, Bool.not_true, Bool.false_eq_true, if_false]))
    | some at_ =>
      by_cases ht : s.work.takesWrite at_ = true
      · exact .inr ⟨at_, exec_finish rfl (by simp only [hok, ho, ht, Bool.not_true, Bool.false_eq_true, if_false, if_true])⟩
      · exact .inl (exec_finish rfl (by simp only [hok, ho, ht, Bool.not_true, Bool.false_eq_true, if_false]))
  · exact .inl (exec_finish rfl (if_pos (by simpa using hok)))

/-- A meaning that keeps the register frame leaves those fields of the state. -/
theorem State.finish_registerFrame {s : State} {v : Work} (h : v.registerFrame = s.work.registerFrame) :
    (s.finish v).mem = s.mem ∧ (s.finish v).dev.tiles = s.dev.tiles ∧ (s.finish v).dev.active = s.dev.active
      ∧ (s.finish v).dev.shadow = s.dev.shadow ∧ (s.finish v).dev.counters = s.dev.counters ∧ (s.finish v).dev.fault = s.dev.fault
      ∧ (s.finish v).dev.residency = s.dev.residency := by
  simp only [Work.registerFrame, Prod.mk.injEq] at h
  obtain ⟨hlog, hwiped, htiles, hactive, hshadow, hcounters, hfault, hresidency⟩ := h
  refine ⟨State.finish_mem s v hlog hwiped, ?_, ?_, ?_, ?_, ?_, ?_⟩
  · rw [State.finish_tiles, htiles]; rfl
  · rw [State.finish_active, hactive]; rfl
  · rw [State.finish_shadow, hshadow]; rfl
  · rw [State.finish_counters, hcounters]; rfl
  · rw [State.finish_fault, hfault]; rfl
  · rw [State.finish_residency, hresidency]; rfl

/-! ### Writes through the physical function -/

/-- After boot, and not in recovery (R516). -/
theorem Dev.responds_iff (d : Dev) : d.responds = true ↔ d.sec.ready = true ∧ d.sec.recovery = false := by
  simp [Dev.responds]

/-- The physical function reaches every offset of BAR0 after boot (R560). -/
theorem Work.barOffset_pf {w : Work} {off : Nat} (hr : w.d.responds = true) (ho : off < 0x1000000) : w.barOffset 0 off = some off := by
  obtain ⟨hready, -⟩ := w.d.responds_iff.mp hr
  simp [Work.barOffset, hready, ho]

/-- An aligned write of the physical function after boot (R559). -/
theorem exec_registerWrite_pf {off size v : Nat} {s : State} (hr : s.dev.responds = true) (hok : accessOk off size = true)
    (ho : off < 0x1000000) : exec (.registerWrite 0 off size v) s = .next (s.finish (s.work.writeBar true off size v)) := by
  obtain ⟨-, hrec⟩ := s.dev.responds_iff.mp hr
  have ht : s.work.takesWrite off = true := by simp [Work.takesWrite, hrec]
  refine exec_finish rfl ?_
  simp only [hok, Work.barOffset_pf (w := s.work) hr ho, ht, Bool.not_true, Bool.false_eq_true, if_false, if_true]
  rfl

/-- A write of one word that belongs to no 64-bit field. -/
theorem Work.writeBar_word {w : Work} {off v : Nat} (pf : Bool) (h : w.field64 (off / 8 * 8) = none) :
    w.writeBar pf off 4 v = w.put32 pf off (v % 2 ^ 32) := by
  unfold Work.writeBar Work.writeHalf
  rw [if_neg (by decide)]
  dsimp only
  rw [h]

/-- The size of a command ring is a word of its own in its context's page (R458). -/
theorem Work.field64_ringSize (w : Work) {c r : Nat} (hc : c < 16) (hr : r < 4) : w.field64 (0x100000 + 0x1000 * c + 0x10 * r + 0x18) = none := by
  have hpage : (0x100000 + 0x1000 * c + 0x10 * r + 0x18) % 0x1000 = 0x10 * r + 0x18 := by omega
  unfold Work.field64
  dsimp only
  rw [hpage, if_neg (by omega), if_neg (by omega), if_neg (by omega), if_neg (by omega), if_pos (by omega), if_neg (by omega),
    if_neg (by omega), if_neg (by omega), if_neg (by omega)]

/-- The size of a ring of a context whose rings are DISABLED, written (R439, R458). -/
theorem Work.put32_ringSize (w : Work) (v : Nat) {c r : Nat} (hc : c < 16) (hr : r < 4) :
    w.put32 true (0x100000 + 0x1000 * c + 0x10 * r + 0x18) v = w.updCtx c fun x => x.put true (0x10 * r + 0x18) v := by
  have hblock : (0x100000 + 0x1000 * c + 0x10 * r + 0x18) / 0x10000 = 0x10 := by omega
  have hctx : (0x100000 + 0x1000 * c + 0x10 * r + 0x18) % 0x10000 / 0x1000 = c := by omega
  have hword : (0x100000 + 0x1000 * c + 0x10 * r + 0x18) % 0x10000 % 0x1000 = 0x10 * r + 0x18 := by omega
  unfold Work.put32
  dsimp only
  rw [hblock, hctx, hword]
  rfl

theorem Ctx.put_ringSize {x : Ctx} {r : Nat} (v : Nat) (hr : r < 4) (h : x.state = .disabled) :
    x.put true (0x10 * r + 0x18) v = { x with cmd := updAt x.cmd r fun g => { g with size := v % 32 } } := by
  have hring : (0x10 * r + 0x18) / 0x10 - 1 = r := by omega
  unfold Ctx.put
  dsimp only
  rw [if_pos (by omega), if_pos (by simp [h]), hring]

/-- The 64 bits of CFG_ARM_TICK, written (R73). -/
theorem Work.writeBar_armTick (w : Work) (v : Nat) :
    (w.writeBar true 0x030008 8 v).registerFrame = w.registerFrame
      ∧ (w.writeBar true 0x030008 8 v).d.cfg = { w.d.cfg with armTick := BitVec.ofNat 64 v } := by
  refine ⟨Work.writeBar_registerFrame .., ?_⟩
  show { w.d.cfg with armTick := BitVec.ofNat 64 (v % 2 ^ 64) } = _
  rw [show BitVec.ofNat 64 (v % 2 ^ 64) = BitVec.ofNat 64 v from BitVec.eq_of_toNat_eq (by simp)]

/-! ### Reads -/

/-- A read changes nothing but the holding register (R559). -/
theorem Work.readBar_regIo (w : Work) (off size : Nat) : ∃ io, w.readBar off size = w.upd fun d => { d with regIo := io } := by
  unfold Work.readBar
  dsimp only
  split <;> exact ⟨_, rfl⟩

/-- A 4-byte read of a word that is not held takes the word as it stands (R559). -/
theorem Work.readBar_word {w : Work} {off : Nat} (hal : off % 4 = 0) (hheld : ((w.capture off).d.regIo.words.find? fun h => h.1 == off) = none) :
    (w.readBar off 4).d.regIo
      = { (w.capture off).d.regIo with readData := BitVec.ofNat 64 ((w.capture off).regWord off) } := by
  have hok : accessOk off 4 = true := by simp [accessOk, hal]
  have hread : (w.capture off).readWord off = (w.capture off).regWord off := by
    unfold Work.readWord
    rw [hheld]
  unfold Work.readBar
  dsimp only
  rw [if_pos hok, if_neg (by omega), if_pos ⟨rfl, hal⟩, hread]
  rfl

/-- A word that belongs to no 64-bit field captures nothing. -/
theorem Work.capture_plain {w : Work} {off : Nat} (hplain : captured off = []) : w.capture off = w := by
  have hwords : (w.d.regIo.words.filter fun h => !([] : List Nat).contains h.1) ++ ([] : List Nat).map (fun o => (o, BitVec.ofNat 32 (w.regWord o)))
      = w.d.regIo.words := by simp
  unfold Work.capture
  rw [hplain, ite_self]
  exact congrArg (fun ws => w.upd fun d => { d with regIo := { d.regIo with words := ws } }) hwords

/-- A read of TICK_COUNT's lower half with nothing held holds its upper half and PITCH_CYCLE (R559, R565). -/
theorem Work.capture_tickCount {w : Work} (hnone : w.d.regIo.words = []) :
    (w.capture 0x020010).d.regIo.words
      = [(0x020014, BitVec.ofNat 32 (w.regWord 0x020014)), (0x020018, BitVec.ofNat 32 (w.regWord 0x020018))] := by
  unfold Work.capture
  dsimp only [Work.upd_d]
  rw [hnone]
  rfl

/-- The two halves of TICK_COUNT outside recovery (R565). -/
theorem Work.regWord_tickCount {w : Work} (hrec : w.d.sec.recovery = false) :
    w.regWord 0x020010 = w.d.pitch.tickCount.toNat % 2 ^ 32 ∧ w.regWord 0x020014 = w.d.pitch.tickCount.toNat / 2 ^ 32 % 2 ^ 32 := by
  constructor <;>
  · unfold Work.regWord
    dsimp only
    rw [if_neg (by simp [hrec])]
    rfl

/-- REGISTER_READ_CAPTURE reads the offset that it reaches, or nothing. -/
theorem exec_registerReadCapture_regIo (fn off size : Nat) (s : State) :
    ∃ io, exec (.registerReadCapture fn off size) s = .next { s with dev := { s.dev with regIo := io } } := by
  cases ho : s.work.barOffset fn off with
  | none =>
    refine ⟨s.dev.regIo, ?_⟩
    rw [exec_finish (c := .registerReadCapture fn off size) (v := s.work) rfl (by simp only [ho]), State.finish_eq s _ rfl rfl]
    rfl
  | some at_ =>
    obtain ⟨io, hio⟩ := s.work.readBar_regIo at_ size
    refine ⟨io, ?_⟩
    rw [exec_finish (c := .registerReadCapture fn off size) (v := s.work.readBar at_ size) rfl (by simp only [ho]), hio,
      State.finish_eq s _ rfl rfl]
    rfl

/-- A 4-byte read of the physical function after boot, as it leaves the device (R559). -/
theorem exec_registerReadCapture_pf {off : Nat} {s : State} (hr : s.dev.responds = true) (ho : off < 0x1000000) :
    exec (.registerReadCapture 0 off 4) s = .next { s with dev := (s.work.readBar off 4).d } := by
  obtain ⟨io, hio⟩ := s.work.readBar_regIo off 4
  refine exec_next_dev (f := fun w => match w.barOffset 0 off with | none => w | some off => w.readBar off 4) rfl ?_
    (by rw [hio]; rfl) (by rw [hio]; rfl)
  simp only [Work.barOffset_pf (w := s.work) hr ho]

/-- Settles O15: writes by what no write changes and by the one field that each sets, reads by what they leave in the holding register. -/
theorem registerAccessCompletes : Obligations.RegisterAccessCompletes := by
  unfold Obligations.RegisterAccessCompletes
  refine ⟨?_, ?_, ?_, ?_, ?_, ?_, ?_⟩
  · intro fn off size v s
    rcases exec_registerWrite_cases fn off size v s with h | ⟨at_, h⟩
    · exact ⟨_, h, State.finish_registerFrame rfl⟩
    · exact ⟨_, h, State.finish_registerFrame (Work.writeBar_registerFrame ..)⟩
  · intro c r v s hresp hlen hc hr hdown
    have hword : (0x100000 + 0x1000 * c + 0x10 * r + 0x18) / 8 * 8 = 0x100000 + 0x1000 * c + 0x10 * r + 0x18 := by omega
    have hok : accessOk (0x100000 + 0x1000 * c + 0x10 * r + 0x18) 4 = true := by
      simp only [accessOk, Bool.and_eq_true, beq_iff_eq]
      exact ⟨rfl, by omega⟩
    have hwrite := exec_registerWrite_pf (v := v) hresp hok (by omega)
    rw [Work.writeBar_word true (by rw [hword]; exact s.work.field64_ringSize hc hr), Work.put32_ringSize s.work _ hc hr] at hwrite
    refine ⟨_, hwrite, ?_, fun k hk => ?_⟩
    · rw [State.finish_ctx _ _ _ rfl, Work.updCtx_ctx_same _ _ _ hlen, Ctx.put_ringSize _ hr hdown]
    · rw [State.finish_ctx _ _ _ rfl, Work.updCtx_ctx_other _ _ _ _ hk]
  · intro v s hresp
    refine ⟨_, exec_registerWrite_pf hresp rfl (by decide), ?_⟩
    rw [State.finish_cfg]
    exact (s.work.writeBar_armTick v).2
  · intro v s hresp
    have hbit (i : Nat) (hi : i < 32) : bitOf (v % 2 ^ 32) i = v.testBit i := by
      rw [bitOf, Nat.testBit_mod_two_pow, decide_eq_true hi, Bool.true_and]
    rw [exec_registerWrite_pf hresp rfl (by decide), Work.writeBar_word true rfl, State.finish_eq s _ rfl rfl, ← hbit 16 (by decide),
      ← hbit 17 (by decide), ← hbit 18 (by decide)]
    rfl
  · intro fn off size s
    obtain ⟨io, hio⟩ := exec_registerReadCapture_regIo fn off size s
    exact ⟨_, hio, rfl⟩
  · intro off s hresp ho halign hnone hplain
    have hcapture : s.work.capture off = s.work := Work.capture_plain hplain
    have hread := Work.readBar_word (w := s.work) halign (by rw [hcapture, State.work_d, hnone]; rfl)
    rw [hcapture] at hread
    refine ⟨_, exec_registerReadCapture_pf hresp ho, ?_, ?_⟩
    · rw [hread]
    · rw [hread]
      exact hnone
  · intro s hresp hnone
    obtain ⟨-, hrec⟩ := s.dev.responds_iff.mp hresp
    have hwords := Work.capture_tickCount (w := s.work) hnone
    obtain ⟨hlow, hhigh⟩ := Work.regWord_tickCount (w := s.work) hrec
    have hread := Work.readBar_word (w := s.work) (off := 0x020010) rfl (by rw [hwords]; rfl)
    rw [show (s.work.capture 0x020010).regWord 0x020010 = s.work.regWord 0x020010 from
      (Work.regWord_tickCount (w := s.work.capture 0x020010) hrec).1.trans hlow.symm, hlow] at hread
    refine ⟨_, exec_registerReadCapture_pf hresp (by decide), ?_, ?_⟩
    · rw [hread]
      rfl
    · have hupper : BitVec.ofNat 32 (s.dev.pitch.tickCount.toNat / 2 ^ 32 % 2 ^ 32) = BitVec.ofNat 32 (s.dev.pitch.tickCount.toNat / 2 ^ 32) :=
        BitVec.eq_of_toNat_eq (by simp)
      rw [hread, hwords, hhigh]
      exact congrArg (fun b => some (0x020014, b)) hupper

/-! ### Selections -/

/-- Settles O16: each selection by the one field that it sets, the device number's refusal by the links and the pitch. -/
theorem selectionsComplete : Obligations.SelectionsComplete := by
  unfold Obligations.SelectionsComplete
  refine ⟨?_, ?_, ?_, ?_⟩
  · intro v s hresp hrun hlinks
    obtain ⟨hready, -⟩ := s.dev.responds_iff.mp hresp
    have hidle : (s.dev.links.any fun l => decide (l.state = .training) || decide (l.state = .up)) = false := by
      simpa only [List.any_eq_false, Bool.or_eq_true, decide_eq_true_eq, not_or] using hlinks
    refine exec_next_dev (v := s.work.upd fun d => { d with deviceNumber := v % 2 ^ 14 }) rfl ?_ rfl rfl
    simp only [State.work_d, hrun, hready, hidle, Bool.true_or, Bool.not_true, Bool.false_eq_true, ne_eq, not_true_eq_false, or_self, if_false]
  · intro fn v s hbusy
    refine exec_next_dev (v := s.work) rfl ?_ rfl rfl
    split
    · rfl
    · next hfree =>
      rw [if_pos]
      rcases hbusy with hrun | ⟨l, hl, hstate⟩
      · exact absurd (.inr (.inl hrun)) hfree
      · simp only [List.any_eq_true, Bool.or_eq_true, decide_eq_true_eq]
        exact ⟨l, hl, hstate⟩
  · intro v s hresp
    exact exec_next_dev (v := s.work.upd fun d => { d with cntSelect := v &&& 0xFF1FFFFF }) rfl (if_pos hresp) rfl rfl
  · intro c id i s hresp hlen
    have hset := exec_next_dev (c := .ctxCntSelect c id i) (s := s)
      (v := s.work.updCtx c fun x => { x with cntId := id % 65536, cntInstance := i % 256 }) rfl (if_pos hresp) rfl rfl
    refine ⟨_, hset, rfl, ?_, fun k hk => ?_⟩
    · exact Work.updCtx_ctx_same s.work c _ hlen
    · exact Work.updCtx_ctx_other s.work c k _ hk

end Sys2Proof.Machine
end

section
/-!
PROOFS. What events, completions and halts leave beside what they are for (R433, R448, R463, R496): readings that they keep, storage
below host memory, the halts of every context, and the links that go down.
-/

namespace Sys2Proof.Machine

/-! ### Readings that events, completions and halts keep -/

section
variable {β : Type} {p : Work → β} (hctx : ∀ v c f, p (Work.updCtx v c f) = p v) (hcount : ∀ v c id n, p (Work.countCtx v c id n) = p v)
  (hwr : ∀ v fn a bs, p (Work.wr v (hostKey fn a) bs) = p v) (hcache : ∀ v fn a, p (Work.cacheIova v fn a) = p v)
  (hmsix : ∀ v fn n, p (Work.msix v fn n) = p v)
include hctx hcount hwr hcache hmsix

/-- A reading that sees no context, no counter, no host memory and no message to the host is kept by an event. -/
theorem Work.writeEvent_aside (w : Work) (c : Nat) (dev : Bool) (e : HeldEvent) : p (w.writeEvent c dev e) = p w := by
  unfold Work.writeEvent
  dsimp only
  split
  · rw [hctx, hcount]
  · split
    · rw [hmsix, hctx, hcount, hwr, hcache]
    · rw [hctx, hcount, hwr, hcache]

theorem Work.postEvent_aside (w : Work) (c code : Nat) (b : List Byte) : p (w.postEvent c code b) = p w := by
  unfold Work.postEvent
  split
  · exact Work.writeEvent_aside hctx hcount hwr hcache hmsix ..
  · rfl

theorem Work.deviceEvent_aside (hheld : ∀ (v : Work) es, p (v.upd fun d => { d with heldEvents := es }) = p v) (w : Work) (code : Nat)
    (b : List Byte) : p (w.deviceEvent code b) = p w := by
  unfold Work.deviceEvent
  dsimp only
  split
  · exact Work.writeEvent_aside hctx hcount hwr hcache hmsix ..
  · exact hheld w _

theorem Work.postCompletion_aside (w : Work) (c : Nat) (d : Desc) (st : Status) (r : Nat) : p (w.postCompletion c d st r) = p w := by
  unfold Work.postCompletion
  dsimp only
  split
  · rw [hmsix, hctx, hcount, hwr, hcache]
  · rw [hctx, hcount, hwr, hcache]

theorem Work.complete_aside (w : Work) (c seq : Nat) (st : Status) (r : Nat) : p (w.complete c seq st r) = p w := by
  unfold Work.complete
  split
  · rfl
  · rw [Work.postCompletion_aside hctx hcount hwr hcache hmsix, hctx]

variable (htile : ∀ v t f, p (Work.updTile v t f) = p v) (hdrop : ∀ v c, p (Work.dropOps v c) = p v)
  (hstop : ∀ v : Work, p (v.upd fun d => { d with machineStopped := true }) = p v)
include htile hdrop hstop

/-- A reading that sees neither work in progress nor what an event touches is kept by a halt. -/
theorem Work.halt_aside (w : Work) (c : Nat) (r : HaltRec) : p (w.halt c r) = p w := by
  have hown : p (w.ownRecord c (w.haltRec c r)) = p w := by
    unfold Work.ownRecord
    split
    · rfl
    · split
      · exact hctx ..
      · exact htile ..
  have hdescs (v : Work) (n : Nat) : p (v.haltDescs c n) = p v :=
    Work.foldl_keeps p _ (fun _ _ => Work.complete_aside hctx hcount hwr hcache hmsix ..) _ _
  have hwork (v : Work) : p (v.stopWork c) = p v := by
    unfold Work.stopWork
    dsimp only
    rw [hctx, hdrop]
    exact Work.foldl_keeps p (fun (v : Work) t => v.updTile t Tile.halted) (fun _ _ => htile ..) _ _
  have htaken (v : Work) (b : List Byte) : p (((v.postEvent c 1 b).haltDescs c r.reason).stopWork c) = p v := by
    rw [hwork, hdescs, Work.postEvent_aside hctx hcount hwr hcache hmsix]
  unfold Work.halt
  dsimp only
  split
  · rfl
  · split
    · exact hown
    · split
      · split
        · rw [hstop, htaken, hctx]
          exact hown
        · rw [htaken, hctx]
          exact hown
      · rw [htaken, hctx]
        exact hown

theorem Work.haltAll_aside (w : Work) (r : HaltRec) : p (w.haltAll r) = p w :=
  Work.foldl_keeps p _ (fun _ _ => Work.halt_aside hctx hcount hwr hcache hmsix htile hdrop hstop ..) _ _

end

/-! ### Storage below host memory -/

/-- The writes of a meaning below host memory. -/
def Work.low (w : Work) : List Host.Cell := w.log.filter fun e => decide (e.1 < 2 ^ 80)

/-- Bytes stored at or above host memory are no low writes. -/
theorem journal_low {k : Nat} (hk : 2 ^ 80 ≤ k) (bs : List Byte) (log : List Host.Cell) :
    (journal k bs log).filter (fun e => decide (e.1 < 2 ^ 80)) = log.filter fun e => decide (e.1 < 2 ^ 80) := by
  induction bs generalizing k log with
  | nil => rfl
  | cons b bs ih => rw [journal, ih (by omega), List.filter_cons_of_neg (by simpa using hk)]

/-- A store into host memory makes no low write. -/
theorem Work.wr_host_low (w : Work) (fn a : Nat) (bs : List Byte) : (w.wr (hostKey fn a) bs).low = w.low :=
  journal_low (hostKey_ge fn a) bs w.log

/-- The newest write below host memory is a low write. -/
theorem Memory.find_low {k : Nat} (hk : k < 2 ^ 80) (log : List Host.Cell) :
    Memory.find (log.filter fun e => decide (e.1 < 2 ^ 80)) k = Memory.find log k := by
  induction log with
  | nil => rfl
  | cons c log ih =>
    obtain ⟨a, b⟩ := c
    by_cases ha : a < 2 ^ 80
    · rw [List.filter_cons_of_pos (by simpa using ha), Memory.find, Memory.find, ih]
    · rw [List.filter_cons_of_neg (by simpa using ha), Memory.find, if_neg (by omega), ih]

/-- What a meaning reads below host memory. -/
theorem Work.rd_of_low {v w : Work} (hlow : v.low = w.low) (hbase : v.base = w.base) (hwiped : v.wiped = w.wiped) {k : Nat} (hk : k < 2 ^ 80) :
    v.rd k = w.rd k := by
  unfold Work.rd
  rw [← Memory.find_low hk v.log, ← Memory.find_low hk w.log, hbase, hwiped]
  show (match Memory.find v.low k with | some b => b | none => _) = match Memory.find w.low k with | some b => b | none => _
  rw [hlow]

/-! ### Beside the quiet part -/

/-- A meaning that keeps the still part but for a change of the device. -/
theorem State.finish_quietly {s : State} {v : Work} {f : Dev → Dev} (h : v.still = (s.work.upd f).still) : s.quietly (s.finish v) f := by
  refine ⟨rfl, ?_⟩
  have hset : (s.finish v).dev.quiet = v.d.quiet := congrArg (fun x => x.2.2.2) (Work.settle_still v)
  rw [hset]
  exact congrArg (fun x => x.2.2.2) h

/-- Halts of every context that the meaning left, in the state. -/
theorem State.finish_haltsAll {s : State} {v : Work} {reason detail : Nat} (hz : v.fz = s.fuses)
    (h : ∀ c, c < 16 → (s.work.ctx c).enable = true → (s.work.ctx c).halt.valid = false →
      (v.ctx c).halt.valid = true ∧ (v.ctx c).halt.reason = reason ∧ (v.ctx c).halt.detail = detail) :
    s.haltsAll (s.finish v) reason detail := by
  intro c hc he hv
  rw [State.finish_ctx s v c hz]
  exact h c hc he hv

/-- A halt of every context with a machine record (R572). -/
theorem Work.haltAll_machine (w : Work) {c : Nat} (reason detail : Nat) (hc : c < 16) (he : (w.ctx c).enable = true)
    (hv : (w.ctx c).halt.valid = false) :
    ((w.haltAll (machineRec reason detail)).ctx c).halt.valid = true ∧ ((w.haltAll (machineRec reason detail)).ctx c).halt.reason = reason
      ∧ ((w.haltAll (machineRec reason detail)).ctx c).halt.detail = detail := by
  rw [Work.haltAll_rec w c _ hc he hv]
  exact ⟨rfl, rfl, rfl⟩

/-! ### Links that go down -/

/-- A link that is up or training, gone down (R463). -/
def Link.dropped (k : Link) : Link := if k.state = .up ∨ k.state = .training then k.down .down else k

theorem Link.dropped_state (k : Link) : k.dropped.state = if k.state = .up ∨ k.state = .training then .down else k.state := by
  unfold Link.dropped
  split <;> rfl

/-- A halted context keeps its record when a link goes down. -/
theorem Work.linkDown_halted {w : Work} {c : Nat} (l : Nat) (st : LinkState) (h : (w.ctx c).halt.valid = true) :
    ((w.linkDown l st).ctx c).halt = (w.ctx c).halt := by
  unfold Work.linkDown
  dsimp only
  split
  · have hfold (cs : List Nat) (q : Work → Nat → Bool) (v : Work) (hv : (v.ctx c).halt = (w.ctx c).halt) :
        ((cs.foldl (fun v a => if q v a then v.halt a (machineRec 0x61 l) else v) v).ctx c).halt = (w.ctx c).halt := by
      induction cs generalizing v with
      | nil => exact hv
      | cons a cs ih =>
        rw [List.foldl_cons]
        refine ih _ ?_
        split
        · rw [Work.halt_keeps v a c _ (.inl (by rw [hv]; exact h)), hv]
        · exact hv
    exact hfold contexts (fun v a => (match (v.ctx a).job with | some j => j.machine && decide ((v.ctx a).state = .running) | none => false)
      || (w.link l).outstanding.contains a) (w.updLink l fun k => k.down st) rfl
  · rfl

/-- A halted context keeps its record when links go down. -/
theorem Work.dropLinks_halted {c : Nat} (ls : List Nat) {w : Work} (h : (w.ctx c).halt.valid = true) :
    ((w.dropLinks ls).ctx c).halt = (w.ctx c).halt := by
  induction ls generalizing w with
  | nil => rfl
  | cons l ls ih =>
    show ((Work.dropLinks _ ls).ctx c).halt = _
    have hstep : ((if (w.link l).state = .up ∨ (w.link l).state = .training then w.linkDown l .down else w).ctx c).halt = (w.ctx c).halt := by
      split
      · exact Work.linkDown_halted l .down h
      · rfl
    rw [ih (by rw [hstep]; exact h), hstep]

/-- Two changes that agree on the element at their place. -/
theorem updAt_congr {α : Type} {l : List α} {i : Nat} {f g : α → α} (h : ∀ x, l[i]? = some x → f x = g x) : updAt l i f = updAt l i g := by
  refine List.ext_getElem? fun j => ?_
  rw [updAt_getElem?, updAt_getElem?]
  split
  · next hj =>
    subst hj
    exact Option.map_congr h
  · rfl

/-- The links of a device replaced: what is still beside them decides the rest. -/
theorem Work.still_links_congr {v w : Work} (h : v.still = w.still) (ks : List Link) :
    (v.upd fun d => { d with links := ks }).still = (w.upd fun d => { d with links := ks }).still :=
  congrArg (fun x => (x.1, x.2.1, x.2.2.1, ({ x.2.2.2 with links := ks } : Dev))) h

/-- One link of a list of links that go down. -/
theorem Work.dropLink_still (w : Work) (l : Nat) :
    (if (w.link l).state = .up ∨ (w.link l).state = .training then w.linkDown l .down else w).still = (w.updLink l Link.dropped).still := by
  have hlink {x : Link} (hx : w.d.links[l]? = some x) : w.link l = x := by
    rw [Work.link, hx, Option.getD_some]
  have hlinks (f : Link → Link) (hf : ∀ x, w.d.links[l]? = some x → f x = x.dropped) : (w.updLink l f).still = (w.updLink l Link.dropped).still :=
    congrArg (fun ks => (w.upd fun d => { d with links := ks }).still) (updAt_congr hf)
  split
  · next hup =>
    rw [Work.linkDown_still]
    refine hlinks _ fun x hx => ?_
    rw [hlink hx] at hup
    exact (if_pos hup).symm
  · next hno =>
    have hid : w.updLink l (fun k => k) = w := congrArg (fun ks => w.upd fun d => { d with links := ks }) (updAt_same _ _ _ fun _ _ => rfl)
    refine (congrArg Work.still hid.symm).trans (hlinks _ fun x hx => ?_)
    rw [hlink hx] at hno
    exact (if_neg hno).symm

/-- What links that go down leave as it is, but for the links (R463). -/
theorem Work.dropLinks_still (ls : List Nat) (w : Work) :
    (w.dropLinks ls).still = (w.upd fun d => { d with links := ls.foldl (fun ks l => updAt ks l Link.dropped) d.links }).still := by
  induction ls generalizing w with
  | nil => rfl
  | cons l ls ih =>
    have hstep := w.dropLink_still l
    refine (ih _).trans ?_
    rw [Work.upd, Work.still_links hstep]
    exact Work.still_links_congr hstep (ls.foldl (fun ks l => updAt ks l Link.dropped) (updAt w.d.links l Link.dropped))

/-- The links of a state whose meaning let some go down. -/
theorem State.finish_dropLinks_link {s : State} {w : Work} {ls : List Nat} (hls : ls.Nodup) {l : Nat} (hl : l < w.d.links.length) :
    ((s.finish (w.dropLinks ls)).work.link l).state
      = if l ∈ ls ∧ ((w.link l).state = .up ∨ (w.link l).state = .training) then .down else (w.link l).state := by
  rw [State.finish_link, Work.link, Work.still_links (w.dropLinks_still ls)]
  show (((ls.foldl (fun ks l => updAt ks l Link.dropped) w.d.links)[l]?).getD _).state = _
  rw [foldl_updAt_getElem? _ _ hls, Work.link]
  rw [List.getElem?_eq_getElem hl]
  by_cases hm : l ∈ ls
  · simp only [hm, if_true, Option.map_some, Option.getD_some, Link.dropped_state, true_and]
  · simp only [hm, if_false, Option.getD_some, false_and]

/-! ### Events posted -/

theorem Work.msix_log (w : Work) (fn n : Nat) : (w.msix fn n).log = w.log := rfl
theorem Work.cacheIova_log (w : Work) (fn iova : Nat) : (w.cacheIova fn iova).log = w.log := rfl

/-- A message to the host changes no context. -/
theorem Work.msix_ctx (w : Work) (fn n k : Nat) : (w.msix fn n).ctx k = w.ctx k := rfl

/-- An event of another context, or of the device, changes a context's event ring at most. -/
theorem Work.writeEvent_ctx_other (w : Work) {c k : Nat} (dev : Bool) (e : HeldEvent) (hk : k ≠ c) : (w.writeEvent c dev e).ctx k = w.ctx k := by
  have hset (v : Work) (f : Ctx → Ctx) (hv : v.ctx k = w.ctx k) : (v.updCtx c f).ctx k = w.ctx k :=
    (Work.updCtx_ctx_other v c k f hk).trans hv
  unfold Work.writeEvent
  dsimp only
  split
  · exact hset _ _ rfl
  · split
    · rw [Work.msix_ctx]
      exact hset _ _ rfl
    · exact hset _ _ rfl

/-- An event entry written at the tail of a ring with room, which moves on (R447, R448). -/
theorem Work.writeEvent_posts (w : Work) {c : Nat} (dev : Bool) (e : HeldEvent) (hc : c < w.d.ctxs.length) (hroom : (w.ctx c).evt.full = false) :
    (w.writeEvent c dev e).log
        = journal (hostKey c ((w.ctx c).evt.base.toNat + 32 * (w.ctx c).evt.tail)) (eventEntry e dev (w.ctx c).evt) w.log
      ∧ (w.writeEvent c dev e).ctx c = { w.ctx c with evt := (w.ctx c).evt.advance } := by
  unfold Work.writeEvent
  dsimp only
  rw [if_neg (by simp [hroom])]
  have hset (v : Work) (hv : v.d.ctxs = w.d.ctxs) (hz : v.fz = w.fz) :
      (v.updCtx c fun x => { x with evt := x.evt.advance }).ctx c = { w.ctx c with evt := (w.ctx c).evt.advance } := by
    rw [Work.updCtx_ctx_same v c _ (by rw [hv]; exact hc), Work.ctx, hv, hz, Work.ctx]
  split
  · refine ⟨?_, ?_⟩
    · rw [Work.msix_log, Work.updCtx_log, Work.countCtx_log, Work.wr_log, Work.cacheIova_log]
    · rw [Work.msix_ctx]
      exact hset _ rfl rfl
  · refine ⟨?_, hset _ rfl rfl⟩
    rw [Work.updCtx_log, Work.countCtx_log, Work.wr_log, Work.cacheIova_log]

/-- A device event while context 0's rings are enabled, and while they are not (R448, log 12). -/
theorem Work.deviceEvent_enabled {w : Work} (code : Nat) (b : List Byte) (h : (w.ctx 0).enable = true) :
    w.deviceEvent code b = w.writeEvent 0 true (w.event code 0xFF b) := if_pos h

theorem Work.deviceEvent_held {w : Work} (code : Nat) (b : List Byte) (h : (w.ctx 0).enable = false) :
    w.deviceEvent code b = w.upd fun d => { d with heldEvents := d.heldEvents ++ [w.event code 0xFF b] } := if_neg (by simp [h])

/-- A meaning that wrote one event entry and moved its ring on. -/
theorem State.finish_posted {s : State} {v : Work} {c : Nat} {dev : Bool} {e : HeldEvent} (hwf : Memory.wf s.mem = true)
    (hstill : v.base = s.mem ∧ v.wiped = [] ∧ v.fz = s.fuses)
    (hlog : v.log = journal (hostKey c ((s.work.ctx c).evt.base.toNat + 32 * (s.work.ctx c).evt.tail)) (eventEntry e dev (s.work.ctx c).evt) [])
    (hevt : (v.ctx c).evt = (s.work.ctx c).evt.advance) : s.posted (s.finish v) c dev e := by
  obtain ⟨hbase, hwiped, hfz⟩ := hstill
  refine ⟨State.finish_stores s v _ _ hwf hbase hwiped hlog, ?_⟩
  rw [State.finish_ctx s v c hfz, hevt]

end Sys2Proof.Machine
end

section
/-!
PROOFS. Patrol scrubbing, device faults and the loss of a capacity link (R355, R485 to R490, R495 to R498): which contexts halt and with
what record, and what the repair list, the poisoned blocks and the fault record then hold. The sliding day of corrections, the block
addresses of the repair list, the shared store as an HBM block, and the detail of a device fault are the model's choices (logs 120, 121,
122 and 149).
-/

namespace Sys2Proof.Machine

/-! ### The halts of an uncorrectable block -/

/-- What a context's lasting part says of its arena. -/
theorem Ctx.arena_of_lasting {x y : Ctx} (h : x.lasting = y.lasting) : x.arenaValid = y.arenaValid ∧ x.arena = y.arena := by
  have hvalid := congrArg Ctx.arenaValid h
  have harena := congrArg Ctx.arena h
  exact ⟨hvalid, harena⟩

/-- A halt leaves what a context's arena and objects hold (R487). -/
theorem Work.halt_holdsAddress (w : Work) (c k : Nat) (r : HaltRec) (a : Nat) : (w.halt k r).holdsAddress c a = w.holdsAddress c a := by
  have harena := Work.halt_lasts (fun x => (x.arenaValid, x.arena)) (fun _ _ => rfl) (fun _ _ => rfl)
    (fun x y h => Prod.ext_iff.mpr (Ctx.arena_of_lasting h)) w k c r
  obtain ⟨hvalid, hranges⟩ := Prod.mk.inj harena
  unfold Work.holdsAddress
  dsimp only
  rw [hvalid, hranges, Work.still_residency (Work.halt_still w k r)]

/-- A halt of those contexts that hold an address, or of all where it is shared structure: who halts with what, and who does not (R487). -/
theorem Work.scrubHalt_rec (w : Work) {c : Nat} (a : Nat) (hc : c < 16) (he : (w.ctx c).enable = true) (hv : (w.ctx c).halt.valid = false) :
    (w.structural a = true ∨ w.holdsAddress c a = true →
        ((w.scrubHalt a).ctx c).halt.valid = true ∧ ((w.scrubHalt a).ctx c).halt.reason = 0x41 ∧ ((w.scrubHalt a).ctx c).halt.detail = a)
      ∧ (w.structural a = false → w.holdsAddress c a = false → ((w.scrubHalt a).ctx c).halt = (w.ctx c).halt) := by
  have hmem : c ∈ contexts := by simp [contexts, hc]
  obtain ⟨hhalts, hkeeps⟩ := Work.foldl_haltIf_rec (machineRec 0x41 a) (fun w c => w.holdsAddress c a)
    (fun v c k _ => Work.halt_holdsAddress v c k _ a) contexts w c List.nodup_range hmem he hv
  unfold Work.scrubHalt
  by_cases hs : w.structural a = true
  · rw [if_pos hs]
    exact ⟨fun _ => Work.haltAll_machine w 0x41 a hc he hv, fun hno => absurd hs (by simp [hno])⟩
  · rw [if_neg hs]
    exact ⟨fun h => hhalts (h.resolve_left hs), fun _ => hkeeps⟩

theorem Work.scrubHalt_still (w : Work) (a : Nat) : (w.scrubHalt a).still = w.still := by
  unfold Work.scrubHalt
  split
  · exact Work.haltAll_still ..
  · refine Work.foldl_still _ (fun v c => ?_) _ _
    split
    · exact Work.halt_still ..
    · rfl

/-! ### The memory registers -/

/-- The memory registers, and what is written below host memory. -/
def Work.memFrame (w : Work) : MemRegs × List Host.Cell := (w.d.memRegs, w.low)

theorem Work.wr_host_memFrame (w : Work) (fn a : Nat) (bs : List Byte) : (w.wr (hostKey fn a) bs).memFrame = w.memFrame :=
  congrArg (w.d.memRegs, ·) (Work.wr_host_low w fn a bs)

theorem Work.halt_memFrame (w : Work) (c : Nat) (r : HaltRec) : (w.halt c r).memFrame = w.memFrame :=
  Work.halt_aside (p := Work.memFrame) (fun _ _ _ => rfl) (fun _ _ _ _ => rfl) Work.wr_host_memFrame (fun _ _ _ => rfl) (fun _ _ _ => rfl)
    (fun _ _ _ => rfl) (fun _ _ => rfl) (fun _ => rfl) w c r

theorem Work.deviceEvent_memFrame (w : Work) (code : Nat) (b : List Byte) : (w.deviceEvent code b).memFrame = w.memFrame :=
  Work.deviceEvent_aside (p := Work.memFrame) (fun _ _ _ => rfl) (fun _ _ _ _ => rfl) Work.wr_host_memFrame (fun _ _ _ => rfl)
    (fun _ _ _ => rfl) (fun _ _ => rfl) w code b

theorem Work.scrubHalt_memFrame (w : Work) (a : Nat) : (w.scrubHalt a).memFrame = w.memFrame := by
  unfold Work.scrubHalt
  split
  · exact Work.foldl_keeps Work.memFrame _ (fun _ _ => Work.halt_memFrame ..) _ _
  · refine Work.foldl_keeps Work.memFrame _ (fun v c => ?_) _ _
    split
    · exact Work.halt_memFrame ..
    · rfl

/-- The checksums of a command's writes leave the repair list and the corrections as they are. -/
theorem Work.settle_repair (w : Work) :
    w.settle.d.memRegs.repairList = w.d.memRegs.repairList ∧ w.settle.d.memRegs.ceTimes = w.d.memRegs.ceTimes
      ∧ w.settle.d.memRegs.repairPending = w.d.memRegs.repairPending := by
  unfold Work.settle
  split <;> exact ⟨rfl, rfl, rfl⟩

/-- A poisoned block below host memory stays poisoned where nothing is written below host memory (R488). -/
theorem Work.settle_poisoned {w : Work} {p : Nat} (hp : p < 2 ^ 80) (hlow : w.low = []) (h : p ∈ w.d.memRegs.poisoned) :
    p ∈ w.settle.d.memRegs.poisoned := by
  have hfind : Memory.find w.log p = none := by
    rw [← Memory.find_low hp]
    exact congrArg (Memory.find · p) hlow
  have hcov : coversAll w.log p 64 = false := by
    rw [coversAll, List.all_eq_false]
    exact ⟨0, List.mem_range.mpr (by decide), by simp [hfind]⟩
  unfold Work.settle
  split
  · exact h
  · exact List.mem_filter.mpr ⟨h, by rw [hcov]; rfl⟩

/-- Blocks wanted for repair stand on the list (R495). -/
theorem Work.mem_wantRepair {w : Work} {bs : List (Nat × Nat)} {b : Nat × Nat} (h : b ∈ bs) : b ∈ (w.wantRepair bs).d.memRegs.repairList := by
  show b ∈ w.d.memRegs.repairList ++ bs.eraseDups.filter fun b => !w.d.memRegs.repairList.contains b
  by_cases hb : b ∈ w.d.memRegs.repairList
  · exact List.mem_append_left _ hb
  · exact List.mem_append_right _ (List.mem_filter.mpr ⟨List.mem_eraseDups.mpr h, by simpa using hb⟩)

/-- A stack with a block wanted for repair is marked (R495, R505). -/
theorem foldl_repairPending {n : Nat} (hn : n < 12) (bs : List (Nat × Nat)) (m : BitVec 12)
    (h : m.getLsbD n = true ∨ ∃ b, b ∈ bs ∧ b.1 = n) : (bs.foldl (fun m b => m ||| BitVec.ofNat 12 (2 ^ b.1)) m).getLsbD n = true := by
  induction bs generalizing m with
  | nil => simpa using h
  | cons b bs ih =>
    refine ih _ ?_
    rcases h with hm | ⟨x, hx, hxn⟩
    · exact .inl (by simp [hm])
    · rcases List.mem_cons.mp hx with rfl | hx
      · refine .inl ?_
        rw [BitVec.getLsbD_or, BitVec.getLsbD_ofNat, hxn, Nat.testBit_two_pow_self, decide_eq_true hn, Bool.and_self, Bool.or_true]
      · exact .inr ⟨x, hx, hxn⟩

/-! ### HBM_SCRUB -/

/-- A scrubbed block by its result (R485, R487, R490). -/
def Work.scrubbed (w : Work) (n a : Nat) (r : EccResult) : Work :=
  match r with
  | .clean => w
  | .corrected => w.corrected n (a / 64 * 64)
  | .uncorrectable => w.poison n (a / 64 * 64)

/-- A pass that ends counted (R485). -/
def Work.passEnds (w : Work) (last : Bool) : Work := if last then w.count Ctr.memScrubPasses 1 else w

theorem Work.passEnds_keeps {β : Type} (p : Work → β) (h : ∀ v id n, p (Work.count v id n) = p v) (w : Work) (last : Bool) :
    p (w.passEnds last) = p w := by
  unfold Work.passEnds
  split
  · exact h ..
  · rfl

/-- HBM_SCRUB of a trained stack that is awake. -/
theorem exec_hbmScrub {n : Nat} {s : State} (a : Nat) (last : Bool) (r : EccResult) (ht : s.dev.memRegs.trained.getLsbD n = true)
    (hs : s.dev.pwr.hbmSleep = false) : exec (.hbmScrub n a last r) s = .next (s.finish ((s.work.scrubbed n a r).passEnds last)) := by
  refine exec_finish rfl ?_
  simp only [State.work_d, ht, hs, Bool.not_true, Bool.or_self, Bool.false_eq_true, if_false]
  cases r <;> rfl

/-- The corrections of the last day, with the one of block `a` of stack `n` (R490, log 120). -/
def Work.recentCe (w : Work) (n a : Nat) : List (Nat × Nat × Nat) :=
  (w.d.memRegs.ceTimes.filter fun e => decide (w.d.nowNs < e.2.1 + dayNs)) ++ [(n, w.d.nowNs, a)]

/-- A correction within the threshold is counted and kept (R490). -/
theorem Work.corrected_within {w : Work} {n a : Nat}
    (h : ((w.recentCe n a).filter fun e => e.1 == n).length ≤ w.d.memRegs.ceThreshold.toNat) :
    w.corrected n a = (w.countInst Ctr.memHbmCorrected n 1).upd fun d => { d with memRegs := { d.memRegs with ceTimes := w.recentCe n a } } :=
  if_neg (Nat.not_lt.mpr h)

/-- What stands before the event of a correction above the threshold (R490). -/
def Work.overCorrected (w : Work) (n a : Nat) : Work :=
  ((w.countInst Ctr.memHbmCorrected n 1).upd fun d =>
    { d with memRegs := { d.memRegs with ceTimes := (w.recentCe n a).filter fun e => e.1 != n } }).wantRepair
      (((w.recentCe n a).filter fun e => e.1 == n).map fun e => (n, e.2.2))

/-- A correction above the threshold raises MEM_CE_RATE (R490). -/
theorem Work.corrected_over {w : Work} {n a : Nat}
    (h : w.d.memRegs.ceThreshold.toNat < ((w.recentCe n a).filter fun e => e.1 == n).length) :
    w.corrected n a = (w.overCorrected n a).deviceEvent 0x0052
      (leBytes 1 n ++ leBytes 3 0 ++ leBytes 8 ((w.recentCe n a).filter fun e => e.1 == n).length) := if_pos h

/-- What stands before the halts of an uncorrectable block (R488, R495). -/
def Work.poisoning (w : Work) (n a : Nat) : Work :=
  ((w.countInst Ctr.memHbmUncorrected n 1).upd fun d => { d with memRegs := { d.memRegs with
    poisoned := if d.memRegs.poisoned.contains a then d.memRegs.poisoned else d.memRegs.poisoned ++ [a] } }).wantRepair [(n, a)]

theorem Work.poison_eq (w : Work) (n a : Nat) :
    w.poison n a = ((w.poisoning n a).deviceEvent 0x0051 (leBytes 1 n ++ leBytes 7 0 ++ leBytes 8 a)).scrubHalt a := rfl

/-- A device event changes neither the records of halts nor what holds an address. -/
theorem Work.deviceEvent_holdsAddress (w : Work) (code : Nat) (b : List Byte) (c a : Nat) :
    ((w.deviceEvent code b).ctx c).enable = (w.ctx c).enable ∧ ((w.deviceEvent code b).ctx c).halt = (w.ctx c).halt
      ∧ (w.deviceEvent code b).holdsAddress c a = w.holdsAddress c a := by
  have hlast := Work.deviceEvent_lasting w c code b
  refine ⟨Ctx.enable_of_lasting hlast, Ctx.halt_of_lasting hlast, ?_⟩
  obtain ⟨hvalid, harena⟩ := Ctx.arena_of_lasting hlast
  unfold Work.holdsAddress
  dsimp only
  rw [hvalid, harena, Work.still_residency (Work.deviceEvent_still w code b)]

/-- What is shared structure depends on the active set, the windows and what is read. -/
theorem Work.structural_congr {v w : Work} (a : Nat) (hactive : v.d.active = w.d.active) (hwindows : v.d.windows = w.d.windows)
    (hrd : ∀ k, v.rd k = w.rd k) : v.structural a = w.structural a := by
  have hle (k n : Nat) : v.le k n = w.le k n := congrArg leNat (Work.rdN_congr hrd k n)
  unfold Work.structural
  simp only [hactive, hwindows, hle]

/-- What stands before the halts reads as the state before. -/
theorem Work.poisoning_rd (w : Work) (n a k : Nat) : (w.poisoning n a).rd k = w.rd k := rfl

theorem Work.poisoning_ctx (w : Work) (n a c : Nat) : (w.poisoning n a).ctx c = w.ctx c := rfl

/-- What an address is held by depends on the context and the objects. -/
theorem Work.holdsAddress_congr {v w : Work} {c : Nat} (a : Nat) (hctx : v.ctx c = w.ctx c) (hres : v.d.residency = w.d.residency) :
    v.holdsAddress c a = w.holdsAddress c a := by
  unfold Work.holdsAddress
  rw [hctx, hres]

/-- An event, then the halts of an uncorrectable block: by what the state before holds (R487). -/
theorem Work.event_scrubHalt_rec (w : Work) {c : Nat} (code : Nat) (b : List Byte) (a : Nat) (hc : c < 16) (he : (w.ctx c).enable = true)
    (hv : (w.ctx c).halt.valid = false) :
    (w.holdsAddress c a = true → (((w.deviceEvent code b).scrubHalt a).ctx c).halt.valid = true
        ∧ (((w.deviceEvent code b).scrubHalt a).ctx c).halt.reason = 0x41 ∧ (((w.deviceEvent code b).scrubHalt a).ctx c).halt.detail = a)
      ∧ ((w.ctx 0).enable = false → w.structural a = false → w.holdsAddress c a = false →
        (((w.deviceEvent code b).scrubHalt a).ctx c).halt = (w.ctx c).halt) := by
  obtain ⟨henable, hhalt, hholds⟩ := w.deviceEvent_holdsAddress code b c a
  obtain ⟨hhalts, hkeeps⟩ := Work.scrubHalt_rec (w.deviceEvent code b) a hc (henable.trans he) ((congrArg HaltRec.valid hhalt).trans hv)
  refine ⟨fun h => hhalts (.inr (hholds.trans h)), fun h0 hs hno => (hkeeps ?_ (hholds.trans hno)).trans hhalt⟩
  rw [Work.deviceEvent_held _ _ h0]
  exact (Work.structural_congr (w := w) a rfl rfl fun _ => rfl).trans hs

/-- An uncorrectable block: its context's halt, by what the state that scrubbing found holds (R487). -/
theorem Work.poison_rec (w : Work) {c : Nat} (n a : Nat) (hc : c < 16) (he : (w.ctx c).enable = true) (hv : (w.ctx c).halt.valid = false) :
    (w.holdsAddress c a = true →
        ((w.poison n a).ctx c).halt.valid = true ∧ ((w.poison n a).ctx c).halt.reason = 0x41 ∧ ((w.poison n a).ctx c).halt.detail = a)
      ∧ ((w.ctx 0).enable = false → w.structural a = false → w.holdsAddress c a = false → ((w.poison n a).ctx c).halt = (w.ctx c).halt) := by
  have hctx := w.poisoning_ctx n a
  have hholds := Work.holdsAddress_congr a (hctx c) (show (w.poisoning n a).d.residency = w.d.residency from rfl)
  have hstruct := Work.structural_congr (v := w.poisoning n a) (w := w) a rfl rfl (w.poisoning_rd n a)
  have h := Work.event_scrubHalt_rec (w.poisoning n a) 0x0051 (leBytes 1 n ++ leBytes 7 0 ++ leBytes 8 a) a hc (by rw [hctx]; exact he)
    (by rw [hctx]; exact hv)
  rw [hctx c, hctx 0, hholds, hstruct] at h
  rw [Work.poison_eq]
  exact h

/-- A clean block of a trained stack that is awake (R485). -/
theorem exec_hbmScrub_clean {n : Nat} (a : Nat) (last : Bool) {s : State} (ht : s.dev.memRegs.trained.getLsbD n = true)
    (hs : s.dev.pwr.hbmSleep = false) :
    exec (.hbmScrub n a last .clean) s = .next { s with dev := { s.dev with
      counters := if last then ctrAdd s.dev.counters (ctrKey Ctr.memScrubPasses 31 0xFF) 1 else s.dev.counters } } := by
  rw [exec_hbmScrub a last .clean ht hs]
  cases last
  · exact congrArg Host.Outcome.next (State.finish_eq s _ rfl rfl)
  · exact congrArg Host.Outcome.next (State.finish_eq s _ rfl rfl)

/-- A correction within the threshold (R485, R490). -/
theorem exec_hbmScrub_within {n a : Nat} {s : State} (ht : s.dev.memRegs.trained.getLsbD n = true) (hs : s.dev.pwr.hbmSleep = false)
    (h : ((s.work.recentCe n (a / 64 * 64)).filter fun e => e.1 == n).length ≤ s.dev.memRegs.ceThreshold.toNat) :
    exec (.hbmScrub n a false .corrected) s = .next { s with dev := { s.dev with
        memRegs := { s.dev.memRegs with ceTimes := s.work.recentCe n (a / 64 * 64) }
        counters := ctrAdd s.dev.counters (ctrKey Ctr.memHbmCorrected 31 n) 1 } } := by
  rw [exec_hbmScrub a false .corrected ht hs]
  show Host.Outcome.next (s.finish (s.work.corrected n (a / 64 * 64))) = _
  rw [Work.corrected_within h]
  exact congrArg Host.Outcome.next (State.finish_eq s _ rfl rfl)

/-- What stands before MEM_CE_RATE writes nothing and keeps the contexts. -/
theorem Work.overCorrected_reads (w : Work) (n a : Nat) :
    (w.overCorrected n a).log = w.log ∧ (∀ c, (w.overCorrected n a).ctx c = w.ctx c) ∧ (w.overCorrected n a).still = w.still :=
  ⟨rfl, fun _ => rfl, rfl⟩

/-- A correction above the threshold (R490). -/
theorem exec_hbmScrub_over {n a : Nat} {s : State} (ht : s.dev.memRegs.trained.getLsbD n = true) (hs : s.dev.pwr.hbmSleep = false)
    (h : s.dev.memRegs.ceThreshold.toNat < ((s.work.recentCe n (a / 64 * 64)).filter fun e => e.1 == n).length) (hctxs : 0 < s.dev.ctxs.length)
    (hwf : Memory.wf s.mem = true) :
    let own := (s.work.recentCe n (a / 64 * 64)).filter fun e => e.1 == n
    let e := s.work.event 0x0052 0xFF (leBytes 1 n ++ leBytes 3 0 ++ leBytes 8 own.length)
    ∃ u, exec (.hbmScrub n a false .corrected) s = .next u ∧ s.quietly u id ∧ (∀ c, (u.work.ctx c).halt = (s.work.ctx c).halt)
        ∧ ((s.work.ctx 0).enable = false → u.mem = s.mem ∧ u.dev.heldEvents = s.dev.heldEvents ++ [e])
        ∧ ((s.work.ctx 0).enable = true → (s.work.ctx 0).evt.full = false → s.posted u 0 true e)
        ∧ u.dev.memRegs.ceTimes = (s.work.recentCe n (a / 64 * 64)).filter (fun e => e.1 != n)
        ∧ (∀ e, e ∈ own → (n, e.2.2) ∈ u.dev.memRegs.repairList)
        ∧ (n < 12 → u.dev.memRegs.repairPending.getLsbD n = true) := by
  intro own e
  obtain ⟨b, hb⟩ : ∃ b, b = leBytes 1 n ++ leBytes 3 0 ++ leBytes 8 own.length := ⟨_, rfl⟩
  obtain ⟨hlog, hctx, hstill⟩ := s.work.overCorrected_reads n (a / 64 * 64)
  have hexec : exec (.hbmScrub n a false .corrected) s = .next (s.finish ((s.work.overCorrected n (a / 64 * 64)).deviceEvent 0x0052 b)) := by
    rw [exec_hbmScrub a false .corrected ht hs, hb]
    exact congrArg (fun v => Host.Outcome.next (s.finish v)) (Work.corrected_over h)
  have he : e = (s.work.overCorrected n (a / 64 * 64)).event 0x0052 0xFF b := by rw [hb]; rfl
  have hvstill := (Work.deviceEvent_still (s.work.overCorrected n (a / 64 * 64)) 0x0052 b).trans hstill
  have hmem := congrArg Prod.fst (Work.deviceEvent_memFrame (s.work.overCorrected n (a / 64 * 64)) 0x0052 b)
  obtain ⟨hrepair, hce, hpending⟩ := Work.settle_repair ((s.work.overCorrected n (a / 64 * 64)).deviceEvent 0x0052 b)
  have hregs : ((s.work.overCorrected n (a / 64 * 64)).deviceEvent 0x0052 b).d.memRegs = (s.work.overCorrected n (a / 64 * 64)).d.memRegs := hmem
  rw [hregs] at hrepair hce hpending
  refine ⟨_, hexec, State.finish_quietly hvstill, fun c => ?_, fun h0 => ⟨?_, ?_⟩, fun h0 hroom => ?_, hce, fun x hx => ?_, fun hn => ?_⟩
  · rw [State.finish_ctx _ _ _ (Work.still_fz hvstill), Ctx.halt_of_lasting (Work.deviceEvent_lasting ..), hctx]
  · rw [Work.deviceEvent_held _ _ ((congrArg Ctx.enable (hctx 0)).trans h0)]
    exact State.finish_mem s _ hlog rfl
  · rw [Work.deviceEvent_held _ _ ((congrArg Ctx.enable (hctx 0)).trans h0), State.finish_heldEvents, he]
    rfl
  · rw [Work.deviceEvent_enabled _ _ ((congrArg Ctx.enable (hctx 0)).trans h0), ← he]
    have hposts := Work.writeEvent_posts (s.work.overCorrected n (a / 64 * 64)) (c := 0) true e hctxs (by rw [hctx]; exact hroom)
    rw [hctx, hlog] at hposts
    have hwstill := (Work.writeEvent_still (s.work.overCorrected n (a / 64 * 64)) 0 true e).trans hstill
    exact State.finish_posted hwf ⟨Work.still_base hwstill, Work.still_wiped hwstill, Work.still_fz hwstill⟩ hposts.1 (congrArg Ctx.evt hposts.2)
  · show (n, x.2.2) ∈ (Work.settle _).d.memRegs.repairList
    rw [hrepair]
    exact Work.mem_wantRepair (List.mem_map.mpr ⟨x, hx, rfl⟩)
  · show (Work.settle _).d.memRegs.repairPending.getLsbD n = true
    rw [hpending]
    refine foldl_repairPending hn _ _ (.inr ?_)
    have hown : own ≠ [] := fun hnil => absurd h (by rw [show ((s.work.recentCe n (a / 64 * 64)).filter fun e => e.1 == n) = [] from hnil]; simp)
    obtain ⟨x, hx⟩ := List.exists_mem_of_ne_nil _ hown
    exact ⟨_, List.mem_map.mpr ⟨x, hx, rfl⟩, rfl⟩

/-- What an uncorrectable block leaves in the memory registers, and what is still. -/
theorem Work.poison_keeps (w : Work) (n a : Nat) : (w.poison n a).memFrame = (w.poisoning n a).memFrame ∧ (w.poison n a).still = w.still := by
  rw [Work.poison_eq]
  exact ⟨(Work.scrubHalt_memFrame ..).trans (Work.deviceEvent_memFrame ..), ((Work.scrubHalt_still ..).trans (Work.deviceEvent_still ..)).trans rfl⟩

/-- An uncorrectable block (R487, R488, R495). -/
theorem exec_hbmScrub_uncorrectable {n a : Nat} (last : Bool) {s : State} (ht : s.dev.memRegs.trained.getLsbD n = true)
    (hs : s.dev.pwr.hbmSleep = false) :
    ∃ u, exec (.hbmScrub n a last .uncorrectable) s = .next u ∧ s.quietly u id
      ∧ (n, a / 64 * 64) ∈ u.dev.memRegs.repairList
      ∧ (a < 2 ^ 80 → a / 64 * 64 ∈ u.dev.memRegs.poisoned)
      ∧ (∀ c, c < 16 → (s.work.ctx c).enable = true → (s.work.ctx c).halt.valid = false →
        (s.work.holdsAddress c (a / 64 * 64) = true →
          (u.work.ctx c).halt.valid = true ∧ (u.work.ctx c).halt.reason = 0x41 ∧ (u.work.ctx c).halt.detail = a / 64 * 64)
        ∧ ((s.work.ctx 0).enable = false → s.work.structural (a / 64 * 64) = false → s.work.holdsAddress c (a / 64 * 64) = false →
          (u.work.ctx c).halt = (s.work.ctx c).halt)) := by
  generalize hb : a / 64 * 64 = b
  have hexec : exec (.hbmScrub n a last .uncorrectable) s = .next (s.finish ((s.work.poison n b).passEnds last)) := by
    rw [← hb]
    exact exec_hbmScrub a last .uncorrectable ht hs
  obtain ⟨hframe, hstill⟩ := s.work.poison_keeps n b
  have hvframe := (Work.passEnds_keeps Work.memFrame (fun _ _ _ => rfl) (s.work.poison n b) last).trans hframe
  have hvstill := (Work.passEnds_keeps Work.still (fun _ _ _ => rfl) (s.work.poison n b) last).trans hstill
  have hvctx (c : Nat) := Work.passEnds_keeps (fun v => v.ctx c) (fun _ _ _ => rfl) (s.work.poison n b) last
  obtain ⟨hregs, hlow⟩ := Prod.mk.inj hvframe
  refine ⟨_, hexec, State.finish_quietly hvstill, ?_, fun ha => ?_, fun c hc he hv => ?_⟩
  · show (n, b) ∈ (Work.settle _).d.memRegs.repairList
    rw [(Work.settle_repair _).1, hregs]
    exact Work.mem_wantRepair (List.mem_singleton_self _)
  · refine Work.settle_poisoned (by omega) hlow ?_
    rw [hregs]
    show b ∈ if s.dev.memRegs.poisoned.contains b then s.dev.memRegs.poisoned else s.dev.memRegs.poisoned ++ [b]
    split
    · next h => simpa using h
    · exact List.mem_append_right _ (List.mem_singleton_self _)
  · rw [State.finish_ctx _ _ _ (Work.still_fz hvstill), hvctx]
    exact Work.poison_rec s.work n b hc he hv

/-! ### SRAM_SCRUB -/

/-- SRAM_SCRUB of an uncorrectable word. -/
theorem exec_sramScrub_uncorrectable (k : SramKind) (last : Bool) (s : State) :
    exec (.sramScrub k last .uncorrectable) s = .next (s.finish ((s.work.sramFault k).passEnds last)) := exec_finish rfl rfl

/-- An uncorrectable word of a tile (R487). -/
theorem exec_sramScrub_tile {t c : Nat} (off : Nat) (last : Bool) {s : State} (ho : s.work.owner t = some c) (he : (s.work.ctx c).enable = true)
    (hv : (s.work.ctx c).halt.valid = false) :
    ∃ u, exec (.sramScrub (.tile t off) last .uncorrectable) s = .next u ∧ s.quietly u id
      ∧ (u.work.ctx c).halt.valid = true ∧ (u.work.ctx c).halt.reason = 0x41 ∧ (u.work.ctx c).halt.detail = tileStoreAddr t off
      ∧ ∀ k, k ≠ c → (u.work.ctx k).halt = (s.work.ctx k).halt := by
  have hfault : s.work.sramFault (.tile t off) = s.work.halt c (machineRec 0x41 (tileStoreAddr t off)) := by
    show s.work.haltOwner t _ = _
    rw [Work.haltOwner, ho]
  have hvctx (k : Nat) := Work.passEnds_keeps (fun v => v.ctx k) (fun _ _ _ => rfl) (s.work.halt c (machineRec 0x41 (tileStoreAddr t off))) last
  have hvstill := (Work.passEnds_keeps Work.still (fun _ _ _ => rfl) (s.work.halt c (machineRec 0x41 (tileStoreAddr t off))) last).trans
    (Work.halt_still ..)
  have hfz := Work.still_fz hvstill
  have hrec := Work.halt_rec s.work c (machineRec 0x41 (tileStoreAddr t off)) he hv
  rw [exec_sramScrub_uncorrectable, hfault]
  refine ⟨_, rfl, State.finish_quietly hvstill, ?_⟩
  rw [State.finish_ctx _ _ _ hfz, hvctx, hrec]
  refine ⟨rfl, rfl, rfl, fun k hk => ?_⟩
  rw [State.finish_ctx _ _ _ hfz, hvctx]
  exact Work.halt_keeps _ _ _ _ (.inr hk)

/-- An uncorrectable word of the shared store (R487). -/
theorem exec_sramScrub_shared (a : Nat) (last : Bool) (s : State) :
    ∃ u, exec (.sramScrub (.shared a) last .uncorrectable) s = .next u ∧ s.quietly u id
      ∧ ∀ c, c < 16 → (s.work.ctx c).enable = true → (s.work.ctx c).halt.valid = false →
        (s.work.structural a = true ∨ s.work.holdsAddress c a = true →
          (u.work.ctx c).halt.valid = true ∧ (u.work.ctx c).halt.reason = 0x41 ∧ (u.work.ctx c).halt.detail = a)
        ∧ (s.work.structural a = false → s.work.holdsAddress c a = false → (u.work.ctx c).halt = (s.work.ctx c).halt) := by
  obtain ⟨ps, hps⟩ : ∃ ps, ps = if s.dev.memRegs.poisoned.contains (a / 64 * 64) then s.dev.memRegs.poisoned
    else s.dev.memRegs.poisoned ++ [a / 64 * 64] := ⟨_, rfl⟩
  obtain ⟨w, hw⟩ : ∃ w, w = s.work.upd fun d => { d with memRegs := { d.memRegs with poisoned := ps } } := ⟨_, rfl⟩
  have hfault : s.work.sramFault (.shared a) = w.scrubHalt a := by
    rw [hw, hps]
    rfl
  have hctx (c : Nat) : w.ctx c = s.work.ctx c := by rw [hw]; rfl
  have hstill : w.still = s.work.still := by rw [hw]; rfl
  have hstruct : w.structural a = s.work.structural a := by
    rw [hw]
    exact Work.structural_congr a rfl rfl fun _ => rfl
  have hvctx (k : Nat) := Work.passEnds_keeps (fun v => v.ctx k) (fun _ _ _ => rfl) (w.scrubHalt a) last
  have hvstill := ((Work.passEnds_keeps Work.still (fun _ _ _ => rfl) (w.scrubHalt a) last).trans (Work.scrubHalt_still ..)).trans hstill
  rw [exec_sramScrub_uncorrectable, hfault]
  refine ⟨_, rfl, State.finish_quietly hvstill, fun c hc he hv => ?_⟩
  rw [State.finish_ctx _ _ _ (Work.still_fz hvstill), hvctx]
  have h := Work.scrubHalt_rec w (c := c) a hc (by rw [hctx]; exact he) (by rw [hctx]; exact hv)
  rw [hctx, hstruct, Work.holdsAddress_congr a (hctx c) (Work.still_residency hstill)] at h
  exact h

/-- An uncorrectable word of the configuration tables (R487). -/
theorem exec_sramScrub_configTable (a : Nat) (last : Bool) (s : State) :
    ∃ u, exec (.sramScrub (.configTable a) last .uncorrectable) s = .next u ∧ s.quietly u id ∧ s.haltsAll u 0x41 a := by
  have hvctx (k : Nat) := Work.passEnds_keeps (fun v => v.ctx k) (fun _ _ _ => rfl) (s.work.haltAll (machineRec 0x41 a)) last
  have hvstill := (Work.passEnds_keeps Work.still (fun _ _ _ => rfl) (s.work.haltAll (machineRec 0x41 a)) last).trans (Work.haltAll_still ..)
  have hfault : s.work.sramFault (.configTable a) = s.work.haltAll (machineRec 0x41 a) := rfl
  rw [exec_sramScrub_uncorrectable, hfault]
  refine ⟨_, rfl, State.finish_quietly hvstill, State.finish_haltsAll (Work.still_fz hvstill) fun c hc he hv => ?_⟩
  rw [hvctx]
  exact Work.haltAll_machine s.work 0x41 a hc he hv

/-! ### Device faults and capacity links -/

/-- Halts and events leave the record of device faults as it is. -/
theorem Work.deviceFault_fault (w : Work) (reason : Nat) (src : FaultSource) (i a : Nat) :
    (w.deviceFault reason src i a).d.fault = if w.d.fault.valid then w.d.fault else
      { valid := true, reason := reason, source := src.code, index := i, tick := w.d.pitch.tickCount, cycle := w.d.pitch.cycle,
        addr := BitVec.ofNat 64 a } := by
  have hrecord : (w.recordFault reason src i a).d.fault = if w.d.fault.valid then w.d.fault else
      { valid := true, reason := reason, source := src.code, index := i, tick := w.d.pitch.tickCount, cycle := w.d.pitch.cycle,
        addr := BitVec.ofNat 64 a } := by
    unfold Work.recordFault
    split <;> rfl
  have hfold := Work.haltAll_aside (p := fun v => v.d.fault) (fun _ _ _ => rfl) (fun _ _ _ _ => rfl) (fun _ _ _ _ => rfl) (fun _ _ _ => rfl)
    (fun _ _ _ => rfl) (fun _ _ _ => rfl) (fun _ _ => rfl) (fun _ => rfl)
  have hevent := Work.deviceEvent_aside (p := fun v => v.d.fault) (fun _ _ _ => rfl) (fun _ _ _ _ => rfl) (fun _ _ _ _ => rfl)
    (fun _ _ _ => rfl) (fun _ _ _ => rfl) (fun _ _ => rfl)
  obtain ⟨b, hb⟩ : ∃ b, b = leBytes 1 reason ++ leBytes 1 src.code ++ leBytes 1 i ++ leBytes 5 0 ++ leBytes 8 a := ⟨_, rfl⟩
  have heq : w.deviceFault reason src i a
      = ((w.recordFault reason src i a).deviceEvent 0x0050 b).haltAll (machineRec reason (src.code * 2 ^ 16 + i * 2 ^ 24)) := by
    rw [hb]
    rfl
  rw [heq, hfold, hevent]
  exact hrecord

/-- A meaning that is a device fault, but for counting (R496, R498). -/
theorem State.finish_deviceFault (s : State) {v : Work} {reason : Nat} {src : FaultSource} {i detail : Nat} (hdetail : detail = src.code * 2 ^ 16 + i * 2 ^ 24)
    (hctx : ∀ c, v.ctx c = (s.work.deviceFault reason src i 0).ctx c) (hstill : v.still = (s.work.deviceFault reason src i 0).still)
    (hfault : v.d.fault = (s.work.deviceFault reason src i 0).d.fault) :
    s.quietly (s.finish v) id ∧ s.haltsAll (s.finish v) reason detail
      ∧ (s.finish v).dev.fault = if s.dev.fault.valid then s.dev.fault else
        { valid := true, reason := reason, source := src.code, index := i, tick := s.dev.pitch.tickCount, cycle := s.dev.pitch.cycle, addr := 0 } := by
  have hs := hstill.trans (Work.deviceFault_still ..)
  refine ⟨State.finish_quietly hs, State.finish_haltsAll (Work.still_fz hs) fun c hc he hv => ?_, ?_⟩
  · rw [hctx, hdetail]
    exact Work.deviceFault_rec s.work reason src i 0 c hc he hv
  · rw [State.finish_fault, hfault, Work.deviceFault_fault]
    rfl

/-- The fault of control logic, and of a stack's interface (R495, R498). -/
theorem exec_controlFault (n : Nat) (last : Bool) (s : State) :
    ∃ u, exec (.sramScrub (.control n) last .uncorrectable) s = .next u ∧ s.quietly u id ∧ s.haltsAll u 0x49 (0x40000 + n * 2 ^ 24)
      ∧ u.dev.fault = if s.dev.fault.valid then s.dev.fault else
        { valid := true, reason := 0x49, source := 4, index := n, tick := s.dev.pitch.tickCount, cycle := s.dev.pitch.cycle, addr := 0 } := by
  rw [exec_sramScrub_uncorrectable]
  exact ⟨_, rfl, State.finish_deviceFault s (src := .control) rfl
    (fun c => Work.passEnds_keeps (fun v => v.ctx c) (fun _ _ _ => rfl) (s.work.deviceFault 0x49 .control n 0) last)
    (Work.passEnds_keeps Work.still (fun _ _ _ => rfl) (s.work.deviceFault 0x49 .control n 0) last)
    (Work.passEnds_keeps (fun v => v.d.fault) (fun _ _ _ => rfl) (s.work.deviceFault 0x49 .control n 0) last)⟩

theorem exec_hbmInterfaceFault {n : Nat} {s : State} (h : s.fuses.hbmStacks.getLsbD n = true) :
    ∃ u, exec (.hbmInterfaceFault n) s = .next u ∧ s.quietly u id ∧ s.haltsAll u 0x4A (n * 2 ^ 24)
      ∧ u.dev.fault = if s.dev.fault.valid then s.dev.fault else
        { valid := true, reason := 0x4A, source := 0, index := n, tick := s.dev.pitch.tickCount, cycle := s.dev.pitch.cycle, addr := 0 } := by
  have hexec : exec (.hbmInterfaceFault n) s = .next (s.finish (s.work.deviceFault 0x4A .stack n 0)) := exec_finish rfl (if_pos h)
  exact ⟨_, hexec, State.finish_deviceFault s (src := .stack) (by rw [show FaultSource.stack.code = 0 from rfl]; omega) (fun _ => rfl) rfl rfl⟩

/-- Whether a context has a home on a capacity port (R355). -/
def Work.homeOn (w : Work) (p c : Nat) : Bool :=
  w.d.residency.any fun e => e.owner == c && decide (e.state ≠ .free)
    && (decide (w.fz.space e.home = .cap p) || (e.newHome != 0 && decide (w.fz.space e.newHome = .cap p)))

theorem Work.homeOn_iff {w : Work} {p c : Nat} : w.homeOn p c = true ↔ ∃ e, e ∈ w.d.residency ∧ e.owner = c ∧ e.state ≠ .free
    ∧ (w.fz.space e.home = .cap p ∨ (e.newHome ≠ 0 ∧ w.fz.space e.newHome = .cap p)) := by
  simp only [Work.homeOn, List.any_eq_true, Bool.and_eq_true, beq_iff_eq, decide_eq_true_eq, Bool.or_eq_true, bne_iff_ne, and_assoc]

/-- A halt leaves what homes a context has. -/
theorem Work.halt_homeOn (w : Work) (k : Nat) (r : HaltRec) (p c : Nat) : (w.halt k r).homeOn p c = w.homeOn p c := by
  have hs := Work.halt_still w k r
  unfold Work.homeOn
  rw [Work.still_residency hs, Work.still_fz hs]

theorem Work.capDown_eq (w : Work) (p : Nat) :
    w.capDown p = contexts.foldl (fun v c => if v.homeOn p c then v.halt c (machineRec 0x45 p) else v) w := by
  have hfold (cs : List Nat) (v : Work) (hv : v.fz = w.fz) :
      cs.foldl (fun v c => if v.d.residency.any fun e => e.owner == c && decide (e.state ≠ .free)
        && (decide (w.fz.space e.home = .cap p) || (e.newHome != 0 && decide (w.fz.space e.newHome = .cap p))) then
          v.halt c (machineRec 0x45 p) else v) v
        = cs.foldl (fun v c => if v.homeOn p c then v.halt c (machineRec 0x45 p) else v) v := by
    induction cs generalizing v with
    | nil => rfl
    | cons c cs ih =>
      rw [List.foldl_cons, List.foldl_cons, Work.homeOn, hv]
      refine ih _ ?_
      split
      · exact (Work.still_fz (Work.halt_still ..)).trans hv
      · exact hv
  exact hfold contexts w rfl

theorem Work.capDown_still (w : Work) (p : Nat) : (w.capDown p).still = w.still := by
  rw [Work.capDown_eq]
  refine Work.foldl_still _ (fun v c => ?_) _ _
  split
  · exact Work.halt_still ..
  · rfl

/-- The loss of a capacity port's link (R355, R501). -/
theorem Work.capDown_rec (w : Work) {c : Nat} (p : Nat) (hc : c < 16) (he : (w.ctx c).enable = true) (hv : (w.ctx c).halt.valid = false) :
    (w.homeOn p c = true →
        ((w.capDown p).ctx c).halt.valid = true ∧ ((w.capDown p).ctx c).halt.reason = 0x45 ∧ ((w.capDown p).ctx c).halt.detail = p)
      ∧ (w.homeOn p c = false → ((w.capDown p).ctx c).halt = (w.ctx c).halt) := by
  have hmem : c ∈ contexts := by simp [contexts, hc]
  have hfold := Work.foldl_haltIf_rec (machineRec 0x45 p) (fun v c => v.homeOn p c) (fun v c k _ => Work.halt_homeOn v k _ p c)
    contexts w c List.nodup_range hmem he hv
  rw [Work.capDown_eq]
  generalize contexts.foldl (fun v c => if v.homeOn p c then v.halt c (machineRec 0x45 p) else v) w = v at hfold ⊢
  exact hfold

theorem exec_capacityLinkDown {p : Nat} {s : State} (h : s.fuses.capPorts.getLsbD p = true) :
    ∃ u, exec (.capacityLinkDown p) s = .next u ∧ s.quietly u id
      ∧ ∀ c, c < 16 → (s.work.ctx c).enable = true → (s.work.ctx c).halt.valid = false →
        let on := ∃ e, e ∈ s.dev.residency ∧ e.owner = c ∧ e.state ≠ .free
          ∧ (s.fuses.space e.home = .cap p ∨ (e.newHome ≠ 0 ∧ s.fuses.space e.newHome = .cap p))
        (on → (u.work.ctx c).halt.valid = true ∧ (u.work.ctx c).halt.reason = 0x45 ∧ (u.work.ctx c).halt.detail = p)
        ∧ (¬ on → (u.work.ctx c).halt = (s.work.ctx c).halt) := by
  have hstill := s.work.capDown_still p
  refine ⟨_, exec_finish rfl (if_pos h), State.finish_quietly hstill, fun c hc he hv => ?_⟩
  obtain ⟨hon, hoff⟩ := s.work.capDown_rec p hc he hv
  rw [State.finish_ctx _ _ _ (Work.still_fz hstill)]
  refine ⟨fun h => hon (Work.homeOn_iff.mpr h), fun h => hoff ?_⟩
  exact Bool.eq_false_iff.mpr fun hb => h (Work.homeOn_iff.mp hb)

/-- Settles O58: scrubbing, device faults and the loss of a capacity link, by what each leaves before its halts and by the folds of
halts over the contexts. The sliding day, the block addresses and the detail of a device fault are the model's choices (logs 120, 121,
122 and 149). -/
theorem integrityCompletes : Obligations.IntegrityCompletes := by
  refine ⟨fun n a last r s h => ?_, fun n a last s ht hs => exec_hbmScrub_clean a last ht hs,
    fun n a s ht hs => ⟨exec_hbmScrub_within ht hs, exec_hbmScrub_over ht hs⟩, fun n a last s ht hs => exec_hbmScrub_uncorrectable last ht hs,
    fun k last r s hr => ?_, fun t off last s ho => ?_, fun t off c last s ho he hv => exec_sramScrub_tile off last ho he hv,
    fun a last s => exec_sramScrub_shared a last s, fun a last s => exec_sramScrub_configTable a last s,
    fun n last i reason detail source s h => ?_, fun n s h => ?_, fun s h => ?_, fun s hr hrec => ?_, fun p s h => ?_,
    fun p s h => exec_capacityLinkDown h⟩
  · refine exec_next_dev (v := s.work) rfl (if_pos ?_) rfl rfl
    rcases h with h | h <;> simp [h]
  · cases r with
    | clean => cases last with
      | false => exact exec_next_dev (v := s.work) rfl rfl rfl rfl
      | true => exact exec_next_dev (v := s.work.count Ctr.memScrubPasses 1) rfl rfl rfl rfl
    | corrected => cases last with
      | false => exact exec_next_dev (v := s.work.count Ctr.memSramCorrected 1) rfl rfl rfl rfl
      | true => exact exec_next_dev (v := (s.work.count Ctr.memSramCorrected 1).count Ctr.memScrubPasses 1) rfl rfl rfl rfl
    | uncorrectable => exact absurd rfl hr
  · have hfault : s.work.sramFault (.tile t off) = s.work := by
      show s.work.haltOwner t _ = _
      rw [Work.haltOwner, ho]
    rw [exec_sramScrub_uncorrectable, hfault]
    cases last
    · exact congrArg Host.Outcome.next (State.finish_eq s _ rfl rfl)
    · exact congrArg Host.Outcome.next (State.finish_eq s _ rfl rfl)
  · rcases h with ⟨rfl, rfl, rfl, rfl⟩ | ⟨rfl, rfl, rfl, rfl, hn⟩
    · exact exec_controlFault n last s
    · exact exec_hbmInterfaceFault hn
  · exact exec_next_dev (v := s.work) rfl (if_neg (by simp [h])) rfl rfl
  · exact exec_next_dev (v := s.work.upd fun d => { d with fault := FaultRec.empty }) rfl (if_pos (by simpa using h)) rfl rfl
  · exact exec_next_dev (v := s.work) rfl (if_neg (by simp [hr, hrec])) rfl rfl
  · exact exec_next_dev (v := s.work) rfl (if_neg (by simp [h])) rfl rfl

end Sys2Proof.Machine
end

section
/-!
PROOFS. The input, the limits, the clamps and the reference clocks (R433, R463, R542 to R548, R553), then the sideband and the TAP
(R529, R556). What is still through events and halts decides the power block; the fold of the links that go down decides the links.
Readings, sensor numbers and the answers of the sideband are the model's choices (logs 7, 42, 123, 140 and 149).
-/

namespace Sys2Proof.Machine

/-! ### The power block -/

/-- A change of the power block of meanings that are equal in what is still. -/
theorem Work.still_updPwr {v w : Work} (h : v.still = w.still) (f : Pwr → Pwr) : (v.updPwr f).still = (w.updPwr f).still :=
  congrArg (fun x => (x.1, x.2.1, x.2.2.1, ({ x.2.2.2 with pwr := f x.2.2.2.pwr } : Dev))) h

theorem Work.updPwr_fz (w : Work) (f : Pwr → Pwr) : (w.updPwr f).fz = w.fz := rfl
theorem Work.updPwr_ctx (w : Work) (f : Pwr → Pwr) (c : Nat) : (w.updPwr f).ctx c = w.ctx c := rfl

/-- The contexts and tiles of a module in reset (R433, R515). -/
theorem Work.enterReset_ctx (w : Work) (c : Nat) : (w.enterReset.ctx c).enable = false := by
  show (((tab 16 (Ctx.reset w.fz 0 0))[c]?).getD (Ctx.reset w.fz 0 0 c)).enable = false
  rw [tab, List.getElem?_map]
  cases (List.range 16)[c]? <;> rfl

theorem Work.enterReset_tile (w : Work) {t : Nat} (ht : t < 64) : w.enterReset.tile t = Tile.zeroed := by
  show ((List.replicate 64 Tile.zeroed)[t]?).getD _ = _
  rw [List.getElem?_replicate, if_pos ht, Option.getD_some]

/-- A powered module powers down at PWR_EN_DEASSERT, and when its input falls below 40 V (R543). -/
theorem exec_pwrEnDeassert {s : State} (h : s.dev.pwr.powered = true) :
    exec .pwrEnDeassert s = .next { s with dev := s.work.powerDown.d } := exec_next_dev (v := s.work.powerDown) rfl (if_pos h) rfl rfl

theorem exec_inputUndervoltage_down {mv : Nat} {s : State} (h : s.dev.pwr.powered = true) (hmv : mv < 40000) :
    exec (.inputUndervoltage mv) s = .next { s with dev := s.work.powerDown.d } := by
  refine exec_next_dev (v := s.work.powerDown) rfl ?_ rfl rfl
  rw [if_neg (by simp [h]; omega), if_pos hmv]

/-- An input below 44 V (R543). -/
theorem exec_inputUndervoltage_fault {mv : Nat} {s : State} (h : s.dev.pwr.powered = true) (hlow : 40000 ≤ mv) (hmv : mv < 44000) :
    ∃ u, exec (.inputUndervoltage mv) s = .next u ∧ s.haltsAll u 0x4C 0x70000
      ∧ s.quietly u fun d => { d with sec := d.sec.cutFlash, pwr := { d.pwr with faultHeld := true } } := by
  obtain ⟨w, hw⟩ : ∃ w, w = s.work.upd fun d => { d with sec := d.sec.cutFlash } := ⟨_, rfl⟩
  have hctx (c : Nat) : w.ctx c = s.work.ctx c := by rw [hw]; rfl
  have hexec : exec (.inputUndervoltage mv) s
      = .next (s.finish ((w.deviceFault 0x4C .power 0 0).updPwr fun p => { p with faultHeld := true })) := by
    refine exec_finish rfl ?_
    rw [if_neg (by simp [h]; omega), if_neg (by omega), hw]
  obtain ⟨v, hv⟩ : ∃ v, v = w.deviceFault 0x4C .power 0 0 := ⟨_, rfl⟩
  have hstill : v.still = w.still := by rw [hv]; exact Work.deviceFault_still ..
  have hfz : v.fz = s.fuses := (Work.still_fz hstill).trans (by rw [hw]; rfl)
  have hheld := (Work.still_updPwr hstill fun p => { p with faultHeld := true }).trans
    (show _ = (s.work.upd fun d => { d with sec := d.sec.cutFlash, pwr := { d.pwr with faultHeld := true } }).still by rw [hw]; rfl)
  rw [← hv] at hexec
  refine ⟨_, hexec, State.finish_haltsAll (by rw [Work.updPwr_fz]; exact hfz) fun c hc he hno => ?_, State.finish_quietly hheld⟩
  rw [Work.updPwr_ctx, hv]
  exact Work.deviceFault_rec w 0x4C .power 0 0 c hc (by rw [hctx]; exact he) (by rw [hctx]; exact hno)

/-- A thermal warning changes nothing that is still. -/
theorem Work.warnHot_still (w : Work) (before now : Bool) (source : Nat) (l : List Nat) : (w.warnHot before now source l).still = w.still := by
  unfold Work.warnHot
  split
  · exact Work.deviceEvent_still ..
  · rfl

/-- An event that may be raised changes nothing that is still. -/
theorem Work.ifEvent_still (w : Work) (p : Prop) [Decidable p] (code : Nat) (b : List Byte) :
    (if p then w.deviceEvent code b else w).still = w.still := by
  split
  · exact Work.deviceEvent_still ..
  · rfl

/-- The readings of a window in the power block (R544, R557). -/
def Pwr.reads (p : Pwr) (r : PowerReadings) : Pwr :=
  { p with inputW := r.inputW, inputMv := r.inputMv, tjMax := hottest r.dies, hbmMax := hottest r.hbmStacks, coolantIn := r.coolantIn,
           coolantOut := r.coolantOut }

/-- What the firmware sets at the end of a window: `p` is the block with the readings (R544, R547). -/
def Pwr.governed (p : Pwr) (r : PowerReadings) (cap : Nat) : Pwr :=
  let target := p.nextTarget cap r.inputW (decide (95 ≤ hottest r.dies) || decide (90 ≤ hottest r.hbmStacks))
  { p with
    targetMhz := target, throttleDie := decide (95 ≤ hottest r.dies), throttleHbm := decide (90 ≤ hottest r.hbmStacks),
    coolantWarm := decide (60 ≤ r.coolantOut),
    floorWindows := if p.policyEnable ∧ target = 1250 ∧ cap < r.inputW then p.floorWindows + 1 else 0 }

/-- A window of a module whose firmware is not verified only takes its readings. -/
theorem Work.window_unverified {w : Work} (r : PowerReadings) (h : w.d.sec.fwVerified = false) : w.window r = w.updPwr fun p => p.reads r :=
  if_pos (show (!w.d.sec.fwVerified) = true by rw [h]; rfl)

/-- A window of verified firmware (R544, R547). -/
theorem Work.window_verified {w : Work} (r : PowerReadings) (h : w.d.sec.fwVerified = true) :
    (w.window r).still = (w.updPwr fun p => (p.reads r).governed r w.d.active.powerCap).still := by
  obtain ⟨v, hv⟩ : ∃ v, v = w.updPwr fun p => p.reads r := ⟨_, rfl⟩
  obtain ⟨q, hq⟩ : ∃ q : Pwr, q = (w.d.pwr.reads r).governed r w.d.active.powerCap := ⟨_, rfl⟩
  have hwarn : (((v.warnHot v.d.pwr.throttleDie (decide (95 ≤ hottest r.dies)) 0 r.dies).warnHot v.d.pwr.throttleHbm
      (decide (90 ≤ hottest r.hbmStacks)) 1 r.hbmStacks).warnHot v.d.pwr.coolantWarm (decide (60 ≤ r.coolantOut)) 2 [r.coolantOut]).still
        = v.still := by
    rw [Work.warnHot_still, Work.warnHot_still, Work.warnHot_still]
  have hset := Work.still_updPwr hwarn fun p => { p with
    targetMhz := q.targetMhz, throttleDie := q.throttleDie, throttleHbm := q.throttleHbm, coolantWarm := q.coolantWarm,
    floorWindows := q.floorWindows }
  rw [hv, hq] at hset
  refine (congrArg Work.still (if_neg (show ¬ (!w.d.sec.fwVerified) = true by rw [h]; decide))).trans ?_
  exact (Work.ifEvent_still ..).trans hset

/-- A window after PWR_GOOD. -/
theorem exec_powerWindow {r : PowerReadings} {s : State} (h : s.dev.pwr.good = true) :
    exec (.powerWindow r) s = .next (s.finish (s.work.window r)) := exec_finish rfl (if_pos h)

/-- A trigger of the clamp in the power block (R545). -/
def Pwr.triggered (p : Pwr) (k : ClampTrigger) : Pwr :=
  { p with clampTriggers := if p.clampTriggers.contains k then p.clampTriggers else p.clampTriggers ++ [k], clampHold := false,
           brake := p.brake || decide (k = .brake) }

theorem Pwr.triggered_clamped (p : Pwr) (k : ClampTrigger) : (p.triggered k).clamped = true := by
  have hmem : k ∈ (p.triggered k).clampTriggers := by
    show k ∈ if p.clampTriggers.contains k then p.clampTriggers else p.clampTriggers ++ [k]
    split
    · next h => simpa using h
    · simp
  unfold Pwr.clamped
  cases hl : (p.triggered k).clampTriggers with
  | nil => rw [hl] at hmem; exact absurd hmem List.not_mem_nil
  | cons _ _ => rfl

theorem Work.trigger_still (w : Work) (k : ClampTrigger) : (w.trigger k).still = (w.updPwr fun p => p.triggered k).still := by
  unfold Work.trigger
  dsimp only
  split
  · rw [Work.deviceEvent_still]
    rfl
  · rfl

/-- A trigger after PWR_GOOD (R545). -/
theorem exec_clampTrigger {k : ClampTrigger} {s : State} (h : s.dev.pwr.good = true) :
    ∃ u, exec (.clampTrigger k) s = .next u ∧ u.dev.pwr.clamped = true ∧ s.quietly u fun d => { d with pwr := d.pwr.triggered k } := by
  have hstill := s.work.trigger_still k
  refine ⟨_, exec_finish (v := s.work.trigger k) rfl (if_pos h), ?_, State.finish_quietly hstill⟩
  rw [State.finish_pwr, Work.still_pwr hstill]
  exact Pwr.triggered_clamped ..

/-! ### Trips, lost clocks and the lost host -/

/-- The host port without its link. -/
def Work.lostPort (w : Work) : Work := w.upd fun d => { d with hif := { d.hif with speed := 0, width := 0, flitMode := false, srisActive := false } }

theorem Work.lostPort_still (w : Work) : w.lostPort.still = w.still := rfl
theorem Work.lostPort_ctx (w : Work) (c : Nat) : w.lostPort.ctx c = w.ctx c := rfl

theorem Work.hostLost_eq (w : Work) :
    w.hostLost = (if w.d.pitch.run || w.jobActive then w.haltAll (machineRec 0x61 0xFFFFFFFF) else w).lostPort := rfl

/-- What the loss of the host link leaves as it is (R433). -/
theorem Work.hostLost_still (w : Work) : w.hostLost.still = w.still := by
  rw [Work.hostLost_eq, Work.lostPort_still]
  split
  · exact Work.haltAll_still ..
  · rfl

/-- A lost host link halts every context where the pitch runs or a job is active (R433). -/
theorem Work.hostLost_rec {w : Work} {c : Nat} (h : w.d.pitch.run = true ∨ w.jobActive = true) (hc : c < 16) (he : (w.ctx c).enable = true)
    (hv : (w.ctx c).halt.valid = false) :
    (w.hostLost.ctx c).halt.valid = true ∧ (w.hostLost.ctx c).halt.reason = 0x61 ∧ (w.hostLost.ctx c).halt.detail = 0xFFFFFFFF := by
  rw [Work.hostLost_eq, Work.lostPort_ctx, if_pos (by simpa using h)]
  exact Work.haltAll_machine w 0x61 0xFFFFFFFF hc he hv

/-- The speed and width of a lost host link. -/
theorem Work.hostLost_port (w : Work) : w.hostLost.d.hif.speed = 0 ∧ w.hostLost.d.hif.width = 0 := by
  rw [Work.hostLost_eq]
  exact ⟨rfl, rfl⟩

/-- What links that go down leave as it is, block by block (R463). -/
theorem Work.dropLinks_keeps (ls : List Nat) (w : Work) :
    (w.dropLinks ls).fz = w.fz ∧ (w.dropLinks ls).d.pwr = w.d.pwr ∧ (w.dropLinks ls).d.sec = w.d.sec ∧ (w.dropLinks ls).d.side = w.d.side := by
  have h := w.dropLinks_still ls
  have hfz := Work.still_fz h
  have hpwr := Work.still_pwr h
  have hsec := Work.still_sec h
  have hside := Work.still_side h
  exact ⟨hfz, hpwr, hsec, hside⟩

/-- A thermal trip (R547). -/
def Pwr.tripped (p : Pwr) : Pwr :=
  { p with tripLatched := true, domains := 0, switching := [], queued := [], enableWait := [], thermAlert := true, faultPin := true }

theorem Work.trip_eq (w : Work) (n : Nat) : w.trip n = ((w.deviceFault 0x4B .power n 0).dropLinks (List.range 36)).updPwr Pwr.tripped := rfl

/-- A thermal trip after PWR_GOOD (R547; detail and sensor numbers are the model's choice, logs 123 and 149). -/
theorem exec_thermalTrip {n : Nat} {s : State} (h : s.dev.pwr.good = true) (hlinks : s.dev.links.length = 36) :
    ∃ u, exec (.thermalTrip n) s = .next u ∧ s.haltsAll u 0x4B (0x70000 + n * 2 ^ 24) ∧ u.dev.sec = s.dev.sec
      ∧ u.dev.pwr = s.dev.pwr.tripped
      ∧ ∀ l, l < 36 → (u.work.link l).state
          = if (s.work.link l).state = .up ∨ (s.work.link l).state = .training then .down else (s.work.link l).state := by
  obtain ⟨w, hw⟩ : ∃ w, w = s.work.deviceFault 0x4B .power n 0 := ⟨_, rfl⟩
  have hexec : exec (.thermalTrip n) s = .next (s.finish ((w.dropLinks (List.range 36)).updPwr Pwr.tripped)) := by
    rw [hw]
    exact exec_finish rfl (if_pos h)
  have hwstill : w.still = s.work.still := by rw [hw]; exact Work.deviceFault_still ..
  have hwlinks := Work.still_links hwstill
  obtain ⟨v, hv⟩ : ∃ v, v = w.dropLinks (List.range 36) := ⟨_, rfl⟩
  have hkeeps := w.dropLinks_keeps (List.range 36)
  rw [← hv, Work.still_fz hwstill, Work.still_pwr hwstill, Work.still_sec hwstill] at hkeeps
  obtain ⟨hfz, hpwr, hsec, -⟩ := hkeeps
  rw [← hv] at hexec
  refine ⟨_, hexec, State.finish_haltsAll (by rw [Work.updPwr_fz]; exact hfz) fun c hc he hno => ?_, ?_, ?_, fun l hl => ?_⟩
  · have hrec := Work.deviceFault_rec s.work 0x4B .power n 0 c hc he hno
    rw [← hw] at hrec
    rw [Work.updPwr_ctx, hv, Work.dropLinks_halted _ hrec.1]
    exact hrec
  · rw [State.finish_sec]
    exact hsec
  · rw [State.finish_pwr]
    exact congrArg Pwr.tripped hpwr
  · have hlink : w.link l = s.work.link l := by rw [Work.link, hwlinks]; rfl
    have hdrop := State.finish_dropLinks_link (s := s) (w := w) (ls := List.range 36) List.nodup_range (l := l)
      (by rw [hwlinks]; exact hlinks ▸ hl)
    rw [State.finish_link, ← hv, hlink] at hdrop
    rw [State.finish_link]
    simp only [List.mem_range, hl, true_and] at hdrop
    exact hdrop

/-- A meaning with a reference clock marked as lost. -/
def Work.refGone (w : Work) (i : Nat) : Work := w.updPwr fun p => { p with refPresent := p.refPresent &&& ~~~(BitVec.ofNat 7 (2 ^ i)) }

/-- The links of a connector (R463, R548). -/
theorem mem_connector {n l : Nat} : l ∈ (List.range 12).map (fun i => 12 * n + i) ↔ l / 12 = n := by
  rw [List.mem_map]
  constructor
  · rintro ⟨i, hi, rfl⟩
    have := List.mem_range.mp hi
    omega
  · intro h
    exact ⟨l % 12, List.mem_range.mpr (by omega), by omega⟩

/-- The loss of a link reference (R548). -/
theorem exec_refclkLoss_link {n : Nat} {s : State} (hn : n < 3) (hlinks : s.dev.links.length = 36) :
    ∃ u, exec (.refclkLoss (.link n)) s = .next u ∧ ∀ l, l < 36 → (u.work.link l).state
          = if l / 12 = n ∧ ((s.work.link l).state = .up ∨ (s.work.link l).state = .training) then .down else (s.work.link l).state := by
  have hnodup : ((List.range 12).map fun i => 12 * n + i).Nodup := List.nodup_range.map fun a b h => by simpa using h
  refine ⟨_, exec_finish (v := (s.work.refGone (2 + n)).dropLinks ((List.range 12).map fun i => 12 * n + i)) rfl (if_pos hn), fun l hl => ?_⟩
  rw [State.finish_dropLinks_link hnodup (hlinks ▸ hl : l < s.dev.links.length)]
  simp only [mem_connector]
  rfl

/-- The loss of the core reference (R548). -/
theorem exec_refclkLoss_core (s : State) : ∃ u, exec (.refclkLoss .core) s = .next u ∧ s.haltsAll u 0x4C 0x2070000
      ∧ s.quietly u fun d => { d with pwr := { d.pwr with refPresent := d.pwr.refPresent &&& ~~~1#7 } } := by
  have hstill := Work.deviceFault_still (s.work.refGone 0) 0x4C .power 2 0
  refine ⟨_, exec_finish (v := (s.work.refGone 0).deviceFault 0x4C .power 2 0) rfl rfl, State.finish_haltsAll (Work.still_fz hstill)
    fun c hc he hv => ?_, State.finish_quietly (hstill.trans rfl)⟩
  exact Work.deviceFault_rec (s.work.refGone 0) 0x4C .power 2 0 c hc he hv

/-- The loss of the host reference (R433, R548). -/
theorem exec_refclkLoss_host (s : State) : ∃ u, exec (.refclkLoss .host) s = .next u ∧ u.dev.hif.width = 0 ∧ u.dev.hif.speed = 0
      ∧ (s.dev.pitch.run = true → s.haltsAll u 0x61 0xFFFFFFFF)
      ∧ s.quietly u fun d => { d with pwr := { d.pwr with refPresent := d.pwr.refPresent &&& ~~~2#7 } } := by
  have hstill := (s.work.refGone 1).hostLost_still
  obtain ⟨hspeed, hwidth⟩ := (s.work.refGone 1).hostLost_port
  refine ⟨_, exec_finish (v := (s.work.refGone 1).hostLost) rfl rfl, ?_, ?_, fun hrun => State.finish_haltsAll (Work.still_fz hstill)
    fun c hc he hv => ?_, State.finish_quietly (hstill.trans rfl)⟩
  · rw [State.finish_hif, hwidth]
  · rw [State.finish_hif, hspeed]
  · exact Work.hostLost_rec (w := s.work.refGone 1) (.inl hrun) hc he hv

/-- The loss of a capacity reference (R355, R548). -/
theorem exec_refclkLoss_cap {p c : Nat} {e : ResEntry} {s : State} (hp : p < 2) (hport : s.fuses.capPorts.getLsbD p = true) (hc : c < 16)
    (he : (s.work.ctx c).enable = true) (hv : (s.work.ctx c).halt.valid = false) (hmem : e ∈ s.dev.residency) (howner : e.owner = c)
    (hstate : e.state ≠ .free) (hhome : s.fuses.space e.home = .cap p) :
    ∃ u, exec (.refclkLoss (.cap p)) s = .next u ∧ u.haltedWith c 0x45 ∧ (u.work.ctx c).halt.detail = p := by
  have hstill := (s.work.refGone (5 + p)).capDown_still p
  have hon : (s.work.refGone (5 + p)).homeOn p c = true := Work.homeOn_iff.mpr ⟨e, hmem, howner, hstate, .inl hhome⟩
  obtain ⟨hvalid, hreason, hdetail⟩ := ((s.work.refGone (5 + p)).capDown_rec p hc he hv).1 hon
  refine ⟨_, exec_finish (v := (s.work.refGone (5 + p)).capDown p) rfl (if_pos ⟨hp, hport⟩), ?_⟩
  unfold State.haltedWith
  rw [State.finish_ctx _ _ _ (Work.still_fz hstill)]
  exact ⟨⟨hvalid, hreason⟩, hdetail⟩

/-- Settles O46: the power block by what stays still through events and halts, the links by the fold of those that go down. 0x4B is
THERMAL_TRIP in R547; sensors and details are the model's choices (logs 123 and 149). -/
theorem powerLimitsComplete : Obligations.PowerLimitsComplete := by
  refine ⟨fun s h => ?_, fun s h => ?_, fun s h => ?_, fun mv s h hmv => ?_, fun mv s h hlow hmv => exec_inputUndervoltage_fault h hlow hmv,
    fun mv s h => ?_, fun r s h => ?_, fun r s h hv => ?_, fun r s h hv => ?_, fun k s h => ?_, fun k s h => exec_clampTrigger h,
    fun k s h => ?_, fun k s h => ?_, fun s h => ?_, fun s h => ?_, fun s h => ?_, fun s hp hcur => ?_, fun n s h hl => exec_thermalTrip h hl,
    exec_refclkLoss_core, exec_refclkLoss_host, fun n s hn hl => exec_refclkLoss_link hn hl,
    fun p c e s hp hport hc he hv hmem howner hst hhome => exec_refclkLoss_cap hp hport hc he hv hmem howner hst hhome⟩
  · exact exec_next_dev (v := s.work) rfl (if_pos h) rfl rfl
  · exact ⟨_, exec_next_dev (v := s.work.enterReset.updPwr fun p => { p with powered := true, good := true, domains := 0 }) rfl
      (if_neg (by simp [h])) rfl rfl, rfl, rfl, rfl, rfl, rfl, rfl, rfl⟩
  · exact exec_next_dev (v := s.work) rfl (if_neg (by simp [h])) rfl rfl
  · exact ⟨_, exec_pwrEnDeassert h, exec_inputUndervoltage_down h hmv, rfl, rfl, rfl, rfl, rfl, rfl, rfl, s.work.enterReset_ctx,
      fun t ht => s.work.enterReset_tile ht⟩
  · refine exec_next_dev (v := s.work) rfl (if_pos ?_) rfl rfl
    rcases h with h | h <;> simp [h]
  · exact exec_next_dev (v := s.work) rfl (if_neg (by simp [h])) rfl rfl
  · rw [exec_powerWindow h, Work.window_unverified r hv]
    exact congrArg Host.Outcome.next (State.finish_eq s _ rfl rfl)
  · exact ⟨_, exec_powerWindow h, State.finish_quietly (Work.window_verified r hv)⟩
  · exact exec_next_dev (v := s.work) rfl (if_neg (by simp [h])) rfl rfl
  · exact exec_next_dev (v := s.work.updPwr fun p =>
      let left := p.clampTriggers.filter fun x => x != k
      { p with clampTriggers := left, clampHold := left.isEmpty, brake := p.brake && decide (k ≠ .brake) }) rfl (if_neg (by simp only [State.work_d, h]; decide)) rfl rfl
  · exact exec_next_dev (v := s.work) rfl (if_pos (by simp only [State.work_d, h]; decide)) rfl rfl
  · refine (exec_next_dev (v := s.work.updPwr fun p => { p with clampHold := p.clampHold && !p.clampTriggers.isEmpty }) rfl rfl rfl rfl).trans ?_
    show Host.Outcome.next (s.withPwr fun p => { p with clampHold := p.clampHold && !p.clampTriggers.isEmpty }) = _
    simp only [State.withPwr, h, List.isEmpty_nil, Bool.not_true, Bool.and_false]
  · refine (exec_next_dev (v := s.work.updPwr fun p => { p with clampHold := p.clampHold && !p.clampTriggers.isEmpty }) rfl rfl rfl rfl).trans ?_
    have hsome : s.dev.pwr.clampTriggers.isEmpty = false := by simpa using h
    show Host.Outcome.next (s.withPwr fun p => { p with clampHold := p.clampHold && !p.clampTriggers.isEmpty }) = _
    simp only [State.withPwr, hsome, Bool.not_false, Bool.and_true]
  · have hstill := Work.deviceFault_still s.work 0x4C .power 1 0
    refine ⟨_, exec_finish (v := s.work.deviceFault 0x4C .power 1 0) rfl (if_pos ?_), State.finish_haltsAll (Work.still_fz hstill)
      fun c hc he hv => Work.deviceFault_rec s.work 0x4C .power 1 0 c hc he hv, State.finish_quietly hstill⟩
    rw [Bool.or_eq_true]
    exact h
  · exact exec_next_dev (v := s.work) rfl (if_neg (by simp only [State.work_d, hp, hcur]; decide)) rfl rfl

/-! ### The sideband -/

/-- The sensors whose limits a new reading crosses (R556). -/
def Side.crossed (x y : Side) (id : Nat) : Bool :=
  match x.sensor id, y.sensor id with
  | some a, some b => (sensorLimits id).any fun l => decide (l ≤ a) != decide (l ≤ b)
  | _, _ => false

theorem Side.crossed_iff {x y : Side} {id : Nat} :
    x.crossed y id = true ↔ ∃ a b, x.sensor id = some a ∧ y.sensor id = some b ∧ ∃ t, t ∈ sensorLimits id ∧ ¬ (t ≤ a ↔ t ≤ b) := by
  unfold Side.crossed
  cases hx : x.sensor id with
  | none => simp
  | some a =>
    cases hy : y.sensor id with
    | none => simp
    | some b => simp [List.any_eq_true, decide_eq_decide]

/-- The readings of an update in the sideband block. -/
def Side.reads (x : Side) (r : PowerReadings) (mhz : Nat) : Side := { x with pldmSensors := r, pldmCoreMhz := mhz }

theorem Side.update_eq (x : Side) (r : PowerReadings) (mhz : Nat) :
    x.update r mhz = { x.reads r mhz with
      pldmAlerts := x.pldmAlerts ++ (List.range 20).filter fun id => x.crossed (x.reads r mhz) id } := rfl

/-- PLDM_SENSOR_UPDATE after PWR_GOOD (R556; which sensor has which limits is the model's choice, log 42). -/
theorem exec_pldmSensorUpdate {r : PowerReadings} {s : State} (h : s.dev.pwr.good = true) :
    ∃ l, exec (.pldmSensorUpdate r) s = .next (s.withSide fun x =>
        { x with pldmSensors := r, pldmCoreMhz := s.dev.pwr.coreMhz, pldmAlerts := x.pldmAlerts ++ l })
      ∧ ∀ id, id ∈ l ↔ id < 20 ∧ ∃ a b, s.dev.side.sensor id = some a
          ∧ ({ s.dev.side with pldmSensors := r, pldmCoreMhz := s.dev.pwr.coreMhz } : Side).sensor id = some b
          ∧ ∃ t, t ∈ sensorLimits id ∧ ¬ (t ≤ a ↔ t ≤ b) := by
  refine ⟨(List.range 20).filter fun id => s.dev.side.crossed (s.dev.side.reads r s.dev.pwr.coreMhz) id, ?_, fun id => ?_⟩
  · exact exec_next_dev (v := s.work.upd fun d => { d with side := d.side.update r d.pwr.coreMhz }) rfl (if_pos h) rfl rfl
  · rw [List.mem_filter, List.mem_range, Side.crossed_iff]
    rfl

/-- A leak (R553). -/
theorem exec_leakDet (s : State) :
    ∃ u, exec .leakDet s = .next u ∧ s.quietly u fun d => { d with side := { d.side with leak := true } } := by
  have hstill := Work.deviceEvent_still (s.work.upd fun d => { d with side := { d.side with leak := true } }) 0x0072
    (leBytes 1 3 ++ leBytes 1 0 ++ leBytes 1 0)
  exact ⟨_, exec_finish rfl rfl, State.finish_quietly hstill⟩

/-! ### The TAP -/

/-- The rate and width of the host port. -/
def Work.port (w : Work) : Nat × Nat := (w.d.hif.speed, w.d.hif.width)

/-- A message to the host changes neither. -/
theorem Work.msix_port (w : Work) (fn n : Nat) : (w.msix fn n).port = w.port := by
  unfold Work.msix Work.port
  dsimp only [Work.upd]
  split <;> rfl

theorem Work.halt_port (w : Work) (c : Nat) (r : HaltRec) : (w.halt c r).port = w.port :=
  Work.halt_aside (p := Work.port) (fun _ _ _ => rfl) (fun _ _ _ _ => rfl) (fun _ _ _ _ => rfl) (fun _ _ _ => rfl) Work.msix_port
    (fun _ _ _ => rfl) (fun _ _ => rfl) (fun _ => rfl) w c r

/-- Links that go down leave the host port as it is. -/
theorem Work.dropLinks_port (ls : List Nat) (w : Work) : (w.dropLinks ls).port = w.port := by
  have hdown (v : Work) (l : Nat) : (v.linkDown l .down).port = v.port := by
    have hfold (cs : List Nat) (q : Work → Nat → Bool) (r : HaltRec) (u : Work) :
        (cs.foldl (fun u a => if q u a then u.halt a r else u) u).port = u.port := by
      refine Work.foldl_keeps Work.port _ (fun u c => ?_) cs u
      split
      · exact Work.halt_port ..
      · rfl
    unfold Work.linkDown
    dsimp only
    split
    · exact hfold contexts (fun u a => (match (u.ctx a).job with | some j => j.machine && decide ((u.ctx a).state = .running) | none => false)
        || (v.link l).outstanding.contains a) (machineRec 0x61 l) (v.updLink l fun k => k.down .down)
    · rfl
  refine Work.foldl_keeps Work.port _ (fun v l => ?_) ls w
  split
  · exact hdown ..
  · rfl

/-- A job state is active or not by the contexts alone. -/
theorem Work.jobActive_congr {v w : Work} (h : ∀ c, v.ctx c = w.ctx c) : v.jobActive = w.jobActive := by
  unfold Work.jobActive
  simp only [h]

/-- The pins taken from the core: what stands before the links go down (R529). -/
def Work.pinsTaken (w : Work) (t : TapInstr) : Work := w.upd fun d => { d with side := { d.side with tap := t, pinsTaken := true } }

theorem Work.pinsTaken_reads (w : Work) (t : TapInstr) : (∀ c, (w.pinsTaken t).ctx c = w.ctx c) ∧ (w.pinsTaken t).d.pitch = w.d.pitch
    ∧ (w.pinsTaken t).fz = w.fz ∧ (w.pinsTaken t).d.sec = w.d.sec ∧ (w.pinsTaken t).d.pwr = w.d.pwr ∧ (w.pinsTaken t).d.links = w.d.links
    ∧ (w.pinsTaken t).d.side = { w.d.side with tap := t, pinsTaken := true } := ⟨fun _ => rfl, rfl, rfl, rfl, rfl, rfl, rfl⟩

theorem Work.tapTake_eq (w : Work) (t : TapInstr) : w.tapTake t = (w.pinsTaken t).hostLost.dropLinks (List.range 36) := rfl

/-- An instruction that takes the pins from the core (R433, R463, R529). -/
theorem exec_tapTake {i : Instr} {t : TapInstr} {s : State} (hexec : exec i s = .next (s.finish (s.work.tapTake t)))
    (hlinks : s.dev.links.length = 36) :
    ∃ u, exec i s = .next u ∧ u.fuses = s.fuses ∧ u.dev.sec = s.dev.sec ∧ u.dev.pwr = s.dev.pwr
      ∧ u.dev.side = { s.dev.side with tap := t, pinsTaken := true } ∧ u.dev.hif.speed = 0 ∧ u.dev.hif.width = 0
      ∧ (s.dev.pitch.run = true ∨ s.work.jobActive = true → s.haltsAll u 0x61 0xFFFFFFFF)
      ∧ ∀ l, l < 36 → (u.work.link l).state
          = if (s.work.link l).state = .up ∨ (s.work.link l).state = .training then .down else (s.work.link l).state := by
  obtain ⟨hctx, hpitch, hfz, hsec, hpwr, hlk, hside⟩ := s.work.pinsTaken_reads t
  obtain ⟨v, hv⟩ : ∃ v, v = s.work.pinsTaken t := ⟨_, rfl⟩
  rw [← hv] at hctx hpitch hfz hsec hpwr hlk hside
  have hlost := v.hostLost_still
  obtain ⟨hspeed, hwidth⟩ := v.hostLost_port
  have hactive := Work.jobActive_congr hctx
  have hrec {c : Nat} (h : s.dev.pitch.run = true ∨ s.work.jobActive = true) (hc : c < 16) (he : (s.work.ctx c).enable = true)
      (hno : (s.work.ctx c).halt.valid = false) := Work.hostLost_rec (w := v) (c := c) (by rw [hpitch, hactive]; exact h) hc
      (by rw [hctx]; exact he) (by rw [hctx]; exact hno)
  obtain ⟨w, hw⟩ : ∃ w, w = v.hostLost := ⟨_, rfl⟩
  rw [Work.tapTake_eq, ← hv, ← hw] at hexec
  rw [← hw] at hlost hspeed hwidth hrec
  have hwlinks : w.d.links = s.dev.links := (Work.still_links hlost).trans hlk
  have hkeeps := w.dropLinks_keeps (List.range 36)
  rw [Work.still_fz hlost, Work.still_pwr hlost, Work.still_sec hlost, Work.still_side hlost, hfz, hpwr, hsec, hside] at hkeeps
  obtain ⟨hufz, hupwr, husec, huside⟩ := hkeeps
  obtain ⟨huspeed, huwidth⟩ := Prod.mk.inj (w.dropLinks_port (List.range 36))
  refine ⟨_, hexec, State.finish_fuses _ _, ?_, ?_, ?_, ?_, ?_, fun hrun => State.finish_haltsAll hufz fun c hc he hno => ?_, fun l hl => ?_⟩
  · rw [State.finish_sec]
    exact husec
  · rw [State.finish_pwr]
    exact hupwr
  · rw [State.finish_side]
    exact huside
  · rw [State.finish_hif]
    exact huspeed.trans hspeed
  · rw [State.finish_hif]
    exact huwidth.trans hwidth
  · have hhalt := hrec hrun hc he hno
    rw [Work.dropLinks_halted _ hhalt.1]
    exact hhalt
  · have hlink : w.link l = s.work.link l := by rw [Work.link, hwlinks]; rfl
    have hdrop := State.finish_dropLinks_link (s := s) (w := w) (ls := List.range 36) List.nodup_range (l := l)
      (by rw [hwlinks]; exact hlinks ▸ hl)
    rw [hlink] at hdrop
    simpa only [List.mem_range, hl, true_and] using hdrop

/-- Settles O47: requests, addresses and updates by evaluation, the leak by what an event leaves still, and an instruction that takes the
pins by what a lost host port and links that go down leave. What PLDM answers, the sensors' limits and the bits that open a guarded
instruction are the model's choices (logs 7, 42 and 140). -/
theorem sidebandCompletes : Obligations.SidebandCompletes := by
  refine ⟨fun q a r s h => ⟨?_, ?_, ?_⟩, fun q s h => ?_, fun id v s h => ?_, fun a s h => ?_, fun r s h => exec_pldmSensorUpdate h,
    exec_leakDet, fun s => ⟨?_, ?_, ?_, ?_⟩, fun i t s hl hi => ?_, fun k s h => ?_⟩
  · exact exec_next_dev (v := s.work) rfl (if_neg (by simp [h])) rfl rfl
  · exact exec_next_dev (v := s.work) rfl (if_neg (by simp [h])) rfl rfl
  · exact exec_next_dev (v := s.work) rfl (if_neg (by simp [h])) rfl rfl
  · exact exec_next_dev (v := s.work.upd fun d => { d with side := { d.side with pldmOut := d.side.pldmOut ++ [s.work.pldmAnswer q] } }) rfl
      (if_pos h) rfl rfl
  · unfold Work.pldmAnswer
    rw [State.work_d]
    dsimp only
    rw [h]
  · exact exec_next_dev (v := s.work.upd fun d => { d with side := { d.side with i3cDynamic := some a } }) rfl (if_pos h) rfl rfl
  · exact exec_next_dev (v := s.work.tapSelect .bypass) rfl rfl rfl rfl
  · exact exec_next_dev (v := s.work.tapSelect .idcode) rfl rfl rfl rfl
  · exact exec_next_dev (v := s.work.tapSelect .samplePreload) rfl rfl rfl rfl
  · exact exec_next_dev (v := s.work.tapSelect .idcode) rfl rfl rfl rfl
  · simp only [List.mem_cons, Prod.mk.injEq, List.not_mem_nil, or_false] at hi
    rcases hi with ⟨rfl, rfl⟩ | ⟨rfl, rfl⟩ | ⟨rfl, rfl⟩ | ⟨rfl, rfl⟩
    · exact exec_tapTake (exec_finish rfl rfl) hl
    · exact exec_tapTake (exec_finish rfl rfl) hl
    · exact exec_tapTake (exec_finish rfl rfl) hl
    · exact exec_tapTake (exec_finish rfl rfl) hl
  · rw [exec_tapPrivateInstruction, if_neg]
    rcases h with h | h <;> simp [h]

end Sys2Proof.Machine
end

section
/-!
PROOFS. The haul actions of a stream and the host's REGISTER (R356, R357, R363 to R368). A stream's action is its rule run for the
stream's issuer; a transition of a resident object is the change of its entry, then its copy. An action of an issuer that cannot act is no
action, and which descriptor can start is the model's choice (log 10).
-/

namespace Sys2Proof.Machine

/-! ### Issuers -/

/-- The issuer of a stream's haul actions. -/
def Work.streamIssuer (w : Work) (r : StreamRef) : Issuer :=
  { ctx := r.ctx, ref := some r, desc := none, queue := (w.ctx r.ctx).queueOf r.stream }

/-- A haul action of an active context's stream. -/
theorem Work.haul_stream {w : Work} {r : StreamRef} (action : Nat) (own : HaulArgs) (f : Work → Issuer → HaulArgs → Work)
    (h : (w.ctx r.ctx).active = true) : w.haul (.stream r) action own f = f w (w.streamIssuer r) own := by
  have hi : w.issuer (.stream r) action = some (w.streamIssuer r) := if_pos h
  rw [Work.haul, hi]
  rfl

/-- A haul action without an issuer. -/
theorem Work.haul_none {w : Work} {h : HaulFrom} {action : Nat} (own : HaulArgs) (f : Work → Issuer → HaulArgs → Work)
    (hi : w.issuer h action = none) : w.haul h action own f = w := by
  rw [Work.haul, hi]

/-- A halt of a stream's issuer. -/
theorem Work.haltIssuer_stream (w v : Work) (r : StreamRef) (reason detail : Nat) :
    w.haltIssuer (v.streamIssuer r) reason detail = w.haltStream r 5 reason detail := rfl

/-- A command without effect. -/
theorem exec_idle {i : Instr} {s : State} {f : Work → Work} (h : exec i s = .next (s.exec f)) (e : f s.work = s.work) : exec i s = .next s :=
  exec_next_dev h e rfl rfl

section
variable {s : State} {r : StreamRef} (hactive : (s.work.ctx r.ctx).active = true)
include hactive

theorem exec_register_stream (a b len n : Nat) (ev : Bool) :
    exec (.register (.stream r) a b len n ev) s = .next (s.finish (s.work.register (s.work.streamIssuer r) a b len n ev)) :=
  exec_finish rfl (Work.haul_stream _ _ _ hactive)

theorem exec_install_stream (a b : Nat) (src : HaulSrc) (len n k : Nat) :
    exec (.install (.stream r) a b src len n k) s = .next (s.finish (s.work.install (s.work.streamIssuer r) a b src len n k)) :=
  exec_finish rfl (Work.haul_stream _ _ _ hactive)

theorem exec_move_stream (a b k : Nat) :
    exec (.move (.stream r) a b k) s = .next (s.finish (s.work.transition (s.work.streamIssuer r) a 2 b (.loc 0) k)) :=
  exec_finish rfl (Work.haul_stream _ _ _ hactive)

theorem exec_replace_stream (a b : Nat) (src : HaulSrc) (k : Nat) :
    exec (.replace (.stream r) a b src k) s = .next (s.finish (s.work.transition (s.work.streamIssuer r) a 3 b src k)) :=
  exec_finish rfl (Work.haul_stream _ _ _ hactive)

theorem exec_release_stream (a k : Nat) :
    exec (.release (.stream r) a k) s = .next (s.finish (s.work.transition (s.work.streamIssuer r) a 4 0 (.loc 0) k)) :=
  exec_finish rfl (Work.haul_stream _ _ _ hactive)

/-- STAGE and COPY. -/
theorem exec_plainCopy_stream (stage : Bool) (src : HaulSrc) (b len : Nat) :
    exec (if stage then .stage (.stream r) src b len else .copy (.stream r) src b len) s
      = .next (s.finish (s.work.plainCopy (s.work.streamIssuer r) stage src b len)) := by
  cases stage
  · exact exec_finish rfl (Work.haul_stream _ _ _ hactive)
  · exact exec_finish rfl (Work.haul_stream _ _ _ hactive)

theorem exec_residencyQuery_stream (a b : Nat) :
    exec (.residencyQuery (.stream r) a b) s = .next (s.finish (s.work.query (s.work.streamIssuer r) a b)) :=
  exec_finish rfl (Work.haul_stream _ _ _ hactive)

end

/-! ### The rules of each action -/

section
variable {w : Work} {r : StreamRef}

/-- A stream's context without an open replay section stands in none (R304). -/
theorem Work.inSection_stream (v : Work) : w.inSection (v.streamIssuer r) = (w.ctx r.ctx).replay.isSome := Bool.true_and _

/-- What each transition does before its checks (R304, R371). -/
theorem Work.transition_section (a action b : Nat) (src : HaulSrc) (k : Nat) (h : (w.ctx r.ctx).replay.isSome = true) :
    w.transition (w.streamIssuer r) a action b src k = w.haltStream r 5 0x83 0 := if_pos ((Work.inSection_stream w).trans h)

theorem Work.install_section (a b : Nat) (src : HaulSrc) (len n k : Nat) (h : (w.ctx r.ctx).replay.isSome = true) :
    w.install (w.streamIssuer r) a b src len n k = w.haltStream r 5 0x83 0 := if_pos ((Work.inSection_stream w).trans h)

variable (hreplay : (w.ctx r.ctx).replay = none)

theorem Work.not_inSection (h : (w.ctx r.ctx).replay = none) : ¬ w.inSection (w.streamIssuer r) = true := by
  rw [Work.inSection_stream, h]
  decide

include hreplay in
theorem Work.transition_barred (a action b : Nat) (src : HaulSrc) (k : Nat) (h : w.haulAllowed r.ctx = false) :
    w.transition (w.streamIssuer r) a action b src k = w.haltStream r 5 0x43 4 :=
  (if_neg (Work.not_inSection hreplay)).trans (if_pos (show (!w.haulAllowed r.ctx) = true by rw [h]; rfl))

include hreplay in
theorem Work.install_barred (a b : Nat) (src : HaulSrc) (len n k : Nat) (h : w.haulAllowed r.ctx = false) :
    w.install (w.streamIssuer r) a b src len n k = w.haltStream r 5 0x43 4 :=
  (if_neg (Work.not_inSection hreplay)).trans (if_pos (show (!w.haulAllowed r.ctx) = true by rw [h]; rfl))

theorem Work.register_barred (a b len n : Nat) (ev : Bool) (h : w.haulAllowed r.ctx = false) :
    w.register (w.streamIssuer r) a b len n ev = w.haltStream r 5 0x43 4 := if_pos (show (!w.haulAllowed r.ctx) = true by rw [h]; rfl)

theorem Work.plainCopy_barred (stage : Bool) (src : HaulSrc) (b len : Nat) (h : w.haulAllowed r.ctx = false) :
    w.plainCopy (w.streamIssuer r) stage src b len = w.haltStream r 5 0x43 4 := if_pos (show (!w.haulAllowed r.ctx) = true by rw [h]; rfl)

theorem Work.query_barred (a b : Nat) (h : w.haulAllowed r.ctx = false) :
    w.query (w.streamIssuer r) a b = w.haltStream r 5 0x43 4 := if_pos (show (!w.haulAllowed r.ctx) = true by rw [h]; rfl)

/-- REGISTER past its checks of allowance and numbers, of any issuer (R364). -/
theorem Work.register_checked {i : Issuer} {h home len : Nat} (readers : Nat) (ev : Bool) (hallow : w.haulAllowed i.ctx = true)
    (howns : ownsHandle i.ctx h = true) (hnum : badNumbers home len 0 true false = false) :
    w.register i h home len readers ev = (match w.homeFault i.ctx h home len (w.obj h).isSome with
      | some (r, a) => w.haltIssuer i r a
      | none => (w.upd fun d =>
          { d with residency := d.residency ++ [Machine.newEntry i.ctx h home len readers ev .resident d.nowNs] }).finishIssuer i) := by
  unfold Work.register
  dsimp only
  rw [if_neg (by simp [hallow]), if_neg (by simp [howns, hnum])] <;> rfl

/-- A transition as a stream's action gives it. -/
def streamTransition (r : StreamRef) (action home : Nat) (src : HaulSrc) (k : Nat) : Transition :=
  { action := action, ctx := r.ctx, newHome := home, source := src, k := k, host := false, descs := [], ref := some r }

/-- INSTALL past all its checks (R364). -/
theorem Work.install_checked {h home len k : Nat} {src : HaulSrc} (readers : Nat) (hreplay : (w.ctx r.ctx).replay = none)
    (hallow : w.haulAllowed r.ctx = true) (howns : ownsHandle r.ctx h = true) (hnum : badNumbers home len k true true = false)
    (hfault : ((w.homeFault r.ctx h home len (w.obj h).isSome).or (w.sourceFault r.ctx src len)).or (w.capTagFault r.ctx home) = none) :
    w.install (w.streamIssuer r) h home src len readers k
      = (w.upd fun d => { d with residency := d.residency ++ [Machine.newEntry r.ctx h 0 len readers false .installing d.nowNs] }).begin h
          (streamTransition r 1 home src k) := by
  unfold Work.install
  rw [if_neg (Work.not_inSection hreplay)]
  dsimp only [Work.streamIssuer]
  simp only [hallow, howns, hnum, hfault, Bool.not_true, Bool.or_self, Bool.false_eq_true, if_false]
  rfl

/-- A transition past its checks of allowance and numbers, by the object (R364). -/
theorem Work.transition_obj {h home k action : Nat} {src : HaulSrc} (hreplay : (w.ctx r.ctx).replay = none)
    (hallow : w.haulAllowed r.ctx = true) (hnum : badNumbers home 0 k false true = false) :
    (w.obj h = none → w.transition (w.streamIssuer r) h action home src k = w.haltStream r 5 0x48 h)
    ∧ ∀ e, w.obj h = some e → (if action = 2 then e.owner == r.ctx || e.readers.getLsbD r.ctx else e.owner == r.ctx) = true →
      (w.meet e action home = .conflicts → w.transition (w.streamIssuer r) h action home src k = w.haltStream r 5 0x46 h)
      ∧ ((action = 4 ∨ (w.homeFault r.ctx h home e.length false = none ∧ (action = 3 → w.sourceFault r.ctx src e.length = none)
            ∧ w.capTagFault r.ctx home = none)) → w.meet e action home ≠ .conflicts →
          w.transition (w.streamIssuer r) h action home src k = w.takeUp h e (streamTransition r action home src k)) := by
  have hstart : w.transition (w.streamIssuer r) h action home src k = (match w.obj h with
      | none => w.haltStream r 5 0x48 h
      | some e =>
        if (!(if action = 2 then e.owner == r.ctx || e.readers.getLsbD r.ctx else e.owner == r.ctx)) = true then w.haltStream r 5 0x48 h
        else if decide (w.meet e action home = .conflicts) = true then w.haltStream r 5 0x46 h
        else match (if (decide (w.meet e action home = .joinsRunning) || decide (w.meet e action home = .joinsWaiting)) || action == 4 then none
          else match w.homeFault r.ctx h home e.length false with
            | some f => some f
            | none => (if action = 3 then w.sourceFault r.ctx src e.length else none).or (w.capTagFault r.ctx home) : Option (Nat × Nat)) with
        | some (a, b) => w.haltStream r 5 a b
        | none => w.takeUp h e (streamTransition r action home src k)) := by
    unfold Work.transition
    rw [if_neg (Work.not_inSection hreplay)]
    dsimp only
    rw [if_neg (by simp [Work.streamIssuer, hallow]), if_neg (by simp [hnum])]
    rfl
  refine ⟨fun hobj => by rw [hstart, hobj], fun e hobj hmay => ⟨fun hmeet => ?_, fun hfault hmeet => ?_⟩⟩
  · rw [hstart, hobj]
    dsimp only
    rw [if_neg (by rw [hmay]; decide), if_pos (by simp [hmeet])]
  · rw [hstart, hobj]
    dsimp only
    rw [if_neg (by rw [hmay]; decide), if_neg (by simp [hmeet])]
    rcases hfault with rfl | ⟨hhome, hsrc, hcap⟩
    · simp
    · have hor : (if action = 3 then w.sourceFault r.ctx src e.length else none).or (w.capTagFault r.ctx home) = none := by
        rw [hcap]
        by_cases h3 : action = 3
        · rw [if_pos h3, hsrc h3]; rfl
        · rw [if_neg h3]; rfl
      rw [hhome]
      dsimp only
      rw [hor]
      simp

end

/-! ### Copies and transitions -/

/-- A copy from this device put in flight (R376). -/
theorem Work.startCopy_local {w : Work} {k : HaulCopy} (h : (w.localSource k.source).isSome = true) :
    w.startCopy k = w.upd fun d => { d with copies := d.copies ++ [{ k with id := d.nextId }], nextId := d.nextId + 1 } := by
  obtain ⟨a, ha⟩ := Option.isSome_iff_exists.mp h
  have hsrc : ((w.fresh.2).upd fun d => { d with copies := d.copies ++ [{ k with id := w.fresh.1 }] }).localSource k.source = some a := ha
  unfold Work.startCopy
  dsimp only
  rw [hsrc]
  rfl

/-- The copy of a stream's STAGE or COPY (R367). -/
def plainCopyOf (r : StreamRef) (stage : Bool) (src : HaulSrc) (dest len due : Nat) : HaulCopy :=
  { id := 0, ctx := r.ctx, source := src, dest := dest, length := len, handle := none, queue := none, ref := some r, stage := stage,
    host := false, desc := none, dueTick := due }

/-- The state that a copy from this device, and a change of the residency table before it, leave. -/
theorem State.finish_hauled (s : State) {v : Work} {rs : List ResEntry} {k : HaulCopy}
    (hv : v = s.work.upd fun d => { d with residency := rs }) (hsrc : (s.work.localSource k.source).isSome = true) :
    s.finish (v.startCopy k) = s.hauled rs k := by
  have hlocal : (v.localSource k.source).isSome = true := by rw [hv]; exact hsrc
  rw [Work.startCopy_local hlocal, hv]
  exact State.finish_eq s _ rfl rfl

/-- A transition in the table (R363, R365). -/
def Transition.enter (t : Transition) (due : Nat) (e : ResEntry) : ResEntry :=
  { e with
    state := actionState t.action, newHome := if t.action = 4 then 0 else t.newHome, newCharged := t.ctx, commitTick := due,
    host := t.host, descs := t.descs, copied := decide (t.action = 4), deferred := none }

/-- A transition begun on an object, with its copy (R363, R365). -/
theorem Work.begin_copy {w : Work} {h : Nat} {t : Transition} {e : ResEntry} (hobj : w.obj h = some e) (ht : t.action ≠ 4) :
    w.begin h t = (w.updObj h (t.enter (w.tick + t.k))).startCopy
      { id := 0, ctx := t.ctx, source := if t.action = 2 then .loc e.home else t.source, dest := t.newHome, length := e.length,
        handle := some h, queue := none, ref := t.ref, stage := false, host := t.host, desc := none, dueTick := w.tick + t.k } := by
  unfold Work.begin
  dsimp only
  rw [hobj]
  dsimp only
  rw [if_neg ht]
  rfl

/-- A RELEASE begun on an object (R363). -/
theorem Work.begin_release {w : Work} {h : Nat} {t : Transition} {e : ResEntry} (hobj : w.obj h = some e) (ht : t.action = 4) :
    w.begin h t = w.updObj h (t.enter (w.tick + t.k)) := by
  unfold Work.begin
  dsimp only
  rw [hobj]
  dsimp only
  rw [if_pos ht]
  rfl

/-- An action on a resident object begins its transition (R368). -/
theorem Work.meet_resident (w : Work) {e : ResEntry} (action home : Nat) (hres : e.state = .resident) : w.meet e action home = .runs := by
  unfold Work.meet
  exact if_pos hres

theorem Work.takeUp_resident {w : Work} {h : Nat} {e : ResEntry} (t : Transition) (hres : e.state = .resident) :
    w.takeUp h e t = w.begin h t := by
  rw [Work.takeUp, Work.meet_resident w _ _ hres]

/-- A new object of a handle that was not in use is the handle's object. -/
theorem Work.obj_added {w : Work} {h : Nat} {e : ResEntry} (hobj : w.obj h = none) (he : e.handle = h) (hst : e.state ≠ .free) :
    (w.upd fun d => { d with residency := d.residency ++ [e] }).obj h = some e := by
  show (w.d.residency ++ [e]).find? _ = some e
  rw [List.find?_append, show w.d.residency.find? _ = none from hobj, Option.none_or, List.find?_cons_of_pos (by simp [he, hst])]

/-- A table without an object of a handle stands when it is changed at the handle. -/
theorem retable_none {rs : List ResEntry} {h : Nat} (f : ResEntry → ResEntry)
    (hobj : rs.find? (fun e => e.handle == h && decide (e.state ≠ .free)) = none) : retable rs h f = rs := by
  have hno (x : ResEntry) (hx : x ∈ rs) : ¬ (x.handle = h ∧ x.state ≠ .free) := by
    simpa using List.find?_eq_none.mp hobj x hx
  exact (List.map_congr_left fun x hx => if_neg (hno x hx)).trans (List.map_id rs)

/-- A table without an object of a handle, with one added, changed at the handle. -/
theorem retable_added {rs : List ResEntry} {h : Nat} {e : ResEntry} (f : ResEntry → ResEntry)
    (hobj : rs.find? (fun e => e.handle == h && decide (e.state ≠ .free)) = none) (he : e.handle = h) (hst : e.state ≠ .free) :
    retable (rs ++ [e]) h f = rs ++ [f e] := by
  have hold := retable_none f hobj
  have hnew : retable [e] h f = [f e] := congrArg (fun x => [x]) (if_pos ⟨he, hst⟩)
  unfold retable at hold hnew ⊢
  rw [List.map_append, hold, hnew]

section
variable {s : State} {r : StreamRef} (hactive : (s.work.ctx r.ctx).active = true)
include hactive

/-- INSTALL of a source on this device (R363, R376). -/
theorem exec_install_done {handle home len readers k : Nat} {src : HaulSrc} (hreplay : (s.work.ctx r.ctx).replay = none)
    (hallow : s.work.haulAllowed r.ctx = true) (howns : ownsHandle r.ctx handle = true) (hnum : badNumbers home len k true true = false)
    (hobj : s.work.obj handle = none) (hhome : s.work.homeFault r.ctx handle home len false = none)
    (hsrc : s.work.sourceFault r.ctx src len = none) (hcap : s.work.capTagFault r.ctx home = none) (hlocal : (s.work.localSource src).isSome = true) :
    exec (.install (.stream r) handle home src len readers k) s = .next (s.hauled
      (s.dev.residency ++ [{ newEntry r.ctx handle 0 len readers false .installing s.dev.nowNs with
        newHome := home, commitTick := s.work.tick + k }])
      { id := 0, ctx := r.ctx, source := src, dest := home, length := len, handle := some handle, queue := none, ref := some r
        stage := false, host := false, desc := none, dueTick := s.work.tick + k }) := by
  obtain ⟨e, he⟩ : ∃ e, e = newEntry r.ctx handle 0 len readers false .installing s.dev.nowNs := ⟨_, rfl⟩
  have hadded := Work.obj_added hobj (e := e) (by rw [he]; rfl) (by rw [he]; nofun)
  have htable := retable_added ((streamTransition r 1 home src k).enter (s.work.tick + k)) hobj (e := e) (by rw [he]; rfl) (by rw [he]; nofun)
  rw [exec_install_stream hactive, Work.install_checked readers hreplay hallow howns hnum (by rw [hobj, hcap, hsrc]; simp [hhome])]
  rw [he] at hadded htable
  refine congrArg Host.Outcome.next ((congrArg s.finish (Work.begin_copy hadded (show (1 : Nat) ≠ 4 by decide))).trans
    ((State.finish_hauled s rfl hlocal).trans (congrArg (fun rs => s.hauled rs _) htable)))

omit hactive in
/-- MOVE and REPLACE of a resident object, from a source on this device (R363, R376). -/
theorem exec_transition_done {i : Instr} {action handle home k : Nat} {src : HaulSrc} {e : ResEntry}
    (hexec : exec i s = .next (s.finish (s.work.transition (s.work.streamIssuer r) handle action home src k)))
    (hreplay : (s.work.ctx r.ctx).replay = none) (hallow : s.work.haulAllowed r.ctx = true) (hnum : badNumbers home 0 k false true = false)
    (hobj : s.work.obj handle = some e) (hres : e.state = .resident)
    (hmay : (if action = 2 then e.owner == r.ctx || e.readers.getLsbD r.ctx else e.owner == r.ctx) = true) (h4 : action ≠ 4)
    (hhome : s.work.homeFault r.ctx handle home e.length false = none) (hsrc : action = 3 → s.work.sourceFault r.ctx src e.length = none)
    (hcap : s.work.capTagFault r.ctx home = none) (hlocal : (s.work.localSource (if action = 2 then .loc e.home else src)).isSome = true) :
    exec i s = .next (s.hauled
      (retable s.dev.residency handle ((streamTransition r action home src k).enter (s.work.tick + k)))
      { id := 0, ctx := r.ctx, source := if action = 2 then .loc e.home else src, dest := home, length := e.length, handle := some handle
        queue := none, ref := some r, stage := false, host := false, desc := none, dueTick := s.work.tick + k }) := by
  have hruns : s.work.meet e action home ≠ .conflicts := by
    rw [Work.meet_resident _ _ _ hres]
    decide
  rw [hexec, ((Work.transition_obj hreplay hallow hnum).2 e hobj hmay).2 (.inr ⟨hhome, hsrc, hcap⟩) hruns, Work.takeUp_resident _ hres]
  exact congrArg Host.Outcome.next ((congrArg s.finish (Work.begin_copy hobj h4)).trans (State.finish_hauled s rfl hlocal))

/-- RELEASE of a resident object (R363). -/
theorem exec_release_done {handle k : Nat} {e : ResEntry} (hreplay : (s.work.ctx r.ctx).replay = none) (hallow : s.work.haulAllowed r.ctx = true)
    (hnum : badNumbers 0 0 k false true = false) (hobj : s.work.obj handle = some e) (hres : e.state = .resident) (howner : e.owner = r.ctx) :
    exec (.release (.stream r) handle k) s = .next { s with dev := { s.dev with
      residency := retable s.dev.residency handle ((streamTransition r 4 0 (.loc 0) k).enter (s.work.tick + k)) } } := by
  have hruns : s.work.meet e 4 0 ≠ .conflicts := by
    rw [Work.meet_resident _ _ _ hres]
    decide
  rw [exec_release_stream hactive, ((Work.transition_obj hreplay hallow hnum).2 e hobj (by simp [howner])).2 (.inl rfl) hruns,
    Work.takeUp_resident _ hres]
  exact congrArg Host.Outcome.next ((congrArg s.finish (Work.begin_release hobj rfl)).trans (State.finish_eq s _ rfl rfl))

/-- A MOVE that must wait for the object's transition (R368). -/
theorem exec_move_deferred {handle home k : Nat} {e : ResEntry} {pp : Bool} (hreplay : (s.work.ctx r.ctx).replay = none)
    (hallow : s.work.haulAllowed r.ctx = true) (hnum : badNumbers home 0 k false true = false) (hobj : s.work.obj handle = some e)
    (howner : e.owner = r.ctx) (hmeet : s.work.meet e 2 home = .defers pp) (hhome : s.work.homeFault r.ctx handle home e.length false = none)
    (hcap : s.work.capTagFault r.ctx home = none) :
    ∃ u, exec (.move (.stream r) handle home k) s = .next u ∧ u.mem = s.mem ∧ s.quietly u fun d => { d with
      residency := retable d.residency handle fun x =>
        { x with deferred := some {
            action := 2, ctx := r.ctx, newHome := home, source := .loc 0, k := k, host := false, descs := [], ref := some r } } } := by
  have htake : s.work.takeUp handle e (streamTransition r 2 home (.loc 0) k)
      = ((s.work.count Ctr.residencyDeferrals 1).count Ctr.residencyPingpong (if pp then 1 else 0)).updObj handle fun x =>
          { x with
            deferred := some
              { action := 2, ctx := r.ctx, newHome := home, source := .loc 0, k := k, host := false, descs := [], ref := some r } } := by
    rw [Work.takeUp, show s.work.meet e (streamTransition r 2 home (.loc 0) k).action (streamTransition r 2 home (.loc 0) k).newHome = .defers pp from hmeet]
    rfl
  have hruns : s.work.meet e 2 home ≠ .conflicts := by
    rw [hmeet]
    nofun
  rw [exec_move_stream hactive, (((Work.transition_obj hreplay hallow hnum).2 e hobj (by simp [howner])).2
    (.inr ⟨hhome, fun h => absurd h (by decide), hcap⟩) hruns), htake]
  exact ⟨_, rfl, State.finish_mem s _ rfl rfl, State.finish_quietly rfl⟩

omit hactive in
/-- STAGE and COPY of a context with a haul allowance (R363, R367). -/
theorem Work.plainCopy_checked {w : Work} {src : HaulSrc} {dest len : Nat} {stage : Bool} (hallow : w.haulAllowed r.ctx = true) :
    w.plainCopy (w.streamIssuer r) stage src dest len = (match w.plainFault r.ctx stage src dest len with
      | some (a, b) => w.haltStream r 5 a b
      | none => w.startCopy (plainCopyOf r stage src dest len (w.tick + 1))) := by
  unfold Work.plainCopy
  rw [if_neg (by simp [Work.streamIssuer, hallow])]
  rfl

/-- RESIDENCY_QUERY (R357). -/
theorem exec_residencyQuery_done {handle dest : Nat} (hwf : Memory.wf s.mem = true) (hallow : s.work.haulAllowed r.ctx = true)
    (hfault : s.work.accessFault r.ctx dest 48 true = none) :
    ∃ u, exec (.residencyQuery (.stream r) handle dest) s = .next u ∧ u.dev.residency = s.dev.residency ∧ u.dev.ctxs = s.dev.ctxs
      ∧ s.stores u (localKey r.ctx dest) (match s.work.obj handle with
          | some e => residencyBytes e
          | none => List.replicate 48 0) := by
  have hquery : s.work.query (s.work.streamIssuer r) handle dest
      = s.work.stN r.ctx dest (match s.work.obj handle with | some e => residencyBytes e | none => List.replicate 48 0) := by
    unfold Work.query
    rw [if_neg (by simp [Work.streamIssuer, hallow]), show s.work.accessFault (s.work.streamIssuer r).ctx dest 48 true = none from hfault]
    rfl
  rw [exec_residencyQuery_stream hactive, hquery]
  refine ⟨_, rfl, ?_, ?_, State.finish_stores s _ _ _ hwf rfl rfl rfl⟩
  · rw [State.finish_residency]
    rfl
  · rw [State.finish_ctxs]
    rfl

end

/-- A host's REGISTER of an object (R363, R442). -/
theorem exec_register_host {c ring : Nat} {d : Desc} {s : State} (hready : s.work.ready c ring 0x20 false = some d) (hact : d.field 0 1 = 0)
    (hallow : s.work.haulAllowed c = true) (howns : ownsHandle c (d.field 4 2) = true)
    (hnum : badNumbers (d.field 8 8) (d.field 24 8) 0 true false = false)
    (hfault : s.work.homeFault c (d.field 4 2) (d.field 8 8) (d.field 24 8) (s.work.obj (d.field 4 2)).isSome = none) (a b len n : Nat) (ev : Bool) :
    ∃ u, exec (.register (.host c ring) a b len n ev) s = .next u ∧ s.quietly u fun x =>
      { x with residency := x.residency ++
          [newEntry c (d.field 4 2) (d.field 8 8) (d.field 24 8) (d.field 2 2) (bitOf (d.field 6 1) 0) .resident x.nowNs] } := by
  obtain ⟨i, hi⟩ : ∃ i : Issuer, i = { ctx := c, ref := none, desc := some d, queue := none } := ⟨_, rfl⟩
  have hctx : i.ctx = c := by rw [hi]
  have hissuer : s.work.issuer (.host c ring) 0 = some i := by
    unfold Work.issuer
    dsimp only
    rw [hready, hi]
    exact if_pos hact
  have hbad : s.work.hostHandleBad i (d.field 4 2) = none := by
    rw [hi]
    exact if_pos howns
  have hreg := Work.register_checked (i := i) (d.field 2 2) (bitOf (d.field 6 1) 0) (by rw [hctx]; exact hallow) (by rw [hctx]; exact howns) hnum
  rw [hctx, hfault] at hreg
  have hexec : exec (.register (.host c ring) a b len n ev) s = .next (s.finish ((s.work.upd fun x => { x with residency := x.residency ++
      [newEntry c (d.field 4 2) (d.field 8 8) (d.field 24 8) (d.field 2 2) (bitOf (d.field 6 1) 0) .resident x.nowNs] }).complete c d.seq .ok 0)) := by
    refine exec_finish rfl ?_
    rw [Work.haul, hissuer]
    have hargs : i.args { HaulArgs.none with handle := a, a := b, length := len, readers := n, evictable := ev }
        = { handle := d.field 4 2, a := d.field 8 8, source := srcOf (if d.field 0 1 = 5 ∨ d.field 0 1 = 6 then d.field 8 8 else d.field 16 8),
            b := d.field 16 8, length := d.field 24 8, readers := d.field 2 2, k := d.field 1 1, evictable := bitOf (d.field 6 1) 0 } := by
      rw [hi]
      rfl
    dsimp only
    rw [hargs]
    dsimp only
    rw [hbad, Option.getD_none, hreg]
    dsimp only
    rw [hi]
    rfl
  exact ⟨_, hexec, State.finish_quietly (Work.complete_still ..)⟩

/-- Settles O52: a stream's action is its rule for the stream's issuer; past its checks it changes the table and puts its copy in flight,
and a check that fails halts the stream. Which descriptor can start is the model's choice (log 10). -/
theorem haulActionsComplete : Obligations.HaulActionsComplete := by
  refine ⟨fun h a b len n k src ev s hno => ?_, fun r i a b len n k src ev s hact hrep hall hi => ?_, fun r i a b len n k src s hact hrep hi => ?_,
    fun r handle home len readers ev s hact hall howns hnum hfault => ?_,
    fun c ring d s hready hd hall howns hnum hfault => exec_register_host hready hd hall howns hnum hfault,
    fun r handle home len readers reason detail ev s hact hall howns hnum hfault => ?_,
    fun r handle home len readers k src s hact hrep hall howns hnum hobj hhome hsrc hcap hlocal =>
      exec_install_done hact hrep hall howns hnum hobj hhome hsrc hcap hlocal,
    fun r handle home k e s hact hrep hall hnum hobj hres hmay hhome hcap => ?_,
    fun r handle home k src e s hact hrep hall hnum hobj hres howner hhome hsrc hcap hlocal => ?_,
    fun r handle k e s hact hrep hall hnum hobj hres howner => exec_release_done hact hrep hall hnum hobj hres howner,
    fun r i handle home k src s hact hrep hall hnum hobj hi => ?_,
    fun r handle home k e s hact hrep hall hnum hobj howner hmeet => ?_,
    fun r handle home k e pp s hact hrep hall hnum hobj howner hmeet hhome hcap =>
      exec_move_deferred hact hrep hall hnum hobj howner hmeet hhome hcap,
    fun r src dest len s hact hall hlocal => ⟨fun stage hfault => ?_, fun stage reason detail hfault => ?_⟩,
    fun r handle dest s hwf hact hall hfault => exec_residencyQuery_done hact hwf hall hfault⟩
  · exact ⟨exec_idle rfl (Work.haul_none _ _ (hno 0)), exec_idle rfl (Work.haul_none _ _ (hno 1)), exec_idle rfl (Work.haul_none _ _ (hno 2)),
      exec_idle rfl (Work.haul_none _ _ (hno 3)), exec_idle rfl (Work.haul_none _ _ (hno 4)), exec_idle rfl (Work.haul_none _ _ (hno 5)),
      exec_idle rfl (Work.haul_none _ _ (hno 6)), exec_idle rfl (Work.haul_none _ _ (hno 7))⟩
  · refine exec_haltStream (engine := 5) hact ?_
    simp only [List.mem_cons, List.not_mem_nil, or_false] at hi
    rcases hi with rfl | rfl | rfl | rfl | rfl | rfl | rfl | rfl
    · rw [exec_register_stream hact, Work.register_barred _ _ _ _ _ hall]
    · rw [exec_install_stream hact, Work.install_barred hrep _ _ _ _ _ _ hall]
    · rw [exec_move_stream hact, Work.transition_barred hrep _ _ _ _ _ hall]
    · rw [exec_replace_stream hact, Work.transition_barred hrep _ _ _ _ _ hall]
    · rw [exec_release_stream hact, Work.transition_barred hrep _ _ _ _ _ hall]
    · exact (exec_plainCopy_stream hact true src b len).trans (by rw [Work.plainCopy_barred _ _ _ _ hall])
    · exact (exec_plainCopy_stream hact false src b len).trans (by rw [Work.plainCopy_barred _ _ _ _ hall])
    · rw [exec_residencyQuery_stream hact, Work.query_barred _ _ hall]
  · have hhalt : exec i s = .next (s.finish (s.work.haltStream r 5 0x83 0)) := by
      simp only [List.mem_cons, List.not_mem_nil, or_false] at hi
      rcases hi with rfl | rfl | rfl | rfl
      · rw [exec_install_stream hact, Work.install_section _ _ _ _ _ _ hrep]
      · rw [exec_move_stream hact, Work.transition_section _ _ _ _ _ hrep]
      · rw [exec_replace_stream hact, Work.transition_section _ _ _ _ _ hrep]
      · rw [exec_release_stream hact, Work.transition_section _ _ _ _ _ hrep]
    obtain ⟨u, hu, hhalted, -⟩ := exec_haltStream hact hhalt
    exact ⟨u, hu, hhalted⟩
  · rw [exec_register_stream hact, Work.register_checked (i := s.work.streamIssuer r) readers ev hall howns hnum]
    rw [show s.work.homeFault (s.work.streamIssuer r).ctx handle home len (s.work.obj handle).isSome = none from hfault]
    exact congrArg Host.Outcome.next (State.finish_eq s _ rfl rfl)
  · refine exec_haltStream (engine := 5) hact ?_
    rw [exec_register_stream hact, Work.register_checked (i := s.work.streamIssuer r) readers ev hall howns hnum]
    rw [show s.work.homeFault (s.work.streamIssuer r).ctx handle home len (s.work.obj handle).isSome = some (reason, detail) from hfault]
    rfl
  · exact exec_transition_done (exec_move_stream hact handle home k) hrep hall hnum hobj hres hmay (by decide) hhome
      (fun h => absurd h (by decide)) hcap rfl
  · exact exec_transition_done (exec_replace_stream hact handle home src k) hrep hall hnum hobj hres (by simp [howner]) (by decide) hhome
      (fun _ => hsrc) hcap hlocal
  · refine exec_haltStream (engine := 5) hact ?_
    simp only [List.mem_cons, List.not_mem_nil, or_false] at hi
    rcases hi with rfl | rfl
    · rw [exec_move_stream hact, (Work.transition_obj hrep hall hnum).1 hobj]
    · rw [exec_replace_stream hact, (Work.transition_obj hrep hall hnum).1 hobj]
  · refine exec_haltStream (engine := 5) hact ?_
    rw [exec_move_stream hact, ((Work.transition_obj hrep hall hnum).2 e hobj (by simp [howner])).1 hmeet]
  · rw [exec_plainCopy_stream hact, Work.plainCopy_checked hall, hfault]
    exact congrArg Host.Outcome.next (State.finish_hauled s (rs := s.dev.residency) rfl
      (show (s.work.localSource (plainCopyOf r stage src dest len (s.work.tick + 1)).source).isSome = true from hlocal))
  · refine exec_haltStream (engine := 5) hact ?_
    rw [exec_plainCopy_stream hact, Work.plainCopy_checked hall, hfault]

end Sys2Proof.Machine
end

section
/-!
PROOFS. Copies that finish, old homes, re-arms and streams of the haul engine (R361, R362, R365, R376 to R378). A copy that its source
allows writes its bytes and marks its object; a stream's chunk is a copy into its next window. What waits is counted as a stall, which is
the model's choice (log 10).
-/

namespace Sys2Proof.Machine

/-! ### Copies that finish -/

/-- What a done-report keeps of the haul engine. -/
theorem Work.tryReport_haul (w : Work) : (w.tryReport.d.copies, w.tryReport.d.residency) = (w.d.copies, w.d.residency) :=
  Work.tryReport_keeps (fun v => (v.d.copies, v.d.residency))
    (Work.sendBelay_keeps (fun v => (v.d.copies, v.d.residency)) (fun _ _ => rfl) (fun _ _ _ _ => rfl) fun _ _ _ => rfl)
    (fun _ _ _ _ _ _ => rfl) w

/-- A finished copy's chunk counted in its queue (R377). -/
def HaulQueue.filled (q : HaulQueue) : HaulQueue :=
  { q with
    filling := false, next := q.next + 1,
    window := (q.window + 1) % max 1 ((q.params.map fun (p : HaulStreamParams) => p.windows.length).getD 1) }

/-- A copy's object marked as written, its queue's chunk counted (R365, R377). -/
def Work.copyMarked (w : Work) (k : HaulCopy) : Work :=
  let w := match k.handle with
    | some h => w.updObj h fun e => { e with copied := true }
    | none => w
  match k.queue with
  | some q => w.updQueue q HaulQueue.filled
  | none => w

/-- A copy's counters. -/
def Work.copyCounted (w : Work) (k : HaulCopy) : Work :=
  ((w.count Ctr.haulBytes k.length).countCapacity k).count Ctr.haulStages (if k.stage then 1 else 0)

/-- What a copy's counters leave: all that counting leaves. -/
theorem Work.copyCounted_keeps {β : Type} (p : Work → β) (hcount : ∀ v id n, p (Work.count v id n) = p v) (w : Work) (k : HaulCopy) :
    p (w.copyCounted k) = p w := by
  unfold Work.copyCounted Work.countCapacity
  dsimp only
  rw [hcount, hcount, hcount, hcount]

theorem Work.copyCounted_reads (w : Work) (k : HaulCopy) :
    ((w.copyCounted k).log = w.log ∧ (w.copyCounted k).base = w.base ∧ (w.copyCounted k).wiped = w.wiped)
      ∧ (w.copyCounted k).d.ctxs = w.d.ctxs ∧ (w.copyCounted k).d.tiles = w.d.tiles ∧ (w.copyCounted k).d.copies = w.d.copies
      ∧ (w.copyCounted k).d.residency = w.d.residency := by
  have h := Work.copyCounted_keeps (fun v => ((v.log, v.base, v.wiped), v.d.ctxs, v.d.tiles, v.d.copies, v.d.residency)) (fun _ _ _ => rfl) w k
  simpa only [Prod.mk.injEq] using h

/-- A copy's bytes written, the copy gone: `n` blocks of its source were verified (R365, R493). -/
def Work.copyWritten (w : Work) (k : HaulCopy) (n : Nat) (bs : List Byte) : Work :=
  ((w.upd fun d => { d with copies := d.copies.filter fun e => e.id != k.id }).count Ctr.tensorBlocksVerified n).stN k.ctx k.dest bs

theorem Work.copyWritten_reads (w : Work) (k : HaulCopy) (n : Nat) (bs : List Byte) :
    ((w.copyWritten k n bs).log = journal (localKey k.ctx k.dest) bs w.log ∧ (w.copyWritten k n bs).base = w.base
        ∧ (w.copyWritten k n bs).wiped = w.wiped)
      ∧ (w.copyWritten k n bs).d.ctxs = w.d.ctxs ∧ (w.copyWritten k n bs).d.tiles = w.d.tiles
      ∧ (w.copyWritten k n bs).d.copies = w.d.copies.filter (fun e => e.id != k.id)
      ∧ (w.copyWritten k n bs).d.residency = w.d.residency := ⟨⟨rfl, rfl, rfl⟩, rfl, rfl, rfl, rfl⟩

/-- A copy from this device without a descriptor, whose data is sound (R365, R367). -/
theorem Work.finishCopy_sound {w : Work} {k : HaulCopy} {a b : Nat} (peer : List Byte) (hsrc : w.localSource k.source = some a)
    (hfault : w.copyFault k = .ok b) (hdesc : k.desc = none) :
    w.finishCopy k peer = (((w.copyWritten k b (w.ldN k.ctx a k.length)).copyCounted k).copyMarked k).tryReport := by
  obtain ⟨v, hv⟩ : ∃ v, v = w.upd fun d => { d with copies := d.copies.filter fun e => e.id != k.id } := ⟨_, rfl⟩
  have hvsrc : v.localSource k.source = some a := by rw [hv]; exact hsrc
  have hvfault : v.copyFault k = .ok b := by rw [hv]; exact hfault
  have hvbytes : (v.count Ctr.tensorBlocksVerified b).copyBytes k peer = w.ldN k.ctx a k.length := by
    unfold Work.copyBytes
    rw [show (v.count Ctr.tensorBlocksVerified b).localSource k.source = some a from hvsrc, hv]
    rfl
  unfold Work.finishCopy
  dsimp only
  rw [← hv, if_neg (by rw [hvsrc]; nofun), hvfault]
  dsimp only
  rw [hvbytes, hdesc, hv]
  rfl

/-- What the marks of a copy leave, and what they change. -/
theorem Work.copyMarked_reads (w : Work) (k : HaulCopy) :
    ((w.copyMarked k).log = w.log ∧ (w.copyMarked k).base = w.base ∧ (w.copyMarked k).wiped = w.wiped)
      ∧ ((w.copyMarked k).d.ctxs = w.d.ctxs ∧ (w.copyMarked k).d.tiles = w.d.tiles ∧ (w.copyMarked k).d.copies = w.d.copies)
      ∧ (w.copyMarked k).d.residency = (match k.handle with
          | some h => retable w.d.residency h fun e => { e with copied := true }
          | none => w.d.residency) := by
  unfold Work.copyMarked
  cases k.handle <;> cases k.queue <;> exact ⟨⟨rfl, rfl, rfl⟩, ⟨rfl, rfl, rfl⟩, rfl⟩

/-- HAUL_COPY_DONE of a copy from this device (R365, R367, R376). -/
theorem exec_haulCopyDone_sound {n a b : Nat} {k : HaulCopy} {s : State} (hwf : Memory.wf s.mem = true)
    (hk : (s.dev.copies.find? fun k => k.id == n) = some k) (hsrc : s.work.localSource k.source = some a) (hfault : s.work.copyFault k = .ok b)
    (hdesc : k.desc = none) :
    ∃ u, exec (.haulCopyDone n none) s = .next u ∧ s.stores u (localKey k.ctx k.dest) (s.work.ldN k.ctx a k.length)
      ∧ u.dev.copies = s.dev.copies.filter (fun e => e.id != n) ∧ u.dev.ctxs = s.dev.ctxs ∧ u.dev.tiles = s.dev.tiles
      ∧ u.dev.residency = (match k.handle with
          | some h => retable s.dev.residency h fun e => { e with copied := true }
          | none => s.dev.residency) := by
  have hid : k.id = n := by simpa using List.find?_some hk
  obtain ⟨x, hx⟩ : ∃ x, x = s.work.copyWritten k b (s.work.ldN k.ctx a k.length) := ⟨_, rfl⟩
  have hexec : exec (.haulCopyDone n none) s = .next (s.finish ((x.copyCounted k).copyMarked k).tryReport) := by
    refine exec_finish rfl ?_
    rw [State.work_d, hk]
    dsimp only
    rw [if_pos (by rw [hsrc]; rfl), Work.finishCopy_sound [] hsrc hfault hdesc, hx]
  have hwritten := s.work.copyWritten_reads k b (s.work.ldN k.ctx a k.length)
  rw [← hx] at hwritten
  obtain ⟨⟨hxlog, hxbase, hxwiped⟩, hxctxs, hxtiles, hxcopies, hxres⟩ := hwritten
  obtain ⟨⟨hvlog, hvbase, hvwiped⟩, hvctxs, hvtiles, hvcopies, hvres⟩ := x.copyCounted_reads k
  rw [hxlog] at hvlog
  rw [hxbase] at hvbase
  rw [hxwiped] at hvwiped
  rw [hxctxs] at hvctxs
  rw [hxtiles] at hvtiles
  rw [hxcopies] at hvcopies
  rw [hxres] at hvres
  obtain ⟨v, hv⟩ : ∃ v, v = x.copyCounted k := ⟨_, rfl⟩
  rw [← hv] at hexec hvlog hvbase hvwiped hvctxs hvtiles hvcopies hvres
  obtain ⟨⟨hlog, hbase, hwiped⟩, ⟨hctxs, htiles, hcopies⟩, hres⟩ := v.copyMarked_reads k
  obtain ⟨hrcopies, hrres⟩ := Prod.mk.inj (v.copyMarked k).tryReport_haul
  obtain ⟨hstores, -, huctxs, hutiles⟩ := State.finish_tryReport_stores hwf (hbase.trans hvbase) (hwiped.trans hvwiped) (hlog.trans hvlog)
  refine ⟨_, hexec, hstores, ?_, huctxs.trans (hctxs.trans hvctxs), hutiles.trans (htiles.trans hvtiles), ?_⟩
  · rw [State.finish_copies, hrcopies, hcopies, hvcopies, hid, State.work_d]
  · rw [State.finish_residency, hrres, hres, hvres, State.work_d]

/-- HAUL_COPY_DONE with a peer's denial (R361). -/
theorem exec_haulCopyDone_denied {n a : Nat} {k : HaulCopy} {s : State} (hk : (s.dev.copies.find? fun k => k.id == n) = some k)
    (hact : (s.work.ctx k.ctx).active = true) :
    ∃ u, exec (.haulCopyDone n (some (.denied a))) s = .next u ∧ u.haltedWith k.ctx 0x48 ∧ (u.work.ctx k.ctx).halt.detail = a := by
  obtain ⟨v, hv⟩ : ∃ v, v = s.work.upd fun d => { d with copies := d.copies.filter fun e => e.id != k.id } := ⟨_, rfl⟩
  obtain ⟨r, hr⟩ : ∃ r, r = s.work.copyRec k 0x48 a := ⟨_, rfl⟩
  have hrec : r.reason = 0x48 ∧ r.detail = a := by
    rw [hr]
    unfold Work.copyRec
    split <;> exact ⟨rfl, rfl⟩
  have hexec : exec (.haulCopyDone n (some (.denied a))) s = .next (s.finish (v.halt k.ctx r)) := by
    refine exec_finish rfl ?_
    rw [State.work_d, hk, hv, hr]
  obtain ⟨he, hno⟩ := Ctx.active_enable hact
  have hctx : v.ctx k.ctx = s.work.ctx k.ctx := by rw [hv]; rfl
  have hhalt := Work.halt_rec v k.ctx r (by rw [hctx]; exact he) (by rw [hctx]; exact hno)
  have hfz : (v.halt k.ctx r).fz = s.fuses := (Work.still_fz (Work.halt_still ..)).trans (by rw [hv]; rfl)
  refine ⟨_, hexec, ?_⟩
  unfold State.haltedWith
  rw [State.finish_ctx _ _ _ hfz, hhalt]
  exact ⟨⟨rfl, hrec.1⟩, hrec.2⟩

/-! ### Old homes -/

/-- OLD_HOME_RELEASE of a handle whose old homes nothing holds (R362). -/
theorem exec_oldHomeRelease {h : Nat} {s : State}
    (hfree : ∀ e, e ∈ s.dev.residency → e.handle = h → e.releasing ≠ 0 → s.work.heldByCmd e.releasing e.length = false) :
    exec (.oldHomeRelease h) s = .next { s with dev := { s.dev with
      residency := (s.dev.residency.map fun e => if e.handle = h ∧ e.releasing ≠ 0 then { e with releasing := 0, relCharged := 0 } else e).filter
        fun e => !decide (e.handle = h ∧ e.state = .free ∧ e.releasing = 0) } } := by
  have hmap : (s.dev.residency.map fun e => if (e.handle == h && e.releasing != 0 && !s.work.heldByCmd e.releasing e.length) = true then
        { e with releasing := 0, relCharged := 0 } else e)
      = s.dev.residency.map fun e => if e.handle = h ∧ e.releasing ≠ 0 then { e with releasing := 0, relCharged := 0 } else e := by
    refine List.map_congr_left fun e he => ?_
    by_cases hc : e.handle = h ∧ e.releasing ≠ 0
    · rw [if_pos hc, if_pos (by simp [hc.1, hc.2, hfree e he hc.1 hc.2])]
    · rw [if_neg hc, if_neg (fun hb => hc (by simp only [Bool.and_eq_true, beq_iff_eq, bne_iff_ne] at hb; exact hb.1))]
  have hkeep (e : ResEntry) : (!(e.handle == h && decide (e.state = .free) && e.releasing == 0))
      = !decide (e.handle = h ∧ e.state = .free ∧ e.releasing = 0) := by
    rw [Bool.eq_iff_iff]
    simp only [Bool.not_eq_true', Bool.and_eq_false_iff, beq_eq_false_iff_ne, decide_eq_false_iff_not, not_and_or, or_assoc, ne_eq]
  have hexec : exec (.oldHomeRelease h) s = .next { s with dev := { s.dev with
      residency := (s.dev.residency.map fun e => if (e.handle == h && e.releasing != 0 && !s.work.heldByCmd e.releasing e.length) = true then
        { e with releasing := 0, relCharged := 0 } else e).filter fun e => !(e.handle == h && decide (e.state = .free) && e.releasing == 0) } } :=
    exec_next_dev (v := s.work.releaseOld h) rfl rfl rfl rfl
  rw [hexec, hmap]
  simp only [hkeep]

/-! ### Streams -/

/-- STREAM_CHUNK_FILL of a queue of an active context. -/
theorem exec_streamChunkFill {n : Nat} {q : HaulQueue} {s : State} (hq : s.work.queue n = some q) (hact : (s.work.ctx q.ctx).active = true) :
    exec (.streamChunkFill n none) s = .next (s.finish (s.work.fillChunk n))
      ∧ ∀ p, exec (.streamChunkFill n (some p)) s = .next (s.finish (s.work.armStream n p)) := by
  refine ⟨exec_finish rfl ?_, fun p => exec_finish rfl ?_⟩
  · rw [hq]
    exact if_neg (by rw [hact]; decide)
  · rw [hq]
    exact if_neg (by rw [hact]; decide)

section
variable {w : Work} {n : Nat} {q : HaulQueue} {p : HaulStreamParams} (hq : w.queue n = some q) (hp : q.params = some p)
include hq hp

/-- A chunk of an armed stream, by what stands in its way (R377). -/
theorem Work.fillChunk_armed :
    w.fillChunk n = if (q.filling || decide (q.chunks ≤ q.next)) = true then w
      else if w.windowRead q.ctx ((p.windows[q.window]?).getD 0) p.chunkLength = true then w.stall q.ctx Ctr.stallScoreboard 10
      else match w.plainFault q.ctx p.stage (chunkSource q.source (q.next * p.chunkLength)) ((p.windows[q.window]?).getD 0) p.chunkLength with
        | some (r, a) => w.haltStream (w.queueRef q) 5 r a
        | none => (w.updQueue n fun q => { q with filling := true }).startCopy
            { id := 0, ctx := q.ctx, source := chunkSource q.source (q.next * p.chunkLength), dest := (p.windows[q.window]?).getD 0,
              length := p.chunkLength, handle := none, queue := some n, ref := none, stage := p.stage, host := false, desc := none,
              dueTick := w.tick + 1 } := by
  unfold Work.fillChunk
  rw [hq]
  dsimp only
  rw [hp] <;> rfl

end

/-- Settles O53: a copy by what it writes and marks, an old home by the commands that hold it, a re-arm and a chunk by the state of their
queue. What waits is counted as a stall, the model's choice (log 10). -/
theorem haulProceeds : Obligations.HaulProceeds := by
  refine ⟨fun n p s hno => ?_, fun n a k s hk hact => exec_haulCopyDone_denied hk hact,
    fun n a b k s hwf hk hsrc hfault hdesc => exec_haulCopyDone_sound hwf hk hsrc hfault hdesc, fun h s hfree => exec_oldHomeRelease hfree,
    fun r src count q s hact hq hp hpend hcount => ?_, fun r src count q s hact hq hbad => ?_, fun n q p s hq hact hp hdone => ?_,
    fun n q p s hq hact hp hfill hnext hread => ?_, fun n q p s hq hact hp hfill hnext hread hfault hsrc => ?_,
    fun n q p s hq hact hall hok => ?_, fun n q s hq hdone => ?_, fun n q r s hq hfill hnext hpend hrel => ?_⟩
  · refine exec_idle rfl ?_
    rw [State.work_d, hno]
  · refine exec_next_dev (v := s.work.updQueue q.number fun x => { x with pending := some { source := src, count := count, released := false } })
      rfl ?_ rfl rfl
    rw [if_neg (by rw [hact]; decide), hq]
    dsimp only
    refine if_neg ?_
    cases count with
    | none => simp [Option.isNone_iff_eq_none, Option.isSome_iff_ne_none.mp hp, hpend]
    | some m =>
      have := hcount m rfl
      simp [Option.isNone_iff_eq_none, Option.isSome_iff_ne_none.mp hp, hpend]
      omega
  · refine exec_haltStream (engine := 5) hact (exec_finish rfl ?_)
    rw [if_neg (by rw [hact]; decide), hq]
    dsimp only
    refine if_pos ?_
    rcases hbad with h | h <;> simp [h]
  · rw [(exec_streamChunkFill hq hact).1, Work.fillChunk_armed hq hp, if_pos (by simpa using hdone)]
    exact congrArg Host.Outcome.next (State.finish_eq s _ rfl rfl)
  · rw [(exec_streamChunkFill hq hact).1, Work.fillChunk_armed hq hp, if_neg (by simp [hfill]; omega), if_pos hread]
    exact congrArg Host.Outcome.next (State.finish_eq s _ rfl rfl)
  · intro h
    have hexec : exec (.streamChunkFill n none) s = .next (s.finish (s.work.fillChunk n)) := (exec_streamChunkFill hq hact).1
    rw [Work.fillChunk_armed hq hp, if_neg (by simp [hfill]; omega), if_neg (by rw [hread]; decide), hfault] at hexec
    dsimp only at hexec
    rw [Work.startCopy_local hsrc] at hexec
    rw [hexec]
    exact congrArg Host.Outcome.next (State.finish_eq s _ rfl rfl)
  · refine exec_haltStream (engine := 5) (r := s.work.queueRef q) hact ?_
    rw [(exec_streamChunkFill hq hact).2, Work.armStream, hq]
    dsimp only
    rw [if_neg (by rw [hall]; decide), if_pos (by rw [hok]; rfl)]
  · refine exec_idle rfl ?_
    rw [hq]
    dsimp only
    by_cases hbusy : q.filling = true ∨ q.next < q.chunks
    · exact if_pos (by simpa using hbusy)
    · rw [if_neg (by simpa using hbusy)]
      rcases hdone with h | h | h | ⟨r, h, hrel⟩
      · exact absurd (.inl h) hbusy
      · exact absurd (.inr h) hbusy
      · rw [h]
      · rw [h]
        exact if_neg (by rw [hrel]; decide)
  · refine exec_next_dev (v := (s.work.updQueue n fun x => x.rearmed r).count Ctr.haulRearms 1) rfl ?_ rfl rfl
    rw [hq]
    dsimp only
    rw [if_neg (by simp [hfill]; omega), hpend]
    exact if_pos hrel

end Sys2Proof.Machine
end

section
/-!
PROOFS. Completions of host descriptors (R441 to R447): what a completion leaves, as every command that completes a descriptor uses it.
-/

namespace Sys2Proof.Machine

/-! ### Completions -/

/-- A context's record where the list of contexts is another's with that record changed. -/
theorem Work.ctx_updAt_same {v w : Work} {c : Nat} {f : Ctx → Ctx} (hfz : v.fz = w.fz) (hctxs : v.d.ctxs = updAt w.d.ctxs c f)
    (hc : c < w.d.ctxs.length) : v.ctx c = f (w.ctx c) := by
  rw [Work.ctx, hctxs, hfz]
  exact Work.updCtx_ctx_same w c f hc

/-- The other contexts' records. -/
theorem Work.ctx_updAt_other {v w : Work} {c k : Nat} {f : Ctx → Ctx} (hfz : v.fz = w.fz) (hctxs : v.d.ctxs = updAt w.d.ctxs c f) (hk : k ≠ c) :
    v.ctx k = w.ctx k := by
  rw [Work.ctx, hctxs, hfz]
  exact Work.updCtx_ctx_other w c k f hk

/-- A completion entry written at the tail of the completion ring, which moves on with its signalling (R447, R452). -/
theorem Work.postCompletion_posts (w : Work) {c : Nat} (d : Desc) (st : Status) (r : Nat) (hc : c < w.d.ctxs.length) :
    (w.postCompletion c d st r).log
        = journal (hostKey c ((w.ctx c).cpl.base.toNat + 16 * (w.ctx c).cpl.tail))
            (completionEntry d st r (decide ((w.ctx c).ringVersion < 0x0200)) (w.ctx c).cpl.phase) w.log
      ∧ (∃ n t, (w.postCompletion c d st r).ctx c = { w.ctx c with cpl := (w.ctx c).cpl.advance, unsignalled := n, unsignalledAt := t })
      ∧ ∀ k, k ≠ c → (w.postCompletion c d st r).ctx k = w.ctx k := by
  unfold Work.postCompletion
  dsimp only
  have hsame (v : Work) (f : Ctx → Ctx) (hv : v.d.ctxs = w.d.ctxs) (hz : v.fz = w.fz) : (v.updCtx c f).ctx c = f (w.ctx c) :=
    Work.ctx_updAt_same hz (congrArg (fun l => updAt l c f) hv) hc
  have hother (v : Work) (f : Ctx → Ctx) (hv : v.d.ctxs = w.d.ctxs) (hz : v.fz = w.fz) (k : Nat) (hk : k ≠ c) : (v.updCtx c f).ctx k = w.ctx k :=
    Work.ctx_updAt_other hz (congrArg (fun l => updAt l c f) hv) hk
  split
  · refine ⟨?_, ?_, fun k hk => ?_⟩
    · rw [Work.msix_log, Work.updCtx_log, Work.countCtx_log, Work.wr_log, Work.cacheIova_log]
    · rw [Work.msix_ctx, hsame]
      · exact ⟨_, _, rfl⟩
      · rfl
      · rfl
    · rw [Work.msix_ctx, hother _ _ ?_ ?_ k hk]
      · rfl
      · rfl
  · refine ⟨?_, ?_, fun k hk => ?_⟩
    · rw [Work.updCtx_log, Work.countCtx_log, Work.wr_log, Work.cacheIova_log]
    · rw [hsame]
      · exact ⟨_, _, rfl⟩
      · rfl
      · rfl
    · rw [hother _ _ ?_ ?_ k hk]
      · rfl
      · rfl

/-- A fetched descriptor marked as started. -/
def Desc.begun (d : Desc) : Desc := { d with started := true }

/-- A list of fetched descriptors with those of a number marked as started. -/
def startAll (l : List Desc) (seq : Nat) : List Desc := l.map fun d => if d.seq = seq then d.begun else d

/-- The descriptor of a number, once it has started. -/
theorem find_startAll {l : List Desc} {seq : Nat} {d : Desc} (h : l.find? (fun e => e.seq == seq) = some d) :
    (startAll l seq).find? (fun e => e.seq == seq) = some d.begun := by
  have hseq : d.seq = seq := by simpa using List.find?_some h
  have hmark (e : Desc) : ((if e.seq = seq then e.begun else e).seq == seq) = (e.seq == seq) := by
    split <;> rfl
  unfold startAll
  rw [List.find?_map]
  have hfun : ((fun e : Desc => e.seq == seq) ∘ fun e : Desc => if e.seq = seq then e.begun else e) = fun e => e.seq == seq := funext hmark
  rw [hfun, h]
  exact congrArg some (if_pos hseq)

/-- The other descriptors of a list in which those of a number have started. -/
theorem filter_startAll (l : List Desc) (seq : Nat) : (startAll l seq).filter (fun e => e.seq != seq) = l.filter fun e => e.seq != seq := by
  induction l with
  | nil => rfl
  | cons d l ih =>
    show ((if d.seq = seq then d.begun else d) :: startAll l seq).filter _ = _
    by_cases h : d.seq = seq
    · rw [if_pos h, List.filter_cons_of_neg (by simp [Desc.begun, h]), List.filter_cons_of_neg (by simp [h]), ih]
    · rw [if_neg h, List.filter_cons_of_pos (by simp [h]), List.filter_cons_of_pos (by simp [h]), ih]

/-- A started descriptor's context. -/
theorem Work.startDesc_ctx (w : Work) {c : Nat} (seq : Nat) (hc : c < w.d.ctxs.length) :
    (w.startDesc c seq).ctx c = { w.ctx c with fetched := startAll (w.ctx c).fetched seq } := Work.updCtx_ctx_same w c _ hc

theorem Work.startDesc_ctx_other (w : Work) {c k : Nat} (seq : Nat) (hk : k ≠ c) : (w.startDesc c seq).ctx k = w.ctx k :=
  Work.updCtx_ctx_other w c k _ hk

/-- A meaning in which descriptor `d` of context `c` has started, and that has written nothing and left the other contexts: what a completion
then finds. -/
structure Work.Began (w v : Work) (c : Nat) (d : Desc) : Prop where
  inRange : c < v.d.ctxs.length
  fetched : (v.ctx c).fetched = startAll (w.ctx c).fetched d.seq
  found : (w.ctx c).fetched.find? (fun e => e.seq == d.seq) = some d
  cpl : (v.ctx c).cpl = (w.ctx c).cpl
  version : (v.ctx c).ringVersion = (w.ctx c).ringVersion
  others : ∀ k, k ≠ c → v.ctx k = w.ctx k

/-- A command that takes up a waiting descriptor starts it. -/
theorem Work.waits_began {w : Work} {c ring op : Nat} {serial : Bool} {d : Desc} (h : w.waits c ring op serial d) :
    w.Began (w.startDesc c d.seq) c d := by
  obtain ⟨-, hfind, hc⟩ := h
  have hctx := w.startDesc_ctx d.seq hc
  refine ⟨?_, ?_, hfind, ?_, ?_, fun k hk => Work.startDesc_ctx_other w d.seq hk⟩
  · show c < (updAt w.d.ctxs c _).length
    rw [updAt_length]
    exact hc
  · rw [hctx]
  · rw [hctx]
  · rw [hctx]

/-- A completion of a descriptor that has started (R447). -/
theorem Work.Began.completes {w v : Work} {c : Nat} {d : Desc} (h : w.Began v c d) (st : Status) (r : Nat) :
    (v.complete c d.seq st r).log
        = journal (hostKey c ((w.ctx c).cpl.base.toNat + 16 * (w.ctx c).cpl.tail))
            (completionEntry d st r (decide ((w.ctx c).ringVersion < 0x0200)) (w.ctx c).cpl.phase) v.log
      ∧ (∃ n t, (v.complete c d.seq st r).ctx c = { v.ctx c with
          cpl := (w.ctx c).cpl.advance, fetched := (w.ctx c).fetched.filter (fun e => e.seq != d.seq), unsignalled := n, unsignalledAt := t })
      ∧ ∀ k, k ≠ c → (v.complete c d.seq st r).ctx k = w.ctx k := by
  obtain ⟨x, hx⟩ : ∃ x, x = v.updCtx c fun y => { y with fetched := y.fetched.filter (fun e => e.seq != d.seq) } := ⟨_, rfl⟩
  have hcomplete : v.complete c d.seq st r = x.postCompletion c d.begun st r := by
    unfold Work.complete
    rw [h.fetched, find_startAll h.found, hx]
  have hctx : x.ctx c = { v.ctx c with fetched := (w.ctx c).fetched.filter (fun e => e.seq != d.seq) } := by
    rw [hx, Work.updCtx_ctx_same v c _ h.inRange, h.fetched, filter_startAll]
  have hlen : c < x.d.ctxs.length := by
    rw [hx]
    show c < (updAt v.d.ctxs c _).length
    rw [updAt_length]
    exact h.inRange
  have hxlog : x.log = v.log := by rw [hx]; rfl
  obtain ⟨hlog, ⟨n, t, hsame⟩, hother⟩ := x.postCompletion_posts d.begun st r hlen
  rw [hctx] at hlog hsame
  dsimp only at hlog hsame
  rw [h.cpl, h.version, hxlog] at hlog
  rw [h.cpl] at hsame
  rw [hcomplete]
  refine ⟨hlog, ⟨n, t, hsame⟩, fun k hk => (hother k hk).trans ?_⟩
  rw [hx, Work.updCtx_ctx_other v c k _ hk, h.others k hk]

/-- A completion keeps the tiles. -/
theorem Work.complete_tiles (w : Work) (c seq : Nat) (st : Status) (r : Nat) : (w.complete c seq st r).d.tiles = w.d.tiles :=
  Work.complete_aside (p := fun v => v.d.tiles) (fun _ _ _ => rfl) (fun _ _ _ _ => rfl) (fun _ _ _ _ => rfl) (fun _ _ _ => rfl)
    (fun _ _ _ => rfl) w c seq st r

/-- A state in which a descriptor has completed, by what its meaning wrote and left of the contexts. -/
theorem State.completed_of {s : State} {x : Work} {c : Nat} {d : Desc} {st : Status} {r : Nat} (hwf : Memory.wf s.mem = true)
    (hbase : x.base = s.mem) (hwiped : x.wiped = []) (hfz : x.fz = s.fuses)
    (hlog : x.log = journal (hostKey c ((s.work.ctx c).cpl.base.toNat + 16 * (s.work.ctx c).cpl.tail))
      (completionEntry d st r (decide ((s.work.ctx c).ringVersion < 0x0200)) (s.work.ctx c).cpl.phase) [])
    (hcpl : (x.ctx c).cpl = (s.work.ctx c).cpl.advance)
    (hfetched : (x.ctx c).fetched = (s.work.ctx c).fetched.filter (fun e => e.seq != d.seq))
    (hother : ∀ k, k ≠ c → x.ctx k = s.work.ctx k) : s.completed (s.finish x) c d st r := by
  refine ⟨State.finish_stores s x _ _ hwf hbase hwiped hlog, ?_, ?_, fun k hk => ?_⟩
  · rw [State.finish_ctx s x c hfz, hcpl]
  · rw [State.finish_ctx s x c hfz, hfetched]
  · rw [State.finish_ctx s x k hfz, hother k hk]

/-- A meaning that completes a started descriptor and is otherwise quiet: the entry, and the context's job and state. -/
theorem State.finish_completes {s : State} {v : Work} {c : Nat} {d : Desc} (hwf : Memory.wf s.mem = true) (h : s.work.Began v c d)
    (hstill : v.still = s.work.still) (hlog : v.log = []) (htiles : v.d.tiles = s.dev.tiles) (st : Status) (r : Nat) :
    s.completed (s.finish (v.complete c d.seq st r)) c d st r ∧ s.quietly (s.finish (v.complete c d.seq st r)) id
      ∧ (s.finish (v.complete c d.seq st r)).dev.tiles = s.dev.tiles
      ∧ ((s.finish (v.complete c d.seq st r)).work.ctx c).job = (v.ctx c).job
      ∧ ((s.finish (v.complete c d.seq st r)).work.ctx c).state = (v.ctx c).state := by
  have hvstill := (Work.complete_still v c d.seq st r).trans hstill
  obtain ⟨hwrote, ⟨n, t, hctx⟩, hother⟩ := h.completes st r
  rw [hlog] at hwrote
  refine ⟨State.completed_of hwf (Work.still_base hvstill) (Work.still_wiped hvstill) (Work.still_fz hvstill) hwrote (by rw [hctx]) (by rw [hctx])
    hother, State.finish_quietly hvstill, ?_, ?_, ?_⟩
  · rw [State.finish_tiles, Work.complete_tiles, htiles]
  · rw [State.finish_ctx _ _ _ (Work.still_fz hvstill), hctx]
  · rw [State.finish_ctx _ _ _ (Work.still_fz hvstill), hctx]

end Sys2Proof.Machine
end

section
/-!
PROOFS. The job descriptors of the command rings (R389 to R391, R442 to R444, R454). A descriptor that can start is started; then it
completes, halts its context or waits, by the context's job and state. STATE_INVALID for a start, or an unload, of a job whose start still
waits for its tick is the model's choice, which no log row names.
-/

namespace Sys2Proof.Machine

/-! ### Descriptors that start -/

/-- A context with a descriptor that can start is enabled and not halted (R442). -/
theorem Work.ready_open {w : Work} {c ring op : Nat} {serial : Bool} {d : Desc} (h : w.ready c ring op serial = some d) :
    (w.ctx c).enable = true ∧ (w.ctx c).halt.valid = false := by
  unfold Work.ready at h
  dsimp only at h
  split at h
  · cases h
  · next ho =>
    rw [Bool.or_eq_true, not_or, Bool.not_eq_true', Bool.not_eq_false, Bool.not_eq_true] at ho
    exact ho

/-- A serial opcode's descriptor that can start, started (R442). -/
theorem Work.serial_ready {w : Work} {c ring op : Nat} {d : Desc} (f : Work → Desc → Work) (h : w.ready c ring op true = some d) :
    w.serial c ring op f = f (w.startDesc c d.seq) d.begun := by
  rw [Work.serial, h]
  rfl

/-- The state that a machine halt of an open context leaves. -/
theorem exec_haltMachine {i : Instr} {s : State} {v : Work} {c reason detail : Nat}
    (hexec : exec i s = .next (s.finish (v.halt c (machineRec reason detail)))) (hfz : v.fz = s.fuses) (he : (v.ctx c).enable = true)
    (hv : (v.ctx c).halt.valid = false) : ∃ u, exec i s = .next u ∧ u.haltedWith c reason ∧ (u.work.ctx c).halt.detail = detail := by
  have hrec := Work.halt_rec v c (machineRec reason detail) he hv
  refine ⟨_, hexec, ?_⟩
  unfold State.haltedWith
  rw [State.finish_ctx _ _ _ ((Work.still_fz (Work.halt_still ..)).trans hfz), hrec]
  exact ⟨⟨rfl, rfl⟩, rfl⟩

section
variable {s : State} {c ring op : Nat} {serial : Bool} {d : Desc} (hw : s.work.waits c ring op serial d)
include hw

/-- What starting a descriptor leaves of its context: all but the list of fetched ones. -/
theorem Work.waits_ctx : (s.work.startDesc c d.seq).ctx c = { s.work.ctx c with fetched := startAll (s.work.ctx c).fetched d.seq } :=
  s.work.startDesc_ctx d.seq hw.2.2

theorem Work.waits_open : ((s.work.startDesc c d.seq).ctx c).enable = true ∧ ((s.work.startDesc c d.seq).ctx c).halt.valid = false := by
  rw [Work.waits_ctx hw]
  exact Work.ready_open hw.1

/-- A command that starts a waiting descriptor and completes it at once. -/
theorem exec_completes {i : Instr} {st : Status} {r : Nat} (hwf : Memory.wf s.mem = true)
    (hexec : exec i s = .next (s.finish ((s.work.startDesc c d.seq).complete c d.seq st r))) :
    ∃ u, exec i s = .next u ∧ s.completed u c d st r ∧ s.quietly u id ∧ u.dev.tiles = s.dev.tiles
      ∧ (u.work.ctx c).job = (s.work.ctx c).job ∧ (u.work.ctx c).state = (s.work.ctx c).state := by
  have h := State.finish_completes hwf (Work.waits_began hw) rfl rfl rfl st r
  rw [Work.waits_ctx hw] at h
  exact ⟨_, hexec, h⟩

end

/-! ### The rules of each descriptor -/

section
variable {s : State} {c ring : Nat} {d : Desc}

theorem exec_nop_waits (hw : s.work.waits c ring 0x00 false d) :
    exec (.nop c ring) s = .next (s.finish ((s.work.startDesc c d.seq).complete c d.seq .ok 0)) := by
  refine exec_finish rfl ?_
  rw [hw.1]

theorem exec_sync_waits (hw : s.work.waits c ring 0x01 true d) (h : (s.work.ctx c).oldest d = true) :
    exec (.sync c ring) s = .next (s.finish ((s.work.startDesc c d.seq).complete c d.seq .ok 0)) := by
  refine exec_finish rfl ?_
  rw [hw.1]
  exact if_pos h

theorem exec_sync_younger (hw : s.work.waits c ring 0x01 true d) (h : ¬ (s.work.ctx c).oldest d = true) : exec (.sync c ring) s = .next s := by
  refine exec_idle rfl ?_
  rw [hw.1]
  exact if_neg h

theorem exec_loadJob_waits (hw : s.work.waits c ring 0x10 true d) :
    exec (.loadJob c ring) s = .next (s.finish ((s.work.startDesc c d.seq).loadJob c d.begun)) := exec_finish rfl (Work.serial_ready _ hw.1)

theorem exec_startJob_waits (hw : s.work.waits c ring 0x11 true d) :
    exec (.startJob c ring) s = .next (s.finish ((s.work.startDesc c d.seq).startJob c d.begun)) := exec_finish rfl (Work.serial_ready _ hw.1)

theorem exec_stopJob_waits (hw : s.work.waits c ring 0x12 true d) :
    exec (.stopJob c ring) s = .next (s.finish ((s.work.startDesc c d.seq).stopJob c d.begun)) := exec_finish rfl (Work.serial_ready _ hw.1)

theorem exec_unloadJob_waits (hw : s.work.waits c ring 0x13 true d) :
    exec (.unloadJob c ring) s = .next (s.finish ((s.work.startDesc c d.seq).unloadJob c d.begun)) := exec_finish rfl (Work.serial_ready _ hw.1)

/-- URGENT_REQUEST of a context that runs no job, and of one that does (R443, R454). -/
theorem exec_urgentRequest_idle (hw : s.work.waits c ring 0x30 false d) (h : (s.work.ctx c).state ≠ .running) :
    exec (.urgentRequest c ring) s = .next (s.finish ((s.work.startDesc c d.seq).complete c d.seq .stateInvalid 0)) := by
  refine exec_finish rfl ?_
  unfold Work.takeRequest
  rw [hw.1]
  dsimp only
  rw [if_pos]
  rw [Work.waits_ctx hw]
  simpa using h

theorem exec_urgentRequest_running (hw : s.work.waits c ring 0x30 false d) (h : (s.work.ctx c).state = .running) :
    exec (.urgentRequest c ring) s = .next { s with dev := { s.dev with
      ctxs := updAt s.dev.ctxs c fun x =>
        { x with
          fetched := x.fetched.map fun e => if e.seq = d.seq then { e with started := true } else e
          waiting := x.waiting ++ [{ d with started := true : Desc }.request] } } } := by
  have hmeans : s.work.takeRequest c ring
      = (s.work.startDesc c d.seq).updCtx c fun x => { x with waiting := x.waiting ++ [{ d with started := true : Desc }.request] } := by
    unfold Work.takeRequest
    rw [hw.1]
    dsimp only
    rw [if_neg]
    rw [Work.waits_ctx hw]
    simp [h]
  refine (exec_next_dev rfl hmeans rfl rfl).trans ?_
  refine congrArg (fun l => Host.Outcome.next { s with dev := { s.dev with ctxs := l } }) ?_
  exact updAt_updAt ..

/-! ### LOAD_JOB -/

/-- LOAD_JOB with a job in the context (R390). -/
theorem exec_loadJob_busy (hw : s.work.waits c ring 0x10 true d) (hjob : (s.work.ctx c).job.isSome = true) :
    exec (.loadJob c ring) s = .next (s.finish ((s.work.startDesc c d.seq).halt c (machineRec 0x22 0))) := by
  rw [exec_loadJob_waits hw, Work.loadJob, if_pos]
  rw [Work.waits_ctx hw]
  exact hjob

/-- The object of an image: the context's own, resident in HBM (R389). -/
def Work.imageObject (w : Work) (c handle : Nat) : Option ResEntry :=
  w.d.residency.find? fun e => e.handle == handle && decide (e.state = .resident) && e.owner == c && decide (w.fz.space e.home = .hbm)

/-- LOAD_JOB of a context without a job, by the image's object (R389). -/
theorem exec_loadJob_object (hw : s.work.waits c ring 0x10 true d) (hjob : (s.work.ctx c).job = none) :
    (s.work.imageObject c (d.field 0 2) = none → exec (.loadJob c ring) s
        = .next (s.finish ((s.work.startDesc c d.seq).halt c (machineRec 0x48 (d.field 0 2)))))
    ∧ ∀ e, s.work.imageObject c (d.field 0 2) = some e → s.work.poisonIn e.home e.length = none →
      exec (.loadJob c ring) s = .next (s.finish (match (s.work.startDesc c d.seq).loadFault c e.home e.length with
        | some (r, k) => (s.work.startDesc c d.seq).halt c (machineRec r k)
        | none => ((s.work.startDesc c d.seq).loadImage c e.home (d.field 0 2)).complete c d.seq .ok 0)) := by
  have hnone : ¬ ((s.work.startDesc c d.seq).ctx c).job.isSome = true := by
    rw [Work.waits_ctx hw]
    simp [hjob]
  have hstart : (s.work.startDesc c d.seq).loadJob c d.begun = (match s.work.imageObject c (d.field 0 2) with
      | none => (s.work.startDesc c d.seq).halt c (machineRec 0x48 (d.field 0 2))
      | some e => match s.work.poisonIn e.home e.length with
        | some p => (s.work.startDesc c d.seq).poisonHalt c (machineRec 0x41 p) p
        | none => match (s.work.startDesc c d.seq).loadFault c e.home e.length with
          | some (r, k) => (s.work.startDesc c d.seq).halt c (machineRec r k)
          | none => ((s.work.startDesc c d.seq).loadImage c e.home (d.field 0 2)).complete c d.seq .ok 0) := by
    rw [Work.loadJob, if_neg hnone]
    rfl
  refine ⟨fun hobj => ?_, fun e hobj hclean => ?_⟩
  · rw [exec_loadJob_waits hw, hstart, hobj]
  · rw [exec_loadJob_waits hw, hstart, hobj]
    dsimp only
    rw [hclean]

/-- The job and the sections of an image read nothing that starting a descriptor changes (R385, R389). -/
theorem Work.startDesc_le (w : Work) (c seq k n : Nat) : (w.startDesc c seq).le k n = w.le k n := rfl

theorem Work.startDesc_planBases (w : Work) (c seq k : Nat) : (w.startDesc c seq).planBases k = w.planBases k := rfl

theorem Work.startDesc_planStreams (w : Work) (c seq k : Nat) : (w.startDesc c seq).planStreams k = w.planStreams k := rfl

theorem Work.startDesc_planBounds (w : Work) (c seq k i : Nat) : (w.startDesc c seq).planBounds k i = w.planBounds k i := rfl

theorem Work.startDesc_regionTable (w : Work) (c seq k : Nat) (x : Option Section) : (w.startDesc c seq).regionTable k x = w.regionTable k x := rfl

theorem Work.startDesc_imageQueues (w : Work) (c seq k : Nat) (ss : List Section) : (w.startDesc c seq).imageQueues k ss = w.imageQueues k ss := rfl

theorem Work.startDesc_loadStream (w : Work) (c seq k : Nat) (ss : List Section) : (w.startDesc c seq).loadStream k ss = w.loadStream k ss := by
  funext s
  simp only [Work.loadStream, Work.startDesc_le, Work.startDesc_planStreams, Work.startDesc_planBounds, Work.startDesc_regionTable]

theorem Work.startDesc_imageJob (w : Work) (c seq h handle : Nat) (ss : List Section) : (w.startDesc c seq).imageJob h handle ss = w.imageJob h handle ss := by
  simp only [Work.imageJob, Work.startDesc_le, Work.startDesc_planBases, Work.startDesc_imageQueues, Work.startDesc_loadStream]

theorem Work.startDesc_sections (w : Work) (c seq h : Nat) : (w.startDesc c seq).sections h = w.sections h := rfl

/-- The checks of an image read nothing that starting a descriptor changes (R389). -/
theorem Work.waits_loadFault (hw : s.work.waits c ring 0x10 true d) (h n : Nat) :
    (s.work.startDesc c d.seq).loadFault c h n = s.work.loadFault c h n := by
  have hmask : ((s.work.startDesc c d.seq).ctx c).tileMask = (s.work.ctx c).tileMask := by rw [Work.waits_ctx hw]
  unfold Work.loadFault
  dsimp only
  rw [hmask]
  rfl

/-- What the tiles of an image leave: all of the device but its tiles. -/
theorem Work.loadTile_keeps {β : Type} (p : Work → β) (htile : ∀ v t f, p (Work.updTile v t f) = p v) (hwr : ∀ v k bs, p (Work.wr v k bs) = p v)
    (w : Work) (h : Nat) (ss : List Section) (t : Nat) : p (w.loadTile h ss t) = p w := by
  unfold Work.loadTile
  dsimp only
  rw [htile, hwr]
  split
  · exact hwr ..
  · rfl

/-- What the tiles of an image leave as it is. -/
def Work.loadFrame (w : Work) : Fuses × List Ctx × List HaulQueue × List (List Byte) := (w.fz, w.d.ctxs, w.d.queues, w.d.sec.jobDigests)

/-- What a loaded image leaves in the device (R389, R528). -/
theorem Work.loadImage_reads (w : Work) (c h handle : Nat) :
    (w.loadImage c h handle).fz = w.fz
      ∧ (w.loadImage c h handle).d.ctxs = updAt w.d.ctxs c (fun x => { x with job := some (w.imageJob h handle (w.sections h)), state := .loaded })
      ∧ (w.loadImage c h handle).d.queues = (w.d.queues.filter fun q => q.ctx != c) ++ w.loadQueues c h (w.sections h)
      ∧ (w.loadImage c h handle).d.sec.jobDigests
        = updAt w.d.sec.jobDigests c fun _ => Config.sha384 (w.rdN h (w.le (h + 16) 8)) := by
  have htiles (ts : List Nat) : (ts.foldl (fun v t => v.loadTile h (w.sections h) t) w).loadFrame = w.loadFrame :=
    Work.foldl_keeps Work.loadFrame _ (fun _ _ => Work.loadTile_keeps Work.loadFrame (fun _ _ _ => rfl) (fun _ _ _ => rfl) ..) ts w
  obtain ⟨v, hv⟩ : ∃ v, v = ((List.range 64).filter fun t => (w.imageJob h handle (w.sections h)).tileMask.getLsbD t).foldl
    (fun v t => v.loadTile h (w.sections h) t) w := ⟨_, rfl⟩
  have hkeeps := htiles ((List.range 64).filter fun t => (w.imageJob h handle (w.sections h)).tileMask.getLsbD t)
  rw [← hv] at hkeeps
  simp only [Work.loadFrame, Prod.mk.injEq] at hkeeps
  obtain ⟨hfz, hctxs, hqueues, hdigests⟩ := hkeeps
  unfold Work.loadImage
  dsimp only
  rw [← hv, ← hfz, ← hctxs, ← hqueues, ← hdigests]
  exact ⟨rfl, rfl, rfl, rfl⟩

/-- A loaded image's descriptor completes (R389, R443). -/
theorem exec_loadJob_loads {e : ResEntry} (hw : s.work.waits c ring 0x10 true d) (hjob : (s.work.ctx c).job = none)
    (hobj : s.work.imageObject c (d.field 0 2) = some e) (hclean : s.work.poisonIn e.home e.length = none)
    (hfault : s.work.loadFault c e.home e.length = none) : ∃ u, exec (.loadJob c ring) s = .next u
      ∧ (u.work.ctx c).state = .loaded
      ∧ (u.work.ctx c).job = some (s.work.imageJob e.home (d.field 0 2) (s.work.sections e.home))
      ∧ (u.work.ctx c).fetched = (s.work.ctx c).fetched.filter (fun e => e.seq != d.seq)
      ∧ u.dev.queues = (s.dev.queues.filter fun q => q.ctx != c) ++ s.work.loadQueues c e.home (s.work.sections e.home)
      ∧ u.dev.sec.jobDigests
        = updAt s.dev.sec.jobDigests c fun _ => Config.sha384 (s.work.rdN e.home (s.work.le (e.home + 16) 8)) := by
  have hexec := (exec_loadJob_object hw hjob).2 e hobj hclean
  rw [Work.waits_loadFault hw, hfault] at hexec
  dsimp only at hexec
  have hbegan := Work.waits_began hw
  have hctx0 := Work.waits_ctx hw
  obtain ⟨hfz, hctxs, hqueues, hdigests⟩ := (s.work.startDesc c d.seq).loadImage_reads c e.home (d.field 0 2)
  obtain ⟨x, hx⟩ : ∃ x, x = (s.work.startDesc c d.seq).loadImage c e.home (d.field 0 2) := ⟨_, rfl⟩
  rw [← hx] at hexec hfz hctxs hqueues hdigests
  have hctx : x.ctx c = { (s.work.startDesc c d.seq).ctx c with
      job := some (s.work.imageJob e.home (d.field 0 2) (s.work.sections e.home)), state := .loaded } := by
    have hsame := Work.ctx_updAt_same hfz hctxs hbegan.inRange
    rw [Work.startDesc_imageJob, Work.startDesc_sections] at hsame
    exact hsame
  have hother (k : Nat) (hk : k ≠ c) : x.ctx k = s.work.ctx k := (Work.ctx_updAt_other hfz hctxs hk).trans (hbegan.others k hk)
  have hlen : c < x.d.ctxs.length := by
    rw [hctxs, updAt_length]
    exact hbegan.inRange
  have hloaded : s.work.Began x c d := ⟨hlen, by rw [hctx]; exact hbegan.fetched, hbegan.found, by rw [hctx]; exact hbegan.cpl,
    by rw [hctx]; exact hbegan.version, hother⟩
  obtain ⟨-, ⟨n, t, hdone⟩, -⟩ := hloaded.completes .ok 0
  have hstill := Work.complete_still x c d.seq .ok 0
  have hufz : (x.complete c d.seq .ok 0).fz = s.fuses := (Work.still_fz hstill).trans hfz
  refine ⟨_, hexec, ?_, ?_, ?_, ?_, ?_⟩
  · rw [State.finish_ctx _ _ _ hufz, hdone, hctx]
  · rw [State.finish_ctx _ _ _ hufz, hdone, hctx]
  · rw [State.finish_ctx _ _ _ hufz, hdone]
  · rw [State.finish_queues, Work.still_queues hstill, hqueues]
    rfl
  · rw [State.finish_sec, Work.still_sec hstill, hdigests]
    rfl

/-! ### START_JOB -/

/-- START_JOB of a context without a loaded job that can start (R443). -/
theorem exec_startJob_refused (hw : s.work.waits c ring 0x11 true d)
    (h : (s.work.ctx c).job = none ∨ (s.work.ctx c).state ≠ .loaded ∨ ∃ j, (s.work.ctx c).job = some j ∧ j.startDesc.isSome = true) :
    exec (.startJob c ring) s = .next (s.finish ((s.work.startDesc c d.seq).complete c d.seq .stateInvalid 0)) := by
  have hctx := Work.waits_ctx hw
  rw [exec_startJob_waits hw, Work.startJob, hctx]
  dsimp only
  cases hjob : (s.work.ctx c).job with
  | none => rfl
  | some j =>
    dsimp only
    rw [if_pos]
    · rfl
    · rcases h with h | h | ⟨k, hk, hd⟩
      · rw [hjob] at h
        cases h
      · exact .inl h
      · rw [hjob] at hk
        cases hk
        exact .inr hd

/-- START_JOB of a loaded job, by its checks (R389). -/
theorem exec_startJob_loaded {j : Job} (hw : s.work.waits c ring 0x11 true d) (hjob : (s.work.ctx c).job = some j)
    (hstate : (s.work.ctx c).state = .loaded) (hd : j.startDesc = none) :
    exec (.startJob c ring) s = .next (s.finish (if s.work.startCause c j ≠ 0 then
        (s.work.startDesc c d.seq).halt c (machineRec 0x2B (s.work.startCause c j))
      else match s.work.censusOutside c j with
        | some a => (s.work.startDesc c d.seq).halt c (machineRec 0x48 a)
        | none => (((s.work.startDesc c d.seq).updJob c fun j => { j with startDesc := some d.begun }).upd fun k =>
            { k with machineStopped := k.machineStopped && !j.machine, pitch := { k.pitch with overran := false } }).tryReport)) := by
  have hctx := Work.waits_ctx hw
  have hcause : (s.work.startDesc c d.seq).startCause c j = s.work.startCause c j := by
    unfold Work.startCause
    rw [hctx]
    rfl
  rw [exec_startJob_waits hw, Work.startJob, hctx]
  dsimp only
  rw [hjob]
  dsimp only
  rw [if_neg (by rw [hstate, hd]; simp), hcause]
  rfl

/-- A job that starts at the next tick (R389). -/
theorem exec_startJob_starts {j : Job} (hw : s.work.waits c ring 0x11 true d) (hjob : (s.work.ctx c).job = some j)
    (hstate : (s.work.ctx c).state = .loaded) (hd : j.startDesc = none) (hcause : s.work.startCause c j = 0)
    (hcensus : s.work.censusOutside c j = none) : ∃ u, exec (.startJob c ring) s = .next u
      ∧ (u.work.ctx c).job = some { j with startDesc := some { d with started := true } } ∧ (u.work.ctx c).state = .loaded
      ∧ (∀ k, k ≠ c → u.work.ctx k = s.work.ctx k) ∧ u.mem = s.mem ∧ u.dev.tiles = s.dev.tiles
      ∧ u.dev.machineStopped = (s.dev.machineStopped && !j.machine) := by
  have hbegan := Work.waits_began hw
  obtain ⟨x, hx⟩ : ∃ x, x = ((s.work.startDesc c d.seq).updJob c fun j => { j with startDesc := some d.begun }).upd fun k =>
    { k with machineStopped := k.machineStopped && !j.machine, pitch := { k.pitch with overran := false } } := ⟨_, rfl⟩
  have hexec := exec_startJob_loaded hw hjob hstate hd
  rw [if_neg (by simp [hcause]), hcensus] at hexec
  dsimp only at hexec
  rw [← hx] at hexec
  have hctx : x.ctx c = { (s.work.startDesc c d.seq).ctx c with job := some { j with startDesc := some d.begun } } := by
    have hupd := Work.updCtx_ctx_same (s.work.startDesc c d.seq) c (fun y => { y with job := y.job.map fun j => { j with startDesc := some d.begun } })
      hbegan.inRange
    rw [hx]
    refine hupd.trans ?_
    rw [Work.waits_ctx hw, hjob]
    rfl
  have hother (k : Nat) (hk : k ≠ c) : x.ctx k = s.work.ctx k := by
    rw [hx]
    exact (Work.updCtx_ctx_other (s.work.startDesc c d.seq) c k _ hk).trans (hbegan.others k hk)
  have hstopped : x.tryReport.d.machineStopped = x.d.machineStopped :=
    Work.tryReport_keeps (fun v => v.d.machineStopped)
      (Work.sendBelay_keeps (fun v => v.d.machineStopped) (fun _ _ => rfl) (fun _ _ _ _ => rfl) fun _ _ _ => rfl) (fun _ _ _ _ _ _ => rfl) x
  have hfz : x.tryReport.fz = s.fuses := (Work.tryReport_fz x).trans (by rw [hx]; rfl)
  have hframe := Work.tryReport_reportFrame x
  simp only [Work.reportFrame, Prod.mk.injEq] at hframe
  obtain ⟨-, htiles, hlog, hwiped, -, -⟩ := hframe
  refine ⟨_, hexec, ?_, ?_, fun k hk => ?_, State.finish_mem s _ (hlog.trans (by rw [hx]; rfl)) (hwiped.trans (by rw [hx]; rfl)), ?_, ?_⟩
  · rw [State.finish_ctx _ _ _ hfz, Work.tryReport_ctx, hctx]
    rfl
  · rw [State.finish_ctx _ _ _ hfz, Work.tryReport_ctx, hctx, Work.waits_ctx hw]
    exact hstate
  · rw [State.finish_ctx _ _ _ hfz, Work.tryReport_ctx, hother k hk]
  · rw [State.finish_tiles, htiles, hx]
    rfl
  · rw [State.finish_machineStopped, hstopped, hx]
    rfl

/-! ### STOP_JOB -/

/-- STOP_JOB of a context that runs no job (R443). -/
theorem exec_stopJob_refused (hw : s.work.waits c ring 0x12 true d) (h : (s.work.ctx c).job = none ∨ (s.work.ctx c).state ≠ .running) :
    exec (.stopJob c ring) s = .next (s.finish ((s.work.startDesc c d.seq).complete c d.seq .stateInvalid 0)) := by
  rw [exec_stopJob_waits hw, Work.stopJob, Work.waits_ctx hw]
  dsimp only
  cases hjob : (s.work.ctx c).job with
  | none => rfl
  | some j =>
    dsimp only
    rw [if_pos]
    · rfl
    · rcases h with h | h
      · rw [hjob] at h
        cases h
      · exact h

/-- A job's last step named (R444). -/
theorem Work.Began.updJob {v : Work} (h : s.work.Began v c d) (f : Job → Job) : s.work.Began (v.updJob c f) c d := by
  have hctx : (v.updJob c f).ctx c = { v.ctx c with job := (v.ctx c).job.map f } := Work.updCtx_ctx_same v c _ h.inRange
  refine ⟨?_, by rw [hctx]; exact h.fetched, h.found, by rw [hctx]; exact h.cpl, by rw [hctx]; exact h.version,
    fun k hk => (Work.updCtx_ctx_other v c k _ hk).trans (h.others k hk)⟩
  show c < (updAt v.d.ctxs c _).length
  rw [updAt_length]
  exact h.inRange

/-- STOP_JOB of a running job: the step it names, or the step reached where that has passed (R444). -/
theorem exec_stopJob_running {j : Job} (hwf : Memory.wf s.mem = true) (hw : s.work.waits c ring 0x12 true d) (hjob : (s.work.ctx c).job = some j)
    (hstate : (s.work.ctx c).state = .running) {late : Bool}
    (hlate : late = decide (stepsFrom j.firstStep (d.field 0 4) < stepsFrom j.firstStep j.step)) :
    ∃ u, exec (.stopJob c ring) s = .next u ∧ s.quietly u id ∧ u.dev.tiles = s.dev.tiles
      ∧ s.completed u c d (if late then .stopLate else .ok) (if late then j.step % 2 ^ 32 else 0)
      ∧ (u.work.ctx c).job = some { j with stopStep := some (if late then j.step else d.field 0 4) } := by
  have hbegan := Work.waits_began hw
  have hdone (f : Job → Job) (st : Status) (r : Nat) (hexec : exec (.stopJob c ring) s
      = .next (s.finish (((s.work.startDesc c d.seq).updJob c f).complete c d.seq st r))) :
      ∃ u, exec (.stopJob c ring) s = .next u ∧ s.quietly u id ∧ u.dev.tiles = s.dev.tiles ∧ s.completed u c d st r
        ∧ (u.work.ctx c).job = some (f j) := by
    obtain ⟨hcompleted, hquiet, htiles, hjob', -⟩ := State.finish_completes hwf (hbegan.updJob f) rfl rfl rfl st r
    refine ⟨_, hexec, hquiet, htiles, hcompleted, hjob'.trans ?_⟩
    rw [Work.updJob, Work.updCtx_ctx_same _ _ _ hbegan.inRange, Work.waits_ctx hw]
    exact congrArg (Option.map f) hjob
  have hstart : exec (.stopJob c ring) s = .next (s.finish (if stepsFrom j.firstStep (d.field 0 4) < stepsFrom j.firstStep j.step then
      ((s.work.startDesc c d.seq).updJob c fun j => { j with stopStep := some j.step }).complete c d.seq .stopLate (j.step % 2 ^ 32)
    else ((s.work.startDesc c d.seq).updJob c fun j => { j with stopStep := some (d.field 0 4) }).complete c d.seq .ok 0)) := by
    rw [exec_stopJob_waits hw, Work.stopJob, Work.waits_ctx hw]
    dsimp only
    rw [hjob]
    dsimp only
    rw [if_neg (by simp [hstate])]
    rfl
  by_cases h : stepsFrom j.firstStep (d.field 0 4) < stepsFrom j.firstStep j.step
  · rw [if_pos h] at hstart
    rw [hlate, decide_eq_true h]
    exact hdone _ _ _ hstart
  · rw [if_neg h] at hstart
    rw [hlate, decide_eq_false h]
    exact hdone _ _ _ hstart

/-! ### UNLOAD_JOB -/

/-- UNLOAD_JOB while the job runs or is about to (R443). -/
theorem exec_unloadJob_refused (hw : s.work.waits c ring 0x13 true d)
    (h : (s.work.ctx c).state = .running ∨ ∃ j, (s.work.ctx c).job = some j ∧ j.startDesc.isSome = true) :
    exec (.unloadJob c ring) s = .next (s.finish ((s.work.startDesc c d.seq).complete c d.seq .stateInvalid 0)) := by
  rw [exec_unloadJob_waits hw, Work.unloadJob, Work.waits_ctx hw]
  dsimp only
  rw [if_pos]
  · rfl
  · rcases h with h | ⟨j, hj, hd⟩
    · simp [h]
    · rw [hj]
      simp [hd]

/-- A context's work without its job. -/
def Ctx.unloaded (x : Ctx) : Ctx :=
  { x with
    job := none, cmds := [], fences := [], waited := [], replay := none, layers := [], waiting := [], executing := [], lateDispatch := false
    state := if x.enable then .idle else .disabled }

/-- What unloading a job leaves (R435, R443). -/
theorem Work.unload_reads (w : Work) (c : Nat) :
    ((w.unload c).fz = w.fz ∧ (w.unload c).base = w.base ∧ (w.unload c).wiped = w.wiped ∧ (w.unload c).log = w.log)
      ∧ (w.unload c).d.ctxs = updAt w.d.ctxs c Ctx.unloaded ∧ (w.unload c).d.queues = w.d.queues.filter fun q => q.ctx != c := by
  obtain ⟨v, hv⟩ : ∃ v, v = w.upd fun d =>
    { d with
      queues := d.queues.filter fun q => q.ctx != c
      sec := { d.sec with jobDigests := updAt d.sec.jobDigests c fun _ => List.replicate 48 0 } } := ⟨_, rfl⟩
  have htiles (ts : List Nat) := Work.foldl_keeps (fun v : Work => (v.fz, v.base, v.wiped, v.log, v.d.ctxs, v.d.queues))
    (fun v t => v.updTile t fun k => { k with loaded := false }) (fun _ _ => rfl) ts v
  have hkeeps := htiles (v.ctx c).tiles
  simp only [Prod.mk.injEq] at hkeeps
  obtain ⟨hfz, hbase, hwiped, hlog, hctxs, hqueues⟩ := hkeeps
  unfold Work.unload
  dsimp only
  rw [← hv]
  refine ⟨⟨hfz.trans (by rw [hv]; rfl), hbase.trans (by rw [hv]; rfl), hwiped.trans (by rw [hv]; rfl), hlog.trans (by rw [hv]; rfl)⟩, ?_,
    hqueues.trans (by rw [hv]; rfl)⟩
  exact congrArg (fun l => updAt l c Ctx.unloaded) (hctxs.trans (by rw [hv]; rfl))

/-- UNLOAD_JOB of a job that neither runs nor is about to (R443). -/
theorem exec_unloadJob_unloads (hwf : Memory.wf s.mem = true) (hw : s.work.waits c ring 0x13 true d) (hstate : (s.work.ctx c).state ≠ .running)
    (hjob : ∀ j, (s.work.ctx c).job = some j → j.startDesc = none) :
    ∃ u, exec (.unloadJob c ring) s = .next u ∧ s.completed u c d .ok 0
      ∧ (u.work.ctx c).job = none ∧ (u.work.ctx c).state = .idle ∧ u.dev.queues = s.dev.queues.filter fun q => q.ctx != c := by
  have hbegan := Work.waits_began hw
  have hopen := Work.waits_open hw
  obtain ⟨x, hx⟩ : ∃ x, x = (s.work.startDesc c d.seq).unload c := ⟨_, rfl⟩
  have hexec : exec (.unloadJob c ring) s = .next (s.finish (x.complete c d.seq .ok 0).tryReport) := by
    rw [exec_unloadJob_waits hw, Work.unloadJob, Work.waits_ctx hw]
    dsimp only
    rw [if_neg, hx]
    · rfl
    · cases hj : (s.work.ctx c).job with
      | none => simp [hstate]
      | some j => simp [hstate, hjob j hj]
  obtain ⟨⟨hfz, hbase, hwiped, hlog⟩, hctxs, hqueues⟩ := (s.work.startDesc c d.seq).unload_reads c
  rw [← hx] at hfz hbase hwiped hlog hctxs hqueues
  have hctx : x.ctx c = ((s.work.startDesc c d.seq).ctx c).unloaded := by
    have hsame := Work.ctx_updAt_same hfz hctxs hbegan.inRange
    exact hsame
  have hother (k : Nat) (hk : k ≠ c) : x.ctx k = s.work.ctx k := by
    refine Eq.trans ?_ (hbegan.others k hk)
    exact Work.ctx_updAt_other hfz hctxs hk
  have hidle : (x.ctx c).state = .idle := by
    rw [hctx]
    exact if_pos hopen.1
  have hunloaded : s.work.Began x c d := ⟨by rw [hctxs, updAt_length]; exact hbegan.inRange, by rw [hctx]; exact hbegan.fetched, hbegan.found,
    by rw [hctx]; exact hbegan.cpl, by rw [hctx]; exact hbegan.version, hother⟩
  obtain ⟨hwrote, ⟨n, t, hdone⟩, hothers⟩ := hunloaded.completes .ok 0
  have hstill := Work.complete_still x c d.seq .ok 0
  have hframe := Work.tryReport_reportFrame (x.complete c d.seq .ok 0)
  simp only [Work.reportFrame, Prod.mk.injEq] at hframe
  obtain ⟨-, -, hrlog, hrwiped, -, -⟩ := hframe
  have hrbase := (Prod.mk.inj (Work.tryReport_base_rowMoves (x.complete c d.seq .ok 0))).1
  have hrqueues : (x.complete c d.seq .ok 0).tryReport.d.queues = (x.complete c d.seq .ok 0).d.queues :=
    Work.tryReport_keeps (fun v => v.d.queues)
      (Work.sendBelay_keeps (fun v => v.d.queues) (fun _ _ => rfl) (fun _ _ _ _ => rfl) fun _ _ _ => rfl) (fun _ _ _ _ _ _ => rfl) _
  have hufz : (x.complete c d.seq .ok 0).tryReport.fz = s.fuses := ((Work.tryReport_fz _).trans (Work.still_fz hstill)).trans hfz
  have huctx (k : Nat) := Work.tryReport_ctx (x.complete c d.seq .ok 0) k
  rw [hlog] at hwrote
  refine ⟨_, hexec, State.completed_of hwf ((hrbase.trans (Work.still_base hstill)).trans hbase)
    ((hrwiped.trans (Work.still_wiped hstill)).trans hwiped) hufz (hrlog.trans hwrote) ?_ ?_ fun k hk => (huctx k).trans (hothers k hk), ?_, ?_, ?_⟩
  · rw [huctx, hdone]
  · rw [huctx, hdone]
  · rw [State.finish_ctx _ _ _ hufz, huctx, hdone, hctx]
    rfl
  · rw [State.finish_ctx _ _ _ hufz, huctx, hdone]
    exact hidle
  · rw [State.finish_queues, hrqueues, Work.still_queues hstill, hqueues]
    rfl

end

/-- Settles O54: each descriptor that can start is started and then completes, halts or waits, by the context's job and state. STATE_INVALID
for a start or an unload while a start still waits for its tick is the model's choice. -/
theorem jobDescriptorsComplete : Obligations.JobDescriptorsComplete := by
  refine ⟨fun c ring op serial i s hno hi => ?_, fun c ring d s hwf hw => exec_completes hw hwf (exec_nop_waits hw), fun c ring d s hwf hw => ?_,
    fun c ring op serial d i s hwf hw h => ?_, fun c ring d s hw hjob => ?_, fun c ring d s hw hjob hno => ?_,
    fun c ring d e s hw hjob hobj hclean => ⟨fun reason detail hfault => ?_, fun hfault => exec_loadJob_loads hw hjob hobj hclean hfault⟩,
    fun c ring d j s hw hjob hstate hd => ⟨fun hcause => ?_, fun a hcause hcensus => ?_,
      fun hcause hcensus => exec_startJob_starts hw hjob hstate hd hcause hcensus⟩,
    fun c ring d j s hwf hw hjob hstate => exec_stopJob_running hwf hw hjob hstate rfl,
    fun c ring d s hwf hw hstate hjob => exec_unloadJob_unloads hwf hw hstate hjob, fun c ring d s hw hstate => exec_urgentRequest_running hw hstate⟩
  · have hserial (f : Work → Desc → Work) (h : s.work.ready c ring op true = none) : s.work.serial c ring op f = s.work := by
      rw [Work.serial, h]
    simp only [List.mem_cons, Prod.mk.injEq, List.not_mem_nil, or_false] at hi
    rcases hi with ⟨rfl, rfl, rfl⟩ | ⟨rfl, rfl, rfl⟩ | ⟨rfl, rfl, rfl⟩ | ⟨rfl, rfl, rfl⟩ | ⟨rfl, rfl, rfl⟩ | ⟨rfl, rfl, rfl⟩ | ⟨rfl, rfl, rfl⟩
    · exact exec_idle rfl (by rw [hno])
    · exact exec_idle rfl (by rw [hno])
    · exact exec_idle rfl (hserial _ hno)
    · exact exec_idle rfl (hserial _ hno)
    · exact exec_idle rfl (hserial _ hno)
    · exact exec_idle rfl (hserial _ hno)
    · exact exec_idle rfl (by rw [Work.takeRequest, hno])
  · split
    · next h => exact exec_completes hw hwf (exec_sync_waits hw h)
    · next h => exact exec_sync_younger hw h
  · rcases h with ⟨rfl, rfl, rfl, h⟩ | ⟨rfl, rfl, rfl, h⟩ | ⟨rfl, rfl, rfl, h⟩ | ⟨rfl, rfl, rfl, h⟩
    · exact exec_completes hw hwf (exec_startJob_refused hw h)
    · exact exec_completes hw hwf (exec_stopJob_refused hw h)
    · exact exec_completes hw hwf (exec_unloadJob_refused hw h)
    · exact exec_completes hw hwf (exec_urgentRequest_idle hw h)
  · obtain ⟨he, hv⟩ := Work.waits_open hw
    obtain ⟨u, hu, hhalt, -⟩ := exec_haltMachine (exec_loadJob_busy hw hjob) rfl he hv
    exact ⟨u, hu, hhalt⟩
  · obtain ⟨he, hv⟩ := Work.waits_open hw
    refine exec_haltMachine ((exec_loadJob_object hw hjob).1 ?_) rfl he hv
    refine List.find?_eq_none.mpr fun e he => ?_
    simp only [Bool.and_eq_true, beq_iff_eq, decide_eq_true_eq]
    exact fun ⟨⟨⟨hh, hst⟩, hown⟩, hsp⟩ => hno e he hh hst hown hsp
  · obtain ⟨he, hv⟩ := Work.waits_open hw
    have hexec := (exec_loadJob_object hw hjob).2 e hobj hclean
    rw [Work.waits_loadFault hw, hfault] at hexec
    exact exec_haltMachine hexec rfl he hv
  · obtain ⟨he, hv⟩ := Work.waits_open hw
    have hexec := exec_startJob_loaded hw hjob hstate hd
    rw [if_pos hcause] at hexec
    exact exec_haltMachine hexec rfl he hv
  · obtain ⟨he, hv⟩ := Work.waits_open hw
    have hexec := exec_startJob_loaded hw hjob hstate hd
    rw [if_neg (by simp [hcause]), hcensus] at hexec
    exact exec_haltMachine hexec rfl he hv

end Sys2Proof.Machine
end

section
/-!
PROOFS. Doorbells, descriptor fetch and context setup (R373, R431, R435, R436, R439 to R441, R446, R452, R453). That a disabled context's
doorbell is ignored, that disabling discards what was fetched, and the order of the checks are the model's choices (logs 41, 43, 112 and
113).
-/

namespace Sys2Proof.Machine

/-! ### Doorbells -/

/-- An event of a context leaves the context's other rings, and the head of the event ring (R448). -/
theorem Work.writeEvent_rings (w : Work) {c : Nat} (dev : Bool) (e : HeldEvent) (hc : c < w.d.ctxs.length) :
    ((w.writeEvent c dev e).ctx c).cmd = (w.ctx c).cmd ∧ ((w.writeEvent c dev e).ctx c).cpl = (w.ctx c).cpl
      ∧ ((w.writeEvent c dev e).ctx c).evt.head = (w.ctx c).evt.head := by
  by_cases hfull : (w.ctx c).evt.full = true
  · have hdrop : (w.writeEvent c dev e).ctx c = { w.ctx c with evt := { (w.ctx c).evt with dropped := true } } := by
      unfold Work.writeEvent
      dsimp only
      rw [if_pos hfull]
      exact Work.updCtx_ctx_same (w.countCtx c Ctr.eventDrops 1) c _ hc
    rw [hdrop]
    exact ⟨rfl, rfl, rfl⟩
  · rw [(Work.writeEvent_posts w dev e hc (Bool.eq_false_iff.mpr hfull)).2]
    exact ⟨rfl, rfl, rfl⟩

/-- A doorbell that is reported (R440). -/
theorem exec_doorbellInvalid {i : Instr} {c off value : Nat} {s : State} (hwf : Memory.wf s.mem = true) (he : (s.work.ctx c).enable = true)
    (hc : c < s.dev.ctxs.length) (hexec : exec i s = .next (s.finish (s.work.doorbellInvalid c off value))) :
    ∃ u, exec i s = .next u ∧ s.quietly u id ∧ (u.work.ctx c).cmd = (s.work.ctx c).cmd ∧ (u.work.ctx c).cpl = (s.work.ctx c).cpl
      ∧ (u.work.ctx c).evt.head = (s.work.ctx c).evt.head ∧ (∀ k, k ≠ c → u.work.ctx k = s.work.ctx k)
      ∧ ((s.work.ctx c).evt.full = false → s.posted u c false
          (s.work.event 0x0003 c (leBytes 1 (off / 8) ++ leBytes 1 0 ++ leBytes 2 value))) := by
  obtain ⟨e, hedef⟩ : ∃ e, e = s.work.event 0x0003 c (leBytes 1 (off / 8) ++ leBytes 1 0 ++ leBytes 2 value) := ⟨_, rfl⟩
  obtain ⟨v, hv⟩ : ∃ v, v = s.work.countCtx c Ctr.doorbellInvalid 1 := ⟨_, rfl⟩
  have hctx (k : Nat) : v.ctx k = s.work.ctx k := by rw [hv]; rfl
  have hmeans : s.work.doorbellInvalid c off value = v.writeEvent c false e := by
    unfold Work.doorbellInvalid
    rw [← hv]
    unfold Work.postEvent
    rw [if_pos ((congrArg Ctx.enable (hctx c)).trans he), hedef, hv]
    rfl
  have hlen : c < v.d.ctxs.length := by rw [hv]; exact hc
  have hlog : v.log = [] := by rw [hv]; rfl
  have hstill : (v.writeEvent c false e).still = s.work.still := (Work.writeEvent_still ..).trans (by rw [hv]; rfl)
  obtain ⟨hcmd, hcpl, hhead⟩ := v.writeEvent_rings false e hlen
  rw [hctx] at hcmd hcpl hhead
  rw [hmeans] at hexec
  have hfz := Work.still_fz hstill
  refine ⟨_, hexec, State.finish_quietly hstill, ?_, ?_, ?_, fun k hk => ?_, fun hroom => ?_⟩
  · rw [State.finish_ctx _ _ _ hfz, hcmd]
  · rw [State.finish_ctx _ _ _ hfz, hcpl]
  · rw [State.finish_ctx _ _ _ hfz, hhead]
  · rw [State.finish_ctx _ _ _ hfz, Work.writeEvent_ctx_other v false e hk, hctx]
  · obtain ⟨hwrote, hevt⟩ := v.writeEvent_posts false e hlen (by rw [hctx]; exact hroom)
    rw [hctx, hlog] at hwrote
    rw [hctx] at hevt
    rw [← hedef]
    exact State.finish_posted hwf ⟨Work.still_base hstill, Work.still_wiped hstill, hfz⟩ hwrote (congrArg Ctx.evt hevt)

section
variable {c ring v : Nat} {s : State} (hr : s.dev.responds = true) (he : (s.work.ctx c).enable = true)
include hr he

/-- The doorbells of an enabled context (R440). -/
theorem exec_dbCmdTail_enabled :
    exec (.dbCmdTail c ring v) s = .next (s.finish
      (if (((s.work.ctx c).ring ring).size == 0 || decide (2 ^ ((s.work.ctx c).ring ring).size ≤ v % 65536)) = true then
        s.work.doorbellInvalid c (8 * ring) (v % 65536)
      else s.work.updCtx c fun x => x.updRing ring fun r => r.ringBell (v % 65536) s.dev.nowNs)) := by
  refine exec_finish rfl ((if_pos hr).trans ?_)
  exact if_neg (by rw [he]; decide)

theorem exec_dbCplHead_enabled :
    exec (.dbCplHead c v) s = .next (s.finish (if decide (2 ^ (s.work.ctx c).cpl.size ≤ v % 65536) = true then
        s.work.doorbellInvalid c 0x20 (v % 65536)
      else s.work.updCtx c fun x => { x with cpl := { x.cpl with head := v % 65536 } })) := by
  refine exec_finish rfl ((if_pos hr).trans ?_)
  exact if_neg (by rw [he]; decide)

theorem exec_dbEvtHead_enabled :
    exec (.dbEvtHead c v) s = .next (s.finish (if decide (2 ^ (s.work.ctx c).evt.size ≤ v % 4096) = true then
        s.work.doorbellInvalid c 0x28 (v % 4096)
      else s.work.updCtx c fun x => { x with evt := { x.evt with head := v % 4096 } })) := by
  refine exec_finish rfl ((if_pos hr).trans ?_)
  exact if_neg (by rw [he]; decide)

end

/-! ### Completions of any descriptor -/

/-- What a completion leaves of the contexts, whether the descriptor waits or not (R447). -/
theorem Work.complete_ctx (w : Work) {c : Nat} (seq : Nat) (st : Status) (r : Nat) (hc : c < w.d.ctxs.length) :
    (∃ o n t, (w.complete c seq st r).ctx c = { w.ctx c with
        cpl := o, fetched := (w.ctx c).fetched.filter (fun e => e.seq != seq), unsignalled := n, unsignalledAt := t })
      ∧ ∀ k, k ≠ c → (w.complete c seq st r).ctx k = w.ctx k := by
  unfold Work.complete
  cases hfind : (w.ctx c).fetched.find? fun e => e.seq == seq with
  | none =>
    have hall : (w.ctx c).fetched.filter (fun e => e.seq != seq) = (w.ctx c).fetched :=
      List.filter_eq_self.mpr fun e he => by simpa using List.find?_eq_none.mp hfind e he
    dsimp only
    rw [hall]
    exact ⟨⟨_, _, _, rfl⟩, fun _ _ => rfl⟩
  | some d =>
    obtain ⟨x, hx⟩ : ∃ x, x = w.updCtx c fun y => { y with fetched := y.fetched.filter (fun e => e.seq != seq) } := ⟨_, rfl⟩
    have hctx : x.ctx c = { w.ctx c with fetched := (w.ctx c).fetched.filter (fun e => e.seq != seq) } := by
      rw [hx, Work.updCtx_ctx_same w c _ hc]
    have hlen : c < x.d.ctxs.length := by
      rw [hx]
      show c < (updAt w.d.ctxs c _).length
      rw [updAt_length]
      exact hc
    obtain ⟨-, ⟨n, t, hsame⟩, hother⟩ := x.postCompletion_posts d st r hlen
    dsimp only
    rw [← hx, hsame, hctx]
    refine ⟨⟨_, _, _, rfl⟩, fun k hk => (hother k hk).trans ?_⟩
    rw [hx]
    exact Work.updCtx_ctx_other w c k _ hk

/-- A completion keeps the number of contexts. -/
theorem Work.complete_length (w : Work) (c seq : Nat) (st : Status) (r : Nat) : (w.complete c seq st r).d.ctxs.length = w.d.ctxs.length :=
  Work.complete_aside (p := fun v => v.d.ctxs.length) (fun v k f => updAt_length v.d.ctxs k f) (fun _ _ _ _ => rfl) (fun _ _ _ _ => rfl)
    (fun _ _ _ => rfl) (fun _ _ _ => rfl) w c seq st r

/-! ### Descriptor fetch -/

/-- A ring's head moved on by a fetch (R441). -/
def CmdRing.fetched (r : CmdRing) : CmdRing := { r with head := (r.head + 1) % 2 ^ r.size, bells := (takeBell r.bells).2 }

/-- A fetched descriptor in its context, its ring moved on (R441, R446). -/
def Work.takenIn (w : Work) (c ring : Nat) : Work :=
  ((w.cacheIova c (((w.ctx c).ring ring).base.toNat + 64 * ((w.ctx c).ring ring).head)).countCtx c Ctr.hostDescriptorsFetched 1).updCtx c fun x =>
    { x with
      fetched := x.fetched ++ [w.nextDesc c ring], fetchSeq := x.fetchSeq + 1
      cmd := updAt x.cmd ring fun r => { r with head := (w.nextDesc c ring).head, bells := (takeBell ((w.ctx c).ring ring).bells).2 } }

/-- The context's record with a descriptor fetched, and the rest (R441). -/
theorem Work.takenIn_ctxFrame (w : Work) (c ring : Nat) :
    (w.takenIn c ring).ctxFrame = (w.updCtx c fun x =>
      { x with
        fetched := x.fetched ++ [w.nextDesc c ring], fetchSeq := x.fetchSeq + 1
        cmd := updAt x.cmd ring fun r => { r with head := (w.nextDesc c ring).head, bells := (takeBell ((w.ctx c).ring ring).bells).2 } }).ctxFrame := by
  have hupd (v : Work) (f : Ctx → Ctx) (hv : v.ctxFrame = w.ctxFrame) : (v.updCtx c f).ctxFrame = (w.updCtx c f).ctxFrame := by
    simp only [Work.ctxFrame, Prod.mk.injEq] at hv ⊢
    obtain ⟨hfz, hctxs, htiles, hlog, hwiped⟩ := hv
    exact ⟨hfz, congrArg (fun l => updAt l c f) hctxs, htiles, hlog, hwiped⟩
  unfold Work.takenIn
  exact hupd _ _ rfl

/-- A fetch of one descriptor: taken, and completed at once where its context is halted or its opcode is not known (R443, R446). -/
theorem Work.fetchOne_eq (w : Work) (c ring : Nat) :
    w.fetchOne c ring = if (w.ctx c).halt.valid = true then (w.takenIn c ring).complete c (w.nextDesc c ring).seq .discarded 0
      else if (w.ctx c).opcodeBad c (w.nextDesc c ring) = true then (w.takenIn c ring).complete c (w.nextDesc c ring).seq .opcodeInvalid 0
      else w.takenIn c ring := rfl

/-- What a fetch keeps: what is still, the tiles and the number of contexts. -/
def Work.fetchFrame (w : Work) : (Fuses × List Host.Cell × List (Nat × Nat) × Dev) × List Tile × Nat := (w.still, w.d.tiles, w.d.ctxs.length)

theorem Work.complete_fetchFrame (w : Work) (c seq : Nat) (st : Status) (r : Nat) : (w.complete c seq st r).fetchFrame = w.fetchFrame := by
  unfold Work.fetchFrame
  rw [Work.complete_still, Work.complete_tiles, Work.complete_length]

/-- What a fetch of one descriptor leaves, and the context's rings after it. -/
theorem Work.fetchOne_reads (w : Work) {c : Nat} (ring : Nat) (hc : c < w.d.ctxs.length) :
    (w.fetchOne c ring).fetchFrame = w.fetchFrame ∧ (∀ k, k ≠ c → (w.fetchOne c ring).ctx k = w.ctx k)
      ∧ ((w.fetchOne c ring).ctx c).cmd
        = updAt (w.ctx c).cmd ring fun r => { r with head := (w.nextDesc c ring).head, bells := (takeBell ((w.ctx c).ring ring).bells).2 } := by
  have hframe : (w.takenIn c ring).fetchFrame = w.fetchFrame := by
    have hstill : (w.takenIn c ring).still = w.still := by
      rw [Work.takenIn, Work.updCtx_still, Work.countCtx_still, Work.cacheIova_still]
    have htiles : (w.takenIn c ring).d.tiles = w.d.tiles := congrArg (fun x => x.2.2.1) (w.takenIn_ctxFrame c ring)
    have hlength : (w.takenIn c ring).d.ctxs.length = w.d.ctxs.length := updAt_length ..
    rw [Work.fetchFrame, hstill, htiles, hlength, Work.fetchFrame]
  have hlen : c < (w.takenIn c ring).d.ctxs.length := (show (w.takenIn c ring).d.ctxs.length = w.d.ctxs.length from updAt_length ..) ▸ hc
  have hctxs : (w.takenIn c ring).d.ctxs = updAt w.d.ctxs c _ := congrArg (fun x => x.2.1) (w.takenIn_ctxFrame c ring)
  have hcmd : ((w.takenIn c ring).ctx c).cmd
      = updAt (w.ctx c).cmd ring fun r => { r with head := (w.nextDesc c ring).head, bells := (takeBell ((w.ctx c).ring ring).bells).2 } := by
    rw [Work.ctx_updAt_same (v := w.takenIn c ring) (w := w) rfl hctxs hc]
  have hother (k : Nat) (hk : k ≠ c) : (w.takenIn c ring).ctx k = w.ctx k := Work.ctx_updAt_other (v := w.takenIn c ring) (w := w) rfl hctxs hk
  have hdone (st : Status) : ((w.takenIn c ring).complete c (w.nextDesc c ring).seq st 0).fetchFrame = w.fetchFrame
      ∧ (∀ k, k ≠ c → ((w.takenIn c ring).complete c (w.nextDesc c ring).seq st 0).ctx k = w.ctx k)
      ∧ (((w.takenIn c ring).complete c (w.nextDesc c ring).seq st 0).ctx c).cmd
        = updAt (w.ctx c).cmd ring fun r => { r with head := (w.nextDesc c ring).head, bells := (takeBell ((w.ctx c).ring ring).bells).2 } := by
    obtain ⟨⟨o, n, t, hsame⟩, hothers⟩ := (w.takenIn c ring).complete_ctx (w.nextDesc c ring).seq st 0 hlen
    exact ⟨(Work.complete_fetchFrame ..).trans hframe, fun k hk => (hothers k hk).trans (hother k hk), by rw [hsame, hcmd]⟩
  rw [Work.fetchOne_eq]
  split
  · exact hdone _
  · split
    · exact hdone _
    · exact ⟨hframe, hother, hcmd⟩

/-- The ring that a fetch moved on. -/
theorem Work.fetchOne_ring (w : Work) {c ring : Nat} (hc : c < w.d.ctxs.length) (hring : ring < (w.ctx c).cmd.length) :
    ((w.fetchOne c ring).ctx c).ring ring = ((w.ctx c).ring ring).fetched := by
  unfold Ctx.ring
  rw [(w.fetchOne_reads ring hc).2.2, updAt_getElem?, if_pos rfl, List.getElem?_eq_getElem hring]
  show CmdRing.mk _ _ _ _ _ = _
  unfold Work.nextDesc Ctx.ring
  rw [List.getElem?_eq_getElem hring]
  rfl

/-- A fetch of some descriptors: the ring's head moved on by as many (R441, R446). -/
theorem Work.fetchGo_reads (n : Nat) {w : Work} {c ring : Nat} (hc : c < w.d.ctxs.length) (hring : ring < (w.ctx c).cmd.length)
    (hhead : ((w.ctx c).ring ring).head < 2 ^ ((w.ctx c).ring ring).size) :
    (w.fetchGo c ring n).fetchFrame = w.fetchFrame ∧ (∀ k, k ≠ c → (w.fetchGo c ring n).ctx k = w.ctx k)
      ∧ (((w.fetchGo c ring n).ctx c).ring ring).head = (((w.ctx c).ring ring).head + n) % 2 ^ ((w.ctx c).ring ring).size := by
  induction n generalizing w with
  | zero => exact ⟨rfl, fun _ _ => rfl, (Nat.mod_eq_of_lt hhead).symm⟩
  | succ n ih =>
    obtain ⟨hframe, hother, hcmd⟩ := w.fetchOne_reads ring hc
    have hnext := w.fetchOne_ring hc hring
    have hlen : (w.fetchOne c ring).d.ctxs.length = w.d.ctxs.length := congrArg (fun x => x.2.2) hframe
    obtain ⟨hframes, hothers, hheads⟩ := ih (w := w.fetchOne c ring) (hlen ▸ hc) (by rw [hcmd, updAt_length]; exact hring)
      (by rw [hnext]; exact Nat.mod_lt _ (Nat.two_pow_pos _))
    refine ⟨hframes.trans hframe, fun k hk => (hothers k hk).trans (hother k hk), ?_⟩
    rw [show w.fetchGo c ring (n + 1) = (w.fetchOne c ring).fetchGo c ring n from rfl, hheads, hnext]
    show ((((w.ctx c).ring ring).head + 1) % 2 ^ ((w.ctx c).ring ring).size + n) % 2 ^ ((w.ctx c).ring ring).size = _
    rw [Nat.mod_add_mod, Nat.add_assoc, Nat.add_comm 1 n]

/-- DESCRIPTOR_FETCH of a ring that may be read (R438, R446). -/
theorem exec_descriptorFetch {c ring : Nat} {s : State} (h : s.work.mayFetch c ring) :
    exec (.descriptorFetch c ring) s = .next (s.finish (s.work.fetchGo c ring ((s.work.ctx c).fetchCount ((s.work.ctx c).ring ring)))) := by
  obtain ⟨he, hsize, hring, hspeed⟩ := h
  refine exec_finish rfl (if_neg ?_)
  simp only [he, Bool.not_true, Bool.false_or, Bool.or_eq_true, beq_iff_eq, Bool.and_eq_true, bne_iff_ne, decide_eq_true_eq, not_or, not_and]
  exact ⟨⟨hsize, fun h0 hold => (hring.resolve_left h0 |> Nat.not_lt.mpr) hold⟩, hspeed⟩

theorem exec_descriptorFetch_none {c ring : Nat} {s : State}
    (h : ¬ s.work.mayFetch c ring ∨ (s.work.ctx c).fetchCount ((s.work.ctx c).ring ring) = 0) : exec (.descriptorFetch c ring) s = .next s := by
  by_cases hmay : s.work.mayFetch c ring
  · rw [exec_descriptorFetch hmay, h.resolve_left (fun hno => hno hmay)]
    exact congrArg Host.Outcome.next (State.finish_eq s _ rfl rfl)
  · refine exec_idle rfl (if_pos ?_)
    by_contra hno
    simp only [Bool.or_eq_true, Bool.not_eq_true', beq_iff_eq, Bool.and_eq_true, bne_iff_ne, decide_eq_true_eq, not_or, not_and,
      Bool.not_eq_false] at hno
    obtain ⟨⟨⟨he, hsize⟩, hring⟩, hspeed⟩ := hno
    exact hmay ⟨he, hsize, (em (ring = 0)).imp_right fun h0 => Nat.not_lt.mp (hring h0), hspeed⟩

/-! ### The coalescing timer -/

/-- A message to the host, as the host port then stands (R452). -/
theorem Work.msix_hif (w : Work) (fn n : Nat) :
    (w.msix fn n).d.hif = if (fn, n) ∉ w.d.hif.masked then { w.d.hif with msixOut := w.d.hif.msixOut ++ [(fn, n)] }
      else if (fn, n) ∈ w.d.hif.pendingBits then w.d.hif
      else { w.d.hif with pendingBits := w.d.hif.pendingBits ++ [(fn, n)] } := by
  show (if w.d.hif.masked.contains (fn, n) then _ else _) = _
  by_cases hm : (fn, n) ∈ w.d.hif.masked
  · rw [if_pos (by simpa using hm), if_neg (not_not.mpr hm)]
    by_cases hp : (fn, n) ∈ w.d.hif.pendingBits
    · rw [if_pos hp, if_pos (by simpa using hp)]
    · rw [if_neg hp, if_neg (by simpa using hp)]
  · rw [if_neg (by simpa using hm), if_pos hm]

/-- COALESCE_TIMER of a context with a completion that is due (R452). -/
theorem exec_coalesceTimer_due {c : Nat} {s : State} (h : ¬ ((s.work.ctx c).unsignalled = 0 ∨ (s.work.ctx c).coalesceTime = 0
      ∨ s.dev.nowNs < (s.work.ctx c).unsignalledAt + 100 * (s.work.ctx c).coalesceTime)) :
    exec (.coalesceTimer c) s = .next { s with dev := { s.dev with
        ctxs := updAt s.dev.ctxs c fun x => { x with unsignalled := 0 }
        hif :=
          if (c, 0) ∉ s.dev.hif.masked then { s.dev.hif with msixOut := s.dev.hif.msixOut ++ [(c, 0)] }
          else if (c, 0) ∈ s.dev.hif.pendingBits then s.dev.hif
          else { s.dev.hif with pendingBits := s.dev.hif.pendingBits ++ [(c, 0)] } } } := by
  obtain ⟨v, hv⟩ : ∃ v, v = s.work.updCtx c fun x => { x with unsignalled := 0 } := ⟨_, rfl⟩
  have hhif := v.msix_hif c 0
  have hd : (v.msix c 0).d = { v.d with hif := (v.msix c 0).d.hif } := rfl
  refine (exec_next_dev (v := v.msix c 0) rfl ?_ (by rw [hv]; rfl) (by rw [hv]; rfl)).trans ?_
  · rw [hv]
    exact if_neg h
  · rw [hd, hhif, hv]
    rfl

/-! ### CTX_ENABLE -/

/-- Events that waited for a context's rings, written to them (R448, R520): all but the ring stands. -/
theorem Work.writeEvents_lasts {c : Nat} (dev : Bool) (es : List HeldEvent) (w : Work) :
    (es.foldl (fun v e => v.writeEvent c dev e) w).still = w.still
      ∧ (∀ k, k ≠ c → (es.foldl (fun v e => v.writeEvent c dev e) w).ctx k = w.ctx k)
      ∧ ((es.foldl (fun v e => v.writeEvent c dev e) w).ctx c).lasting = (w.ctx c).lasting
      ∧ (es.foldl (fun v e => v.writeEvent c dev e) w).d.heldEvents = w.d.heldEvents := by
  have hheld (v : Work) (e : HeldEvent) : (v.writeEvent c dev e).d.heldEvents = v.d.heldEvents :=
    Work.writeEvent_aside (p := fun v => v.d.heldEvents) (fun _ _ _ => rfl) (fun _ _ _ _ => rfl) (fun _ _ _ _ => rfl) (fun _ _ _ => rfl)
      (fun _ _ _ => rfl) v c dev e
  refine ⟨Work.foldl_still _ (fun _ _ => Work.writeEvent_still ..) _ _, fun k hk => ?_, ?_, ?_⟩
  · exact Work.foldl_keeps (fun v => v.ctx k) _ (fun _ _ => Work.writeEvent_ctx_other _ dev _ hk) es w
  · exact Work.foldl_keeps (fun v => (v.ctx c).lasting) _ (fun _ _ => Work.writeEvent_lasting ..) es w
  · exact Work.foldl_keeps (fun v => v.d.heldEvents) _ hheld es w

section
variable {c : Nat} {s : State} (hr : s.dev.responds = true) (he : (s.work.ctx c).enable = false) (hsleep : s.dev.pwr.hbmSleep = false)
  (hheld : s.dev.pwr.faultHeld = false)
include hr he hsleep hheld

/-- CTX_ENABLE set of a context that may be enabled: by its checks and the engine domains (R439, R539). -/
theorem exec_ctxEnableSet :
    exec (.ctxEnableSet c) s = .next (s.finish (if s.work.enableCause c ≠ 0 then
        s.work.updCtx c fun x => { x with enableCause := s.work.enableCause c }
      else if s.dev.pwr.enginesOn then (s.work.updPwr fun p => { p with idleTimer := false }).enableCtx c
      else (s.work.updPwr fun p => { p with idleTimer := false }).upd fun d =>
        let p := engineDomains.foldl Pwr.wantOn d.pwr
        { d with pwr := { p with enableWait := if p.enableWait.contains c then p.enableWait else p.enableWait ++ [c] } })) := by
  refine exec_finish rfl ((if_pos hr).trans ?_)
  unfold Work.setEnable
  rw [if_neg (by simp [he, hsleep, hheld])]
  rfl

/-- A setup that fails a check (R439). -/
theorem exec_ctxEnableSet_fails (hcause : s.work.enableCause c ≠ 0) :
    exec (.ctxEnableSet c) s = .next { s with dev := { s.dev with
      ctxs := updAt s.dev.ctxs c fun x => { x with enableCause := s.work.enableCause c } } } := by
  rw [exec_ctxEnableSet hr he hsleep hheld, if_pos hcause]
  exact congrArg Host.Outcome.next (State.finish_eq s _ rfl rfl)

/-- A context enabled while no event waits for its rings (R439). -/
theorem exec_ctxEnableSet_quiet (hcause : s.work.enableCause c = 0) (hon : s.dev.pwr.enginesOn = true) (hno : c ≠ 0 ∨ s.dev.heldEvents = []) :
    exec (.ctxEnableSet c) s = .next { s with dev := { s.dev with
        ctxs := updAt s.dev.ctxs c Ctx.opened, pwr := { s.dev.pwr with idleTimer := false } } } := by
  rw [exec_ctxEnableSet hr he hsleep hheld, if_neg (by simp [hcause]), if_pos hon]
  refine congrArg Host.Outcome.next ?_
  unfold Work.enableCtx
  dsimp only
  by_cases h0 : c = 0
  · have hnil := hno.resolve_left (not_not.mpr h0)
    rw [if_pos h0]
    have hes : ((s.work.updPwr fun p => { p with idleTimer := false }).updCtx c Ctx.opened).d.heldEvents = [] := hnil
    show s.finish (List.foldl _ _ ((s.work.updPwr fun p => { p with idleTimer := false }).updCtx c Ctx.opened).d.heldEvents) = _
    rw [hes]
    refine (State.finish_eq s _ rfl rfl).trans ?_
    show ({ s with dev := { s.dev with
      ctxs := updAt s.dev.ctxs c Ctx.opened, pwr := { s.dev.pwr with idleTimer := false }, heldEvents := [] } } : State) = _
    rw [← hnil]
  · rw [if_neg h0]
    exact State.finish_eq s _ rfl rfl

/-- A context enabled, with the events that waited for context 0's rings (R439, R520). -/
theorem exec_ctxEnableSet_opens (hcause : s.work.enableCause c = 0) (hon : s.dev.pwr.enginesOn = true) (hc : c < s.dev.ctxs.length) :
    ∃ u, exec (.ctxEnableSet c) s = .next u
      ∧ (u.work.ctx c).enable = true ∧ (u.work.ctx c).state = .idle ∧ (∀ k, k ≠ c → u.work.ctx k = s.work.ctx k)
      ∧ u.dev.heldEvents = (if c = 0 then [] else s.dev.heldEvents) ∧ u.dev.pwr = { s.dev.pwr with idleTimer := false } := by
  obtain ⟨v, hv⟩ : ∃ v, v = (s.work.updPwr fun p => { p with idleTimer := false }).updCtx c Ctx.opened := ⟨_, rfl⟩
  have hctx : v.ctx c = (s.work.ctx c).opened := by
    rw [hv]
    exact Work.updCtx_ctx_same (s.work.updPwr fun p => { p with idleTimer := false }) c _ hc
  have hother (k : Nat) (hk : k ≠ c) : v.ctx k = s.work.ctx k := by
    rw [hv]
    exact Work.updCtx_ctx_other (s.work.updPwr fun p => { p with idleTimer := false }) c k _ hk
  have hfz : v.fz = s.fuses := by rw [hv]; rfl
  have hpwr : v.d.pwr = { s.dev.pwr with idleTimer := false } := by rw [hv]; rfl
  have hevents : v.d.heldEvents = s.dev.heldEvents := by rw [hv]; rfl
  have hexec : exec (.ctxEnableSet c) s = .next (s.finish (if c = 0 then
      v.d.heldEvents.foldl (fun w e => w.writeEvent 0 true e) (v.upd fun d => { d with heldEvents := [] }) else v)) := by
    rw [exec_ctxEnableSet hr he hsleep hheld, if_neg (by simp [hcause]), if_pos hon, hv]
    rfl
  by_cases h0 : c = 0
  · subst h0
    obtain ⟨x, hx⟩ : ∃ x, x = v.d.heldEvents.foldl (fun w e => w.writeEvent 0 true e) (v.upd fun d => { d with heldEvents := [] }) := ⟨_, rfl⟩
    have hlasts := Work.writeEvents_lasts (c := 0) true v.d.heldEvents (v.upd fun d => { d with heldEvents := [] })
    rw [← hx] at hlasts
    obtain ⟨hstill, hothers, hlasting, hnone⟩ := hlasts
    have hvstill : x.still = v.still := hstill
    have hxfz : x.fz = s.fuses := (Work.still_fz hvstill).trans hfz
    have hsame : (x.ctx 0).lasting = ((s.work.ctx 0).opened).lasting := hlasting.trans (congrArg Ctx.lasting hctx)
    rw [if_pos rfl, ← hx] at hexec
    refine ⟨_, hexec, ?_, ?_, fun k hk => ?_, ?_, ?_⟩
    · rw [State.finish_ctx _ _ _ hxfz]
      exact Ctx.enable_of_lasting hsame
    · rw [State.finish_ctx _ _ _ hxfz]
      exact congrArg Ctx.state hsame
    · rw [State.finish_ctx _ _ _ hxfz, hothers k hk]
      exact hother k hk
    · rw [State.finish_heldEvents, hnone]
      rfl
    · rw [State.finish_pwr, Work.still_pwr hvstill, hpwr]
  · rw [if_neg h0] at hexec
    refine ⟨_, hexec, ?_, ?_, fun k hk => ?_, ?_, ?_⟩
    · rw [State.finish_ctx _ _ _ hfz, hctx]
      rfl
    · rw [State.finish_ctx _ _ _ hfz, hctx]
      rfl
    · rw [State.finish_ctx _ _ _ hfz, hother k hk]
    · rw [State.finish_heldEvents, hevents, if_neg h0]
    · rw [State.finish_pwr, hpwr]

/-- An enable that waits for the engine domains (R539). -/
theorem exec_ctxEnableSet_waits (hcause : s.work.enableCause c = 0) (hoff : s.dev.pwr.enginesOn = false) :
    exec (.ctxEnableSet c) s = .next (s.withPwr fun q =>
        let p := engineDomains.foldl Pwr.wantOn { q with idleTimer := false }
        { p with enableWait := if c ∈ p.enableWait then p.enableWait else p.enableWait ++ [c] }) := by
  rw [exec_ctxEnableSet hr he hsleep hheld, if_neg (by simp [hcause]), if_neg (by rw [hoff]; decide)]
  refine congrArg Host.Outcome.next ((State.finish_eq s _ rfl rfl).trans ?_)
  simp only [List.contains_iff_mem]
  rfl

end

/-- CTX_ENABLE cleared of a context that is not enabled, or has a job (R439). -/
theorem exec_ctxEnableClear_kept {c : Nat} {s : State} (hr : s.dev.responds = true)
    (h : (s.work.ctx c).enable = false ∨ (s.work.ctx c).state = .loaded ∨ (s.work.ctx c).state = .running) :
    exec (.ctxEnableClear c) s = .next (s.withPwr fun p => { p with enableWait := p.enableWait.filter fun k => k != c }) := by
  refine exec_next_dev (v := s.work.updPwr fun p => { p with enableWait := p.enableWait.filter fun k => k != c }) rfl ((if_pos hr).trans ?_) rfl rfl
  refine if_pos ?_
  rcases h with h | h | h <;> simp [h]

/-- Descriptors that complete one after another (R446). -/
def Work.discard (w : Work) (c : Nat) (ds : List Desc) : Work := ds.foldl (fun v d => v.complete c d.seq .discarded 0) w

/-- What completing a list of descriptors leaves of their context: those of other numbers, and the rest but its signalling. -/
theorem Work.discard_ctx {c : Nat} (ds : List Desc) {w : Work} (hc : c < w.d.ctxs.length) :
    (∃ o n t, (w.discard c ds).ctx c = { w.ctx c with
        cpl := o, fetched := (w.ctx c).fetched.filter (fun e => ds.all fun d => e.seq != d.seq), unsignalled := n, unsignalledAt := t })
      ∧ (∀ k, k ≠ c → (w.discard c ds).ctx k = w.ctx k) ∧ (w.discard c ds).fetchFrame = w.fetchFrame := by
  induction ds generalizing w with
  | nil => exact ⟨⟨(w.ctx c).cpl, _, _, by simp; rfl⟩, fun _ _ => rfl, rfl⟩
  | cons d ds ih =>
    obtain ⟨⟨o, n, t, hsame⟩, hother⟩ := w.complete_ctx d.seq .discarded 0 hc
    obtain ⟨⟨o', n', t', hrest⟩, hothers, hframe⟩ := ih (w := w.complete c d.seq .discarded 0) (by rw [Work.complete_length]; exact hc)
    refine ⟨⟨o', n', t', ?_⟩, fun k hk => (hothers k hk).trans (hother k hk), hframe.trans (Work.complete_fetchFrame ..)⟩
    refine hrest.trans ?_
    rw [hsame]
    dsimp only
    rw [List.filter_filter]
    simp only [List.all_cons, Bool.and_comm]

/-- CTX_ENABLE cleared: what was fetched is discarded, and the idle timer may start (R439, R446, R539). -/
theorem exec_ctxEnableClear_disables {c : Nat} {s : State} (hr : s.dev.responds = true) (hc : c < s.dev.ctxs.length)
    (he : (s.work.ctx c).enable = true) (hloaded : (s.work.ctx c).state ≠ .loaded) (hrunning : (s.work.ctx c).state ≠ .running) :
    ∃ u, exec (.ctxEnableClear c) s = .next u ∧ (u.work.ctx c).enable = false ∧ (u.work.ctx c).state = .disabled
      ∧ (u.work.ctx c).fetched = [] ∧ (u.work.ctx c).job = (s.work.ctx c).job ∧ (∀ k, k ≠ c → u.work.ctx k = s.work.ctx k)
      ∧ u.dev.tiles = s.dev.tiles
      ∧ u.dev.pwr.idleTimer = (s.dev.pwr.idleTimer
          || ((contexts.all fun k => k == c || !(s.work.ctx k).enable) && (s.dev.pwr.enableWait.filter fun k => k != c).isEmpty)) := by
  obtain ⟨w, hw⟩ : ∃ w, w = s.work.updPwr fun p => { p with enableWait := p.enableWait.filter fun k => k != c } := ⟨_, rfl⟩
  have hwctx (k : Nat) : w.ctx k = s.work.ctx k := by rw [hw]; rfl
  have hwlen : c < w.d.ctxs.length := by rw [hw]; exact hc
  have hwfz : w.fz = s.fuses := by rw [hw]; rfl
  have hwpwr : w.d.pwr = { s.dev.pwr with enableWait := s.dev.pwr.enableWait.filter fun k => k != c } := by rw [hw]; rfl
  have hwtiles : w.d.tiles = s.dev.tiles := by rw [hw]; rfl
  obtain ⟨x, hx⟩ : ∃ x, x = w.discard c (s.work.ctx c).fetched := ⟨_, rfl⟩
  obtain ⟨v, hv⟩ : ∃ v, v = x.updCtx c fun y => { y with enable := false, state := .disabled } := ⟨_, rfl⟩
  have hexec : exec (.ctxEnableClear c) s = .next (s.finish v.noteIdle) := by
    refine exec_finish rfl ((if_pos hr).trans ((if_neg (by simp [he, hloaded, hrunning])).trans ?_))
    rw [hv, hx, hw]
    rfl
  have hgone := Work.discard_ctx (s.work.ctx c).fetched hwlen
  rw [← hx, hwctx] at hgone
  obtain ⟨⟨o, n, t, hsame⟩, hother, hframe⟩ := hgone
  have hempty : (s.work.ctx c).fetched.filter (fun e => (s.work.ctx c).fetched.all fun d => e.seq != d.seq) = [] := by
    refine List.filter_eq_nil_iff.mpr fun e hmem hall => ?_
    simpa using List.all_eq_true.mp hall e hmem
  rw [hempty] at hsame
  have hxlen : c < x.d.ctxs.length := (show x.d.ctxs.length = w.d.ctxs.length from congrArg (fun y => y.2.2) hframe) ▸ hwlen
  have hxstill : x.still = w.still := congrArg (fun y => y.1) hframe
  have hctx : v.ctx c = { x.ctx c with enable := false, state := .disabled } := by rw [hv]; exact Work.updCtx_ctx_same x c _ hxlen
  have hothers (k : Nat) (hk : k ≠ c) : v.ctx k = s.work.ctx k := by
    rw [hv, Work.updCtx_ctx_other x c k _ hk, hother k hk, hwctx]
  have hvfz : v.fz = s.fuses := (show v.fz = x.fz by rw [hv]; rfl).trans ((Work.still_fz hxstill).trans hwfz)
  have hvpwr : v.d.pwr = { s.dev.pwr with enableWait := s.dev.pwr.enableWait.filter fun k => k != c } :=
    (show v.d.pwr = x.d.pwr by rw [hv]; rfl).trans ((Work.still_pwr hxstill).trans hwpwr)
  have hvtiles : v.d.tiles = s.dev.tiles :=
    (show v.d.tiles = x.d.tiles by rw [hv]; rfl).trans ((congrArg (fun y => y.2.1) hframe).trans hwtiles)
  have hnote : v.noteIdle.fz = v.fz ∧ (∀ k, v.noteIdle.ctx k = v.ctx k) ∧ v.noteIdle.d.tiles = v.d.tiles
      ∧ v.noteIdle.d.pwr.idleTimer = (v.d.pwr.idleTimer || (contexts.all (fun k => !(v.ctx k).enable) && v.d.pwr.enableWait.isEmpty)) := by
    unfold Work.noteIdle
    by_cases hbusy : ((contexts.any fun k => (v.ctx k).enable) || !v.d.pwr.enableWait.isEmpty) = true
    · rw [if_pos hbusy]
      refine ⟨rfl, fun _ => rfl, rfl, ?_⟩
      have hno : (contexts.all (fun k => !(v.ctx k).enable) && v.d.pwr.enableWait.isEmpty) = false := by
        rw [← Bool.not_eq_true', Bool.not_and, ← List.not_any_eq_all_not, Bool.not_not]
        exact hbusy
      rw [hno, Bool.or_false]
    · rw [if_neg hbusy]
      refine ⟨rfl, fun _ => rfl, rfl, ?_⟩
      have hyes : (contexts.all (fun k => !(v.ctx k).enable) && v.d.pwr.enableWait.isEmpty) = true := by
        rw [← List.not_any_eq_all_not]
        simpa using hbusy
      rw [hyes, Bool.or_true]
      rfl
  obtain ⟨hnfz, hnctx, hntiles, hnidle⟩ := hnote
  have hidle : (contexts.all fun k => !(v.ctx k).enable) = contexts.all fun k => k == c || !(s.work.ctx k).enable := by
    refine congrArg (List.all contexts) (funext fun k => ?_)
    by_cases hk : k = c
    · rw [hk, hctx]
      simp
    · rw [hothers k hk]
      simp [hk]
  have hufz := hnfz.trans hvfz
  refine ⟨_, hexec, ?_, ?_, ?_, ?_, fun k hk => ?_, ?_, ?_⟩
  · rw [State.finish_ctx _ _ _ hufz, hnctx, hctx]
  · rw [State.finish_ctx _ _ _ hufz, hnctx, hctx]
  · rw [State.finish_ctx _ _ _ hufz, hnctx, hctx, hsame]
  · rw [State.finish_ctx _ _ _ hufz, hnctx, hctx, hsame]
  · rw [State.finish_ctx _ _ _ hufz, hnctx, hothers k hk]
  · rw [State.finish_tiles, hntiles, hvtiles]
  · rw [State.finish_pwr, hnidle, hidle, hvpwr]

/-! ### CTX_CLEAR -/

/-- A change of the tiles of a list, tile by tile. -/
theorem Work.updTiles_tile (f : Tile → Tile) {ts : List Nat} (hts : ts.Nodup) (w : Work) (t : Nat) :
    (ts.foldl (fun v t => v.updTile t f) w).d.tiles[t]? = if t ∈ ts then (w.d.tiles[t]?).map f else w.d.tiles[t]? := by
  have htiles (l : List Nat) (v : Work) : (l.foldl (fun v t => v.updTile t f) v).d.tiles = l.foldl (fun ks t => updAt ks t f) v.d.tiles := by
    induction l generalizing v with
    | nil => rfl
    | cons a l ih => exact ih (v.updTile a f)
  rw [htiles, foldl_updAt_getElem? _ _ hts]

/-- What a change of tiles keeps. -/
theorem Work.updTiles_keeps {β : Type} (p : Work → β) (htile : ∀ v t f, p (Work.updTile v t f) = p v) (f : Tile → Tile) (ts : List Nat) (w : Work) :
    p (ts.foldl (fun v t => v.updTile t f) w) = p w := Work.foldl_keeps p _ (fun _ _ => htile ..) ts w

/-- The tiles that unloading a job leaves (R443). -/
theorem Work.unload_tiles (w : Work) (c t : Nat) :
    (w.unload c).d.tiles[t]? = if t ∈ (w.ctx c).tiles then (w.d.tiles[t]?).map (fun k => { k with loaded := false }) else w.d.tiles[t]? :=
  Work.updTiles_tile (fun k => { k with loaded := false }) (w.ctx c).tiles_nodup (w.upd fun d =>
    { d with
      queues := d.queues.filter fun q => q.ctx != c
      sec := { d.sec with jobDigests := updAt d.sec.jobDigests c fun _ => List.replicate 48 0 } }) t

/-- CTX_CLEAR of a halted context (R435, R571). -/
theorem exec_ctxClear_clears {c : Nat} {s : State} (hr : s.dev.responds = true) (hc : c < s.dev.ctxs.length)
    (hhalt : (s.work.ctx c).halt.valid = true) (hheld : s.dev.pwr.faultHeld = false) :
    ∃ u, exec (.ctxClear c) s = .next u ∧ u.mem = s.mem ∧ (u.work.ctx c).halt = HaltRec.empty
      ∧ (u.work.ctx c).streamHalt = HaltRec.empty ∧ (u.work.ctx c).job = none
      ∧ (u.work.ctx c).state = (if (s.work.ctx c).enable then .idle else .disabled) ∧ (∀ k, k ≠ c → u.work.ctx k = s.work.ctx k)
      ∧ (∀ t, t < s.dev.tiles.length → t ∈ (s.work.ctx c).tiles → (u.work.tile t).halt = HaltRec.empty)
      ∧ (∀ t, t ∉ (s.work.ctx c).tiles → u.work.tile t = s.work.tile t) := by
  obtain ⟨w, hw⟩ : ∃ w, w = s.work.unload c := ⟨_, rfl⟩
  obtain ⟨⟨hfz, hbase, hwiped, hlog⟩, hctxs, -⟩ := s.work.unload_reads c
  have htiles (t : Nat) := s.work.unload_tiles c t
  rw [← hw] at hfz hbase hwiped hlog hctxs htiles
  have hwctx : w.ctx c = (s.work.ctx c).unloaded := by
    rw [Work.ctx, hctxs, hfz]
    exact Work.updCtx_ctx_same s.work c _ hc
  have hwother (k : Nat) (hk : k ≠ c) : w.ctx k = s.work.ctx k := by
    rw [Work.ctx, hctxs, hfz]
    exact Work.updCtx_ctx_other s.work c k _ hk
  have hsame : (w.ctx c).tiles = (s.work.ctx c).tiles := by rw [hwctx]; rfl
  obtain ⟨x, hx⟩ : ∃ x, x = (s.work.ctx c).tiles.foldl (fun v t => v.updTile t fun k => { k with halt := HaltRec.empty }) w := ⟨_, rfl⟩
  have hxtiles (t : Nat) := Work.updTiles_tile (fun k => { k with halt := HaltRec.empty }) (s.work.ctx c).tiles_nodup w t
  have hkeeps := Work.updTiles_keeps (fun v => (v.fz, v.base, v.wiped, v.log, v.d.ctxs)) (fun _ _ _ => rfl)
    (fun k => { k with halt := HaltRec.empty }) (s.work.ctx c).tiles w
  rw [← hx] at hkeeps
  simp only [Prod.mk.injEq] at hkeeps
  obtain ⟨hxfz, -, hxwiped, hxlog, hxctxs⟩ := hkeeps
  have hxctx (k : Nat) : x.ctx k = w.ctx k := by rw [Work.ctx, hxctxs, hxfz, Work.ctx]
  obtain ⟨v, hv⟩ : ∃ v, v = x.updCtx c fun y => { y with halt := HaltRec.empty, streamHalt := HaltRec.empty } := ⟨_, rfl⟩
  have hexec : exec (.ctxClear c) s = .next (s.finish v.tryReport) := by
    refine exec_finish rfl ((if_pos hr).trans ((if_neg (by simp [hhalt, hheld])).trans ?_))
    dsimp only
    rw [← hw, hsame, ← hx, ← hv]
  have hxlen : c < x.d.ctxs.length := by
    rw [hxctxs, hctxs, updAt_length]
    exact hc
  have hctx : v.ctx c = { w.ctx c with halt := HaltRec.empty, streamHalt := HaltRec.empty } := by
    rw [hv, Work.updCtx_ctx_same x c _ hxlen, hxctx]
  have hother (k : Nat) (hk : k ≠ c) : v.ctx k = s.work.ctx k := by
    rw [hv, Work.updCtx_ctx_other x c k _ hk, hxctx, hwother k hk]
  have hframe := Work.tryReport_reportFrame v
  simp only [Work.reportFrame, Prod.mk.injEq] at hframe
  obtain ⟨-, hvtiles, hvlog, hvwiped, -, -⟩ := hframe
  have hvfz : v.tryReport.fz = s.fuses := (Work.tryReport_fz v).trans ((show v.fz = x.fz by rw [hv]; rfl).trans (hxfz.trans hfz))
  have htile (t : Nat) : (s.finish v.tryReport).work.tile t = x.tile t := by
    rw [State.finish_tile, Work.tile, hvtiles, hv]
    rfl
  have hxtile (t : Nat) : x.d.tiles[t]? = if t ∈ (s.work.ctx c).tiles then
      ((s.dev.tiles[t]?).map fun k => { k with loaded := false }).map fun k => { k with halt := HaltRec.empty } else s.dev.tiles[t]? := by
    rw [hx, hxtiles, htiles]
    split <;> rfl
  refine ⟨_, hexec, State.finish_mem s _ (hvlog.trans ?_) (hvwiped.trans ?_), ?_, ?_, ?_, ?_, fun k hk => ?_, fun t ht hmem => ?_, fun t hmem => ?_⟩
  · rw [hv]
    exact hxlog.trans hlog
  · rw [hv]
    exact hxwiped.trans hwiped
  · rw [State.finish_ctx _ _ _ hvfz, Work.tryReport_ctx, hctx]
  · rw [State.finish_ctx _ _ _ hvfz, Work.tryReport_ctx, hctx]
  · rw [State.finish_ctx _ _ _ hvfz, Work.tryReport_ctx, hctx, hwctx]
    rfl
  · rw [State.finish_ctx _ _ _ hvfz, Work.tryReport_ctx, hctx, hwctx]
    rfl
  · rw [State.finish_ctx _ _ _ hvfz, Work.tryReport_ctx, hother k hk]
  · rw [htile, Work.tile, hxtile, if_pos hmem, List.getElem?_eq_getElem ht]
    rfl
  · rw [htile, Work.tile, hxtile, if_neg hmem]
    rfl

/-! ### CTX_URGENT and CTX_ARENA_VALID -/

/-- CTX_URGENT through the physical function (R453). -/
theorem exec_ctxUrgent {c : Nat} {v : Bool} {s : State} (hr : s.dev.responds = true) :
    let x := s.work.ctx c
    let free := (x.state = .disabled ∨ x.state = .idle)
      ∧ (v = true → 0x0200 ≤ x.ringVersion ∧ ∀ k, k < 16 → k ≠ c → (s.work.ctx k).urgent = false)
    (v = x.urgent → exec (.ctxUrgent 0 c v) s = .next s)
    ∧ (v ≠ x.urgent → free → exec (.ctxUrgent 0 c v) s
        = .next { s with dev := { s.dev with ctxs := updAt s.dev.ctxs c fun x => { x with urgent := v } } })
    ∧ (v ≠ x.urgent → ¬ free → exec (.ctxUrgent 0 c v) s
        = .next { s with dev := { s.dev with ctxs := updAt s.dev.ctxs c fun x => { x with urgentRefused := true } } }) := by
  intro x free
  have hothers : (contexts.any fun k => k != c && (s.work.ctx k).urgent) = false ↔ ∀ k, k < 16 → k ≠ c → (s.work.ctx k).urgent = false := by
    rw [List.any_eq_false]
    simp [contexts]
  have hfree : ((decide (x.state = .disabled) || decide (x.state = .idle))
      && (!v || (decide (0x0200 ≤ x.ringVersion) && !(contexts.any fun k => k != c && (s.work.ctx k).urgent)))) = true ↔ free := by
    simp only [Bool.and_eq_true, Bool.or_eq_true, decide_eq_true_eq, Bool.not_eq_true', hothers, free]
    cases v <;> simp
  have hmeans (h : v ≠ x.urgent) : exec (.ctxUrgent 0 c v) s = .next (s.finish (if ((decide (x.state = .disabled) || decide (x.state = .idle))
      && (!v || (decide (0x0200 ≤ x.ringVersion) && !(contexts.any fun k => k != c && (s.work.ctx k).urgent)))) = true then
        s.work.updCtx c fun x => { x with urgent := v } else s.work.updCtx c fun x => { x with urgentRefused := true })) :=
    exec_finish rfl ((if_pos ⟨rfl, hr⟩).trans (if_neg h))
  refine ⟨fun h => exec_idle rfl ((if_pos ⟨rfl, hr⟩).trans (if_pos h)), fun h hf => ?_, fun h hf => ?_⟩
  · rw [hmeans h, if_pos (hfree.mpr hf)]
    exact congrArg Host.Outcome.next (State.finish_eq s _ rfl rfl)
  · rw [hmeans h, if_neg (fun hb => hf (hfree.mp hb))]
    exact congrArg Host.Outcome.next (State.finish_eq s _ rfl rfl)

/-- CTX_ARENA_VALID through the physical function of a context that is DISABLED or IDLE (R373). -/
theorem exec_ctxArenaValid {c : Nat} {v : Bool} {s : State} (hr : s.dev.responds = true)
    (hstate : (s.work.ctx c).state = .disabled ∨ (s.work.ctx c).state = .idle) (hsleep : s.dev.pwr.hbmSleep = false) :
    exec (.ctxArenaValid 0 c v) s = .next { s with dev := { s.dev with
      ctxs := updAt s.dev.ctxs c fun x =>
        if v && s.work.arenaBad c then { x with arenaValid := false, arenaOverlap := true } else { x with arenaValid := v } } } := by
  have hmeans : exec (.ctxArenaValid 0 c v) s = .next (s.finish (if (v && s.work.arenaBad c) = true then
      s.work.updCtx c fun x => { x with arenaValid := false, arenaOverlap := true } else s.work.updCtx c fun x => { x with arenaValid := v })) := by
    refine exec_finish rfl ((if_pos ⟨rfl, hr⟩).trans (if_neg ?_))
    rcases hstate with h | h <;> simp [h, hsleep]
  rw [hmeans]
  by_cases hbad : (v && s.work.arenaBad c) = true
  · simp only [if_pos hbad]
    exact congrArg Host.Outcome.next (State.finish_eq s _ rfl rfl)
  · simp only [if_neg hbad]
    exact congrArg Host.Outcome.next (State.finish_eq s _ rfl rfl)

/-! ### CTX_TILE_MASK -/

/-- What a tile being zeroed leaves: its own storage and state go, the contexts stand (R232, R249). -/
theorem Work.zeroTile_reads (w : Work) (t : Nat) (hlog : w.log = []) :
    (w.zeroTile t).fz = w.fz ∧ (w.zeroTile t).base = w.base ∧ (w.zeroTile t).log = [] ∧ (w.zeroTile t).d.ctxs = w.d.ctxs
      ∧ (w.zeroTile t).d.tiles = updAt w.d.tiles t (fun _ => Tile.zeroed)
      ∧ ∀ k, Memory.within (w.zeroTile t).wiped k = (Memory.within (tileStorage t) k || Memory.within w.wiped k) := by
  have hzlog : (w.zeroTile t).log = [] := by
    show (((w.log.filter _).filter _).filter _).filter _ = []
    rw [hlog]
    rfl
  refine ⟨rfl, rfl, hzlog, rfl, rfl, fun k => ?_⟩
  show Memory.within ((tileStoreAddr t 0, tileStoreSize) :: (imemKey t 0, 65536) :: (dmemKey t 0, 131072) :: (vregKey t 0, 32 * 16384) :: w.wiped) k
    = _
  simp only [Memory.within, tileStorage, List.any_cons, List.any_nil, Bool.or_false]
  cases decide (vregKey t 0 ≤ k) && decide (k < vregKey t 0 + 32 * 16384) <;>
    cases decide (dmemKey t 0 ≤ k) && decide (k < dmemKey t 0 + 131072) <;>
    cases decide (imemKey t 0 ≤ k) && decide (k < imemKey t 0 + 65536) <;>
    cases decide (tileStoreAddr t 0 ≤ k) && decide (k < tileStoreAddr t 0 + tileStoreSize) <;> rfl

/-- What zeroing the tiles of a list leaves. -/
theorem Work.zeroTiles_reads (ts : List Nat) {w : Work} (hlog : w.log = []) :
    (ts.foldl Work.zeroTile w).fz = w.fz ∧ (ts.foldl Work.zeroTile w).base = w.base ∧ (ts.foldl Work.zeroTile w).log = []
      ∧ (ts.foldl Work.zeroTile w).d.ctxs = w.d.ctxs
      ∧ (ts.foldl Work.zeroTile w).d.tiles = ts.foldl (fun ks t => updAt ks t fun _ => Tile.zeroed) w.d.tiles
      ∧ ∀ k, Memory.within (ts.foldl Work.zeroTile w).wiped k = ((ts.any fun t => Memory.within (tileStorage t) k) || Memory.within w.wiped k) := by
  induction ts generalizing w with
  | nil => exact ⟨rfl, rfl, hlog, rfl, rfl, fun k => (Bool.false_or _).symm⟩
  | cons t ts ih =>
    obtain ⟨hfz, hbase, hzlog, hctxs, htiles, hwiped⟩ := w.zeroTile_reads t hlog
    obtain ⟨hfzs, hbases, hlogs, hctxss, htiless, hwipeds⟩ := ih (w := w.zeroTile t) hzlog
    refine ⟨hfzs.trans hfz, hbases.trans hbase, hlogs, hctxss.trans hctxs, htiless.trans (by rw [htiles]; rfl), fun k => (hwipeds k).trans ?_⟩
    rw [hwiped, List.any_cons, Bool.or_left_comm, ← Bool.or_assoc]

/-- A key of a tile's storage lies below the flash (R508). -/
theorem tileStorage_low {t k : Nat} (ht : t < 64) (h : Memory.within (tileStorage t) k = true) : Memory.dflt k = 0 := by
  simp only [Memory.within, tileStorage, List.any_cons, List.any_nil, Bool.or_false, Bool.or_eq_true, Bool.and_eq_true, decide_eq_true_eq,
    vregKey, dmemKey, imemKey, tileStoreAddr, tileStoreBase, tileStoreSize] at h
  refine if_neg ?_
  unfold flashBase
  omega

/-- A tile mask that is taken, with its new tiles zeroed (R436). -/
theorem exec_ctxTileMask_taken {c m : Nat} {s : State} (hr : s.dev.responds = true) (hwf : Memory.wf s.mem = true) (hc : c < s.dev.ctxs.length)
    (htiles : 64 ≤ s.dev.tiles.length) (hcause : s.work.tileCause c (BitVec.ofNat 64 m) = 0) :
    let fresh := fun t => t < 64 ∧ m.testBit t = true ∧ (s.work.ctx c).tileMask.getLsbD t = false
    ∃ u, exec (.ctxTileMask 0 c m) s = .next u
      ∧ (u.work.ctx c).tileMask = BitVec.ofNat 64 m ∧ (u.work.ctx c).tileCause = 0
      ∧ (∀ k, k ≠ c → u.work.ctx k = s.work.ctx k)
      ∧ (∀ t, fresh t → u.work.tile t = Tile.zeroed) ∧ (∀ t, ¬ fresh t → u.work.tile t = s.work.tile t)
      ∧ (∀ t k, fresh t → Memory.within (tileStorage t) k = true → Memory.read u.mem k = 0)
      ∧ (∀ k, (∀ t, fresh t → Memory.within (tileStorage t) k = false) → Memory.read u.mem k = Memory.read s.mem k) := by
  intro fresh
  obtain ⟨ts, hts⟩ : ∃ ts, ts = (List.range 64).filter fun t => (BitVec.ofNat 64 m).getLsbD t && !(s.work.ctx c).tileMask.getLsbD t := ⟨_, rfl⟩
  have hmem (t : Nat) : t ∈ ts ↔ fresh t := by
    rw [hts, List.mem_filter, List.mem_range, BitVec.getLsbD_ofNat]
    simp only [fresh, Bool.and_eq_true, decide_eq_true_eq, Bool.not_eq_true']
    tauto
  have hnodup : ts.Nodup := by rw [hts]; exact List.nodup_range.filter _
  obtain ⟨x, hx⟩ : ∃ x, x = ts.foldl Work.zeroTile s.work := ⟨_, rfl⟩
  have hreads := Work.zeroTiles_reads ts (w := s.work) rfl
  rw [← hx] at hreads
  obtain ⟨hfz, hbase, hlog, hctxs, hxtiles, hwiped⟩ := hreads
  obtain ⟨y, hy⟩ : ∃ y, y = x.updCtx c fun z => { z with tileMask := BitVec.ofNat 64 m, tileCause := 0 } := ⟨_, rfl⟩
  have hexec : exec (.ctxTileMask 0 c m) s = .next (s.finish y) := by
    refine exec_finish rfl ((if_pos ⟨rfl, hr⟩).trans ((if_neg (by simp [hcause])).trans ?_))
    rw [hy, hx, hts]
  have hyfz : y.fz = s.fuses := by rw [hy]; exact hfz
  have hybase : y.base = s.mem := by rw [hy]; exact hbase
  have hylog : y.log = [] := by rw [hy]; exact hlog
  have hywiped : y.wiped = x.wiped := by rw [hy]; rfl
  have hytiles : y.d.tiles = x.d.tiles := by rw [hy]; rfl
  have hlen : c < x.d.ctxs.length := by rw [hctxs]; exact hc
  have hxctx (k : Nat) : x.ctx k = s.work.ctx k := by rw [Work.ctx, hctxs, hfz, Work.ctx]
  have htile (t : Nat) : x.d.tiles[t]? = if t ∈ ts then (s.dev.tiles[t]?).map (fun _ => Tile.zeroed) else s.dev.tiles[t]? := by
    rw [hxtiles, foldl_updAt_getElem? _ _ hnodup]
    rfl
  have hread (k : Nat) : Memory.read (s.finish y).mem k
      = if (ts.any fun t => Memory.within (tileStorage t) k) = true then Memory.dflt k else Memory.read s.mem k := by
    rw [State.finish_read s y hwf hybase, Work.rd, hylog, hywiped, hwiped, hybase]
    show (if ((ts.any fun t => Memory.within (tileStorage t) k) || false) = true then _ else _) = _
    rw [Bool.or_false]
  refine ⟨_, hexec, ?_, ?_, fun k hk => ?_, fun t ht => ?_, fun t ht => ?_, fun t k ht hk => ?_, fun k hk => ?_⟩
  · rw [State.finish_ctx _ _ _ hyfz, hy, Work.updCtx_ctx_same x c _ hlen]
  · rw [State.finish_ctx _ _ _ hyfz, hy, Work.updCtx_ctx_same x c _ hlen]
  · rw [State.finish_ctx _ _ _ hyfz, hy, Work.updCtx_ctx_other x c k _ hk, hxctx]
  · rw [State.finish_tile, Work.tile, hytiles, htile, if_pos ((hmem t).mpr ht), List.getElem?_eq_getElem (Nat.lt_of_lt_of_le ht.1 htiles)]
    rfl
  · rw [State.finish_tile, Work.tile, hytiles, htile, if_neg (fun h => ht ((hmem t).mp h))]
    rfl
  · rw [hread, if_pos (List.any_eq_true.mpr ⟨t, (hmem t).mpr ht, hk⟩)]
    exact tileStorage_low ht.1 hk
  · rw [hread, if_neg]
    rw [List.any_eq_true]
    rintro ⟨t, ht, hin⟩
    rw [hk t ((hmem t).mp ht)] at hin
    cases hin

/-! ### The whole -/

/-- DESCRIPTOR_FETCH of one descriptor that its context takes up (R441, R446). -/
theorem exec_descriptorFetch_one {c ring : Nat} {s : State} (h : s.work.mayFetch c ring) (hc : c < s.dev.ctxs.length)
    (hhalt : (s.work.ctx c).halt.valid = false) (hcount : (s.work.ctx c).fetchCount ((s.work.ctx c).ring ring) = 1)
    (hop : (s.work.ctx c).opcodeBad c (s.work.nextDesc c ring) = false) :
    ∃ u, exec (.descriptorFetch c ring) s = .next u ∧ s.onCtx u c fun x =>
      { x with
        fetched := x.fetched ++ [s.work.nextDesc c ring], fetchSeq := x.fetchSeq + 1
        cmd := updAt x.cmd ring fun r =>
          { r with head := (s.work.nextDesc c ring).head, bells := (takeBell ((s.work.ctx c).ring ring).bells).2 } } := by
  have hgo : s.work.fetchGo c ring 1 = s.work.takenIn c ring := by
    show s.work.fetchOne c ring = _
    rw [Work.fetchOne_eq, if_neg (by rw [hhalt]; decide), if_neg (by rw [hop]; decide)]
  have hexec := exec_descriptorFetch h
  rw [hcount, hgo] at hexec
  exact ⟨_, hexec, State.finish_onCtx hc (s.work.takenIn_ctxFrame c ring)⟩

/-- Settles O55: doorbells by their range, a fetch by the descriptors it takes, enabling by its checks and what waits for it, disabling by
the fold of what it discards, clearing by the job's unloading, and a tile mask by the fold of its new tiles. That a disabled context's
doorbell is ignored, what disabling discards, and the order of the checks are the model's choices (logs 41, 43, 112 and 113). -/
theorem contextSetupCompletes : Obligations.ContextSetupCompletes := by
  refine ⟨fun c a b v i s hr hi => ?_, fun fn c b v i s hfn hi => ?_, fun c ring v i s he hi => ?_, fun c ring v s hr he hsize hv => ?_,
    fun c v s hr he hv => ?_, fun c v s hr he hv => ?_, fun c ring v off value i s hwf hr he hc h => ?_, fun c ring s h => exec_descriptorFetch_none h,
    fun c ring s h hc hring hhead => ?_, fun c ring s h hc hhalt hcount hop => exec_descriptorFetch_one h hc hhalt hcount hop, fun c s => ?_,
    fun c s h => ?_, fun c s hr he hsleep hheld => ⟨exec_ctxEnableSet_fails hr he hsleep hheld, exec_ctxEnableSet_quiet hr he hsleep hheld,
      exec_ctxEnableSet_opens hr he hsleep hheld, exec_ctxEnableSet_waits hr he hsleep hheld⟩, fun c s hr h => exec_ctxEnableClear_kept hr h,
    fun c s hr hc he hl hrun => exec_ctxEnableClear_disables hr hc he hl hrun, fun c s h => ?_,
    fun c s hr hc hhalt hheld => exec_ctxClear_clears hr hc hhalt hheld, fun c v s hr => exec_ctxUrgent hr, fun c m s hr hcause => ?_,
    fun c m s hr hwf hc ht hcause => exec_ctxTileMask_taken hr hwf hc ht hcause, fun c v s h => ?_,
    fun c v s hr hst hsleep => exec_ctxArenaValid hr hst hsleep, fun c s hr => ?_⟩
  · simp only [List.mem_cons, List.not_mem_nil, or_false] at hi
    have hno : ¬ s.dev.responds = true := by rw [hr]; decide
    rcases hi with rfl | rfl | rfl | rfl | rfl | rfl | rfl | rfl | rfl | rfl
    · exact exec_idle rfl (if_neg hno)
    · exact exec_idle rfl (if_neg hno)
    · exact exec_idle rfl (if_neg hno)
    · exact exec_idle rfl (if_neg hno)
    · exact exec_idle rfl (if_neg hno)
    · exact exec_idle rfl (if_neg hno)
    · exact exec_idle rfl (if_neg fun h => hno h.2)
    · exact exec_idle rfl (if_neg fun h => hno h.2)
    · exact exec_idle rfl (if_neg fun h => hno h.2)
    · exact exec_idle rfl (if_neg hno)
  · simp only [List.mem_cons, List.not_mem_nil, or_false] at hi
    rcases hi with rfl | rfl | rfl
    · exact exec_idle rfl (if_neg fun h => hfn h.1)
    · exact exec_idle rfl (if_neg fun h => hfn h.1)
    · exact exec_idle rfl (if_neg fun h => hfn h.1)
  · have hoff : (!(s.work.ctx c).enable) = true := by rw [he]; rfl
    simp only [List.mem_cons, List.not_mem_nil, or_false] at hi
    rcases hi with rfl | rfl | rfl
    · exact exec_idle rfl (ite_eq_right_iff.mpr fun _ => if_pos hoff)
    · exact exec_idle rfl (ite_eq_right_iff.mpr fun _ => if_pos hoff)
    · exact exec_idle rfl (ite_eq_right_iff.mpr fun _ => if_pos hoff)
  · rw [exec_dbCmdTail_enabled hr he, if_neg (by simp [hsize, hv])]
    exact congrArg Host.Outcome.next (State.finish_eq s _ rfl rfl)
  · rw [exec_dbCplHead_enabled hr he, if_neg (by simp [hv])]
    exact congrArg Host.Outcome.next (State.finish_eq s _ rfl rfl)
  · rw [exec_dbEvtHead_enabled hr he, if_neg (by simp [hv])]
    exact congrArg Host.Outcome.next (State.finish_eq s _ rfl rfl)
  · refine exec_doorbellInvalid hwf he hc ?_
    rcases h with ⟨rfl, rfl, rfl, h⟩ | ⟨rfl, rfl, rfl, h⟩ | ⟨rfl, rfl, rfl, h⟩
    · rw [exec_dbCmdTail_enabled hr he, if_pos (by simpa using h)]
    · rw [exec_dbCplHead_enabled hr he, if_pos (by simpa using h)]
    · rw [exec_dbEvtHead_enabled hr he, if_pos (by simpa using h)]
  · obtain ⟨hframe, hother, hhead'⟩ := Work.fetchGo_reads ((s.work.ctx c).fetchCount ((s.work.ctx c).ring ring)) hc hring hhead
    have hstill := congrArg (fun x => x.1) hframe
    have hfz := Work.still_fz hstill
    refine ⟨_, exec_descriptorFetch h, State.finish_quietly hstill, ?_, fun k hk => ?_, ?_⟩
    · rw [State.finish_tiles]
      exact congrArg (fun x => x.2.1) hframe
    · rw [State.finish_ctx _ _ _ hfz, hother k hk]
    · rw [State.finish_ctx _ _ _ hfz, hhead']
  · split
    · next h => exact exec_idle rfl (if_pos h)
    · next h => exact exec_coalesceTimer_due h
  · refine exec_idle rfl (ite_eq_right_iff.mpr fun _ => if_pos ?_)
    rcases h with h | h | h <;> simp [h]
  · refine exec_idle rfl (ite_eq_right_iff.mpr fun _ => if_pos ?_)
    rcases h with h | h <;> simp [h]
  · exact exec_next_dev (v := s.work.updCtx c fun x => { x with tileCause := s.work.tileCause c (BitVec.ofNat 64 m) }) rfl
      ((if_pos ⟨rfl, hr⟩).trans (if_pos hcause)) rfl rfl
  · refine exec_idle rfl (ite_eq_right_iff.mpr fun _ => if_pos ?_)
    exact h
  · exact exec_next_dev (v := s.work.updCtx c fun x => { x with latMax := 0 }) rfl (if_pos hr) rfl rfl

end Sys2Proof.Machine
end

section
/-!
PROOFS. The host port and function-level resets (R430 to R434, R452, R564).
-/

namespace Sys2Proof.Machine

/-! ### The port -/

/-- What the host writes beside a link's rate and width, and the rate and width (R430). -/
def Work.hostSide (w : Work) : Nat × Nat × Nat × BitVec 16 := (w.d.hif.speed, w.d.hif.width, w.d.hif.numVfs, w.d.hif.busMaster)

/-- A message to the host changes none of it. -/
theorem Work.msix_hostSide (w : Work) (fn n : Nat) : (w.msix fn n).hostSide = w.hostSide := by
  unfold Work.msix Work.hostSide
  dsimp only [Work.upd]
  split <;> rfl

theorem Work.deviceEvent_hostSide (w : Work) (code : Nat) (b : List Byte) : (w.deviceEvent code b).hostSide = w.hostSide :=
  Work.deviceEvent_aside (p := Work.hostSide) (fun _ _ _ => rfl) (fun _ _ _ _ => rfl) (fun _ _ _ _ => rfl) (fun _ _ _ => rfl)
    Work.msix_hostSide (fun _ _ => rfl) w code b

/-- The host port as a link that comes up leaves it (R430, R564). -/
def Hif.linkUp (h : Hif) (sp w n bm : Nat) (sris : Bool) : Hif :=
  { h with
    speed := sp % 8, width := w % 32, flitMode := decide (sp % 8 = 6), srisActive := sris, numVfs := n % 16, vfEnable := decide (n % 16 ≠ 0)
    busMaster := BitVec.ofNat 16 bm }

/-- HOST_LINK_UP: the port alone at 64 GT/s in sixteen lanes, and the event where the link is degraded (R430, R564). -/
theorem exec_hostLinkUp (sp w n bm : Nat) (s : State) :
    let v := s.work.upd fun d => { d with hif := d.hif.linkUp sp w n bm d.pwr.hostSris }
    (sp % 8 = 6 ∧ w % 32 = 16 → exec (.hostLinkUp sp w n bm) s = .next (s.finish v))
    ∧ (¬ (sp % 8 = 6 ∧ w % 32 = 16) →
      exec (.hostLinkUp sp w n bm) s = .next (s.finish (v.deviceEvent 0x0004 (leBytes 1 (gtps (sp % 8)) ++ leBytes 1 (w % 32))))) :=
  ⟨fun h => exec_finish rfl (if_pos h), fun h => exec_finish rfl (if_neg h)⟩

/-- A degraded link is reported in the event ring of context 0 where its rings are enabled (R430, R564). -/
theorem exec_hostLinkUp_reports {sp w n bm : Nat} {s : State} (hbad : ¬ (sp % 8 = 6 ∧ w % 32 = 16)) (he : (s.work.ctx 0).enable = true)
    (hc : 0 < s.dev.ctxs.length) (hwf : Memory.wf s.mem = true) :
    ∃ u, exec (.hostLinkUp sp w n bm) s = .next u ∧ s.quietly u id ∧ u.dev.hif.speed = sp % 8 ∧ u.dev.hif.width = w % 32
      ∧ u.dev.hif.numVfs = n % 16 ∧ u.dev.hif.busMaster = BitVec.ofNat 16 bm
      ∧ ((s.work.ctx 0).evt.full = false → s.posted u 0 true (s.work.event 0x0004 0xFF (leBytes 1 (gtps (sp % 8)) ++ leBytes 1 (w % 32)))) := by
  obtain ⟨b, hb⟩ : ∃ b, b = leBytes 1 (gtps (sp % 8)) ++ leBytes 1 (w % 32) := ⟨_, rfl⟩
  obtain ⟨v, hv⟩ : ∃ v, v = s.work.upd fun d => { d with hif := d.hif.linkUp sp w n bm d.pwr.hostSris } := ⟨_, rfl⟩
  have hexec : exec (.hostLinkUp sp w n bm) s = .next (s.finish (v.deviceEvent 0x0004 b)) := by
    rw [hv, hb]
    exact (exec_hostLinkUp sp w n bm s).2 hbad
  have hstill : (v.deviceEvent 0x0004 b).still = s.work.still := (Work.deviceEvent_still ..).trans (by rw [hv]; rfl)
  have hctx : v.ctx 0 = s.work.ctx 0 := by rw [hv]; rfl
  have hside : (v.deviceEvent 0x0004 b).hostSide = (sp % 8, w % 32, n % 16, BitVec.ofNat 16 bm) :=
    (Work.deviceEvent_hostSide ..).trans (by rw [hv]; rfl)
  simp only [Work.hostSide, Prod.mk.injEq] at hside
  obtain ⟨hspeed, hwidth, hvfs, hmaster⟩ := hside
  rw [← hb]
  refine ⟨_, hexec, State.finish_quietly hstill, by rw [State.finish_hif, hspeed], by rw [State.finish_hif, hwidth], by rw [State.finish_hif, hvfs],
    by rw [State.finish_hif, hmaster], fun hroom => ?_⟩
  have hwritten := Work.deviceEvent_enabled (w := v) 0x0004 b (by rw [hctx]; exact he)
  obtain ⟨hlog, hevt⟩ := Work.writeEvent_posts v true (v.event 0x0004 0xFF b) (c := 0) (by rw [hv]; exact hc) (by rw [hctx]; exact hroom)
  rw [hwritten] at hstill ⊢
  have hsame : v.event 0x0004 0xFF b = s.work.event 0x0004 0xFF b := by rw [hv]; rfl
  rw [hctx, hsame] at hlog hevt
  rw [hsame] at hstill ⊢
  refine State.finish_posted hwf ⟨Work.still_base hstill, Work.still_wiped hstill, Work.still_fz hstill⟩ (hlog.trans ?_) (by rw [hevt])
  rw [hv]
  rfl

/-- HOST_LINK_LOSS during a run: every context halts (R433). -/
theorem exec_hostLinkLoss_halts {s : State} (h : s.dev.pitch.run = true ∨ s.work.jobActive = true) :
    ∃ u, exec .hostLinkLoss s = .next u ∧ s.haltsAll u 0x61 0xFFFFFFFF ∧ s.quietly u id ∧ u.dev.hif.speed = 0 ∧ u.dev.hif.width = 0 := by
  have hexec : exec .hostLinkLoss s = .next (s.finish s.work.hostLost) := exec_finish rfl rfl
  obtain ⟨hspeed, hwidth⟩ := s.work.hostLost_port
  refine ⟨_, hexec, State.finish_haltsAll (Work.still_fz s.work.hostLost_still) fun c hc he hv => ?_, State.finish_quietly s.work.hostLost_still,
    by rw [State.finish_hif, hspeed], by rw [State.finish_hif, hwidth]⟩
  exact Work.hostLost_rec h hc he hv

/-- MSIX_VECTOR_UNMASK: the vector neither masked nor pending, its message sent where it was pending (R452). -/
theorem exec_msixVectorUnmask (fn v : Nat) (s : State) :
    exec (.msixVectorUnmask fn v) s = .next { s with dev := { s.dev with
      hif := { s.dev.hif with
        masked := s.dev.hif.masked.filter fun m => m != (fn, v), pendingBits := s.dev.hif.pendingBits.filter fun m => m != (fn, v)
        msixOut := if (fn, v) ∈ s.dev.hif.pendingBits then s.dev.hif.msixOut ++ [(fn, v)] else s.dev.hif.msixOut } } } := by
  obtain ⟨w, hw⟩ : ∃ w, w = s.work.upd fun d => { d with
    hif := { d.hif with
      masked := d.hif.masked.filter fun m => m != (fn, v), pendingBits := d.hif.pendingBits.filter fun m => m != (fn, v) } } := ⟨_, rfl⟩
  have hexec : exec (.msixVectorUnmask fn v) s = .next (s.finish (if s.dev.hif.pendingBits.contains (fn, v) then w.msix fn v else w)) := by
    rw [hw]
    exact exec_finish rfl rfl
  have hopen : w.d.hif.masked.contains (fn, v) = false := by
    rw [hw, Bool.eq_false_iff, ne_eq, List.contains_iff_mem]
    intro hmem
    simpa using (List.mem_filter.mp hmem).2
  rw [hexec]
  by_cases hp : (fn, v) ∈ s.dev.hif.pendingBits
  · have hsent : w.msix fn v = w.upd fun d => { d with hif := { d.hif with msixOut := d.hif.msixOut ++ [(fn, v)] } } := by
      unfold Work.msix
      dsimp only [Work.upd]
      rw [if_neg (by rw [hopen]; decide)]
    rw [if_pos (by simpa using hp), if_pos hp, hsent, hw]
    exact congrArg Host.Outcome.next (State.finish_eq s _ rfl rfl)
  · rw [if_neg (by simpa using hp), if_neg hp, hw]
    exact congrArg Host.Outcome.next (State.finish_eq s _ rfl rfl)

/-! ### A context reset -/

/-- The owners of the objects, and what the haul of an object leaves alone (R358, R434). -/
def Work.ownFrame (w : Work) : Fuses × List Host.Cell × List (Nat × Nat) × List Host.Cell × List Ctx × List Tile × Hif × CfgSet × List Nat :=
  (w.fz, w.base, w.wiped, w.log, w.d.ctxs, w.d.tiles, w.d.hif, w.d.bootSet, w.d.residency.map fun e => e.owner)

/-- A copy put in flight keeps that frame. -/
theorem Work.startCopy_ownFrame (w : Work) (k : HaulCopy) : (w.startCopy k).ownFrame = w.ownFrame := by
  unfold Work.startCopy
  dsimp only
  split
  · exact (Work.sendRouted_keeps Work.ownFrame (fun _ _ _ _ => rfl) (fun _ _ _ _ _ => rfl) (fun _ _ _ => rfl) _ ..).trans rfl
  · rfl

/-- An object changed, its owner left, keeps that frame. -/
theorem Work.updObj_ownFrame (w : Work) (h : Nat) (f : ResEntry → ResEntry) (hf : ∀ e, (f e).owner = e.owner) :
    (w.updObj h f).ownFrame = w.ownFrame := by
  have howners : (w.updObj h f).d.residency.map (fun e => e.owner) = w.d.residency.map fun e => e.owner := by
    show (w.d.residency.map fun e => if e.handle = h ∧ e.state ≠ .free then f e else e).map _ = _
    rw [List.map_map]
    refine List.map_congr_left fun e _ => ?_
    show ResEntry.owner (if e.handle = h ∧ e.state ≠ .free then f e else e) = _
    split
    · exact hf e
    · rfl
  show (_, _, _, _, _, _, _, _, _) = _
  rw [howners]
  rfl

/-- A transition begun keeps that frame. -/
theorem Work.begin_ownFrame (w : Work) (h : Nat) (t : Transition) : (w.begin h t).ownFrame = w.ownFrame := by
  unfold Work.begin
  dsimp only
  split
  · exact w.updObj_ownFrame h _ fun _ => rfl
  · split
    · exact w.updObj_ownFrame h _ fun _ => rfl
    · exact (Work.startCopy_ownFrame ..).trans (w.updObj_ownFrame h _ fun _ => rfl)

/-- A transition ended uncommitted keeps that frame (R434). -/
theorem Work.endTransition_ownFrame (w : Work) (c : Nat) (e : ResEntry) : (w.endTransition c e).ownFrame = w.ownFrame := by
  have hobj := (w.upd fun d => { d with copies := d.copies.filter fun k => k.handle != some e.handle }).updObj_ownFrame e.handle
    (fun e => { e with
      state := .resident, newHome := 0, newCharged := e.charged, commitTick := 0, descs := [], deferred := none }) fun _ => rfl
  unfold Work.endTransition
  dsimp only
  split
  · exact hobj
  · split
    · exact hobj
    · exact (Work.begin_ownFrame ..).trans hobj

/-- The objects of a reset context are gone; the rest of the frame stands (R434). -/
theorem Work.freeObjects_reads (w : Work) (c : Nat) :
    ((w.freeObjects c).fz = w.fz ∧ (w.freeObjects c).base = w.base ∧ (w.freeObjects c).wiped = w.wiped ∧ (w.freeObjects c).log = w.log)
      ∧ ((w.freeObjects c).d.ctxs = w.d.ctxs ∧ (w.freeObjects c).d.tiles = w.d.tiles ∧ (w.freeObjects c).d.hif = w.d.hif
        ∧ (w.freeObjects c).d.bootSet = w.d.bootSet)
      ∧ ∀ e ∈ (w.freeObjects c).d.residency, e.owner ≠ c := by
  obtain ⟨v, hv⟩ : ∃ v, v = w.upd fun d =>
    { d with
      residency := (d.residency.filter fun e => e.owner != c).map fun e =>
        match e.deferred with | some k => if k.ctx = c then { e with deferred := none } else e | none => e
      copies := d.copies.filter fun k => k.ctx != c && !(match k.handle with
        | some h => ((w.d.residency.filter fun e => e.owner == c).map fun e => e.handle).contains h | none => false) } := ⟨_, rfl⟩
  have hfree : w.freeObjects c = (v.d.residency.filter fun e =>
      e.newCharged == c && decide (e.state ≠ .resident) && decide (e.state ≠ .free) && decide (e.state ≠ .releasing)).foldl
      (fun w e => w.endTransition c e) v := by
    rw [hv]
    rfl
  have hkeeps : (w.freeObjects c).ownFrame = v.ownFrame := by
    rw [hfree]
    exact Work.foldl_keeps Work.ownFrame (fun w e => w.endTransition c e) (fun _ _ => Work.endTransition_ownFrame ..) _ v
  have howners : v.d.residency.map (fun e => e.owner) = (w.d.residency.filter fun e => e.owner != c).map fun e => e.owner := by
    rw [hv]
    show ((w.d.residency.filter _).map _).map _ = _
    rw [List.map_map]
    refine List.map_congr_left fun e _ => ?_
    show ResEntry.owner (match e.deferred with | some k => if k.ctx = c then { e with deferred := none } else e | none => e) = _
    split
    · split <;> rfl
    · rfl
  simp only [Work.ownFrame, Prod.mk.injEq] at hkeeps
  obtain ⟨hfz, hbase, hwiped, hlog, hctxs, htiles, hhif, hboot, hres⟩ := hkeeps
  have hsame : v.fz = w.fz ∧ v.base = w.base ∧ v.wiped = w.wiped ∧ v.log = w.log ∧ v.d.ctxs = w.d.ctxs ∧ v.d.tiles = w.d.tiles ∧ v.d.hif = w.d.hif
      ∧ v.d.bootSet = w.d.bootSet := by
    rw [hv]
    exact ⟨rfl, rfl, rfl, rfl, rfl, rfl, rfl, rfl⟩
  obtain ⟨hfz', hbase', hwiped', hlog', hctxs', htiles', hhif', hboot'⟩ := hsame
  refine ⟨⟨hfz.trans hfz', hbase.trans hbase', hwiped.trans hwiped', hlog.trans hlog'⟩,
    ⟨hctxs.trans hctxs', htiles.trans htiles', hhif.trans hhif', hboot.trans hboot'⟩, fun e he => ?_⟩
  have hmem : e.owner ∈ (w.d.residency.filter fun e => e.owner != c).map fun e => e.owner := by
    rw [← howners, ← hres]
    exact List.mem_map_of_mem he
  obtain ⟨x, hx, hxe⟩ := List.mem_map.mp hmem
  rw [← hxe]
  simpa using (List.mem_filter.mp hx).2

/-- A context's record as a change of the list leaves it, where the change keeps its tile mask: the same tiles. -/
theorem Work.tiles_updAt {v w : Work} {c : Nat} {f : Ctx → Ctx} (hfz : v.fz = w.fz) (hctxs : v.d.ctxs = updAt w.d.ctxs c f)
    (hf : ∀ x, (f x).tileMask = x.tileMask) : (v.ctx c).tiles = (w.ctx c).tiles := by
  have hmask : (v.ctx c).tileMask = (w.ctx c).tileMask := by
    rw [Work.ctx, hctxs, hfz, updAt_getElem?, if_pos rfl, Work.ctx]
    cases w.d.ctxs[c]? with
    | none => rfl
    | some x => exact hf x
  rw [Ctx.tiles, hmask, Ctx.tiles]

/-- The work of a context discarded (R256). -/
def Ctx.idled (x : Ctx) : Ctx := { x with cmds := [], fences := [], waited := [], replay := none, waiting := [], executing := [] }

/-- What stopping a context's work leaves (R256). -/
theorem Work.stopWork_reads (w : Work) (c : Nat) :
    ((w.stopWork c).fz = w.fz ∧ (w.stopWork c).base = w.base ∧ (w.stopWork c).wiped = w.wiped ∧ (w.stopWork c).log = w.log)
      ∧ ((w.stopWork c).d.ctxs = updAt w.d.ctxs c Ctx.idled ∧ (w.stopWork c).d.hif = w.d.hif ∧ (w.stopWork c).d.bootSet = w.d.bootSet)
      ∧ ∀ t : Nat, (w.stopWork c).d.tiles[t]? = if t ∈ (w.ctx c).tiles then (w.d.tiles[t]?).map Tile.halted else w.d.tiles[t]? := by
  obtain ⟨v, hv⟩ : ∃ v, v = (w.ctx c).tiles.foldl (fun w t => w.updTile t Tile.halted) w := ⟨_, rfl⟩
  have htiles (t : Nat) := Work.updTiles_tile Tile.halted (w.ctx c).tiles_nodup w t
  have hkeeps := Work.updTiles_keeps (fun v => (v.fz, v.base, v.wiped, v.log, v.d.ctxs, v.d.hif, v.d.bootSet)) (fun _ _ _ => rfl)
    Tile.halted (w.ctx c).tiles w
  rw [← hv] at hkeeps
  simp only [Prod.mk.injEq] at hkeeps
  obtain ⟨hfz, hbase, hwiped, hlog, hctxs, hhif, hboot⟩ := hkeeps
  have hstop : w.stopWork c = (v.dropOps c).updCtx c Ctx.idled := by
    rw [hv]
    rfl
  rw [hstop]
  refine ⟨⟨hfz, hbase, hwiped, hlog⟩, ⟨?_, hhif, hboot⟩, fun t => ?_⟩
  · show updAt v.d.ctxs c Ctx.idled = _
    rw [hctxs]
  · rw [← htiles, ← hv]
    rfl

/-- What unloading a job leaves of the host port and the boot configuration. -/
theorem Work.unload_ports (w : Work) (c : Nat) : (w.unload c).d.hif = w.d.hif ∧ (w.unload c).d.bootSet = w.d.bootSet := by
  have hkeeps (ts : List Nat) (v : Work) := Work.updTiles_keeps (fun v => (v.d.hif, v.d.bootSet)) (fun _ _ _ => rfl)
    (fun k : Tile => { k with loaded := false }) ts v
  simp only [Prod.mk.injEq] at hkeeps
  exact hkeeps _ (w.upd fun d =>
    { d with
      queues := d.queues.filter fun q => q.ctx != c
      sec := { d.sec with jobDigests := updAt d.sec.jobDigests c fun _ => List.replicate 48 0 } })

/-- What zeroing the tiles of a list leaves beside them. -/
theorem Work.zeroTiles_keeps (ts : List Nat) (w : Work) :
    (ts.foldl Work.zeroTile w).fz = w.fz ∧ (ts.foldl Work.zeroTile w).base = w.base ∧ (ts.foldl Work.zeroTile w).d.ctxs = w.d.ctxs
      ∧ (ts.foldl Work.zeroTile w).d.hif = w.d.hif ∧ (ts.foldl Work.zeroTile w).d.bootSet = w.d.bootSet
      ∧ (ts.foldl Work.zeroTile w).d.residency = w.d.residency := by
  have hkeeps := Work.foldl_keeps (fun v : Work => (v.fz, v.base, v.d.ctxs, v.d.hif, v.d.bootSet, v.d.residency)) Work.zeroTile
    (fun _ _ => rfl) ts w
  simpa only [Prod.mk.injEq] using hkeeps

/-- The record of a context as its reset leaves it: rings, interrupts, job and halts as at reset, the tiles and the arena as they are (R434). -/
def Ctx.afterReset (x : Ctx) : Ctx :=
  { x with
    job := none, cmds := [], fences := [], waited := [], replay := none, layers := [], waiting := [], executing := [], lateDispatch := false
    fetched := [], enable := false, state := .disabled, ringVersion := 0x0100, cmd := List.replicate 4 CmdRing.reset, cpl := OutRing.reset
    evt := OutRing.reset, coalesceCount := 1, coalesceTime := 0, evtIrq := true, unsignalled := 0, unsignalledAt := 0
    halt := HaltRec.empty, streamHalt := HaltRec.empty }

/-- A context's job and work gone, its objects freed and its tiles zeroed: the first part of its reset (R434). -/
def Work.emptied (w : Work) (c : Nat) : Work :=
  let v := (((w.updCtx c fun x => { x with fetched := [] }).stopWork c).unload c).freeObjects c
  (v.ctx c).tiles.foldl Work.zeroTile v

/-- A context reset, the emptied context's record and its interrupts after it (R434). -/
theorem Work.resetCtx_eq (w : Work) (c : Nat) :
    w.resetCtx c = ((((w.emptied c).updCtx c fun x =>
      { x with
        enable := false, state := .disabled, ringVersion := 0x0100, cmd := List.replicate 4 CmdRing.reset, cpl := OutRing.reset
        evt := OutRing.reset, coalesceCount := 1, coalesceTime := 0, evtIrq := true, unsignalled := 0, unsignalledAt := 0
        halt := HaltRec.empty, streamHalt := HaltRec.empty }).upd fun d =>
      { d with
        machineStopped := d.machineStopped
          || match (w.ctx c).job with | some j => j.machine && decide ((w.ctx c).state = .running) | none => false
        pwr := { d.pwr with enableWait := d.pwr.enableWait.filter fun k => k != c }
        hif := { d.hif with
          masked := (d.hif.masked.filter fun m => m.1 != c) ++ [(c, 0), (c, 1)], pendingBits := d.hif.pendingBits.filter fun m => m.1 != c } }).noteIdle).tryReport :=
  rfl

/-- What emptying a context leaves (R434). -/
theorem Work.emptied_reads (w : Work) (c : Nat) :
    ((w.emptied c).fz = w.fz ∧ (w.emptied c).base = w.base ∧ (w.emptied c).d.hif = w.d.hif ∧ (w.emptied c).d.bootSet = w.d.bootSet)
      ∧ (w.emptied c).d.ctxs = updAt w.d.ctxs c (fun x => Ctx.unloaded (Ctx.idled { x with fetched := [] }))
      ∧ (∀ t : Nat, (w.emptied c).d.tiles[t]? = if t ∈ (w.ctx c).tiles then (w.d.tiles[t]?).map (fun _ => Tile.zeroed) else w.d.tiles[t]?)
      ∧ (∀ e ∈ (w.emptied c).d.residency, e.owner ≠ c)
      ∧ (w.log = [] → (w.emptied c).log = []
        ∧ ∀ k, Memory.within (w.emptied c).wiped k = (((w.ctx c).tiles.any fun t => Memory.within (tileStorage t) k) || Memory.within w.wiped k)) := by
  obtain ⟨a, ha⟩ : ∃ a, a = w.updCtx c fun x => { x with fetched := [] } := ⟨_, rfl⟩
  obtain ⟨⟨hfz1, hbase1, hwiped1, hlog1⟩, ⟨hctxs1, hhif1, hboot1⟩, htiles1⟩ := a.stopWork_reads c
  obtain ⟨b, hb⟩ : ∃ b, b = a.stopWork c := ⟨_, rfl⟩
  rw [← hb] at hfz1 hbase1 hwiped1 hlog1 hctxs1 hhif1 hboot1 htiles1
  obtain ⟨⟨hfz2, hbase2, hwiped2, hlog2⟩, hctxs2, -⟩ := b.unload_reads c
  obtain ⟨hhif2, hboot2⟩ := b.unload_ports c
  have htiles2 := b.unload_tiles c
  obtain ⟨d, hd⟩ : ∃ d, d = b.unload c := ⟨_, rfl⟩
  rw [← hd] at hfz2 hbase2 hwiped2 hlog2 hctxs2 hhif2 hboot2 htiles2
  obtain ⟨⟨hfz3, hbase3, hwiped3, hlog3⟩, ⟨hctxs3, htiles3, hhif3, hboot3⟩, hres3⟩ := d.freeObjects_reads c
  obtain ⟨v, hv⟩ : ∃ v, v = d.freeObjects c := ⟨_, rfl⟩
  rw [← hv] at hfz3 hbase3 hwiped3 hlog3 hctxs3 htiles3 hhif3 hboot3 hres3
  have hempty : w.emptied c = (v.ctx c).tiles.foldl Work.zeroTile v := by
    rw [hv, hd, hb, ha]
    rfl
  have hfz : v.fz = w.fz := hfz3.trans (hfz2.trans (hfz1.trans (by rw [ha]; rfl)))
  have hactxs : a.d.ctxs = updAt w.d.ctxs c fun x => { x with fetched := [] } := by rw [ha]; rfl
  have hctxs : v.d.ctxs = updAt w.d.ctxs c (fun x => Ctx.unloaded (Ctx.idled { x with fetched := [] })) := by
    rw [hctxs3, hctxs2, hctxs1, hactxs, updAt_updAt, updAt_updAt]
  have hsame (u : Work) (f : Ctx → Ctx) (hz : u.fz = w.fz) (hu : u.d.ctxs = updAt w.d.ctxs c f) (hf : ∀ x, (f x).tileMask = x.tileMask) :
      (u.ctx c).tiles = (w.ctx c).tiles := Work.tiles_updAt hz hu hf
  have hta := hsame a _ (by rw [ha]; rfl) hactxs fun _ => rfl
  have htb := hsame b (fun x => Ctx.idled { x with fetched := [] }) (hfz1.trans (by rw [ha]; rfl)) (hctxs1.trans (by rw [hactxs, updAt_updAt])) fun _ => rfl
  have htv := hsame v _ hfz hctxs fun _ => rfl
  have hvtiles (t : Nat) : v.d.tiles[t]? = if t ∈ (w.ctx c).tiles then ((w.d.tiles[t]?).map Tile.halted).map (fun k => { k with loaded := false })
      else w.d.tiles[t]? := by
    rw [htiles3, htiles2, htiles1, hta, htb, ha]
    split <;> rfl
  obtain ⟨hzfz, hzbase, hzctxs, hzhif, hzboot, hzres⟩ := Work.zeroTiles_keeps (w.ctx c).tiles v
  rw [hempty, htv]
  refine ⟨⟨hzfz.trans hfz, ?_, ?_, ?_⟩, hzctxs.trans hctxs, fun t => ?_, fun e he => ?_, fun hlog => ?_⟩
  · exact hzbase.trans (hbase3.trans (hbase2.trans (hbase1.trans (by rw [ha]; rfl))))
  · exact hzhif.trans (hhif3.trans (hhif2.trans (hhif1.trans (by rw [ha]; rfl))))
  · exact hzboot.trans (hboot3.trans (hboot2.trans (hboot1.trans (by rw [ha]; rfl))))
  · have htile (l : List Nat) (u : Work) : (l.foldl Work.zeroTile u).d.tiles = l.foldl (fun ks t => updAt ks t fun _ => Tile.zeroed) u.d.tiles := by
      induction l generalizing u with
      | nil => rfl
      | cons n l ih => exact ih (u.zeroTile n)
    rw [htile, foldl_updAt_getElem? _ _ (w.ctx c).tiles_nodup, hvtiles]
    split
    · rw [Option.map_map, Option.map_map]
      rfl
    · rfl
  · rw [hzres] at he
    exact hres3 e he
  · have hvlog : v.log = [] := hlog3.trans (hlog2.trans (hlog1.trans (by rw [ha]; exact hlog)))
    obtain ⟨-, -, hzlog, -, -, hzwiped⟩ := Work.zeroTiles_reads (w.ctx c).tiles hvlog
    refine ⟨hzlog, fun k => ?_⟩
    rw [hzwiped, hwiped3, hwiped2, hwiped1, ha]
    rfl

/-- The idle timer, which a context reset may start, is all that noting idleness changes (R539). -/
theorem Work.noteIdle_keeps {β : Type} (p : Work → β) (h : ∀ (v : Work) (x : Pwr), p (v.upd fun d => { d with pwr := x }) = p v) (w : Work) :
    p w.noteIdle = p w := by
  unfold Work.noteIdle
  split
  · rfl
  · exact h w _

/-- What neither the idle timer nor a report of the device changes. -/
def Work.resetFrame (u : Work) : Fuses × List Host.Cell × CfgSet × Hif × List Ctx × List Tile × List ResEntry × List Host.Cell × List (Nat × Nat) :=
  (u.fz, u.base, u.d.bootSet, u.d.hif, u.d.ctxs, u.d.tiles, u.d.residency, u.log, u.wiped)

/-- What a context reset leaves (R434). -/
theorem Work.resetCtx_reads (w : Work) (c : Nat) :
    ((w.resetCtx c).fz = w.fz ∧ (w.resetCtx c).base = w.base ∧ (w.resetCtx c).d.bootSet = w.d.bootSet)
      ∧ (w.resetCtx c).d.hif = { w.d.hif with
        masked := (w.d.hif.masked.filter fun m => m.1 != c) ++ [(c, 0), (c, 1)]
        pendingBits := w.d.hif.pendingBits.filter fun m => m.1 != c }
      ∧ (w.resetCtx c).d.ctxs = updAt w.d.ctxs c Ctx.afterReset
      ∧ (∀ t : Nat, (w.resetCtx c).d.tiles[t]? = if t ∈ (w.ctx c).tiles then (w.d.tiles[t]?).map (fun _ => Tile.zeroed) else w.d.tiles[t]?)
      ∧ (∀ e ∈ (w.resetCtx c).d.residency, e.owner ≠ c)
      ∧ (w.log = [] → (w.resetCtx c).log = []
        ∧ ∀ k, Memory.within (w.resetCtx c).wiped k = (((w.ctx c).tiles.any fun t => Memory.within (tileStorage t) k) || Memory.within w.wiped k)) := by
  obtain ⟨⟨hfz, hbase, hhif, hboot⟩, hctxs, htiles, hres, hmem⟩ := w.emptied_reads c
  rw [w.resetCtx_eq c]
  obtain ⟨v, hv⟩ : ∃ v, v = w.emptied c := ⟨_, rfl⟩
  rw [← hv] at hfz hbase hhif hboot hctxs htiles hres hmem ⊢
  obtain ⟨x, hx⟩ : ∃ x, x = ((v.updCtx c fun x =>
      { x with
        enable := false, state := .disabled, ringVersion := 0x0100, cmd := List.replicate 4 CmdRing.reset, cpl := OutRing.reset
        evt := OutRing.reset, coalesceCount := 1, coalesceTime := 0, evtIrq := true, unsignalled := 0, unsignalledAt := 0
        halt := HaltRec.empty, streamHalt := HaltRec.empty }).upd fun d =>
      { d with
        machineStopped := d.machineStopped
          || match (w.ctx c).job with | some j => j.machine && decide ((w.ctx c).state = .running) | none => false
        pwr := { d.pwr with enableWait := d.pwr.enableWait.filter fun k => k != c }
        hif := { d.hif with
          masked := (d.hif.masked.filter fun m => m.1 != c) ++ [(c, 0), (c, 1)], pendingBits := d.hif.pendingBits.filter fun m => m.1 != c } }) := ⟨_, rfl⟩
  have hxctxs : x.d.ctxs = updAt w.d.ctxs c Ctx.afterReset := by
    have hraw : x.d.ctxs = updAt v.d.ctxs c fun x =>
        { x with
          enable := false, state := .disabled, ringVersion := 0x0100, cmd := List.replicate 4 CmdRing.reset, cpl := OutRing.reset
          evt := OutRing.reset, coalesceCount := 1, coalesceTime := 0, evtIrq := true, unsignalled := 0, unsignalledAt := 0
          halt := HaltRec.empty, streamHalt := HaltRec.empty } := by
      rw [hx]
      rfl
    rw [hraw, hctxs, updAt_updAt]
    rfl
  have hkeeps : x.noteIdle.tryReport.resetFrame = x.resetFrame :=
    (Work.tryReport_keeps Work.resetFrame (Work.sendBelay_keeps Work.resetFrame (fun _ _ => rfl) (fun _ _ _ _ => rfl) fun _ _ _ => rfl)
      (fun _ _ _ _ _ _ => rfl) _).trans (Work.noteIdle_keeps Work.resetFrame (fun _ _ => rfl) x)
  rw [← hx]
  simp only [Work.resetFrame, Prod.mk.injEq] at hkeeps
  obtain ⟨kfz, kbase, kboot, khif, kctxs, ktiles, kres, klog, kwiped⟩ := hkeeps
  have hside : x.fz = v.fz ∧ x.base = v.base ∧ x.d.bootSet = v.d.bootSet ∧ x.d.tiles = v.d.tiles ∧ x.d.residency = v.d.residency ∧ x.log = v.log
      ∧ x.wiped = v.wiped := by
    rw [hx]
    exact ⟨rfl, rfl, rfl, rfl, rfl, rfl, rfl⟩
  obtain ⟨xfz, xbase, xboot, xtiles, xres, xlog, xwiped⟩ := hside
  refine ⟨⟨kfz.trans (xfz.trans hfz), kbase.trans (xbase.trans hbase), kboot.trans (xboot.trans hboot)⟩, khif.trans ?_, kctxs.trans hxctxs,
    fun t => ?_, fun e he => ?_, fun hlog => ?_⟩
  · rw [← hhif, hx]
    rfl
  · rw [ktiles, xtiles, htiles]
  · rw [kres, xres] at he
    exact hres e he
  · obtain ⟨hl, hw⟩ := hmem hlog
    exact ⟨klog.trans (xlog.trans hl), fun k => by rw [kwiped, xwiped, hw]⟩

/-! ### The resets of functions -/

/-- VF_FLR: the context's reset, and its Bus Master Enable cleared with it (R434). -/
theorem exec_vfFlr_resets {c : Nat} {s : State} (hc : c < s.dev.ctxs.length) (hwf : Memory.wf s.mem = true) :
    ∃ u, exec (.vfFlr c) s = .next u
      ∧ (u.work.ctx c = (s.work.ctx c).afterReset)
      ∧ (∀ k, k ≠ c → u.work.ctx k = s.work.ctx k)
      ∧ (∀ t, t ∈ (s.work.ctx c).tiles → t < s.dev.tiles.length → u.work.tile t = Tile.zeroed)
      ∧ (∀ t, t ∉ (s.work.ctx c).tiles → u.work.tile t = s.work.tile t)
      ∧ (∀ e, e ∈ u.dev.residency → e.owner ≠ c)
      ∧ (∀ k, (u.dev.hif.busMaster.getLsbD k) = (decide (k ≠ c) && s.dev.hif.busMaster.getLsbD k))
      ∧ ((c, 0) ∈ u.dev.hif.masked ∧ (c, 1) ∈ u.dev.hif.masked ∧ ∀ v, (c, v) ∉ u.dev.hif.pendingBits)
      ∧ (∀ t k, t ∈ (s.work.ctx c).tiles → Memory.within (tileStorage t) k = true → Memory.read u.mem k = 0)
      ∧ (∀ k, (∀ t, t ∈ (s.work.ctx c).tiles → Memory.within (tileStorage t) k = false) → Memory.read u.mem k = Memory.read s.mem k) := by
  obtain ⟨v, hv⟩ : ∃ v, v = s.work.resetCtx c := ⟨_, rfl⟩
  obtain ⟨⟨hfz, hbase, -⟩, hhif, hctxs, htiles, hres, hmem⟩ := s.work.resetCtx_reads c
  obtain ⟨hlog, hwiped⟩ := hmem rfl
  rw [← hv] at hfz hbase hhif hctxs htiles hres hlog hwiped
  obtain ⟨x, hx⟩ : ∃ x, x = v.upd fun d => { d with hif := { d.hif with busMaster := d.hif.busMaster &&& ~~~(1#16 <<< c) } } := ⟨_, rfl⟩
  have hexec : exec (.vfFlr c) s = .next (s.finish x) := exec_finish rfl (by rw [hx, hv])
  have hsame : x.fz = v.fz ∧ x.base = v.base ∧ x.d.ctxs = v.d.ctxs ∧ x.d.tiles = v.d.tiles ∧ x.d.residency = v.d.residency ∧ x.log = v.log
      ∧ x.wiped = v.wiped ∧ x.d.hif = { v.d.hif with busMaster := v.d.hif.busMaster &&& ~~~(1#16 <<< c) } := by
    rw [hx]
    exact ⟨rfl, rfl, rfl, rfl, rfl, rfl, rfl, rfl⟩
  obtain ⟨xfz, xbase, xctxs, xtiles, xres, xlog, xwiped, xhif⟩ := hsame
  have hfzs : x.fz = s.fuses := xfz.trans hfz
  have hctx (k : Nat) : (s.finish x).work.ctx k = (s.work.updCtx c Ctx.afterReset).ctx k := by
    rw [State.finish_ctx _ _ _ hfzs, Work.ctx, xctxs, hctxs, hfzs]
    rfl
  have htile (t : Nat) : x.d.tiles[t]? = if t ∈ (s.work.ctx c).tiles then (s.dev.tiles[t]?).map (fun _ => Tile.zeroed) else s.dev.tiles[t]? := by
    rw [xtiles, htiles]
    rfl
  have hport : (s.finish x).dev.hif = { s.dev.hif with
      masked := (s.dev.hif.masked.filter fun m => m.1 != c) ++ [(c, 0), (c, 1)], pendingBits := s.dev.hif.pendingBits.filter fun m => m.1 != c
      busMaster := s.dev.hif.busMaster &&& ~~~(1#16 <<< c) } := by
    rw [State.finish_hif, xhif, hhif]
    rfl
  have hread (k : Nat) : Memory.read (s.finish x).mem k
      = if ((s.work.ctx c).tiles.any fun t => Memory.within (tileStorage t) k) = true then Memory.dflt k else Memory.read s.mem k := by
    rw [State.finish_read s x hwf (xbase.trans hbase), Work.rd, xlog, hlog, xwiped, hwiped, xbase, hbase]
    show (if (((s.work.ctx c).tiles.any fun t => Memory.within (tileStorage t) k) || false) = true then _ else _) = _
    rw [Bool.or_false]
    rfl
  refine ⟨_, hexec, ?_, fun k hk => ?_, fun t hmem ht => ?_, fun t hmem => ?_, fun e he => ?_, fun k => ?_, ?_, fun t k hmem hk => ?_, fun k hk => ?_⟩
  · rw [hctx, Work.updCtx_ctx_same s.work c _ hc]
  · rw [hctx, Work.updCtx_ctx_other s.work c k _ hk]
  · rw [State.finish_tile, Work.tile, htile, if_pos hmem, List.getElem?_eq_getElem ht]
    rfl
  · rw [State.finish_tile, Work.tile, htile, if_neg hmem]
    rfl
  · rw [State.finish_residency, xres] at he
    exact hres e he
  · rw [hport]
    show (s.dev.hif.busMaster &&& ~~~(1#16 <<< c)).getLsbD k = _
    rw [BitVec.getLsbD_and, BitVec.getLsbD_not, BitVec.getLsbD_shiftLeft]
    by_cases hk : k < 16
    · by_cases hkc : k = c
      · simp [hkc]
      · have : ¬ k < c → k - c ≠ 0 := by omega
        by_cases hlt : k < c <;> simp [hk, hkc, hlt, this, BitVec.getLsbD_one]
    · rw [BitVec.getLsbD_of_ge _ _ (by omega), Bool.false_and, Bool.and_false]
  · rw [hport]
    refine ⟨List.mem_append_right _ (List.mem_cons_self ..), List.mem_append_right _ (List.mem_cons_of_mem _ (List.mem_cons_self ..)), fun n hn => ?_⟩
    simpa using (List.mem_filter.mp hn).2
  · rw [hread, if_pos (List.any_eq_true.mpr ⟨t, hmem, hk⟩)]
    exact tileStorage_low (List.mem_range.mp (List.mem_filter.mp hmem).1) hk
  · rw [hread, if_neg]
    rw [List.any_eq_true]
    rintro ⟨t, ht, hin⟩
    rw [hk t ht] at hin
    cases hin

/-- The contexts after a reset of each of a list. -/
theorem Work.resets_reads (cs : List Nat) (w : Work) :
    (cs.foldl Work.resetCtx w).fz = w.fz ∧ (cs.foldl Work.resetCtx w).d.bootSet = w.d.bootSet
      ∧ (cs.foldl Work.resetCtx w).d.ctxs = cs.foldl (fun l c => updAt l c Ctx.afterReset) w.d.ctxs := by
  induction cs generalizing w with
  | nil => exact ⟨rfl, rfl, rfl⟩
  | cons c cs ih =>
    obtain ⟨⟨hfz, -, hboot⟩, -, hctxs, -⟩ := w.resetCtx_reads c
    obtain ⟨hfzs, hboots, hctxss⟩ := ih (w.resetCtx c)
    exact ⟨hfzs.trans hfz, hboots.trans hboot, hctxss.trans (by rw [hctxs]; rfl)⟩

/-- PF_FLR: every context's reset, the pitch stopped, and the boot configuration back (R433). -/
theorem exec_pfFlr_resets {s : State} (hlen : s.dev.ctxs.length = 16) :
    ∃ u, exec .pfFlr s = .next u
      ∧ (∀ c, c < 16 → u.work.ctx c = (s.work.ctx c).afterReset)
      ∧ u.dev.hif.vfEnable = false ∧ u.dev.hif.numVfs = 0 ∧ u.dev.hif.busMaster = 0 ∧ u.dev.pitch.run = false
      ∧ u.dev.active = s.dev.bootSet ∧ u.dev.shadow = s.dev.bootSet ∧ u.dev.cfg.armed = none := by
  obtain ⟨w, hw⟩ : ∃ w, w = contexts.foldl Work.resetCtx s.work := ⟨_, rfl⟩
  obtain ⟨hfz, hboot, hctxs⟩ := Work.resets_reads contexts s.work
  rw [← hw] at hfz hboot hctxs
  have hctx (c : Nat) (hc : c < 16) : w.ctx c = (s.work.ctx c).afterReset := by
    have hin : c < s.dev.ctxs.length := by rw [hlen]; exact hc
    rw [Work.ctx, hctxs, foldl_updAt_getElem? _ contexts List.nodup_range, if_pos (show c ∈ contexts from List.mem_range.mpr hc), Work.ctx]
    show ((s.dev.ctxs[c]?).map Ctx.afterReset).getD _ = ((s.dev.ctxs[c]?).getD _).afterReset
    rw [List.getElem?_eq_getElem hin]
    rfl
  have hidle : w.jobActive = false := by
    unfold Work.jobActive
    rw [List.any_eq_false]
    intro c hc
    rw [hctx c (List.mem_range.mp hc)]
    simp [Ctx.afterReset]
  have hclear : w.clearRun.fz = w.fz ∧ w.clearRun.d.bootSet = w.d.bootSet ∧ w.clearRun.d.ctxs = w.d.ctxs ∧ w.clearRun.d.pitch.run = false := by
    unfold Work.clearRun
    split
    · next h => exact ⟨rfl, rfl, rfl, by simpa using h⟩
    · dsimp only
      rw [if_neg (by rw [hidle]; decide)]
      exact ⟨rfl, rfl, rfl, rfl⟩
  obtain ⟨v, hv⟩ : ∃ v, v = w.clearRun := ⟨_, rfl⟩
  rw [← hv] at hclear
  obtain ⟨vfz, vboot, vctxs, vrun⟩ := hclear
  obtain ⟨x, hx⟩ : ∃ x, x = (v.upd fun d =>
    { d with
      hif := { d.hif with vfEnable := false, numVfs := 0, busMaster := 0 }
      active := d.bootSet, shadow := d.bootSet }).updCfg fun c => { c with armed := none } := ⟨_, rfl⟩
  have hexec : exec .pfFlr s = .next (s.finish x) := exec_finish rfl (by rw [hx, hv, hw]; rfl)
  have hsame : x.fz = v.fz ∧ x.d.ctxs = v.d.ctxs ∧ x.d.pitch = v.d.pitch ∧ x.d.hif = { v.d.hif with vfEnable := false, numVfs := 0, busMaster := 0 }
      ∧ x.d.active = v.d.bootSet ∧ x.d.shadow = v.d.bootSet ∧ x.d.cfg.armed = none := by
    rw [hx]
    exact ⟨rfl, rfl, rfl, rfl, rfl, rfl, rfl⟩
  obtain ⟨xfz, xctxs, xpitch, xhif, xactive, xshadow, xarmed⟩ := hsame
  have hfzs : x.fz = s.fuses := xfz.trans (vfz.trans hfz)
  refine ⟨_, hexec, fun c hc => ?_, ?_, ?_, ?_, ?_, ?_, ?_, ?_⟩
  · rw [State.finish_ctx _ _ _ hfzs, ← hctx c hc, Work.ctx, xctxs, vctxs, xfz, vfz, Work.ctx]
  · rw [State.finish_hif, xhif]
  · rw [State.finish_hif, xhif]
  · rw [State.finish_hif, xhif]
  · rw [State.finish_pitch, xpitch, vrun]
  · rw [State.finish_active, xactive, vboot, hboot]
    rfl
  · rw [State.finish_shadow, xshadow, vboot, hboot]
    rfl
  · rw [State.finish_cfg, xarmed]

/-- Settles O56: the port's fields are what their commands write, a context reset is one change of its record beside freed objects and zeroed
tiles, and the physical function's is that of all sixteen. That the host's writes come with the link, and that a
function-level reset masks the vectors, drops what is pending and clears Bus Master, are the model's choices (logs 39 and 114). -/
theorem hostPortCompletes : Obligations.HostPortCompletes := by
  refine ⟨fun sp w n bm s => ⟨fun h => ?_, fun h he => ?_, fun h he hc hwf => exec_hostLinkUp_reports h he hc hwf⟩, fun s hrun hjob => ?_,
    fun s h => exec_hostLinkLoss_halts h, fun fn iova size s => ?_, fun s => ?_, fun fn v s => exec_msixVectorUnmask fn v s, fun c s hc hwf => ?_,
    fun s hlen => ?_⟩
  · rw [(exec_hostLinkUp sp w n bm s).1 h]
    exact congrArg Host.Outcome.next (State.finish_eq s _ rfl rfl)
  · rw [(exec_hostLinkUp sp w n bm s).2 h, Work.deviceEvent_held (w := s.work.upd fun d => { d with hif := d.hif.linkUp sp w n bm d.pwr.hostSris }) _ _ he]
    exact congrArg Host.Outcome.next (State.finish_eq s _ rfl rfl)
  · refine exec_next_dev (v := s.work.upd fun d => { d with hif := { d.hif with speed := 0, width := 0, flitMode := false, srisActive := false } })
      rfl ?_ rfl rfl
    have hno : ¬ ((s.dev.pitch.run || s.work.jobActive) = true) := by simp [hrun, hjob]
    exact congrArg (fun w : Work => w.upd fun d => { d with hif := { d.hif with speed := 0, width := 0, flitMode := false, srisActive := false } })
      (if_neg hno)
  · have hsame (e : Nat × Nat × Nat) : (!(e.1 == fn && overlaps e.2.1 e.2.2 iova size)) = decide (e.1 ≠ fn ∨ overlaps e.2.1 e.2.2 iova size = false) := by
      by_cases h : e.1 = fn <;> cases overlaps e.2.1 e.2.2 iova size <;> simp [h]
    refine (exec_next_dev (v := s.work.upd fun d =>
      { d with hif := { d.hif with atc := d.hif.atc.filter fun e => !(e.1 == fn && overlaps e.2.1 e.2.2 iova size) } }) rfl rfl rfl rfl).trans ?_
    rw [funext hsame]
    rfl
  · refine (exec_next_dev (v := s.work.upd fun d => { d with hif := { d.hif with
      correctable := if d.hif.correctable = 0xFFFFFFFF then d.hif.correctable else d.hif.correctable + 1 } }) rfl rfl rfl rfl).trans ?_
    have hcount : (if s.dev.hif.correctable = 0xFFFFFFFF then s.dev.hif.correctable else s.dev.hif.correctable + 1)
        = if s.dev.hif.correctable = 0xFFFFFFFF then 0xFFFFFFFF else s.dev.hif.correctable + 1 := by
      split
      · next h => exact h
      · rfl
    exact congrArg (fun n => Host.Outcome.next { s with dev := { s.dev with hif := { s.dev.hif with correctable := n } } }) hcount
  · obtain ⟨u, hexec, hctx, hrest⟩ := exec_vfFlr_resets hc hwf
    refine ⟨u, hexec, ?_, hrest⟩
    rw [hctx]
    exact ⟨rfl, rfl, rfl, rfl, rfl, rfl, rfl, rfl, rfl, rfl, rfl, rfl, rfl⟩
  · obtain ⟨u, hexec, hctx, hrest⟩ := exec_pfFlr_resets hlen
    refine ⟨u, hexec, fun c hc => ?_, hrest⟩
    rw [hctx c hc]
    exact ⟨rfl, rfl, rfl, rfl, rfl⟩

end Sys2Proof.Machine
end

section
/-!
PROOFS. Boot, flash updates, SVN commit, debug access and attestation (R513 to R515, R521 to R532).
-/

namespace Sys2Proof.Machine

/-! ### What the steps of a boot keep -/

/-- No context is enabled: nothing is written to the host, and no halt is taken. -/
def Work.idle (w : Work) : Prop := ∀ c, (w.ctx c).enable = false

/-- The verified image, and whether the device is ready, in recovery, and unlocked (R513). -/
def Sec.bootPart (x : Sec) : Bool × W32 × Nat × Bool × Bool × Bool :=
  (x.fwVerified, x.fwVersion, x.svnRunning, x.ready, x.recovery, x.unlocked)

/-- What the records, ports and links of a boot leave alone: storage, tiles, objects, the run, the verified image and the reset (R513). -/
def Work.bootFrame (w : Work) : (Fuses × List Host.Cell × List (Nat × Nat) × List Host.Cell × List Tile × List ResEntry × Bool)
    × (Bool × W32 × Nat × Bool × Bool × Bool) × Bool :=
  ((w.fz, w.base, w.wiped, w.log, w.d.tiles, w.d.residency, w.d.pitch.run),
    w.d.sec.bootPart, w.d.pwr.inReset)

/-- A step that an idle module takes without leaving that frame. -/
structure Work.Boots (w v : Work) : Prop where
  keeps : w.idle → v.idle ∧ v.bootFrame = w.bootFrame

theorem Work.Boots.refl (w : Work) : w.Boots w := ⟨fun h => ⟨h, rfl⟩⟩

theorem Work.Boots.trans {u v w : Work} (h : u.Boots v) (h' : v.Boots w) : u.Boots w := by
  refine ⟨fun hi => ?_⟩
  obtain ⟨hv, hframe⟩ := h.keeps hi
  obtain ⟨hw, hframe'⟩ := h'.keeps hv
  exact ⟨hw, hframe'.trans hframe⟩

/-- Steps one after another. -/
theorem Work.boots_foldl {α : Type} (f : Work → α → Work) (hf : ∀ v a, Work.Boots v (f v a)) (l : List α) (w : Work) : w.Boots (l.foldl f w) := by
  induction l generalizing w with
  | nil => exact .refl w
  | cons a l ih => exact (hf w a).trans (ih (f w a))

/-- A change that touches neither the frame nor a context's record. -/
theorem Work.boots_of {w v : Work} (hf : v.bootFrame = w.bootFrame) (hc : v.d.ctxs = w.d.ctxs) : w.Boots v := by
  refine ⟨fun hi => ⟨fun c => ?_, hf⟩⟩
  have hfz : v.fz = w.fz := congrArg (fun x => x.1.1) hf
  rw [Work.ctx, hc, hfz]
  exact hi c

/-- A change of the security block that keeps its part of the frame. -/
theorem Work.boots_updSec (w : Work) (f : Sec → Sec) (hf : ∀ x, (f x).bootPart = x.bootPart) : w.Boots (w.updSec f) := by
  refine Work.boots_of ?_ rfl
  show (_, (f w.d.sec).bootPart, _) = _
  rw [hf]
  rfl

/-- An event of an idle device is held (R520). -/
theorem Work.boots_deviceEvent (w : Work) (code : Nat) (b : List Byte) : w.Boots (w.deviceEvent code b) := by
  refine ⟨fun hi => ?_⟩
  rw [Work.deviceEvent_held code b (hi 0)]
  exact (Work.boots_of (w := w) (v := w.upd fun d => { d with heldEvents := d.heldEvents ++ [w.event code 0xFF b] }) rfl rfl).keeps hi

/-- A halt of an idle device is none (R256). -/
theorem Work.boots_halt (w : Work) (c : Nat) (r : HaltRec) : w.Boots (w.halt c r) := by
  refine ⟨fun hi => ?_⟩
  have hsame : w.halt c r = w := if_pos (by rw [hi c]; rfl)
  rw [hsame]
  exact ⟨hi, rfl⟩

/-- A device fault (R495). -/
theorem Work.boots_deviceFault (w : Work) (reason : Nat) (src : FaultSource) (i a : Nat) : w.Boots (w.deviceFault reason src i a) := by
  have hrecord : w.Boots (w.recordFault reason src i a) := by
    unfold Work.recordFault
    split <;> exact Work.boots_of rfl rfl
  exact hrecord.trans ((Work.boots_deviceEvent ..).trans (Work.boots_foldl _ (fun v c => Work.boots_halt v c _) _ _))

/-- A written word of a context keeps whether it is enabled. -/
theorem Ctx.put_enable (x : Ctx) (pf : Bool) (o v : Nat) : (x.put pf o v).enable = x.enable := by
  unfold Ctx.put
  dsimp only
  repeat' split
  all_goals rfl

/-- A change of one context that keeps whether it is enabled. -/
theorem Work.boots_updCtx (w : Work) (c : Nat) (f : Ctx → Ctx) (hf : ∀ x, (f x).enable = x.enable) : w.Boots (w.updCtx c f) := by
  refine ⟨fun hi => ⟨fun k => ?_, rfl⟩⟩
  have hk := hi k
  rw [Work.ctx] at hk ⊢
  rw [Work.updCtx_d, updAt_getElem?, Work.updCtx_fz]
  split
  · cases hx : w.d.ctxs[k]? with
    | none => rw [hx] at hk; exact hk
    | some x =>
      rw [hx] at hk
      exact (hf x).trans hk
  · exact hk

/-- What written words of the pitch, security and power blocks keep. -/
theorem Pitch.put_run (p : Pitch) (o v : Nat) : (p.put o v).run = p.run := by
  unfold Pitch.put
  repeat' split
  all_goals rfl

theorem Sec.put_bootPart (x : Sec) (o v : Nat) : (x.put o v).bootPart = x.bootPart := by
  unfold Sec.put
  split <;> rfl

theorem Pwr.put_inReset (p : Pwr) (f : Fuses) (off v : Nat) : (p.put f off v).inReset = p.inReset := by
  unfold Pwr.put
  split <;> rfl

/-- A written register word (R559). -/
theorem Work.boots_put32 (w : Work) (pf : Bool) (off v : Nat) : w.Boots (w.put32 pf off v) := by
  have hpitch (o : Nat) : w.Boots (w.upd fun d => { d with pitch := d.pitch.put o v }) := by
    refine Work.boots_of ?_ rfl
    show ((_, _, _, _, _, _, (w.d.pitch.put o v).run), _) = _
    rw [Pitch.put_run]
    rfl
  have hpwr : w.Boots (w.upd fun d => { d with pwr := d.pwr.put w.fz off v }) := by
    refine Work.boots_of ?_ rfl
    show (_, _, (w.d.pwr.put w.fz off v).inReset) = _
    rw [Pwr.put_inReset]
    rfl
  have hsec (o : Nat) : w.Boots (w.upd fun d => { d with sec := d.sec.put o v }) := Work.boots_updSec w _ fun x => x.put_bootPart o v
  unfold Work.put32
  dsimp only
  split
  · exact hpitch _
  · exact Work.boots_of rfl rfl
  · exact hpwr
  · exact hpwr
  · exact Work.boots_of rfl rfl
  · split
    · exact Work.boots_of rfl rfl
    · exact .refl w
  · exact hsec _
  · exact Work.boots_updCtx w _ _ fun x => x.put_enable pf _ v
  · exact .refl w

/-- One settings record (R519). -/
theorem Work.boots_applyRecord (w : Work) (off mask value : Nat) : w.Boots (w.applyRecord off mask value) := by
  have hput (x : Nat) : w.Boots (w.bootPut off x) := by
    unfold Work.bootPut
    split
    · exact Work.boots_of rfl rfl
    · split
      · exact Work.boots_of rfl rfl
      · split
        · exact Work.boots_of rfl rfl
        · exact Work.boots_put32 ..
  unfold Work.applyRecord
  dsimp only
  split
  · exact hput _
  · exact Work.boots_of rfl rfl

/-- The settings image (R518 to R520). -/
theorem Work.boots_overlay (w : Work) : w.Boots w.overlay := by
  unfold Work.overlay
  dsimp only
  split
  · refine Work.Boots.trans (v := w.draw.2.updSec fun s => { s with settingsInvalid := true }) (Work.boots_of rfl rfl) (Work.boots_deviceEvent ..)
  · split
    · exact .refl w
    · refine (Work.boots_foldl _ (fun v i => Work.boots_applyRecord v ..) _ w).trans (Work.boots_updSec _ _ ?_)
      intro x
      simp only [Sec.bootPart]

/-- A capacity port (R354). -/
theorem Work.boots_bootPort (w : Work) (p size rate width : Nat) : w.Boots (w.bootPort p size rate width) := by
  unfold Work.bootPort
  dsimp only
  split
  · exact .refl w
  · split
    · exact Work.boots_of rfl rfl
    · refine Work.Boots.trans ?_ (Work.boots_deviceEvent ..)
      exact Work.boots_of rfl rfl

/-- A failed training (R477). -/
theorem Work.boots_trainFailed (w : Work) (l cause : Nat) : w.Boots (w.trainFailed l cause) :=
  Work.Boots.trans (v := w.updLink l fun k => { k.down .failed with failCause := cause }) (Work.boots_of rfl rfl) (Work.boots_deviceEvent ..)

/-- The end of a training (R477, R478). -/
theorem Work.boots_finishTraining (w : Work) (l : Nat) (r : TrainResult) : w.Boots (w.finishTraining l r) := by
  unfold Work.finishTraining
  dsimp only
  split
  · exact Work.boots_trainFailed ..
  · have hrest (v : Work) (hv : w.Boots v) (p q : Prop) [Decidable p] [Decidable q] (f : Link → Link) (b : List Byte) : w.Boots
        (if (!r.peerAnswers) = true then v.trainFailed l 2
        else if p then v.trainFailed l 3
        else if q then v.trainFailed l 1
        else if 3500 < r.latencyNs10 then v.trainFailed l 4
        else (v.updLink l f).deviceEvent 0x0040 b) := by
      refine hv.trans ?_
      repeat' split
      iterate 4 exact Work.boots_trainFailed ..
      exact Work.Boots.trans (v := v.updLink l f) (Work.boots_of rfl rfl) (Work.boots_deviceEvent ..)
    refine hrest _ ?_ _ _ _ _
    split
    · split
      · exact .refl w
      · exact Work.boots_deviceEvent ..
    · exact .refl w

/-- One link's training at boot (R477). -/
theorem Work.boots_bootLink (w : Work) (rs : List (Nat × TrainResult)) (l : Nat) : w.Boots (w.bootLink rs l) := by
  unfold Work.bootLink
  split
  · exact Work.boots_finishTraining ..
  · exact Work.boots_trainFailed ..

/-- New contexts, as they are after a reset, of which none is enabled (R515). -/
theorem Work.boots_resetCtxs (w : Work) (a b : W64) : w.Boots (w.upd fun d => { d with ctxs := tab 16 (Ctx.reset w.fz a b) }) := by
  refine ⟨fun _ => ⟨fun c => ?_, rfl⟩⟩
  show (((tab 16 (Ctx.reset w.fz a b))[c]?).getD (Ctx.reset w.fz 0 0 c)).enable = false
  rw [tab, List.getElem?_map]
  cases (List.range 16)[c]? <;> rfl

/-- The first part of a boot, up to the capacity ports it takes (R513, R518). -/
def Work.overlaid (w : Work) (env : BootEnv) : Work :=
  let v := if env.hostSpeed % 8 = 6 ∧ env.hostWidth % 32 = 16 then w
    else w.deviceEvent 0x0004 (leBytes 1 (gtps (env.hostSpeed % 8)) ++ leBytes 1 (env.hostWidth % 32))
  v.factoryDefaults.overlay.updPwr fun p => { p with capPortTaken := p.capPortEn, spreadInForce := p.coreSpread }

/-- The last part of a boot, from its capacity ports to its links (R354, R477). -/
def Work.portsUp (w : Work) (env : BootEnv) : Work :=
  let v := (w.bootPort 0 env.capSize0 env.capRate0 env.capWidth0).bootPort 1 env.capSize1 env.capRate1 env.capWidth1
  let v := (v.upd fun d => { d with ctxs := tab 16 (Ctx.reset v.fz d.memRegs.cap0Size d.memRegs.cap1Size) }).bootDomains
  v.autoLinks.foldl (fun w l => w.bootLink env.linkResults l) v

theorem Work.boots_overlaid (w : Work) (env : BootEnv) : w.Boots (w.overlaid env) := by
  have hevent : w.Boots (if env.hostSpeed % 8 = 6 ∧ env.hostWidth % 32 = 16 then w
      else w.deviceEvent 0x0004 (leBytes 1 (gtps (env.hostSpeed % 8)) ++ leBytes 1 (env.hostWidth % 32))) := by
    split
    · exact .refl w
    · exact Work.boots_deviceEvent ..
  have hfactory (v : Work) : v.Boots v.factoryDefaults := Work.boots_of rfl rfl
  have htaken (v : Work) : v.Boots (v.updPwr fun p => { p with capPortTaken := p.capPortEn, spreadInForce := p.coreSpread }) :=
    Work.boots_of rfl rfl
  exact hevent.trans ((hfactory _).trans ((Work.boots_overlay _).trans (htaken _)))

theorem Work.boots_portsUp (w : Work) (env : BootEnv) : w.Boots (w.portsUp env) := by
  have hdomains (v : Work) : v.Boots v.bootDomains := Work.boots_of rfl rfl
  exact (Work.boots_bootPort ..).trans ((Work.boots_bootPort ..).trans ((Work.boots_resetCtxs ..).trans ((hdomains _).trans
    (Work.boots_foldl _ (fun v l => Work.boots_bootLink v ..) _ _))))

/-- The stores and the memories of every tile core zeroed, and the stacks trained (R513). -/
def Work.storesZeroed (w : Work) (env : BootEnv) : Work :=
  w.zeroStores.zeroCores.upd fun d => { d with memRegs := { d.memRegs with trained := w.fz.hbmStacks &&& BitVec.ofNat 12 env.hbmTrained } }

/-- The stores that boot and unlock zero read as zero where nothing is written after it (R513, R531). -/
theorem Work.zeroStores_within (w : Work) (k : Nat) :
    Memory.within w.zeroStores.wiped k
      = (Memory.within [(0, w.fz.hbmRange), (sharedBase, sharedSize), (tileStoreBase, 64 * tileStoreSize)] k || Memory.within w.wiped k) := by
  show Memory.within ((tileStoreBase, 64 * tileStoreSize) :: (sharedBase, sharedSize) :: (0, w.fz.hbmRange) :: w.wiped) k = _
  simp only [Memory.within, List.any_cons, List.any_nil, Bool.or_false]
  cases decide (tileStoreBase ≤ k) && decide (k < tileStoreBase + 64 * tileStoreSize) <;>
    cases decide (sharedBase ≤ k) && decide (k < sharedBase + sharedSize) <;> cases decide (0 ≤ k) && decide (k < 0 + w.fz.hbmRange) <;> rfl

/-- What that zeroing leaves, of an idle module with nothing written (R513). -/
theorem Work.storesZeroed_reads (w : Work) (env : BootEnv) (hi : w.idle) (hlog : w.log = []) :
    (w.storesZeroed env).idle ∧ (w.storesZeroed env).log = []
      ∧ (∀ k, Memory.within [(0, w.fz.hbmRange), (sharedBase, sharedSize), (tileStoreBase, 64 * tileStoreSize)] k = true →
        Memory.within (w.storesZeroed env).wiped k = true)
      ∧ (w.storesZeroed env).fz = w.fz ∧ (w.storesZeroed env).base = w.base ∧ (w.storesZeroed env).d.tiles = w.d.tiles
      ∧ (w.storesZeroed env).d.residency = w.d.residency ∧ (w.storesZeroed env).d.pitch = w.d.pitch ∧ (w.storesZeroed env).d.sec = w.d.sec
      ∧ (w.storesZeroed env).d.pwr = w.d.pwr := by
  have hwiped (k : Nat) (hk : Memory.within [(0, w.fz.hbmRange), (sharedBase, sharedSize), (tileStoreBase, 64 * tileStoreSize)] k = true) :
      Memory.within (w.storesZeroed env).wiped k = true := by
    show Memory.within ((3 * 2 ^ 56, 2 ^ 56) :: (2 * 2 ^ 56, 2 ^ 56) :: (2 ^ 56, 2 ^ 56) :: w.zeroStores.wiped) k = true
    have hstores : Memory.within w.zeroStores.wiped k = true := by rw [Work.zeroStores_within, hk, Bool.true_or]
    simp only [Memory.within, List.any_cons] at hstores ⊢
    rw [hstores, Bool.or_true, Bool.or_true, Bool.or_true]
  have hnone : (w.storesZeroed env).log = [] := by
    show (((((w.log.filter _).filter _).filter _).filter _).filter _).filter _ = []
    rw [hlog]
    rfl
  refine ⟨hi, hnone, hwiped, ?_⟩
  unfold Work.storesZeroed Work.zeroCores Work.zeroStores
  dsimp only [Work.wipe, Work.upd]
  exact ⟨rfl, rfl, rfl, rfl, rfl, rfl, rfl⟩

/-- A verified boot, part by part (R513). -/
theorem Work.bootFirmware_eq (w : Work) (env : BootEnv) :
    w.bootFirmware env = ((((((w.updSec fun s =>
        { s with fwVerified := true, fwVersion := s.fwHeader.version, svnImage := s.fwHeader.svn, svnRunning := s.fwHeader.svn }).overlaid
      env).storesZeroed env).portsUp env).updSec fun s => { s with ready := true }).faultStacks) := rfl

/-- A key of the zeroed stores lies below host memory (R347). -/
theorem zeroStores_low {f : Fuses} {k : Nat} (h : Memory.within [(0, f.hbmRange), (sharedBase, sharedSize), (tileStoreBase, 64 * tileStoreSize)] k = true) :
    k < 2 ^ 80 := by
  have hrange : f.hbmRange ≤ 0x006000000000 := by
    unfold Fuses.hbmRange
    split <;> omega
  simp only [Memory.within, List.any_cons, List.any_nil, Bool.or_false, Bool.or_eq_true, Bool.and_eq_true, decide_eq_true_eq, sharedBase, sharedSize,
    tileStoreBase, tileStoreSize] at h
  omega

/-- What a verified boot of a cleared module leaves (R513 to R515). -/
theorem Work.bootFirmware_reads {w : Work} (env : BootEnv) (hi : w.idle) (hlog : w.log = []) :
    (w.bootFirmware env).idle ∧ (w.bootFirmware env).fz = w.fz ∧ (w.bootFirmware env).base = w.base ∧ (w.bootFirmware env).log = []
      ∧ ((w.bootFirmware env).d.tiles = w.d.tiles ∧ (w.bootFirmware env).d.residency = w.d.residency
        ∧ (w.bootFirmware env).d.pitch.run = w.d.pitch.run ∧ (w.bootFirmware env).d.pwr.inReset = w.d.pwr.inReset)
      ∧ (w.bootFirmware env).d.sec.bootPart
        = (true, w.d.sec.fwHeader.version, w.d.sec.fwHeader.svn, true, w.d.sec.recovery, w.d.sec.unlocked)
      ∧ ∀ k, Memory.within [(0, w.fz.hbmRange), (sharedBase, sharedSize), (tileStoreBase, 64 * tileStoreSize)] k = true →
        Memory.within (w.bootFirmware env).wiped k = true := by
  rw [Work.bootFirmware_eq]
  obtain ⟨a, ha⟩ : ∃ a, a = w.updSec fun s =>
    { s with fwVerified := true, fwVersion := s.fwHeader.version, svnImage := s.fwHeader.svn, svnRunning := s.fwHeader.svn } := ⟨_, rfl⟩
  have haidle : a.idle := by rw [ha]; exact hi
  have haframe : a.bootFrame = ((w.fz, w.base, w.wiped, w.log, w.d.tiles, w.d.residency, w.d.pitch.run),
      (true, w.d.sec.fwHeader.version, w.d.sec.fwHeader.svn, w.d.sec.ready, w.d.sec.recovery, w.d.sec.unlocked), w.d.pwr.inReset) := by
    rw [ha]
    rfl
  rw [← ha]
  obtain ⟨hbidle, hbframe⟩ := (a.boots_overlaid env).keeps haidle
  obtain ⟨b, hb⟩ : ∃ b, b = a.overlaid env := ⟨_, rfl⟩
  rw [← hb] at hbidle hbframe ⊢
  rw [haframe] at hbframe
  simp only [Work.bootFrame, Prod.mk.injEq] at hbframe
  obtain ⟨⟨bfz, bbase, bwiped, blog, btiles, bres, brun⟩, bsec, breset⟩ := hbframe
  obtain ⟨hcidle, hclog, hcwiped, cfz, cbase, ctiles, cres, cpitch, csec, cpwr⟩ := b.storesZeroed_reads env hbidle (blog.trans hlog)
  obtain ⟨c, hc⟩ : ∃ c, c = b.storesZeroed env := ⟨_, rfl⟩
  rw [← hc] at hcidle hclog hcwiped cfz cbase ctiles cres cpitch csec cpwr
  rw [← hc]
  obtain ⟨hdidle, hdframe⟩ := (c.boots_portsUp env).keeps hcidle
  obtain ⟨d, hd⟩ : ∃ d, d = c.portsUp env := ⟨_, rfl⟩
  rw [← hd] at hdidle hdframe ⊢
  simp only [Work.bootFrame, Prod.mk.injEq] at hdframe
  obtain ⟨⟨dfz, dbase, dwiped, dlog, dtiles, dres, drun⟩, dsec, dreset⟩ := hdframe
  obtain ⟨e, he⟩ : ∃ e, e = d.updSec fun s => { s with ready := true } := ⟨_, rfl⟩
  have heidle : e.idle := by rw [he]; exact hdidle
  have hfault : e.Boots e.faultStacks := Work.boots_foldl _ (fun v n => Work.boots_deviceFault v ..) _ e
  obtain ⟨hfidle, hfframe⟩ := hfault.keeps heidle
  rw [← he]
  simp only [Work.bootFrame, Prod.mk.injEq] at hfframe
  obtain ⟨⟨ffz, fbase, fwiped, flog, ftiles, fres, frun⟩, fsec, freset⟩ := hfframe
  have hesame : e.fz = d.fz ∧ e.base = d.base ∧ e.wiped = d.wiped ∧ e.log = d.log ∧ e.d.tiles = d.d.tiles ∧ e.d.residency = d.d.residency
      ∧ e.d.pitch = d.d.pitch ∧ e.d.sec = { d.d.sec with ready := true } ∧ e.d.pwr = d.d.pwr := by
    rw [he]
    exact ⟨rfl, rfl, rfl, rfl, rfl, rfl, rfl, rfl, rfl⟩
  obtain ⟨efz, ebase, ewiped, elog, etiles, eres, epitch, esec, epwr⟩ := hesame
  refine ⟨hfidle, ffz.trans (efz.trans (dfz.trans (cfz.trans bfz))), fbase.trans (ebase.trans (dbase.trans (cbase.trans bbase))),
    flog.trans (elog.trans (dlog.trans hclog)), ⟨ftiles.trans (etiles.trans (dtiles.trans (ctiles.trans btiles))),
      fres.trans (eres.trans (dres.trans (cres.trans bres))), ?_, ?_⟩, ?_, fun k hk => ?_⟩
  · rw [frun, epitch, drun, cpitch, brun]
  · rw [freset, epwr, dreset, cpwr, breset]
  · have hpart := dsec.trans ((congrArg Sec.bootPart csec).trans bsec)
    simp only [Sec.bootPart, Prod.mk.injEq] at hpart
    obtain ⟨hver, hfw, hsvn, -, hrec, hun⟩ := hpart
    rw [fsec, esec]
    show (d.d.sec.fwVerified, d.d.sec.fwVersion, d.d.sec.svnRunning, true, d.d.sec.recovery, d.d.sec.unlocked) = _
    rw [hver, hfw, hsvn, hrec, hun]
  · rw [fwiped, ewiped, dwiped]
    exact hcwiped k (by rw [bfz]; exact hk)

/-! ### Module resets -/

/-- A module reset in its three ends (R513, R514, R547). -/
theorem exec_moduleReset {e : BootEnv} {s : State} (hgood : s.dev.pwr.good = true) :
    let w := s.work.enterReset.updPwr fun p => { p with inReset := decide (85 ≤ e.maxTemp), refPresent := BitVec.ofNat 7 e.refPresent }
    let v := (w.updSec Sec.newNonce).upd fun d =>
      { d with
        hif := { d.hif with speed := e.hostSpeed % 8, width := e.hostWidth % 32, flitMode := decide (e.hostSpeed % 8 = 6) } }
    (85 ≤ e.maxTemp → exec (.moduleReset e) s = .next (s.finish w))
    ∧ (∀ cause, e.maxTemp < 85 → (if verdictOk e.factory then s.dev.sec.cutFlash.fwHeader.cause s.fuses e.firmware else some 10) = some cause →
      exec (.moduleReset e) s = .next (s.finish (v.enterRecovery cause)))
    ∧ (e.maxTemp < 85 → (if verdictOk e.factory then s.dev.sec.cutFlash.fwHeader.cause s.fuses e.firmware else some 10) = none →
      exec (.moduleReset e) s = .next (s.finish (v.bootFirmware e))) := by
  intro w v
  have hmeans : exec (.moduleReset e) s = .next (s.finish (s.work.moduleReset e)) := exec_finish rfl (if_pos hgood)
  have hcause : v.bootCause e = if verdictOk e.factory then s.dev.sec.cutFlash.fwHeader.cause s.fuses e.firmware else some 10 := by
    show (if (!verdictOk e.factory) = true then some 10 else s.dev.sec.cutFlash.fwHeader.cause s.fuses e.firmware) = _
    cases verdictOk e.factory <;> rfl
  refine ⟨fun h => hmeans.trans ?_, fun cause h hc => hmeans.trans ?_, fun h hc => hmeans.trans ?_⟩
  · exact congrArg (fun x => Host.Outcome.next (s.finish x)) (if_pos h)
  · have hreset : s.work.moduleReset e = match v.bootCause e with | some c => v.enterRecovery c | none => v.bootFirmware e := if_neg (by omega)
    rw [hreset, hcause, hc]
  · have hreset : s.work.moduleReset e = match v.bootCause e with | some c => v.enterRecovery c | none => v.bootFirmware e := if_neg (by omega)
    rw [hreset, hcause, hc]

/-! ### Storage beside an event entry -/

/-- An event entry has 32 bytes (R447). -/
theorem eventEntry_length (e : HeldEvent) (dev : Bool) (r : OutRing) : (eventEntry e dev r).length = 32 := by
  simp only [eventEntry, padTo, List.length_append, leBytes_length, List.length_take, List.length_replicate]
  omega

/-- An event writes its entry in its context's ring, or nothing (R447, R448). -/
theorem Work.writeEvent_log (w : Work) (c : Nat) (dev : Bool) (e : HeldEvent) :
    (w.writeEvent c dev e).log = w.log
      ∨ (w.writeEvent c dev e).log
        = journal (hostKey c ((w.ctx c).evt.base.toNat + 32 * (w.ctx c).evt.tail)) (eventEntry e dev (w.ctx c).evt) w.log := by
  unfold Work.writeEvent
  dsimp only
  split
  · exact .inl rfl
  · split
    · exact .inr (by rw [Work.msix_log, Work.updCtx_log, Work.countCtx_log, Work.wr_log, Work.cacheIova_log])
    · exact .inr (by rw [Work.updCtx_log, Work.countCtx_log, Work.wr_log, Work.cacheIova_log])

/-- A device event leaves every byte outside host memory as it is. -/
theorem Work.deviceEvent_rd (w : Work) (code : Nat) (b : List Byte) {k : Nat} (hk : k < 2 ^ 80 ∨ 2 ^ 90 ≤ k) :
    (w.deviceEvent code b).rd k = w.rd k := by
  have hstill := Work.deviceEvent_still w code b
  have hfind : Memory.find (w.deviceEvent code b).log k = Memory.find w.log k := by
    unfold Work.deviceEvent
    dsimp only
    split
    · rcases Work.writeEvent_log w 0 true (w.event code 0xFF b) with h | h
      · rw [h]
      · rw [h, Memory.find_journal_other]
        have hmod := Nat.mod_lt ((w.ctx 0).evt.base.toNat + 32 * (w.ctx 0).evt.tail) (show 0 < 2 ^ 64 by decide)
        rw [eventEntry_length, hostKey]
        omega
    · rfl
  rw [Work.rd, hfind, Work.still_base hstill, Work.still_wiped hstill, Work.rd]

/-- A range cleared and its first bytes written, over memory as it was found: what is read outside host memory. -/
theorem Work.rd_programmed {s : State} {v : Work} {at_ len : Nat} {bs : List Byte} (hbase : v.base = s.mem) (hwiped : v.wiped = [(flashKey at_, len)])
    (hlog : v.log = journal (flashKey at_) bs []) (hlen : bs.length ≤ len) (k : Nat) :
    v.rd k = if flashKey at_ ≤ k ∧ k < flashKey at_ + len then (bs[k - flashKey at_]?).getD 0xFF else Memory.read s.mem k := by
  have hwithin : Memory.within v.wiped k = true ↔ flashKey at_ ≤ k ∧ k < flashKey at_ + len := by
    rw [hwiped]
    simp only [Memory.within, List.any_cons, List.any_nil, Bool.or_false, Bool.and_eq_true, decide_eq_true_eq]
  rw [Work.rd, hlog, hbase]
  by_cases hat : flashKey at_ ≤ k ∧ k < flashKey at_ + bs.length
  · obtain ⟨i, rfl⟩ := Nat.exists_eq_add_of_le hat.1
    have hi : i < bs.length := by omega
    rw [Memory.find_journal_at bs _ i [] hi, if_pos (show flashKey at_ ≤ flashKey at_ + i ∧ flashKey at_ + i < flashKey at_ + len by omega),
      Nat.add_sub_cancel_left, List.getElem?_eq_getElem hi]
    rfl
  · rw [Memory.find_journal_other bs _ k [] (by omega)]
    show (if Memory.within v.wiped k = true then Memory.dflt k else Memory.read s.mem k) = _
    by_cases hin : flashKey at_ ≤ k ∧ k < flashKey at_ + len
    · have hflash : Memory.dflt k = 0xFF := if_pos (by have := hin.1; unfold flashKey at this; omega)
      rw [if_pos (hwithin.mpr hin), if_pos hin, hflash, List.getElem?_eq_none (by omega)]
      rfl
    · rw [if_neg (fun h => hin (hwithin.mp h)), if_neg hin]

/-- A meaning whose device differs from another's in what is not quiet alone. -/
theorem State.finish_quiet {s : State} {v : Work} {f : Dev → Dev} (h : v.d.quiet = (f s.dev).quiet) : s.quietly (s.finish v) f :=
  ⟨rfl, (congrArg (fun x => x.2.2.2) (Work.settle_still v)).trans h⟩

/-! ### Flash updates -/

/-- SEC_FLASH_GO of a device that takes it (R517, R521). -/
theorem exec_secFlashGo {s : State} (f : Bool) (v : Verdict) (h : s.dev.sec.ready = true ∨ s.dev.sec.recovery = true) :
    exec (.secFlashGo f v) s = .next (s.finish (s.work.flashGo f v)) := exec_finish rfl (if_pos (by simpa using h))

/-- A flash request that is refused, with its cause (R521). -/
theorem exec_secFlashGo_refused {s : State} {f : Bool} {v : Verdict} {c : Nat} (h : s.dev.sec.ready = true ∨ s.dev.sec.recovery = true)
    (hc : s.work.flashCause f v = some c) :
    ∃ u, exec (.secFlashGo f v) s = .next u
      ∧ s.quietly u (fun d => { d with sec := { d.sec with
        flashState := if decide (d.sec.flashState = .busy) then .busy else .refused, flashCause := c } })
      ∧ ((s.work.ctx 0).enable = false → u.mem = s.mem ∧ u.dev.heldEvents = s.dev.heldEvents
          ++ [s.work.event 0x0061 0xFF (leBytes 1 s.dev.sec.flashTarget ++ leBytes 1 c)]) := by
  obtain ⟨b, hb⟩ : ∃ b, b = leBytes 1 s.dev.sec.flashTarget ++ leBytes 1 c := ⟨_, rfl⟩
  obtain ⟨x, hx⟩ : ∃ x, x = s.work.updSec fun y => { y with
    flashState := if decide (y.flashState = .busy) then .busy else .refused, flashCause := c } := ⟨_, rfl⟩
  have hgo : s.work.flashGo f v = x.deviceEvent 0x0061 b := by
    unfold Work.flashGo
    rw [hc, hx, hb]
    rfl
  have hexec := exec_secFlashGo f v h
  rw [hgo] at hexec
  have hstill := Work.deviceEvent_still x 0x0061 b
  rw [← hb]
  refine ⟨_, hexec, State.finish_quietly (hstill.trans (by rw [hx]; rfl)), fun he => ?_⟩
  have hheld := Work.deviceEvent_held (w := x) 0x0061 b (by rw [hx]; exact he)
  rw [hheld]
  refine ⟨State.finish_mem s _ (by rw [hx]; rfl) (by rw [hx]; rfl), ?_⟩
  rw [State.finish_heldEvents, hx]
  rfl

/-- A flash request that goes on to a write (R521). -/
theorem exec_secFlashGo_begins {s : State} {f : Bool} {v : Verdict} (h : s.dev.sec.ready = true ∨ s.dev.sec.recovery = true)
    (hc : s.work.flashCause f v = none) :
    exec (.secFlashGo f v) s = .next (s.withSec fun x =>
      { x with
        flashState := .busy, flashCause := 0, flashProgress := 0, flashActive := x.flashTarget
        flashData := if x.flashTarget = 3 then [] else s.work.rdN (hostKey 0 x.flashSrc.toNat) x.flashLen.toNat }) := by
  have hgo : s.work.flashGo f v = s.work.updSec fun x =>
      { x with
        flashState := .busy, flashCause := 0, flashProgress := 0, flashActive := x.flashTarget
        flashData := if x.flashTarget = 3 then [] else s.work.flashInput } := by
    unfold Work.flashGo
    rw [hc]
  rw [exec_secFlashGo f v h, hgo]
  exact congrArg Host.Outcome.next (State.finish_eq s _ rfl rfl)

/-- The bytes that a flash write leaves, and what it erases for them (R522, R523). -/
def Work.flashed (w : Work) (ok : Bool) (bs : List Byte) : Work :=
  let h := FwHeader.parse bs
  if w.d.sec.flashActive = 1 then
    (w.program firmwareAt bs).updSec fun s => { s with fwHeader := h, svnImage := if h.formOk then h.svn else 0 }
  else if w.d.sec.flashActive = 2 then (w.program settingsAt bs).updSec fun s => { s with settingsTorn := false }
  else (w.wipe (flashKey settingsAt) settingsLen).updSec fun s => { s with settingsTorn := !ok }

/-- The end of a flash write, recorded and reported (R521, R522). -/
theorem exec_flashWriteComplete {s : State} (ok : Bool) (h : s.dev.sec.flashState = .busy) :
    exec (.flashWriteComplete ok) s = .next (s.finish
      ((((s.work.draw.2.flashed ok (if ok then s.dev.sec.flashData
        else (List.range s.dev.sec.flashData.length).map (Config.freeByte s.dev.freeCtr))).updSec fun x => { x with
          flashState := if ok then .done else .refused, flashCause := if ok then 0 else 15, flashProgress := 100, flashData := [] })).deviceEvent 0x0061
        (leBytes 1 s.dev.sec.flashActive ++ leBytes 1 (if ok then 0 else 15)))) :=
  exec_finish rfl (if_neg (by simpa using h))

/-- A flash write that succeeds: its sectors erased, its data programmed (R522). -/
theorem exec_flashWriteComplete_ok {s : State} {target at_ len : Nat} (hbusy : s.dev.sec.flashState = .busy) (htarget : s.dev.sec.flashActive = target)
    (hwf : Memory.wf s.mem = true)
    (hwhere : (target = 1 ∧ at_ = 0x01000000 ∧ len = roundUp s.dev.sec.flashData.length 65536)
      ∨ (target = 2 ∧ at_ = 0x00100000 ∧ len = roundUp s.dev.sec.flashData.length 65536)
      ∨ (target = 3 ∧ at_ = 0x00100000 ∧ len = 0x00100000 ∧ s.dev.sec.flashData = [])) :
    let bs := s.dev.sec.flashData
    let done := { s.dev.sec with flashState := .done, flashCause := 0, flashProgress := 100, flashData := [] }
    ∃ u, exec (.flashWriteComplete true) s = .next u
      ∧ s.quietly u (fun d => { d with
        freeCtr := d.freeCtr + 1
        sec := if target = 1 then { done with
            fwHeader := FwHeader.parse bs, svnImage := if (FwHeader.parse bs).formOk then (FwHeader.parse bs).svn else 0 }
          else { done with settingsTorn := false } })
      ∧ ∀ k, k < 2 ^ 80 ∨ 2 ^ 90 ≤ k → Memory.read u.mem k =
        if flashKey at_ ≤ k ∧ k < flashKey at_ + len then (bs[k - flashKey at_]?).getD 0xFF else Memory.read s.mem k := by
  intro bs done
  have hround (n : Nat) : n ≤ roundUp n 65536 := by
    unfold roundUp
    omega
  obtain ⟨v, hv⟩ : ∃ v, v = s.work.draw.2.flashed true bs := ⟨_, rfl⟩
  have hactive : s.work.draw.2.d.sec.flashActive = target := htarget
  have hreads : v.base = s.mem ∧ v.wiped = [(flashKey at_, len)] ∧ v.log = journal (flashKey at_) bs [] ∧ bs.length ≤ len
      ∧ v.d = { s.dev with
        freeCtr := s.dev.freeCtr + 1
        sec := if target = 1 then { s.dev.sec with
            fwHeader := FwHeader.parse bs, svnImage := if (FwHeader.parse bs).formOk then (FwHeader.parse bs).svn else 0 }
          else { s.dev.sec with settingsTorn := false } } := by
    unfold Work.flashed at hv
    rcases hwhere with ⟨rfl, rfl, rfl⟩ | ⟨rfl, rfl, rfl⟩ | ⟨rfl, rfl, rfl, hempty⟩
    · rw [hv, if_pos hactive]
      exact ⟨rfl, rfl, rfl, hround _, rfl⟩
    · rw [hv, if_neg (by rw [hactive]; decide), if_pos hactive]
      exact ⟨rfl, rfl, rfl, hround _, rfl⟩
    · have hbs : bs = [] := hempty
      rw [hv, if_neg (by rw [hactive]; decide), if_neg (by rw [hactive]; decide), hbs]
      exact ⟨rfl, rfl, rfl, Nat.zero_le _, rfl⟩
  obtain ⟨hbase, hwiped, hlog, hlen, hdev⟩ := hreads
  obtain ⟨x, hx⟩ : ∃ x, x = v.updSec fun x => { x with flashState := .done, flashCause := 0, flashProgress := 100, flashData := [] } := ⟨_, rfl⟩
  obtain ⟨b, hb⟩ : ∃ b, b = leBytes 1 s.dev.sec.flashActive ++ leBytes 1 0 := ⟨_, rfl⟩
  have hexec : exec (.flashWriteComplete true) s = .next (s.finish (x.deviceEvent 0x0061 b)) := by
    rw [hx, hb, hv]
    exact exec_flashWriteComplete true hbusy
  have hstill := Work.deviceEvent_still x 0x0061 b
  refine ⟨_, hexec, State.finish_quiet ((congrArg (fun y => y.2.2.2) hstill).trans ?_), fun k hk => ?_⟩
  · rw [hx]
    show Dev.quiet { v.d with sec := { v.d.sec with flashState := .done, flashCause := 0, flashProgress := 100, flashData := [] } } = _
    rw [hdev]
    by_cases ht : target = 1
    · simp only [if_pos ht]
      rfl
    · simp only [if_neg ht]
      rfl
  · have hxbase : (x.deviceEvent 0x0061 b).base = s.mem := (Work.still_base hstill).trans (by rw [hx]; exact hbase)
    rw [State.finish_read s _ hwf hxbase, Work.deviceEvent_rd x _ _ hk]
    exact Work.rd_programmed (by rw [hx]; exact hbase) (by rw [hx]; exact hwiped) (by rw [hx]; exact hlog) hlen k

/-- A flash write whose read-back does not match (R522). -/
theorem exec_flashWriteComplete_fails {s : State} (hbusy : s.dev.sec.flashState = .busy) :
    ∃ u, exec (.flashWriteComplete false) s = .next u ∧ u.dev.sec.flashState = .refused ∧ u.dev.sec.flashCause = 15
      ∧ s.quietly u fun d => { d with sec := u.dev.sec, freeCtr := d.freeCtr + 1 } := by
  obtain ⟨v, hv⟩ : ∃ v, v = s.work.draw.2.flashed false ((List.range s.dev.sec.flashData.length).map (Config.freeByte s.dev.freeCtr)) := ⟨_, rfl⟩
  obtain ⟨x, hx⟩ : ∃ x, x = v.updSec fun x => { x with flashState := .refused, flashCause := 15, flashProgress := 100, flashData := [] } := ⟨_, rfl⟩
  obtain ⟨b, hb⟩ : ∃ b, b = leBytes 1 s.dev.sec.flashActive ++ leBytes 1 15 := ⟨_, rfl⟩
  have hexec : exec (.flashWriteComplete false) s = .next (s.finish (x.deviceEvent 0x0061 b)) := by
    rw [hx, hb, hv]
    exact exec_flashWriteComplete false hbusy
  have hstill := congrArg (fun y => y.2.2.2) (Work.deviceEvent_still x 0x0061 b)
  have hsec : (x.deviceEvent 0x0061 b).d.sec = x.d.sec := Work.still_sec (Work.deviceEvent_still ..)
  have hdev : ∃ y, v.d = { s.dev with freeCtr := s.dev.freeCtr + 1, sec := y } := by
    rw [hv]
    unfold Work.flashed
    split
    · exact ⟨_, rfl⟩
    · split
      · exact ⟨_, rfl⟩
      · exact ⟨_, rfl⟩
  obtain ⟨y, hy⟩ := hdev
  refine ⟨_, hexec, ?_, ?_, State.finish_quiet (hstill.trans ?_)⟩
  · rw [State.finish_sec, hsec, hx]
    rfl
  · rw [State.finish_sec, hsec, hx]
    rfl
  · rw [State.finish_sec, hsec, hx]
    exact congrArg (fun d : Dev => Dev.quiet { d with
      sec := { v.d.sec with flashState := .refused, flashCause := 15, flashProgress := 100, flashData := [] } }) hy

/-! ### The ends of a module reset -/

/-- A cleared module, as the meaning that left it shows it (R433, R515). -/
theorem State.finish_cleared {s : State} {v : Work} (hfz : v.fz = s.fuses) (hi : v.idle) (htiles : v.d.tiles = List.replicate 64 Tile.zeroed)
    (hrun : v.d.pitch.run = false) (hun : v.d.sec.unlocked = false) (hres : v.d.residency = []) : (s.finish v).cleared := by
  refine ⟨fun c => ?_, fun t ht => ?_, ?_, ?_, ?_⟩
  · rw [State.finish_ctx _ _ _ hfz]
    exact hi c
  · rw [State.finish_tile, Work.tile, htiles, List.getElem?_replicate, if_pos ht, Option.getD_some]
  · rw [State.finish_pitch, hrun]
  · rw [State.finish_sec, hun]
  · rw [State.finish_residency, hres]

/-- No context of a module in reset is enabled (R433). -/
theorem Work.enterReset_idle (w : Work) : w.enterReset.idle := w.enterReset_ctx

/-- Recovery of a module without a recorded fault (R514, R516). -/
theorem Work.enterRecovery_eq {w : Work} (cause : Nat) (h : w.d.fault.valid = false) :
    w.enterRecovery cause = w.upd fun d => { d with
      sec := { d.sec with recovery := true, bootCause := cause, svnImage := if d.sec.fwHeader.formOk then d.sec.fwHeader.svn else 0 }
      fault := { valid := true, reason := 0xA1, source := FaultSource.control.code, index := 0, tick := d.pitch.tickCount, cycle := d.pitch.cycle
                 addr := BitVec.ofNat 64 0 }
      pwr := { d.pwr with domains := 0 } } := by
  have hrecord (v : Work) (hv : v.d.fault.valid = false) : v.recordFault 0xA1 .control 0 0 = v.upd fun d => { d with
      fault := { valid := true, reason := 0xA1, source := FaultSource.control.code, index := 0, tick := d.pitch.tickCount, cycle := d.pitch.cycle
                 addr := BitVec.ofNat 64 0 } } := if_neg (by rw [hv]; decide)
  unfold Work.enterRecovery
  dsimp only
  rw [hrecord]
  · rfl
  · exact h

/-- A module held in reset while it is too hot (R547). -/
theorem exec_moduleReset_held {e : BootEnv} {s : State} (hgood : s.dev.pwr.good = true) (hhot : 85 ≤ e.maxTemp) :
    ∃ u, exec (.moduleReset e) s = .next u ∧ u.fuses = s.fuses ∧ u.mem = s.mem ∧ u.cleared ∧ u.dev.pwr.inReset = true
      ∧ u.dev.pwr.domains = 0 ∧ u.dev.sec.ready = false ∧ u.dev.sec.recovery = false := by
  refine ⟨_, (exec_moduleReset hgood).1 hhot, rfl, State.finish_mem s _ rfl rfl,
    State.finish_cleared rfl s.work.enterReset_idle rfl rfl rfl rfl, ?_, ?_, ?_, ?_⟩
  · rw [State.finish_pwr]
    exact decide_eq_true hhot
  · rw [State.finish_pwr]
    rfl
  · rw [State.finish_sec]
    rfl
  · rw [State.finish_sec]
    rfl

/-- A boot that fails ends in recovery (R514, R516). -/
theorem exec_moduleReset_recovers {e : BootEnv} {cause : Nat} {s : State} (hgood : s.dev.pwr.good = true) (hcool : e.maxTemp < 85)
    (hcause : (if verdictOk e.factory then s.dev.sec.cutFlash.fwHeader.cause s.fuses e.firmware else some 10) = some cause) :
    ∃ u, exec (.moduleReset e) s = .next u ∧ u.fuses = s.fuses ∧ u.mem = s.mem ∧ u.cleared ∧ u.dev.pwr.inReset = false
      ∧ u.dev.pwr.domains = 0 ∧ u.dev.sec.ready = false ∧ u.dev.sec.recovery = true ∧ u.dev.sec.bootCause = cause
      ∧ u.dev.fault.valid = true ∧ u.dev.fault.reason = 0xA1 := by
  have hexec := (exec_moduleReset hgood).2.1 cause hcool hcause
  rw [Work.enterRecovery_eq cause (by rfl)] at hexec
  refine ⟨_, hexec, rfl, State.finish_mem s _ rfl rfl, State.finish_cleared rfl s.work.enterReset_idle rfl rfl rfl rfl, ?_, ?_, ?_, ?_, ?_, ?_, ?_⟩
  · rw [State.finish_pwr]
    exact decide_eq_false (by omega)
  · rw [State.finish_pwr]
    rfl
  · rw [State.finish_sec]
    rfl
  · rw [State.finish_sec]
    rfl
  · rw [State.finish_sec]
    rfl
  · rw [State.finish_fault]
    rfl
  · rw [State.finish_fault]
    rfl

/-- A boot that passes every check (R513, R515). -/
theorem exec_moduleReset_boots {e : BootEnv} {s : State} (hgood : s.dev.pwr.good = true) (hcool : e.maxTemp < 85) (hwf : Memory.wf s.mem = true)
    (hcause : (if verdictOk e.factory then s.dev.sec.cutFlash.fwHeader.cause s.fuses e.firmware else some 10) = none) :
    ∃ u, exec (.moduleReset e) s = .next u ∧ u.fuses = s.fuses ∧ u.cleared ∧ u.dev.pwr.inReset = false ∧ u.dev.responds = true
      ∧ u.dev.sec.fwVerified = true ∧ u.dev.sec.fwVersion = s.dev.sec.cutFlash.fwHeader.version
      ∧ u.dev.sec.svnRunning = s.dev.sec.cutFlash.fwHeader.svn
      ∧ ∀ k, Memory.within [(0, s.fuses.hbmRange), (sharedBase, sharedSize), (tileStoreBase, 64 * tileStoreSize)] k = true →
        Memory.read u.mem k = 0 := by
  have hexec := (exec_moduleReset hgood).2.2 hcool hcause
  obtain ⟨v, hv⟩ : ∃ v, v = ((s.work.enterReset.updPwr fun p => { p with
      inReset := decide (85 ≤ e.maxTemp), refPresent := BitVec.ofNat 7 e.refPresent }).updSec Sec.newNonce).upd fun d =>
    { d with hif := { d.hif with speed := e.hostSpeed % 8, width := e.hostWidth % 32, flitMode := decide (e.hostSpeed % 8 = 6) } } := ⟨_, rfl⟩
  dsimp only at hexec
  rw [← hv] at hexec
  have hreads := Work.bootFirmware_reads (w := v) e (by rw [hv]; exact s.work.enterReset_idle) (by rw [hv]; rfl)
  have hsame : v.fz = s.fuses ∧ v.base = s.mem ∧ v.d.tiles = List.replicate 64 Tile.zeroed ∧ v.d.residency = [] ∧ v.d.pitch.run = false
      ∧ v.d.pwr.inReset = decide (85 ≤ e.maxTemp) ∧ v.d.sec.fwHeader = s.dev.sec.cutFlash.fwHeader ∧ v.d.sec.recovery = false
      ∧ v.d.sec.unlocked = false := by
    rw [hv]
    exact ⟨rfl, rfl, rfl, rfl, rfl, rfl, rfl, rfl, rfl⟩
  obtain ⟨vfz, vbase, vtiles, vres, vrun, vreset, vheader, vrec, vun⟩ := hsame
  obtain ⟨x, hx⟩ : ∃ x, x = v.bootFirmware e := ⟨_, rfl⟩
  rw [← hx] at hexec hreads
  rw [vfz, vbase, vtiles, vres, vrun, vreset, vheader, vrec, vun] at hreads
  obtain ⟨hidle, hfz, hbase, hlog, ⟨htiles, hres, hrun, hreset⟩, hpart, hwiped⟩ := hreads
  simp only [Sec.bootPart, Prod.mk.injEq] at hpart
  obtain ⟨hver, hfw, hsvn, hready, hrec, hun⟩ := hpart
  refine ⟨_, hexec, rfl, State.finish_cleared hfz hidle htiles hrun hun hres, ?_, ?_, ?_, ?_, ?_, fun k hk => ?_⟩
  · rw [State.finish_pwr, hreset]
    exact decide_eq_false (by omega)
  · rw [Dev.responds, State.finish_sec, hready, hrec]
    rfl
  · rw [State.finish_sec, hver]
  · rw [State.finish_sec, hfw]
  · rw [State.finish_sec, hsvn]
  · rw [State.finish_read s x hwf hbase, Work.rd, hlog]
    have hdflt : Memory.dflt k = 0 := if_neg (by have := zeroStores_low hk; unfold flashBase; omega)
    show (if Memory.within x.wiped k = true then Memory.dflt k else Memory.read x.base k) = 0
    rw [if_pos (hwiped k hk), hdflt]

/-- MOD_RESET_N: the module in reset (R433). -/
theorem exec_modResetNAssert (c : ResetCause) (s : State) :
    ∃ u, exec (.modResetNAssert c) s = .next u ∧ u.fuses = s.fuses ∧ u.mem = s.mem ∧ u.cleared
      ∧ u.dev.pwr.inReset = true ∧ u.dev.pwr.domains = 0 ∧ u.dev.sec.ready = false ∧ u.dev.sec.recovery = false := by
  have hexec : exec (.modResetNAssert c) s = .next (s.finish s.work.enterReset) := exec_finish rfl rfl
  refine ⟨_, hexec, rfl, State.finish_mem s _ rfl rfl, State.finish_cleared rfl s.work.enterReset_idle rfl rfl rfl rfl, ?_, ?_, ?_, ?_⟩
  · rw [State.finish_pwr]
    rfl
  · rw [State.finish_pwr]
    rfl
  · rw [State.finish_sec]
    rfl
  · rw [State.finish_sec]
    rfl

/-! ### SVN commit and debug access -/

/-- SEC_SVN_COMMIT that burns (R524). -/
theorem exec_secSvnCommit_burns {s : State} (h : s.commits = true) :
    ∃ u, exec .secSvnCommit s = .next u ∧ u.fuses = { s.fuses with svn := s.dev.sec.svnRunning } ∧ u.dev.quiet = s.dev.quiet := by
  obtain ⟨x, hx⟩ : ∃ x, x = s.work.deviceEvent 0x0063 (leBytes 1 s.dev.sec.svnRunning) := ⟨_, rfl⟩
  have hexec : exec .secSvnCommit s = .next { s.finish x with fuses := { s.fuses with svn := s.dev.sec.svnRunning } } := by
    show Host.Outcome.next (if s.commits = true then
      { s.exec (fun w => w.deviceEvent 0x0063 (leBytes 1 w.d.sec.svnRunning)) with fuses := { s.fuses with svn := s.dev.sec.svnRunning } } else s) = _
    rw [if_pos h, State.exec_eq, hx]
    rfl
  have hstill : x.still = s.work.still := by rw [hx]; exact Work.deviceEvent_still ..
  have hquiet : (s.finish x).dev.quiet = s.dev.quiet := (State.finish_quietly (f := id) hstill).2
  exact ⟨_, hexec, rfl, hquiet⟩

/-- What zeroing the stores leaves beside them and the checksums. -/
theorem Work.zeroStores_reads (w : Work) (hlog : w.log = []) :
    w.zeroStores.fz = w.fz ∧ w.zeroStores.base = w.base ∧ w.zeroStores.log = [] ∧ ∃ m, w.zeroStores.d = { w.d with memRegs := m } := by
  have hnone : w.zeroStores.log = [] := by
    show ((w.log.filter _).filter _).filter _ = []
    rw [hlog]
    rfl
  exact ⟨rfl, rfl, hnone, _, rfl⟩

/-- SEC_UNLOCK_GO of a device that responds (R531). -/
theorem exec_secUnlockGo {s : State} (v : Verdict) (hr : s.dev.responds = true) :
    let t := s.work.rdN (hostKey 0 s.dev.sec.unlockSrc.toNat) 2988
    let w := s.work.updSec fun x => { x.newNonce with unlockCause := s.work.unlockCauseOf t v }
    (s.work.unlockCauseOf t v ≠ 0 → exec (.secUnlockGo v) s = .next (s.finish w))
    ∧ (s.work.unlockCauseOf t v = 0 → exec (.secUnlockGo v) s = .next (s.finish
      ((w.zeroStores.updSec fun x => { x with unlocked := true, level := BitVec.ofNat 3 (fieldAt t 6 2) }).deviceEvent 0x0062
        (leBytes 1 (fieldAt t 6 2))))) := by
  intro t w
  have hmeans : exec (.secUnlockGo v) s = .next (s.finish (s.work.unlock v)) := exec_finish rfl (if_pos hr)
  refine ⟨fun h => hmeans.trans ?_, fun h => hmeans.trans ?_⟩
  · exact congrArg (fun x => Host.Outcome.next (s.finish x)) (if_pos h)
  · exact congrArg (fun x => Host.Outcome.next (s.finish x)) (if_neg (not_not.mpr h))

/-- An unlock that passes: the stores zeroed, the level open (R531). -/
theorem exec_secUnlockGo_opens {s : State} {v : Verdict} (hr : s.dev.responds = true) (hwf : Memory.wf s.mem = true)
    (h : s.work.unlockCauseOf (s.work.rdN (hostKey 0 s.dev.sec.unlockSrc.toNat) 2988) v = 0) :
    let t := s.work.rdN (hostKey 0 s.dev.sec.unlockSrc.toNat) 2988
    ∃ u, exec (.secUnlockGo v) s = .next u
      ∧ s.quietly u (fun d => { d with sec := { d.sec.newNonce with
        unlockCause := 0, unlocked := true, level := BitVec.ofNat 3 (fieldAt t 6 2) } })
      ∧ ∀ k, k < 2 ^ 80 → Memory.read u.mem k =
        if Memory.within [(0, s.fuses.hbmRange), (sharedBase, sharedSize), (tileStoreBase, 64 * tileStoreSize)] k then 0
        else Memory.read s.mem k := by
  intro t
  have hexec := (exec_secUnlockGo v hr).2 h
  dsimp only at hexec
  rw [h] at hexec
  obtain ⟨b, hb⟩ : ∃ b, b = leBytes 1 (fieldAt t 6 2) := ⟨_, rfl⟩
  obtain ⟨l, hl⟩ : ∃ l, l = BitVec.ofNat 3 (fieldAt t 6 2) := ⟨_, rfl⟩
  rw [← hb, ← hl] at hexec
  rw [← hl]
  obtain ⟨n, hn⟩ : ∃ n, n = s.dev.sec.newNonce := ⟨_, rfl⟩
  obtain ⟨w, hw⟩ : ∃ w, w = s.work.updSec fun _ => { n with unlockCause := 0 } := ⟨_, rfl⟩
  have hdrawn : (s.work.updSec fun x => { x.newNonce with unlockCause := 0 }) = w := by
    rw [hw, hn]
    rfl
  rw [hdrawn] at hexec
  obtain ⟨zfz, zbase, zlog, m, zdev⟩ := w.zeroStores_reads (by rw [hw]; rfl)
  have zwiped (k : Nat) := w.zeroStores_within k
  obtain ⟨y, hy⟩ : ∃ y, y = w.zeroStores := ⟨_, rfl⟩
  rw [← hy] at hexec zfz zbase zlog zdev zwiped
  obtain ⟨x, hx⟩ : ∃ x, x = y.updSec fun x => { x with unlocked := true, level := l } := ⟨_, rfl⟩
  rw [← hx] at hexec
  have hstill := Work.deviceEvent_still x 0x0062 b
  have hwsame : w.fz = s.fuses ∧ w.base = s.mem ∧ w.wiped = [] ∧ w.d = { s.dev with sec := { n with unlockCause := 0 } } := by
    rw [hw]
    exact ⟨rfl, rfl, rfl, rfl⟩
  obtain ⟨wfz, wbase, wwiped, wdev⟩ := hwsame
  have hxsame : x.base = y.base ∧ x.log = y.log ∧ x.wiped = y.wiped
      ∧ x.d = { y.d with sec := { y.d.sec with unlocked := true, level := l } } := by
    rw [hx]
    exact ⟨rfl, rfl, rfl, rfl⟩
  obtain ⟨xbase, xlog, xwiped, xdev⟩ := hxsame
  rw [zbase, wbase] at xbase
  rw [zlog] at xlog
  have hquiet : x.d.quiet = ({ s.dev with sec := { n with unlockCause := 0, unlocked := true, level := l } } : Dev).quiet := by
    rw [xdev, zdev, wdev]
    rfl
  refine ⟨_, hexec, State.finish_quiet ((congrArg (fun y => y.2.2.2) hstill).trans (hquiet.trans (by rw [hn]))), fun k hk => ?_⟩
  rw [State.finish_read s _ hwf ((Work.still_base hstill).trans xbase), Work.deviceEvent_rd x _ _ (.inl hk), Work.rd, xlog, xwiped, xbase]
  show (if Memory.within y.wiped k = true then Memory.dflt k else Memory.read s.mem k) = _
  have hdflt : Memory.dflt k = 0 := if_neg (by unfold flashBase; omega)
  have hnone : Memory.within [] k = false := rfl
  rw [zwiped, wwiped, hnone, Bool.or_false, wfz, hdflt]

/-! ### Attestation -/

/-- A request that the mailbox takes (R516, R527). -/
theorem exec_doe {i : Instr} {s : State} {f : Work → Work} (h : exec i s = .next (s.exec fun w => w.doe f)) (hr : s.dev.responds = true) :
    exec i s = .next (s.finish (f s.work)) := exec_finish h (if_pos hr)

/-- A request while the mailbox does not answer (R516). -/
theorem exec_doe_dark {i : Instr} {s : State} {f : Work → Work} (h : exec i s = .next (s.exec fun w => w.doe f)) (hr : s.dev.responds = false) :
    exec i s = .next s := exec_idle h (if_neg (by rw [show s.work.d = s.dev from rfl, hr]; decide))

/-- A request that needs the algorithms, with them (R527). -/
theorem exec_negotiated {i : Instr} {s : State} {f : Work → Work} (h : exec i s = .next (s.exec fun w => w.negotiated f))
    (hr : s.dev.responds = true) (halgs : s.dev.sec.spdmAlgs = true) : exec i s = .next (s.finish (f s.work)) :=
  exec_finish h ((if_pos hr).trans (if_pos halgs))

/-- And without them (R527). -/
theorem exec_negotiated_early {i : Instr} {s : State} {f : Work → Work} (h : exec i s = .next (s.exec fun w => w.negotiated f))
    (hr : s.dev.responds = true) (halgs : s.dev.sec.spdmAlgs = false) : exec i s = .next (s.spdmErr 0x04 0) := by
  have hmeans : s.work.negotiated f = s.work.spdmError 0x04 0 := (if_pos hr).trans (if_neg (by rw [show s.work.d.sec = s.dev.sec from rfl, halgs]; decide))
  exact exec_next_dev h hmeans rfl rfl

/-- The ends of a meaning that answers: an ERROR or a response, and nothing else (R527). -/
theorem State.finish_spdmError (s : State) (code data : Nat) : s.finish (s.work.spdmError code data) = s.spdmErr code data :=
  State.finish_eq s _ rfl rfl

theorem State.finish_respond (s : State) (request response : List Byte) : s.finish (s.work.respond request response) = s.spdmReply request response :=
  State.finish_eq s _ rfl rfl

/-- A response signed under the next leaf (R525, R526). -/
theorem State.finish_signed {s : State} (request response : List Byte) (h : s.dev.sec.leafNext < 2 ^ 30) :
    s.finish (s.work.draw.2.signed request response) = s.spdmSigned request response := by
  have hleaf : s.dev.sec.takeLeaf = some (s.dev.sec.leafNext,
      { s.dev.sec with
        leafNext := s.dev.sec.leafNext + 1
        leafReserved := if s.dev.sec.leafNext = s.dev.sec.leafReserved then min leafTotal (s.dev.sec.leafReserved + 4096) else s.dev.sec.leafReserved }) :=
    if_neg (Nat.not_le.mpr h)
  have hsec : s.work.draw.2.d.sec = s.dev.sec := rfl
  unfold Work.signed
  rw [hsec, hleaf]
  exact State.finish_eq s _ rfl rfl

/-- With no leaf left: an ERROR and the event (R526). -/
theorem State.finish_signed_exhausted {s : State} (request response : List Byte) (h : 2 ^ 30 ≤ s.dev.sec.leafNext) :
    s.quietly (s.finish (s.work.draw.2.signed request response)) fun d =>
      { d with freeCtr := d.freeCtr + 1, sec := (s.spdmErr 0x04 0).dev.sec } := by
  have hleaf : s.dev.sec.takeLeaf = none := if_pos h
  have hsec : s.work.draw.2.d.sec = s.dev.sec := rfl
  unfold Work.signed
  rw [hsec, hleaf]
  dsimp only
  exact State.finish_quietly (Work.deviceEvent_still ..)

/-- CHALLENGE of slot 0 (R525, R527). -/
theorem exec_challenge {s : State} (n : List Byte) (hr : s.dev.responds = true) (halgs : s.dev.sec.spdmAlgs = true) :
    exec (.challenge 0 n) s = .next (s.finish (s.work.draw.2.signed ([0x13, 0x83, 0, 0] ++ padTo 32 n)
      ([0x13, 0x03, 0, 1] ++ Config.sha384 (Config.certificate s.fuses.secret s.fuses.serial)
        ++ (List.range 32).map (Config.freeByte s.dev.freeCtr)))) := by
  refine (exec_negotiated rfl hr halgs).trans ?_
  exact congrArg (fun x => Host.Outcome.next (s.finish x)) (if_neg (by decide))

/-- The blocks of a measurement response: as R528 numbers them. -/
def measurementResponse (index : Nat) (bs nonce : List Byte) : List Byte :=
  [0x13, 0x60, BitVec.ofNat 8 (if index = 0 then (if index = 0 ∨ index = 0xFF then 22 else 1) else 0), 0]
    ++ leBytes 1 (if index = 0 then 0 else if index = 0 ∨ index = 0xFF then 22 else 1) ++ leBytes 3 bs.length ++ bs ++ nonce

/-- GET_MEASUREMENTS of blocks that there are (R528). -/
theorem exec_getMeasurements {s : State} {index : Nat} {bs : List Byte} (sign : Bool) (n : List Byte) (hr : s.dev.responds = true)
    (halgs : s.dev.sec.spdmAlgs = true) (hbs : s.work.measurementBlocks index = some bs) :
    let response := measurementResponse index bs ((List.range 32).map (Config.freeByte s.dev.freeCtr))
    let request := [0x13, 0xE0, if sign then 1 else 0, BitVec.ofNat 8 index] ++ (if sign then padTo 32 n else [])
    exec (.getMeasurements index sign n) s
      = .next (s.finish (if sign then s.work.draw.2.signed request response else s.work.draw.2.respond request response)) := by
  intro response request
  have hcount : (if index = 0 then measurementIndices.length else if index = 0xFF then measurementIndices.length else 1)
      = if index = 0 ∨ index = 0xFF then 22 else 1 := by
    have hlen : measurementIndices.length = 22 := by decide
    rw [hlen]
    by_cases h0 : index = 0
    · rw [if_pos h0, if_pos (.inl h0)]
    · rw [if_neg h0]
      by_cases hall : index = 0xFF
      · rw [if_pos hall, if_pos (.inr hall)]
      · rw [if_neg hall, if_neg (by omega)]
  refine (exec_negotiated rfl hr halgs).trans ?_
  dsimp only
  rw [hbs]
  dsimp only
  rw [hcount]
  rfl

/-! ### The whole -/

/-- Settles O59: a reset in its three ends, a verified boot by what each of its parts keeps of a cleared module, a flash write by the bytes
it leaves, and each security and SPDM request by the state it comes to. The cause of a settings write in recovery, what a failed read-back
leaves, the message bytes, and the leaf counter over a reset are the model's choices (logs 130, 133, 138 and 139). -/
theorem securityCompletes : Obligations.SecurityCompletes := by
  refine ⟨fun e s hg => ?_, fun e s hg hhot => exec_moduleReset_held hg hhot, fun e cause s hg hcool hc => exec_moduleReset_recovers hg hcool hc,
    fun e s hg hcool hwf hc => exec_moduleReset_boots hg hcool hwf hc, fun c s => exec_modResetNAssert c s, fun f v s hr hrec => ?_,
    fun f v c s h hc => exec_secFlashGo_refused h hc, fun f v s h hc => exec_secFlashGo_begins h hc, fun ok s h => ?_,
    fun target at_ len s hb ht hwf hw => exec_flashWriteComplete_ok hb ht hwf hw, fun s h => exec_flashWriteComplete_fails h, fun s h => ?_,
    fun s h => exec_secSvnCommit_burns h, fun v key s hr => ⟨?_, ?_, ?_⟩, fun v s hr => ⟨fun h => ?_, fun h hwf => exec_secUnlockGo_opens hr hwf h⟩,
    fun s hr => ⟨?_, ?_⟩, fun key s h => ?_, fun t v s h => if_pos h, fun slot off len n sign i s hr hi => ?_,
    fun slot off len n sign i s hr halgs hi => ?_, fun code s hr => ⟨?_, ?_, ?_, ?_⟩,
    fun slot off len n s hr halgs => ⟨?_, fun h => ?_, fun h => ?_, fun h => ?_, fun h => ?_, fun h => ?_⟩,
    fun index n s hr halgs => ⟨fun h sign => ?_, fun bs hbs => ⟨?_, fun h => ?_⟩⟩⟩
  · exact exec_idle rfl (if_neg (by rw [show s.work.d.pwr = s.dev.pwr from rfl, hg]; decide))
  · exact exec_idle rfl (if_neg (by rw [show s.work.d.sec = s.dev.sec from rfl, hr, hrec]; decide))
  · exact exec_idle rfl (if_pos h)
  · exact congrArg Host.Outcome.next (if_neg (by rw [h]; decide))
  · exact exec_idle rfl (if_neg (by rw [show s.work.d = s.dev from rfl, hr]; decide))
  · exact exec_idle rfl (if_neg (by rw [show s.work.d = s.dev from rfl, hr]; decide))
  · exact congrArg Host.Outcome.next (if_neg (by rw [hr, Bool.false_and]; decide))
  · rw [(exec_secUnlockGo v hr).1 h]
    exact congrArg Host.Outcome.next (State.finish_eq s _ rfl rfl)
  · exact exec_next_dev (v := s.work.updSec Sec.relock) rfl (if_pos hr) rfl rfl
  · have hgo : (s.dev.responds && (0xD15A : Nat) == 0xD15A) = true := by rw [hr]; decide
    refine (congrArg Host.Outcome.next (if_pos hgo)).trans ?_
    rw [State.exec_eq, State.finish_eq s _ rfl rfl]
    rfl
  · exact congrArg Host.Outcome.next (if_neg (by simp [h]))
  · simp only [List.mem_cons, List.not_mem_nil, or_false] at hi
    rcases hi with rfl | rfl | rfl | rfl | rfl | rfl | rfl | rfl <;> exact exec_doe_dark rfl hr
  · simp only [List.mem_cons, List.not_mem_nil, or_false] at hi
    rcases hi with rfl | rfl | rfl | rfl <;> exact exec_negotiated_early rfl hr halgs
  · exact (exec_doe rfl hr).trans (congrArg Host.Outcome.next (State.finish_eq s _ rfl rfl))
  · refine (exec_doe rfl hr).trans (congrArg Host.Outcome.next ?_)
    by_cases h : s.dev.sec.spdmVersion = true
    · rw [if_pos h]
      exact (congrArg s.finish (if_neg (by rw [show s.work.d.sec = s.dev.sec from rfl, h]; decide))).trans (State.finish_eq s _ rfl rfl)
    · rw [if_neg h]
      exact (congrArg s.finish (if_pos (by simpa using h))).trans (State.finish_spdmError ..)
  · refine (exec_doe rfl hr).trans (congrArg Host.Outcome.next ?_)
    by_cases h : s.dev.sec.spdmCaps = true
    · rw [if_pos h]
      exact (congrArg s.finish (if_neg (by rw [show s.work.d.sec = s.dev.sec from rfl, h]; decide))).trans (State.finish_eq s _ rfl rfl)
    · rw [if_neg h]
      exact (congrArg s.finish (if_pos (by simpa using h))).trans (State.finish_spdmError ..)
  · exact (exec_doe rfl hr).trans (congrArg Host.Outcome.next (State.finish_spdmError ..))
  · exact (exec_negotiated rfl hr halgs).trans (congrArg Host.Outcome.next (State.finish_respond ..))
  · refine (exec_negotiated rfl hr halgs).trans ?_
    exact congrArg Host.Outcome.next ((congrArg s.finish (if_pos h)).trans (State.finish_spdmError ..))
  · refine (exec_negotiated rfl hr halgs).trans ?_
    exact congrArg Host.Outcome.next ((congrArg s.finish (if_pos h)).trans (State.finish_spdmError ..))
  · refine (exec_negotiated rfl hr halgs).trans ?_
    have hno : ¬ ((0 : Nat) ≠ 0 ∨ s.work.fz.chain.length ≤ off) := by
      rintro (h0 | hlen)
      · exact h0 rfl
      · exact Nat.not_le.mpr h hlen
    exact congrArg Host.Outcome.next ((congrArg s.finish (if_neg hno)).trans (State.finish_respond ..))
  · rw [exec_challenge n hr halgs, State.finish_signed _ _ h]
  · exact ⟨_, exec_challenge n hr halgs, State.finish_signed_exhausted _ _ h⟩
  · refine (exec_negotiated rfl hr halgs).trans ?_
    dsimp only
    rw [h]
    exact congrArg Host.Outcome.next (State.finish_spdmError ..)
  · exact (exec_getMeasurements false n hr halgs hbs).trans (congrArg Host.Outcome.next (State.finish_eq s _ rfl rfl))
  · exact (exec_getMeasurements true n hr halgs hbs).trans (congrArg Host.Outcome.next (State.finish_signed _ _ h))

end Sys2Proof.Machine
end
